-- ==== Sys2Proof/Word.lean ====
section
/-! DEFINITION. The word types of the Josoram instruction set (R8, R17, R30). -/

namespace Sys2Proof

/-- A scalar register, an f64, a doubleword. -/
abbrev Word := BitVec 64
/-- An f32, a vector element, a mesh record word. -/
abbrev W32 := BitVec 32
/-- A halfword of the instruction stream (R89). -/
abbrev Half := BitVec 16
/-- A byte of memory. -/
abbrev Byte := BitVec 8
/-- A capability (R53). -/
abbrev CapBits := BitVec 128

end Sys2Proof
end

