-- ==== Sys2Proof/Config.lean ====
section
/-! DEFINITION. What is fixed for one machine, the plain records that instructions and events carry, and the
values the manual leaves free (constants without a body, so that no proof can see what they are). -/

namespace Sys2Proof

/-- The G prefix (R95): the predicate named, and whether its negation guards. -/
structure Guard where
  neg : Bool
  p   : BitVec 3
  deriving DecidableEq, Repr

/-- No G prefix: p0, which reads true (R97). -/
def Guard.always : Guard := ⟨false, 0⟩

/-- One entry of the partition table (R3), with all the manual places in it. -/
structure Partition where
  valid      : Bool
  /-- the tiles of the partition, as node numbers stack × 144 + y × 12 + x -/
  tiles      : List Nat
  /-- SliceList (R263) -/
  slices     : List Nat
  /-- the number of this device in its domain, which PARTID.DEVICE shows (R25) -/
  device     : BitVec 9
  /-- ranges [lo, hi) of this device's HBM (R373) -/
  hbm        : List (Nat × Nat)
  /-- TTBASE (R374) -/
  ttbase     : Nat
  /-- base of the launch-queue headers (R344), a virtual address; none when the entry gives none (R258) -/
  queueBase  : Option Nat
  /-- physical address of the unit-environment block (R348) -/
  envBlock   : Nat
  /-- physical address of the hardware request ring header (R371) -/
  ringHdr    : Nat
  /-- physical address of the revocation bitmap (R55) -/
  bitmap     : Nat
  /-- virtual address of the save area (R292, R366) -/
  saveArea   : Nat
  /-- quarantine region (R423) -/
  quarBase   : Nat
  quarSize   : Nat
  /-- host-memory window (R373): host addresses -/
  hostBase   : Nat
  hostSize   : Nat
  /-- HDM window (R397) -/
  hdmBase    : Nat
  hdmSize    : Nat
  /-- fixed (true) or elastic clocks (R350, R351) -/
  fixed      : Bool
  /-- HBM slots, port slots, virtual channels (R273, R275, R398) -/
  slotMask   : BitVec 63
  portMask   : BitVec 63
  vcFixed    : Bool
  /-- age limit, idle time and snoop timeout in ns (R349, R350, R399) -/
  ageLimit   : Nat
  idleTime   : Nat
  snoopTime  : Nat
  /-- issuing (device, partition) pairs this partition accepts (R380) -/
  binds      : List (Nat × Nat)
  /-- host event ring address in host memory and number of records (R404) -/
  eventRing  : Nat
  eventSize  : Nat
  /-- MSI-X vector of each event class (R404) -/
  vectors    : List Nat
  /-- ports the logical device uses (R422) -/
  ports      : List Nat
  deriving DecidableEq, Repr

/-- A firmware image as the root of trust sees it (R431): its content, security version and signature. -/
structure Image where
  bytes   : List Byte
  version : Nat
  sig     : Nat
  deriving DecidableEq, Repr

/-- The MOESI states of a copy (R390). -/
inductive Moesi where
  | m | o | e | s | i
  deriving DecidableEq, Repr

/-- A caching agent the directory tracks (R264, R390): an L1, an L2 slice that holds a host or replica copy, the CXL port
for the host, the fabric NI for a peer; and, in S only, the translation or revocation cache of a tile, the translation cache of a port of the
fabric NI and of a CXL port, the distributor with its translations. -/
inductive CacheAgent where
  | l1 (core : Nat)
  | slice (node : Nat)
  | host (ld : Nat)
  | fabric (dev : Nat)
  | tlb (tile : Nat)
  | revoke (tile : Nat)
  | fabricTlb (port : Nat)
  | portTlb (port : Nat)
  | distributor
  deriving DecidableEq, Repr

/-- The answer of a host for a half of a line (R393): which half, and its bytes where the host has written it (R395). -/
structure HalfAnswer where
  half : Bool
  data : Option Nat
  deriving DecidableEq, Repr

/-- What a peer's or a host's request does. A peer's may be an atomic of R185 (`claim` among them), a `cas` with the value it compares
with, or an operation on a barrier object (R211), which this device executes as the home (R186, R401). -/
inductive BusOp where
  | read | write
  | amo (op : BitVec 4)
  | cas (old : BitVec 64)
  | barv | bexp
  deriving DecidableEq, Repr

/-- The masters that the management plane releases (R426); a stack comes back at a module reset alone. -/
inductive Master where
  | core (n : Nat)
  | host (ld : Nat)
  | peer (dev : Nat)
  deriving DecidableEq, Repr

/-- The storage arrays of R411 in which an uncorrectable error can be found. -/
inductive ErrSite where
  | hbmLine (line : Nat)
  | l2Line (line : Nat)
  | l1Line (line : Nat)
  | mirrorEntry (line : Nat)
  | directory (lines : List Nat)
  | refetchOnly
  | spadWord (pa : Nat)
  | coreState (core : Nat)
  | rowState (row : Nat)
  deriving DecidableEq, Repr

/-- Free value (R366, R367): contents the manual calls not defined after a restore or in an image slot. -/
opaque Config.freeByte : Nat → Nat → BitVec 8

/-- Free value (R6, R13, R26): the cycles beyond the first, and the nanoseconds, that pass in one step. -/
opaque Config.pace : Nat → Nat

/-- Free value (R58): the decode table of core `g` of peer device `dev`, which is state of that device. -/
opaque Config.peerTable : (dev g : Nat) → List (BitVec 18)

/-- Free value (R379): the port of the fabric NI by which peer device `dev` is reached, whose translation cache serves its requests. -/
opaque Config.fabricPort : (dev : Nat) → Nat

/-- Free values (R380, R400): what a peer device holds when it comes into the domain, which is state of that device: its memory as pairs of
address and byte, its frame pools, and what it gives to the partitions of this device that it accepts: partition, root table, HBM
ranges, tiles, host-memory window. -/
opaque Config.peerMemory : (dev : Nat) → List (Nat × BitVec 8)
opaque Config.peerPools : (dev : Nat) → List (Nat × List Nat)
opaque Config.peerBinds : (dev : Nat) → List (Nat × Nat × List (Nat × Nat) × List Nat × Nat × Nat)

/-- Free value (R434): the frames with which the service software fills the pools of a partition, by group × 16 + size code. -/
opaque Config.framePools : (part : Nat) → List (Nat × List Nat)

/-- The SM3 digest of a byte string (R431, R432); the manual names the function and does not give it. -/
opaque Config.sm3 : List (BitVec 8) → BitVec 256

/-- Whether an SM2 signature verifies under the fused Twibel public key (R431). -/
opaque Config.sm2Verify : BitVec 256 → Nat → Bool

/-- The SM2 signature that the management endpoint makes of a digest (R433). -/
opaque Config.sm2Sign : BitVec 256 → Nat → Nat

/-- The fused configuration of the module and its minimum security version (R431, R432). -/
opaque Config.fuses : List (BitVec 8)
opaque Config.fusedVersion : Nat

/-- The parts of a firmware image (R431, R432): 1 management firmware, 2 Avlyn service firmware, 3 distributor microcode. -/
opaque Config.imagePart : Nat → List (BitVec 8) → List (BitVec 8)

/-- The partition table as the byte string that index 5 measures (R432). -/
opaque Config.tableBytes : List (Nat × Partition) → List (BitVec 8)

/-- The service entry of an image, and the handler address that the management firmware sets in an Avlyn core's TVEC (R370). -/
opaque Config.serviceEntry : Word
opaque Config.serviceTvec : Word

/-- The certificate chain of the management endpoint (R433). -/
opaque Config.certificate : List (BitVec 8)

end Sys2Proof
end

