-- ==== Sys2Proof/Syntax.lean ====
section
/-! DEFINITION. The instructions and events of spec/opcode_table.json, one constructor per row, with the operands of their
entries. Register numbers have the width of their file (R17): 5 bits for s and v, 4 for a and h, 3 for p and k, 2 for m, 1 for
t. `g` is the guard (R95), `mr` the MR payload (R40), `mo` the MO payload [5:0] (R95), `imm` and `off` the sign-extended immediate
or halfword offset (R93). The rows without a code are the device's events; their arguments name what they act on. -/

namespace Sys2Proof

/-- The instruction set, and the events of the device. -/
inductive Instr where
  /-- R112: Integer add of two scalar registers, wrapping or saturating under an MR prefix. -/
  | add (g : Guard) (mr : BitVec 8) (d : BitVec 5) (a : BitVec 5) (b : BitVec 5)
  /-- R112: Integer subtract of two scalar registers. -/
  | sub (g : Guard) (mr : BitVec 8) (d : BitVec 5) (a : BitVec 5) (b : BitVec 5)
  /-- R112: Bitwise AND of two scalar registers. -/
  | and (g : Guard) (d : BitVec 5) (a : BitVec 5) (b : BitVec 5)
  /-- R112: Bitwise OR of two scalar registers. -/
  | or (g : Guard) (d : BitVec 5) (a : BitVec 5) (b : BitVec 5)
  /-- R112: Bitwise XOR of two scalar registers. -/
  | xor (g : Guard) (d : BitVec 5) (a : BitVec 5) (b : BitVec 5)
  /-- R112: a AND NOT b. -/
  | andn (g : Guard) (d : BitVec 5) (a : BitVec 5) (b : BitVec 5)
  /-- R112: Signed or unsigned minimum. -/
  | min (g : Guard) (u : Bool) (d : BitVec 5) (a : BitVec 5) (b : BitVec 5)
  /-- R112: Signed or unsigned maximum. -/
  | max (g : Guard) (u : Bool) (d : BitVec 5) (a : BitVec 5) (b : BitVec 5)
  /-- R115: Shift left by register count. -/
  | shl (g : Guard) (mr : BitVec 8) (d : BitVec 5) (a : BitVec 5) (b : BitVec 5)
  /-- R115: Logical shift right by register count. -/
  | shr (g : Guard) (d : BitVec 5) (a : BitVec 5) (b : BitVec 5)
  /-- R115: Arithmetic shift right by register count. -/
  | sra (g : Guard) (d : BitVec 5) (a : BitVec 5) (b : BitVec 5)
  /-- R115: Rotate left by register count. -/
  | rol (g : Guard) (d : BitVec 5) (a : BitVec 5) (b : BitVec 5)
  /-- R116: Low 64 bits of the product. -/
  | mul (g : Guard) (mr : BitVec 8) (d : BitVec 5) (a : BitVec 5) (b : BitVec 5)
  /-- R116: High 64 bits of the signed or unsigned product. -/
  | mulh (g : Guard) (u : Bool) (d : BitVec 5) (a : BitVec 5) (b : BitVec 5)
  /-- R116: Quotient truncated toward zero, with fixed corner cases. -/
  | div (g : Guard) (u : Bool) (d : BitVec 5) (a : BitVec 5) (b : BitVec 5)
  /-- R116: Remainder with the sign of the dividend. -/
  | rem (g : Guard) (u : Bool) (d : BitVec 5) (a : BitVec 5) (b : BitVec 5)
  /-- R117: Count leading zero bits. -/
  | clz (g : Guard) (d : BitVec 5) (a : BitVec 5)
  /-- R117: Count trailing zero bits. -/
  | ctz (g : Guard) (d : BitVec 5) (a : BitVec 5)
  /-- R117: Count one bits. -/
  | popc (g : Guard) (d : BitVec 5) (a : BitVec 5)
  /-- R117: Reverse the eight bytes. -/
  | bswap (g : Guard) (d : BitVec 5) (a : BitVec 5)
  /-- R118: Extract a bit field, optionally sign-extended. -/
  | bext (g : Guard) (sx : Bool) (d : BitVec 5) (a : BitVec 5) (b : BitVec 5) (c : BitVec 5)
  /-- R118: Insert a bit field into the destination. -/
  | bins (g : Guard) (d : BitVec 5) (a : BitVec 5) (b : BitVec 5) (c : BitVec 5)
  /-- R120: Copy a scalar register. -/
  | mov (g : Guard) (d : BitVec 5) (a : BitVec 5)
  /-- R120: Select one of two scalars by a predicate. -/
  | sel (g : Guard) (d : BitVec 5) (a : BitVec 5) (b : BitVec 5) (c : BitVec 3)
  /-- R121: Integer compare writing a predicate. -/
  | cmp (g : Guard) (cond : BitVec 3) (d : BitVec 3) (a : BitVec 5) (b : BitVec 5)
  /-- R122: Predicate AND. -/
  | pand (g : Guard) (d a b : BitVec 3)
  /-- R122: Predicate OR. -/
  | por (g : Guard) (d a b : BitVec 3)
  /-- R122: Predicate XOR. -/
  | pxor (g : Guard) (d a b : BitVec 3)
  /-- R114: Add a sign-extended immediate. -/
  | addImm (g : Guard) (mr : BitVec 8) (d : BitVec 5) (a : BitVec 5) (imm : BitVec 64)
  /-- R114: AND with an immediate. -/
  | andImm (g : Guard) (d : BitVec 5) (a : BitVec 5) (imm : BitVec 64)
  /-- R114: OR with an immediate. -/
  | orImm (g : Guard) (d : BitVec 5) (a : BitVec 5) (imm : BitVec 64)
  /-- R114: XOR with an immediate. -/
  | xorImm (g : Guard) (d : BitVec 5) (a : BitVec 5) (imm : BitVec 64)
  /-- R114: Shift left by an immediate. -/
  | shlImm (g : Guard) (mr : BitVec 8) (d : BitVec 5) (a : BitVec 5) (imm : BitVec 64)
  /-- R114: Logical shift right by an immediate. -/
  | shrImm (g : Guard) (d : BitVec 5) (a : BitVec 5) (imm : BitVec 64)
  /-- R114: Arithmetic shift right by an immediate. -/
  | sraImm (g : Guard) (d : BitVec 5) (a : BitVec 5) (imm : BitVec 64)
  /-- R119: Load a sign-extended immediate. -/
  | li (g : Guard) (d : BitVec 5) (imm : BitVec 64)
  /-- R176: Load from the own scratchpad through a window. -/
  | ld (g : Guard) (sz : BitVec 2) (sx : Bool) (d : BitVec 5) (a : BitVec 5) (imm : BitVec 64)
  /-- R176: Store to the own scratchpad through a window. -/
  | st (g : Guard) (mr : BitVec 8) (sz : BitVec 2) (d : BitVec 5) (a : BitVec 5) (imm : BitVec 64)
  /-- R177: Wait until a scratchpad word is full, then load it as an acquire. -/
  | lds (g : Guard) (d : BitVec 5) (a : BitVec 5) (imm : BitVec 64)
  /-- R177: Store a word and set it full indivisibly. -/
  | stf (g : Guard) (d : BitVec 5) (a : BitVec 5) (imm : BitVec 64)
  /-- R177: Set a scratchpad word's full-empty bit empty. -/
  | sete (g : Guard) (a : BitVec 5) (imm : BitVec 64)
  /-- R123: Conditional PC-relative branch on a predicate. -/
  | br (g : Guard) (p : BitVec 3) (off : BitVec 64)
  /-- R125: Decrement a counter and branch while non-zero. -/
  | loop (c : BitVec 5) (off : BitVec 64)
  /-- R123: PC-relative jump. -/
  | jmp (g : Guard) (off : BitVec 64)
  /-- R123: PC-relative call writing s31. -/
  | call (g : Guard) (off : BitVec 64)
  /-- R124: Jump to a register address. -/
  | jr (g : Guard) (a : BitVec 5)
  /-- R124: Call a register address, writing s31. -/
  | callr (g : Guard) (a : BitVec 5)
  /-- R124: Return to s31. -/
  | ret (g : Guard)
  /-- R126: Start a helper context. -/
  | hstart (g : Guard) (d : BitVec 5) (a : BitVec 5) (b : BitVec 5)
  /-- R127: Wait until the named helpers are free. -/
  | hwait (g : Guard) (a : BitVec 5)
  /-- R128: End a helper context or, from context 0, the unit. -/
  | retire (g : Guard)
  /-- R128: Let every other ready context issue once first. -/
  | yield (g : Guard)
  /-- R130: Fault BRK. -/
  | brk (g : Guard)
  /-- R146: Element-wise add over the VSHAPE region. -/
  | vadd (g : Guard) (mo : BitVec 6) (mr : BitVec 8) (ty : BitVec 2) (d : BitVec 5) (a : BitVec 5) (b : BitVec 5) (k : BitVec 3)
  /-- R146: Element-wise subtract. -/
  | vsub (g : Guard) (mo : BitVec 6) (mr : BitVec 8) (ty : BitVec 2) (d : BitVec 5) (a : BitVec 5) (b : BitVec 5) (k : BitVec 3)
  /-- R146: Element-wise multiply. -/
  | vmul (g : Guard) (mo : BitVec 6) (mr : BitVec 8) (ty : BitVec 2) (d : BitVec 5) (a : BitVec 5) (b : BitVec 5) (k : BitVec 3)
  /-- R146: Element-wise minimum. -/
  | vmin (g : Guard) (mo : BitVec 6) (mr : BitVec 8) (ty : BitVec 2) (d : BitVec 5) (a : BitVec 5) (b : BitVec 5) (k : BitVec 3)
  /-- R146: Element-wise maximum. -/
  | vmax (g : Guard) (mo : BitVec 6) (mr : BitVec 8) (ty : BitVec 2) (d : BitVec 5) (a : BitVec 5) (b : BitVec 5) (k : BitVec 3)
  /-- R146: Element-wise bitwise AND. -/
  | vand (g : Guard) (d : BitVec 5) (a : BitVec 5) (b : BitVec 5) (k : BitVec 3)
  /-- R146: Element-wise bitwise OR. -/
  | vor (g : Guard) (d : BitVec 5) (a : BitVec 5) (b : BitVec 5) (k : BitVec 3)
  /-- R146: Element-wise bitwise XOR. -/
  | vxor (g : Guard) (d : BitVec 5) (a : BitVec 5) (b : BitVec 5) (k : BitVec 3)
  /-- R148: Element-wise shift left. -/
  | vshl (g : Guard) (ty : BitVec 2) (d : BitVec 5) (a : BitVec 5) (b : BitVec 5) (k : BitVec 3)
  /-- R148: Element-wise shift right, arithmetic or logical by type. -/
  | vshr (g : Guard) (ty : BitVec 2) (d : BitVec 5) (a : BitVec 5) (b : BitVec 5) (k : BitVec 3)
  /-- R154: Rotate the element list by a scalar count. -/
  | vrot (g : Guard) (d : BitVec 5) (a : BitVec 5) (b : BitVec 5) (k : BitVec 3)
  /-- R154: Permute elements by an index vector. -/
  | vperm (g : Guard) (d : BitVec 5) (a : BitVec 5) (b : BitVec 5) (k : BitVec 3)
  /-- R147: Element-wise fused multiply-add. -/
  | vfma (g : Guard) (mo : BitVec 6) (mr : BitVec 8) (d : BitVec 5) (a : BitVec 5) (b : BitVec 5) (c : BitVec 5) (k : BitVec 3)
  /-- R150: Element-wise compare writing a mask. -/
  | vcmp (g : Guard) (mo : BitVec 6) (cond : BitVec 5) (d : BitVec 3) (a : BitVec 5) (b : BitVec 5)
  /-- R151: Element-wise select by a mask. -/
  | vsel (g : Guard) (d : BitVec 5) (a : BitVec 5) (b : BitVec 5) (k : BitVec 3)
  /-- R152: Mask AND. -/
  | kand (g : Guard) (d a b : BitVec 3)
  /-- R152: Mask OR. -/
  | kor (g : Guard) (d a b : BitVec 3)
  /-- R152: Mask NOT. -/
  | knot (g : Guard) (d a : BitVec 3)
  /-- R152: Count true mask bits in the region into a scalar. -/
  | kpop (g : Guard) (d : BitVec 5) (a : BitVec 3)
  /-- R153: Copy active elements of a vector. -/
  | vmov (g : Guard) (d : BitVec 5) (a : BitVec 5) (k : BitVec 3)
  /-- R153: Broadcast a scalar to active elements. -/
  | vbcast (g : Guard) (d : BitVec 5) (a : BitVec 5) (k : BitVec 3)
  /-- R153: Extract one element into a scalar. -/
  | vext (g : Guard) (sx : Bool) (d : BitVec 5) (a : BitVec 5) (b : BitVec 5)
  /-- R153: Insert a scalar into one element. -/
  | vins (g : Guard) (d : BitVec 5) (a : BitVec 5) (b : BitVec 5)
  /-- R155: Convert element types. -/
  | vcvt (g : Guard) (mr : BitVec 8) (fr : BitVec 2) (tgt : BitVec 2) (d : BitVec 5) (a : BitVec 5) (k : BitVec 3)
  /-- R157: Narrow elements by the captured reciprocal scale. -/
  | vnarrow (g : Guard) (rnd : BitVec 2) (fmt : BitVec 2) (nosat : Bool) (d : BitVec 5) (a : BitVec 5) (k : BitVec 3)
  /-- R156: Write SCALE and its reciprocal at issue. -/
  | vscale (g : Guard) (a : BitVec 5)
  /-- R154: Transpose the VSHAPE region. -/
  | vtrans (g : Guard) (d : BitVec 5) (a : BitVec 5) (k : BitVec 3)
  /-- R158: Tree reduction of the region into a scalar. -/
  | vred (g : Guard) (mo : BitVec 6) (mr : BitVec 8) (op : BitVec 2) (ty : BitVec 2) (d : BitVec 5) (a : BitVec 5) (k : BitVec 3)
  /-- R158: Prefix tree reduction into a vector. -/
  | vscan (g : Guard) (mo : BitVec 6) (mr : BitVec 8) (op : BitVec 2) (ty : BitVec 2) (d : BitVec 5) (a : BitVec 5) (k : BitVec 3)
  /-- R159: Write decode-table halves from a vector. -/
  | vtbl (g : Guard) (half : BitVec 2) (a : BitVec 5)
  /-- R160: Write VSHAPE at issue. -/
  | vshape (g : Guard) (a : BitVec 5) (b : BitVec 5)
  /-- R149: Element-wise special function. -/
  | vsf (g : Guard) (mr : BitVec 8) (fn : BitVec 3) (d : BitVec 5) (a : BitVec 5) (k : BitVec 3)
  /-- R161: Vector load from the own scratchpad. -/
  | vld (g : Guard) (code : Bool) (rs : BitVec 3) (d : BitVec 5) (a : BitVec 5) (imm : BitVec 64) (k : BitVec 3)
  /-- R161: Vector store to the own scratchpad. -/
  | vst (g : Guard) (mr : BitVec 8) (code : Bool) (rs : BitVec 3) (d : BitVec 5) (a : BitVec 5) (imm : BitVec 64) (k : BitVec 3)
  /-- R161: Vector load broadcast of one row. -/
  | vldb (g : Guard) (code : Bool) (d : BitVec 5) (a : BitVec 5) (imm : BitVec 64) (k : BitVec 3)
  /-- R167: Offer a row-array command for matching. -/
  | gang (g : Guard) (a : BitVec 5)
  /-- R172: Copy scratchpad bytes into the B-operand SRAM. -/
  | mldb (g : Guard) (a : BitVec 5) (b : BitVec 5) (c : BitVec 5)
  /-- R173: Store the accumulator slice to the scratchpad. -/
  | mstc (g : Guard) (a : BitVec 5)
  /-- R173: Zero the accumulator slice. -/
  | mzc (g : Guard)
  /-- R166: Check and write the ARRAYCFG shadow set. -/
  | ecfg (g : Guard) (a : BitVec 5)
  /-- R174: Save a tile register image in recovery mode. -/
  | tsave (g : Guard) (t : BitVec 1) (a : BitVec 5)
  /-- R174: Restore a tile register image in recovery mode. -/
  | trest (g : Guard) (t : BitVec 1) (a : BitVec 5)
  /-- R179: Global load through the NI. -/
  | ldg (g : Guard) (sz : BitVec 2) (sx : Bool) (capb byp na : Bool) (d : BitVec 5) (a : BitVec 5) (imm : BitVec 64)
  /-- R179: Global store through the NI. -/
  | stg (g : Guard) (sz : BitVec 2) (capb byp na : Bool) (d : BitVec 5) (a : BitVec 5) (imm : BitVec 64)
  /-- R184: Load a 16-byte capability. -/
  | ldc (g : Guard) (d a : BitVec 4) (imm : BitVec 64)
  /-- R184: Store a 16-byte capability. -/
  | stc (g : Guard) (d a : BitVec 4) (imm : BitVec 64)
  /-- R185: Indivisible read-modify-write of a doubleword, including claim-min. -/
  | amo (g : Guard) (op : BitVec 4) (scope : BitVec 3) (d : BitVec 5) (a : BitVec 5) (b : BitVec 5)
  /-- R187: Compare and swap a doubleword. -/
  | cas (g : Guard) (scope : BitVec 3) (d : BitVec 5) (a : BitVec 5) (b : BitVec 5) (c : BitVec 5)
  /-- R188: Prefetch hint. -/
  | prf (g : Guard) (l2 w : Bool) (a : BitVec 5)
  /-- R188: Write a dirty line back to its home. -/
  | cclean (g : Guard) (a : BitVec 5)
  /-- R188: Write back and invalidate every copy of a line. -/
  | cflush (g : Guard) (a : BitVec 5)
  /-- R189: Reserve L2 ways for a range. -/
  | lease (g : Guard) (d : BitVec 5) (a : BitVec 5) (b : BitVec 5) (c : BitVec 5)
  /-- R190: End a lease. -/
  | unlease (g : Guard) (a : BitVec 5)
  /-- R191: Take a block from the slab allocator. -/
  | alloc (g : Guard) (d : BitVec 4) (a : BitVec 5)
  /-- R192: Revoke a capability tag. -/
  | free (g : Guard) (a : BitVec 4)
  /-- R193: Order the context's accesses by kind and scope. -/
  | fence (g : Guard) (kind : BitVec 3) (scope : BitVec 3)
  /-- R196: Open a strand from a descriptor. -/
  | sopen (g : Guard) (h : BitVec 4) (a : BitVec 5)
  /-- R196: Advance a strand position. -/
  | sadv (g : Guard) (h : BitVec 4) (b : BitVec 5)
  /-- R196: Test whether a strand is at its end. -/
  | stest (g : Guard) (d : BitVec 3) (h : BitVec 4)
  /-- R196: Read the current strand element. -/
  | sget (g : Guard) (d : BitVec 5) (h : BitVec 4)
  /-- R196: Read up to 16 strand elements into a vector row. -/
  | sgetv (g : Guard) (d : BitVec 5) (h : BitVec 4) (b : BitVec 5)
  /-- R196: Close a strand. -/
  | sclose (g : Guard) (h : BitVec 4)
  /-- R202: Issue a copy command to another destination. -/
  | send (g : Guard) (d : BitVec 3) (a : BitVec 5)
  /-- R202: Issue a copy into the own scratchpad or L2. -/
  | fetch (g : Guard) (d : BitVec 3) (a : BitVec 5)
  /-- R205: Issue an indexed gather command. -/
  | gath (g : Guard) (d : BitVec 3) (a : BitVec 5)
  /-- R205: Issue an indexed scatter command. -/
  | scat (g : Guard) (d : BitVec 3) (a : BitVec 5)
  /-- R211: Initialise a barrier object. -/
  | bnew (g : Guard) (a : BitVec 5) (b : BitVec 5)
  /-- R211: Arrive at a memory barrier as a release. -/
  | barv (g : Guard) (d : BitVec 5) (a : BitVec 5)
  /-- R211: Add expected bytes to a barrier phase. -/
  | bexp (g : Guard) (a : BitVec 5) (b : BitVec 5)
  /-- R211: Wait for a barrier phase to end. -/
  | bwait (g : Guard) (d : BitVec 3) (a : BitVec 5) (b : BitVec 5)
  /-- R213: Enter the wired barrier toward the next step. -/
  | step (g : Guard)
  /-- R213: Enter the wired barrier toward a cable step. -/
  | stepCable (g : Guard)
  /-- R221: Wait until the context's published writes are applied. -/
  | subsync (g : Guard)
  /-- R224: Contribute a value to a swatch reduction slot. -/
  | rsw (g : Guard) (a : BitVec 5) (b : BitVec 5) (c : BitVec 5)
  /-- R225: Wait for and read a swatch reduction result. -/
  | rfin (g : Guard) (d : BitVec 5) (a : BitVec 5) (c : BitVec 3)
  /-- R216: Drive the core's cable transmit wire. -/
  | xsend (g : Guard) (a : BitVec 5)
  /-- R216: Select the cable input source. -/
  | xsel (g : Guard) (a : BitVec 5)
  /-- R216: Read the cable multiplexer. -/
  | xrecv (g : Guard) (d : BitVec 5)
  /-- R219: Establish a subscription to a publisher region. -/
  | subSubscription (g : Guard) (d : BitVec 4) (a : BitVec 5) (c : BitVec 3)
  /-- R222: Drain and remove a subscription. -/
  | unsub (g : Guard) (a : BitVec 5)
  /-- R137: f32 add. -/
  | fadd (g : Guard) (mo : BitVec 6) (mr : BitVec 8) (d : BitVec 5) (a : BitVec 5) (b : BitVec 5)
  /-- R137: f32 subtract. -/
  | fsub (g : Guard) (mo : BitVec 6) (mr : BitVec 8) (d : BitVec 5) (a : BitVec 5) (b : BitVec 5)
  /-- R137: f32 multiply. -/
  | fmul (g : Guard) (mo : BitVec 6) (mr : BitVec 8) (d : BitVec 5) (a : BitVec 5) (b : BitVec 5)
  /-- R137: f32 divide. -/
  | fdiv (g : Guard) (mo : BitVec 6) (mr : BitVec 8) (d : BitVec 5) (a : BitVec 5) (b : BitVec 5)
  /-- R137: f64 add. -/
  | faddD (g : Guard) (mo : BitVec 6) (mr : BitVec 8) (d : BitVec 5) (a : BitVec 5) (b : BitVec 5)
  /-- R137: f64 subtract. -/
  | fsubD (g : Guard) (mo : BitVec 6) (mr : BitVec 8) (d : BitVec 5) (a : BitVec 5) (b : BitVec 5)
  /-- R137: f64 multiply. -/
  | fmulD (g : Guard) (mo : BitVec 6) (mr : BitVec 8) (d : BitVec 5) (a : BitVec 5) (b : BitVec 5)
  /-- R137: f64 divide. -/
  | fdivD (g : Guard) (mo : BitVec 6) (mr : BitVec 8) (d : BitVec 5) (a : BitVec 5) (b : BitVec 5)
  /-- R138: f32 minimum. -/
  | fmin (g : Guard) (mo : BitVec 6) (d : BitVec 5) (a : BitVec 5) (b : BitVec 5)
  /-- R138: f32 maximum. -/
  | fmax (g : Guard) (mo : BitVec 6) (d : BitVec 5) (a : BitVec 5) (b : BitVec 5)
  /-- R138: f32 square root. -/
  | fsqrt (g : Guard) (mo : BitVec 6) (mr : BitVec 8) (d : BitVec 5) (a : BitVec 5)
  /-- R138: Classify an f32 value. -/
  | fclass (g : Guard) (d : BitVec 5) (a : BitVec 5)
  /-- R138: f64 minimum. -/
  | fminD (g : Guard) (mo : BitVec 6) (d : BitVec 5) (a : BitVec 5) (b : BitVec 5)
  /-- R138: f64 maximum. -/
  | fmaxD (g : Guard) (mo : BitVec 6) (d : BitVec 5) (a : BitVec 5) (b : BitVec 5)
  /-- R138: f64 square root. -/
  | fsqrtD (g : Guard) (mo : BitVec 6) (mr : BitVec 8) (d : BitVec 5) (a : BitVec 5)
  /-- R138: Classify an f64 value. -/
  | fclassD (g : Guard) (d : BitVec 5) (a : BitVec 5)
  /-- R139: f32 fused multiply-add. -/
  | fma (g : Guard) (mo : BitVec 6) (mr : BitVec 8) (d : BitVec 5) (a : BitVec 5) (b : BitVec 5) (c : BitVec 5)
  /-- R139: f64 fused multiply-add. -/
  | fmaD (g : Guard) (mo : BitVec 6) (mr : BitVec 8) (d : BitVec 5) (a : BitVec 5) (b : BitVec 5) (c : BitVec 5)
  /-- R140: f32 compare writing a predicate. -/
  | fcmp (g : Guard) (mo : BitVec 6) (cond : BitVec 2) (d : BitVec 3) (a : BitVec 5) (b : BitVec 5)
  /-- R140: f64 compare writing a predicate. -/
  | fcmpD (g : Guard) (mo : BitVec 6) (cond : BitVec 2) (d : BitVec 3) (a : BitVec 5) (b : BitVec 5)
  /-- R141: Convert between scalar number formats. -/
  | fcvt (g : Guard) (mr : BitVec 8) (fr : BitVec 3) (tgt : BitVec 3) (d : BitVec 5) (a : BitVec 5)
  /-- R132: Narrow a capability to a sub-range. -/
  | cbound (g : Guard) (d a : BitVec 4) (b : BitVec 5) (c : BitVec 5)
  /-- R132: Advance a capability's base. -/
  | cadd (g : Guard) (d a : BitVec 4) (b : BitVec 5)
  /-- R134: Read one field of a capability. -/
  | cget (g : Guard) (fld : BitVec 3) (d : BitVec 5) (a : BitVec 4)
  /-- R135: Test a capability dereference without faulting. -/
  | cchk (g : Guard) (perms : BitVec 3) (d : BitVec 3) (a : BitVec 4) (b : BitVec 5) (c : BitVec 5)
  /-- R133: Copy a capability with permissions narrowed. -/
  | cmov (g : Guard) (d a : BitVec 4) (b : BitVec 5)
  /-- R133: Write the null capability. -/
  | cnull (g : Guard) (d : BitVec 4)
  /-- R229: Check an MCB and bind a mesh slot to its snapshot. -/
  | mopen (g : Guard) (m : BitVec 2) (a : BitVec 4)
  /-- R229: Re-read and re-check a bound MCB. -/
  | mrefresh (g : Guard) (m : BitVec 2)
  /-- R230: Start the next edit round. -/
  | mround (g : Guard) (d : BitVec 5) (m : BitVec 2)
  /-- R232: Reserve spawn slots and indices for the round. -/
  | mreserve (g : Guard) (d : BitVec 5) (m : BitVec 2) (b : BitVec 5)
  /-- R233: Read words of a mesh record. -/
  | mget (g : Guard) (raw : Bool) (first : BitVec 4) (cnt : BitVec 3) (d : BitVec 5) (m : BitVec 2) (b : BitVec 5)
  /-- R234: Read a field component of an element. -/
  | mfld (g : Guard) (fid : BitVec 4) (comp : BitVec 3) (d : BitVec 5) (m : BitVec 2) (b : BitVec 5)
  /-- R234: Write a field component of an element. -/
  | mfst (g : Guard) (fid : BitVec 4) (comp : BitVec 3) (d : BitVec 5) (m : BitVec 2) (b : BitVec 5)
  /-- R236: Find the edge joining two vertices. -/
  | medge (g : Guard) (d : BitVec 5) (m : BitVec 2) (b : BitVec 5) (c : BitVec 5)
  /-- R235: Open a ring strand over an element's star list. -/
  | mstar (g : Guard) (kind : BitVec 3) (h : BitVec 4) (m : BitVec 2) (b : BitVec 5)
  /-- R236: Test whether a handle resolves live. -/
  | mvalid (g : Guard) (d : BitVec 3) (m : BitVec 2) (b : BitVec 5)
  /-- R247: Claim and commit an edge split in one instruction. -/
  | msplit (g : Guard) (m : BitVec 2) (d : BitVec 5) (a : BitVec 5) (b : BitVec 5) (c : BitVec 5)
  /-- R238: Claim step of an edge split. -/
  | msplitC (g : Guard) (m : BitVec 2) (d : BitVec 5) (a : BitVec 5) (b : BitVec 5) (c : BitVec 5)
  /-- R247: Commit step of an edge split. -/
  | msplitX (g : Guard) (m : BitVec 2) (d : BitVec 5) (a : BitVec 5) (b : BitVec 5) (c : BitVec 5)
  /-- R248: Claim and commit an edge collapse. -/
  | mcoll (g : Guard) (m : BitVec 2) (v1 : Bool) (d : BitVec 5) (a : BitVec 5) (c : BitVec 5)
  /-- R238: Claim step of an edge collapse. -/
  | mcollC (g : Guard) (m : BitVec 2) (v1 : Bool) (d : BitVec 5) (a : BitVec 5) (c : BitVec 5)
  /-- R248: Commit step of an edge collapse. -/
  | mcollX (g : Guard) (m : BitVec 2) (v1 : Bool) (d : BitVec 5) (a : BitVec 5) (c : BitVec 5)
  /-- R249: Claim and commit a flip. -/
  | mflip (g : Guard) (m : BitVec 2) (d : BitVec 5) (a : BitVec 5) (c : BitVec 5)
  /-- R238: Claim step of a flip. -/
  | mflipC (g : Guard) (m : BitVec 2) (d : BitVec 5) (a : BitVec 5) (c : BitVec 5)
  /-- R249: Commit step of a flip. -/
  | mflipX (g : Guard) (m : BitVec 2) (d : BitVec 5) (a : BitVec 5) (c : BitVec 5)
  /-- R252: Claim and commit a refinement. -/
  | mrefine (g : Guard) (m : BitVec 2) (d : BitVec 5) (a : BitVec 5) (b : BitVec 5) (c : BitVec 5)
  /-- R238: Claim step of a refinement. -/
  | mrefineC (g : Guard) (m : BitVec 2) (d : BitVec 5) (a : BitVec 5) (b : BitVec 5) (c : BitVec 5)
  /-- R252: Commit step of a refinement. -/
  | mrefineX (g : Guard) (m : BitVec 2) (d : BitVec 5) (a : BitVec 5) (b : BitVec 5) (c : BitVec 5)
  /-- R253: Enter the system-mode handler with cause TRAP. -/
  | trap (g : Guard) (a : BitVec 5)
  /-- R254: Return from a trap handler to EPC. -/
  | eret
  /-- R363: Resume from an upcall frame. -/
  | uret
  /-- R255: Read a control register. -/
  | mfc (g : Guard) (d : BitVec 5) (cr : BitVec 8)
  /-- R255: Write a control register. -/
  | mtc (g : Guard) (d : BitVec 5) (cr : BitVec 8)
  /-- R256: Wait for a watched word, a deadline or a wake. -/
  | sleep (g : Guard) (d : BitVec 3) (a : BitVec 5) (b : BitVec 5)
  /-- R257: Set a context's pending-wake bit. -/
  | wake (g : Guard) (a : BitVec 5)
  /-- R258: Append a launch record to a priority queue. -/
  | launch (g : Guard) (d : BitVec 3) (a : BitVec 5) (b : BitVec 5)
  /-- R259: Set CANCELLED in a completion counter. -/
  | cancel (g : Guard) (a : BitVec 5)
  /-- R260: Read a performance counter. -/
  | rdcnt (g : Guard) (d : BitVec 5) (n : BitVec 2)
  /-- event, R427: The control plane acknowledges at a safe point. -/
  | clockChangeAck (stack : Nat)
  /-- event, R427: The new clock is in force and holds are released. -/
  | clockChangeComplete (stack : Nat)
  /-- event, R404: An event record is written to the host ring and MSI-X sent. -/
  | hostEventDelivery (ld : Nat) (cls : Nat) (fwd : Bool)
  /-- event, R109: A halfword sequence with an unassigned page, major or function, a bad prefix chain, or a forbidden field decodes and faults ILLEGAL. -/
  | illegalEncoding (hw : BitVec 16)
  /-- event, R99: An instruction fetch faults PAGE, or ILLEGAL on a page without the executable bit, before any instruction is decoded. -/
  | instructionFetchFault (cause : BitVec 8) (addr : BitVec 64)
  /-- event, R419: The buddy supplies and writes back a mirrored line. -/
  | takeoverRequest (line : Nat)
  /-- event, R23: The tile arbiter binds a queue head to lane groups. -/
  | vectorArbiterBind (tile : Nat)
  /-- event, R142: A queued vector or matrix instruction executes and completes at the head. -/
  | vectorQueueHead (core : Nat)
  /-- event, R168: Four gangs of a row are matched and checked. -/
  | gangMatch (row : Nat)
  /-- event, R169: A matched row-array operation starts and releases its contexts. -/
  | rowArrayStart (row : Nat)
  /-- event, R170: A row-array operation completes, stores slices and copies the shadow configuration. -/
  | rowArrayComplete (row : Nat)
  /-- event, R12: A global load reply arrives and is written. -/
  | loadReply (core : Nat) (ctx : Nat)
  /-- event, R12: A waiting context's condition becomes true and it becomes ready. -/
  | waitConditionMet (core : Nat) (ctx : Nat)
  /-- event, R256: TIME reaches a sleep deadline. -/
  | sleepDeadline (core : Nat) (ctx : Nat)
  /-- event, R214: The wired barrier completes and releases every context 0 in cycle S. -/
  | wiredBarrierRelease (launch : Nat)
  /-- event, R217: Cycle 4,096 of a cable step faults GANGABORT. -/
  | cableStepTimeout (launch : Nat)
  /-- event, R29: Context 0's retire completes after its drains and the status enters the tree. -/
  | unitEnd (core : Nat)
  /-- event, R280: A freed engine slot starts a waiting command by weighted round robin. -/
  | engineSlotFill (tile : Nat) (gs : Bool)
  /-- event, R203: An engine delivers a unit of copy data. -/
  | engineTransfer (cmd : Nat)
  /-- event, R205: One gather or scatter element resolves its levels. -/
  | gatherElement (cmd : Nat)
  /-- event, R206: A command ends and writes its completion record. -/
  | completionRecord (cmd : Nat)
  /-- event, R207: The service cores' reply resumes or ends a stalled command. -/
  | engineFaultReply (cmd : Nat)
  /-- event, R371: A refused ring append is tried again when HEAD changes. -/
  | requestRingRetry (part : Nat)
  /-- event, R220: A subscription flit closes 32 cycles after its first write. -/
  | updateFlitClose (core : Nat) (entry : Nat)
  /-- event, R220: An update flit is applied at the subscriber or its image. -/
  | subscriptionUpdateApply (core : Nat) (entry : Nat)
  /-- event, R364: A pending SUBLAPSE event is delivered to context 0. -/
  | sublapse (core : Nat)
  /-- event, R189: A lease's lifetime ends and its lines unpin. -/
  | leaseExpiry (part : Nat) (id : Nat)
  /-- event, R345: A store to a queue's APPEND appends an entry at the bank ALU. -/
  | append (part : Nat) (prio : Nat) (size : Nat) (value : BitVec 64)
  /-- event, R342: The distributor dequeues and checks a launch record. -/
  | launchDequeue (part : Nat)
  /-- event, R343: A change to a watched counter line retests a launch's eligibility. -/
  | predecessorTest (launch : Nat)
  /-- event, R347: The distributor places an eligible launch's units. -/
  | placement (part : Nat)
  /-- event, R349: A launch exceeds the age limit and blocks lower placements. -/
  | ageLimitExpiry (launch : Nat)
  /-- event, R340: A completion tree node combines reports and sends upward. -/
  | spanningTreeMessage (launch : Nat) (tile : Nat)
  /-- event, R352: The distributor chooses units to save for a waiting launch. -/
  | preempt (part : Nat)
  /-- event, R365: The saver stops, drains and writes a unit's image. -/
  | unitSave (core : Nat)
  /-- event, R367: A saved unit is copied back and resumed. -/
  | unitRestore (launch : Nat) (unit : Nat) (core : Nat)
  /-- event, R353: The distributor learns of a CANCELLED OR and stops the launches under it. -/
  | cancellation (part : Nat) (ctr : Nat)
  /-- event, R353: A unit takes CANCEL at its next boundary and reports. -/
  | unitCancel (launch : Nat) (unit : Nat)
  /-- event, R350: An idle tile is gated after the idle time. -/
  | tilePowerGate (tile : Nat)
  /-- event, R350: A gated tile finishes waking for a placement. -/
  | tileWake (tile : Nat)
  /-- event, R391: A cache receives an invalidation from a home. -/
  | invalidation (line : Nat) (agent : CacheAgent)
  /-- event, R391: An owner receives a directory forward and supplies data. -/
  | forward (line : Nat) (requester : CacheAgent)
  /-- event, R382: A translation cache acknowledges after dropping and draining. -/
  | translationInvalidateAck (line : Nat) (agent : CacheAgent)
  /-- event, R394: Host snoop invalidating one half. -/
  | snpInv (line : Nat) (half : Bool)
  /-- event, R394: Host snoop for shared data of one half. -/
  | snpData (line : Nat) (half : Bool)
  /-- event, R394: Host snoop for the current data of one half. -/
  | snpCur (line : Nat) (half : Bool)
  /-- event, R393: The host answers a RdShared or RdOwn request for a half, with the half's bytes where the host has written it (R395). -/
  | hostResponse (line : Nat) (answer : HalfAnswer)
  /-- event, R397: A host CXL.mem access to the HDM window. -/
  | hostCxlMemAccess (ld : Nat) (addr : Nat) (size : Nat) (op : BusOp) (value : Nat)
  /-- event, R380: A request from a peer device arrives at the fabric NI and is translated and served with the bound partition's tables. -/
  | peerDeviceRequest (dev : Nat) (part : Nat) (va : Nat) (size : Nat) (op : BusOp) (value : Nat)
  /-- event, R397: The host answers a back-invalidate snoop. -/
  | bisnpResponse (line : Nat) (answer : HalfAnswer)
  /-- event, R399: A host fails to answer within the snoop timeout and is frozen. -/
  | snoopTimeout (ld : Nat)
  /-- event, R402: A peer device stops answering and is treated as violating. -/
  | peerDeviceTimeout (dev : Nat)
  /-- event, R417: A dirty line's bytes are written into the buddy mirror entry. -/
  | mirrorUpdate (line : Nat)
  /-- event, R419: A home gets no answer from an owner and starts takeover. -/
  | takeoverTimeout (line : Nat)
  /-- event, R420: The management plane freezes and removes a failed stack. -/
  | stackRemoval (stack : Nat)
  /-- event, R422: A logical device's CXL link goes down and lines are quarantined. -/
  | linkDown (ld : Nat)
  /-- event, R425: The link retrains and the logical device is marked up. -/
  | linkUp (ld : Nat)
  /-- event, R425: The service cores copy quarantine entries to a host buffer. -/
  | quarantineHandover (ld : Nat) (buffer : Nat)
  /-- event, R425: The host acknowledges and poison is lifted. -/
  | hostAcknowledge (ld : Nat)
  /-- event, R411: A correctable error is corrected and counted. -/
  | correctableError (site : ErrSite) (stack : Nat)
  /-- event, R412: An uncorrectable error poisons data or ends units. -/
  | uncorrectableError (site : ErrSite) (stack : Nat)
  /-- event, R415: The HBM patrol scrub reads a line in slot 63. -/
  | patrolScrub (line : Nat) (bad : Bool)
  /-- event, R426: The management plane releases a frozen master. -/
  | masterRelease (master : Master)
  /-- event, R263: The management plane rewrites a partition table entry. -/
  | partitionTableWrite (part : Nat) (entry : Partition)
  /-- event, R263: A partition or stack is quiesced and its dirty lines written back. -/
  | quiesce (part : Nat) (on : Bool)
  /-- event, R427: The management plane requests a frequency change. -/
  | clockChangeRequest (stack : Nat) (point : Nat)
  /-- event, R429: Draw would exceed the limit and elastic stacks step down. -/
  | powerLimit (watts : Nat)
  /-- event, R429: A trip temperature freezes every master and stops the module. -/
  | thermalTrip
  /-- event, R403: An event of a class is routed to its owner. -/
  | eventRaise (ld : Nat) (cls : Nat)
  /-- event, R403: A host write of an event owner code, refused for 0b11. -/
  | eventOwnerWrite (ld : Nat) (cls : Nat) (code : BitVec 2)
  /-- event, R370: The management plane restarts a stopped Avlyn core. -/
  | avlynRestart (n : Nat) (entry : Nat)
  /-- event, R431: Reset: the root of trust verifies the firmware image. -/
  | moduleReset
  /-- event, R431: A host-supplied image is verified and written to flash. -/
  | recoveryImage (image : Image)
  /-- event, R434: The module comes up through its bring-up stages. -/
  | powerOn
  /-- event, R433: SPDM GET_VERSION request. -/
  | getVersion
  /-- event, R433: SPDM GET_CAPABILITIES request. -/
  | getCapabilities
  /-- event, R433: SPDM NEGOTIATE_ALGORITHMS request. -/
  | negotiateAlgorithms (sm2 sm3 : Bool)
  /-- event, R433: SPDM GET_DIGESTS request. -/
  | getDigests
  /-- event, R433: SPDM GET_CERTIFICATE request. -/
  | getCertificate
  /-- event, R433: SPDM CHALLENGE request. -/
  | challenge (nonce : Nat)
  /-- event, R433: SPDM signed GET_MEASUREMENTS request. -/
  | getMeasurements (index : Nat) (nonce : Nat)
  /-- event, R422: One port of a logical device loses its link while another still works, and traffic moves to the remaining ports. -/
  | portLinkLoss (ld : Nat) (port : Nat)
  deriving DecidableEq, Repr

/-- Whether a step is an event of the device, not a coded instruction. -/
def Instr.isEvent : Instr → Bool
  | .vectorArbiterBind .. => true
  | .vectorQueueHead .. => true
  | .gangMatch .. => true
  | .rowArrayStart .. => true
  | .rowArrayComplete .. => true
  | .loadReply .. => true
  | .waitConditionMet .. => true
  | .sleepDeadline .. => true
  | .wiredBarrierRelease .. => true
  | .cableStepTimeout .. => true
  | .unitEnd .. => true
  | .engineSlotFill .. => true
  | .engineTransfer .. => true
  | .gatherElement .. => true
  | .completionRecord .. => true
  | .engineFaultReply .. => true
  | .requestRingRetry .. => true
  | .updateFlitClose .. => true
  | .subscriptionUpdateApply .. => true
  | .sublapse .. => true
  | .leaseExpiry .. => true
  | .append .. => true
  | .launchDequeue .. => true
  | .predecessorTest .. => true
  | .placement .. => true
  | .ageLimitExpiry .. => true
  | .spanningTreeMessage .. => true
  | .preempt .. => true
  | .unitSave .. => true
  | .unitRestore .. => true
  | .cancellation .. => true
  | .unitCancel .. => true
  | .tilePowerGate .. => true
  | .tileWake .. => true
  | .invalidation .. => true
  | .forward .. => true
  | .translationInvalidateAck .. => true
  | .snpInv .. => true
  | .snpData .. => true
  | .snpCur .. => true
  | .hostResponse .. => true
  | .hostCxlMemAccess .. => true
  | .bisnpResponse .. => true
  | .snoopTimeout .. => true
  | .peerDeviceTimeout .. => true
  | .mirrorUpdate .. => true
  | .takeoverTimeout .. => true
  | .takeoverRequest .. => true
  | .stackRemoval .. => true
  | .linkDown .. => true
  | .linkUp .. => true
  | .quarantineHandover .. => true
  | .hostAcknowledge .. => true
  | .correctableError .. => true
  | .uncorrectableError .. => true
  | .patrolScrub .. => true
  | .masterRelease .. => true
  | .partitionTableWrite .. => true
  | .quiesce .. => true
  | .clockChangeRequest .. => true
  | .clockChangeAck .. => true
  | .clockChangeComplete .. => true
  | .powerLimit .. => true
  | .thermalTrip .. => true
  | .eventRaise .. => true
  | .hostEventDelivery .. => true
  | .eventOwnerWrite .. => true
  | .avlynRestart .. => true
  | .moduleReset .. => true
  | .recoveryImage .. => true
  | .powerOn .. => true
  | .getVersion .. => true
  | .getCapabilities .. => true
  | .negotiateAlgorithms .. => true
  | .getDigests .. => true
  | .getCertificate .. => true
  | .challenge .. => true
  | .getMeasurements .. => true
  | .illegalEncoding .. => true
  | .instructionFetchFault .. => true
  | .peerDeviceRequest .. => true
  | .portLinkLoss .. => true
  | _ => false

end Sys2Proof
end

