-- ==== Sys2Proof/WellFormed.lean ====
section
/-! DEFINITION. Which instructions have an encoding: the limits on coded fields, immediates and result modes, and that at most
four prefixes are needed (R40, R41, R92 to R98, R103 to R107). -/

namespace Sys2Proof

/-- MR on an integer instruction: only MODE none or `sat`, with SCALE and ROUND 0 (R41, R113). -/
def mrInt (mr : BitVec 8) : Bool := mr == 0 || mr == 0x40

/-- MR on a scratchpad store: MODE none or `sat`, SCALE 0 (R162, R176). -/
def mrStore (mr : BitVec 8) : Bool := !mr.getLsbD 7 && mr.extractLsb' 2 4 == 0

/-- A vector type code (R144). -/
def tyOk (c : BitVec 5) : Bool := c.toNat < 3

/-- MR on a vector instruction of type `ty` (R144). -/
def mrVec (ty : BitVec 2) (mr : BitVec 8) : Bool := ty == 0 || (mrInt mr && (ty == 1 || mr == 0))

/-- The MO bits stay within the operands named by `mask` (R95). -/
def moMask (mo mask : BitVec 6) : Bool := mo &&& mask == mo

/-- MO on a vector instruction of type `ty` (R144). -/
def moVec (ty : BitVec 2) (mo mask : BitVec 6) : Bool := if ty == 0 then moMask mo mask else mo == 0

/-- The C field and MR of `vcvt` (R155). -/
def cvtOk (c : BitVec 5) (mr : BitVec 8) : Bool :=
  c.toNat < 16 && c.extractLsb' 0 2 != 3 && c.extractLsb' 2 2 != 3 && c.extractLsb' 0 2 != c.extractLsb' 2 2
    && (c.extractLsb' 2 2 == 0 || mr.extractLsb' 6 2 == 0)

/-- The C field, MR and MO of `vred` and `vscan` (R158). -/
def redOk (c : BitVec 5) (mr : BitVec 8) (mo : BitVec 6) : Bool :=
  c.toNat < 16 && c.extractLsb' 0 2 != 3 && c.extractLsb' 2 2 != 3 && mr.extractLsb' 2 4 == 0
    && mrVec (c.extractLsb' 2 2) mr && moVec (c.extractLsb' 2 2) mo 3

/-- The codes and MR of `fcvt` (R141): source in EXT, target in C. -/
def fcvtOk (fr : BitVec 3) (tgt : BitVec 5) (mr : BitVec 8) : Bool :=
  !(fr.getLsbD 2 && tgt.getLsbD 2) && (!tgt.getLsbD 2 || mr.extractLsb' 6 2 == 0)

/-- The number of K prefixes a value needs beside `n` bits of the base word; 5 when four are not enough. -/
def kCount (n : Nat) (v : Word) : Nat :=
  if (v.setWidth n).signExtend 64 = v then 0
  else if (v.setWidth (n + 8)).signExtend 64 = v then 1
  else if (v.setWidth (n + 16)).signExtend 64 = v then 2
  else if (v.setWidth (n + 24)).signExtend 64 = v then 3
  else if (v.setWidth (n + 32)).signExtend 64 = v then 4
  else 5

/-- 1 when the prefix is needed. -/
def one (b : Bool) : Nat := if b then 1 else 0

/-- 1 when the guard needs a G prefix. -/
def gNeed (g : Guard) : Nat := one (g != .always)

/-- Room for the prefixes of an immediate form: G, X when a register is above 7 or the page is not 0, W, MR, K. -/
def immFits (g : Guard) (x w mr : Bool) (imm : Word) : Bool := gNeed g + one x + one w + one mr + kCount 5 imm ≤ 4

/-- The well-formed instructions; an event is none. -/
def Instr.wf : Instr → Bool
  | .add _ mr .. | .sub _ mr .. | .shl _ mr .. => mrInt mr
  | .mul _ mr .. => mrInt mr
  | .cmp _ cond .. => cond != 7
  | .addImm g mr d a imm => mrInt mr && immFits g (7 < d.toNat || 7 < a.toNat) false (mr != 0) imm
  | .andImm g d a imm | .orImm g d a imm | .xorImm g d a imm => immFits g (7 < d.toNat || 7 < a.toNat) false false imm
  | .shlImm g mr d a imm => mrInt mr && imm < 64#64 && immFits g (7 < d.toNat || 7 < a.toNat) false (mr != 0) imm
  | .shrImm _ _ _ imm | .sraImm _ _ _ imm => imm < 64#64
  | .li g d imm => immFits g (7 < d.toNat) false false imm
  | .ld g sz sx d a imm => !(sx && sz == 0) && immFits g (7 < d.toNat || 7 < a.toNat) (sx || sz != 0) false imm
  | .st g mr sz d a imm => mrStore mr && immFits g (7 < d.toNat || 7 < a.toNat) (sz != 0) (mr != 0) imm
  | .lds g d a imm | .stf g d a imm => immFits g (7 < d.toNat || 7 < a.toNat) false false imm
  | .sete g a imm => immFits g (7 < a.toNat) false false imm
  | .br g _ off => gNeed g + kCount 8 off ≤ 4
  | .loop c off => c != 0 && one (7 < c.toNat) + kCount 8 off ≤ 4
  | .jmp g off | .call g off => gNeed g + kCount 11 off ≤ 4
  | .vadd g mo mr ty _ _ _ k | .vsub g mo mr ty _ _ _ k | .vmul g mo mr ty _ _ _ k
  | .vmin g mo mr ty _ _ _ k | .vmax g mo mr ty _ _ _ k =>
    tyOk (ty.setWidth 5) && mrVec ty mr && moVec ty mo 15
      && gNeed g + 1 + one (ty != 0 || k != 0) + one (mo != 0) + one (mr != 0) ≤ 4
  | .vshl _ ty .. | .vshr _ ty .. => ty == 1 || ty == 2
  | .vfma g mo mr .. => gNeed g + 2 + one (mo != 0) + one (mr != 0) ≤ 4
  | .vcmp _ mo cond .. => cond.toNat < 11 && (if cond.toNat < 4 then moMask mo 15 else mo == 0)
  | .vcvt _ mr fr tgt _ _ _ => cvtOk (0#1 ++ tgt ++ fr) mr
  | .vred g mo mr op ty _ _ k | .vscan g mo mr op ty _ _ k =>
    redOk (0#1 ++ ty ++ op) mr mo && gNeed g + 1 + one (ty != 0 || op != 0 || k != 0) + one (mo != 0) + one (mr != 0) ≤ 4
  | .vtbl _ half _ => half != 0
  | .vld g code rs _ _ imm k => immFits g true (code || rs != 0 || k != 0) false imm
  | .vst g mr code rs _ _ imm k =>
    (if code then mr == 0 else mrStore mr) && immFits g true (code || rs != 0 || k != 0) (mr != 0) imm
  | .vldb g code _ _ imm k => immFits g true (code || k != 0) false imm
  | .ldg g sz sx capb byp na _ a imm =>
    !(sx && sz == 0) && !(byp && na) && (!capb || a.toNat < 16) && immFits g true (sx || sz != 0 || capb || byp || na) false imm
  | .stg g sz capb byp na _ a imm =>
    !(byp && na) && (!capb || a.toNat < 16) && immFits g true (sz != 0 || capb || byp || na) false imm
  | .ldc g _ _ imm | .stc g _ _ imm => immFits g true false false imm
  | .amo _ op scope .. => op.toNat < 9 && scope.toNat < 5
  | .cas _ scope .. => scope.toNat ≤ 4
  | .fence _ kind scope => kind.toNat < 6 && (if kind.getLsbD 2 then scope == 0 else scope.toNat < 6)
  | .fadd _ mo .. | .fsub _ mo .. | .fmul _ mo .. | .fdiv _ mo .. | .faddD _ mo .. | .fsubD _ mo .. | .fmulD _ mo ..
  | .fdivD _ mo .. | .fmin _ mo .. | .fmax _ mo .. | .fminD _ mo .. | .fmaxD _ mo .. => moMask mo 15
  | .fsqrt _ mo .. | .fsqrtD _ mo .. => moMask mo 3
  | .fma g mo mr .. | .fmaD g mo mr .. => gNeed g + 2 + one (mo != 0) + one (mr != 0) ≤ 4
  | .fcmp _ mo .. | .fcmpD _ mo .. => moMask mo 15
  | .fcvt _ mr fr tgt _ _ => fcvtOk fr (tgt.setWidth 5) mr
  | .cget _ fld .. => fld.toNat ≤ 5
  | .mget g _ _ cnt d _ _ => !g.neg && d.toNat + cnt.toNat ≤ 31
  | .mfld g .. | .mfst g .. | .medge g .. | .mstar g .. => !g.neg
  | .msplit g .. | .msplitC g .. | .msplitX g .. | .mrefine g .. | .mrefineC g .. | .mrefineX g .. => !g.neg
  | .mcoll g .. | .mcollC g .. | .mcollX g .. | .mflip g .. | .mflipC g .. | .mflipX g .. => !g.neg
  | i => !i.isEvent

end Sys2Proof
end

