-- ==== Sys2Proof/Decode.lean ====
section
/-! DEFINITION. The decoder and the encoder (R89 to R109). The decoder is total: it answers none for every sequence of halfwords
that is ILLEGAL by its encoding alone (R99, R109). -/

namespace Sys2Proof

/-- The prefixes of one instruction, as payloads, and its base word (R91, R94). -/
structure Raw where
  g    : Option (BitVec 8)
  x    : Option (BitVec 8)
  w    : Option (BitVec 8)
  mo   : Option (BitVec 8)
  mr   : Option (BitVec 8)
  ks   : List (BitVec 8)
  base : Half
  deriving DecidableEq, Repr

/-- No prefix. -/
def Raw.bare (base : Half) : Raw := ⟨none, none, none, none, none, [], base⟩

/-- A halfword with [15:11] all ones is a prefix (R94). -/
def isPfx (h : Half) : Bool := h.extractLsb' 11 5 == 0x1F#5

/-- The prefix chain (R96, R99): `last` is the rank last seen plus 1, `n` the prefixes so far. Answers the parts and the length. -/
def parseChain : List Half → Nat → Nat → Raw → Option (Raw × Nat)
  | [], _, _, _ => none
  | h :: t, last, n, r =>
    if isPfx h then
      if n = 4 then none
      else
        let pay := h.setWidth 8
        match (h.extractLsb' 8 3).toNat with
        | 0 => parseChain t 6 (n + 1) { r with ks := r.ks ++ [pay] }
        | 1 => if last < 2 then parseChain t 2 (n + 1) { r with x := some pay } else none
        | 2 => if last < 4 then parseChain t 4 (n + 1) { r with mo := some pay } else none
        | 3 => if last < 5 then parseChain t 5 (n + 1) { r with mr := some pay } else none
        | 4 => if last < 1 then parseChain t 1 (n + 1) { r with g := some pay } else none
        | 5 => if last < 3 then parseChain t 3 (n + 1) { r with w := some pay } else none
        | _ => none
    else some ({ r with base := h }, n + 1)

/-- The fields of an instruction, with the defaults of absent prefixes (R92, R93, R97). -/
structure Fields where
  g     : Guard
  page  : BitVec 2
  maj   : BitVec 5
  f     : BitVec 2
  d     : BitVec 5
  a     : BitVec 5
  b     : BitVec 5
  dhi   : BitVec 2
  ahi   : BitVec 2
  bhi   : BitVec 2
  c     : BitVec 5
  e     : BitVec 3
  mo    : BitVec 6
  mr    : BitVec 8
  imm   : Word
  off8  : Word
  off11 : Word
  cr    : BitVec 8
  hasG  : Bool
  hasW  : Bool
  hasMo : Bool
  hasMr : Bool
  hasK  : Bool
  deriving DecidableEq, Repr

/-- SignExtend64(K1 : … : Kn : low) (R93). -/
def kValue {n : Nat} (ks : List (BitVec 8)) (low : BitVec n) : Word :=
  match ks with
  | [] => low.signExtend 64
  | [k1] => (k1 ++ low).signExtend 64
  | [k1, k2] => (k1 ++ k2 ++ low).signExtend 64
  | [k1, k2, k3] => (k1 ++ k2 ++ k3 ++ low).signExtend 64
  | k1 :: k2 :: k3 :: k4 :: _ => (k1 ++ k2 ++ k3 ++ k4 ++ low).signExtend 64

/-- The fields of the parts. -/
def Raw.fields (r : Raw) : Fields :=
  let x := r.x.getD 0
  let w := r.w.getD 0
  let g := r.g.getD 0
  let dhi := x.extractLsb' 6 2
  let ahi := x.extractLsb' 4 2
  let bhi := x.extractLsb' 2 2
  { g := ⟨g.getLsbD 3, g.setWidth 3⟩, page := x.setWidth 2
    maj := r.base.extractLsb' 11 5, f := r.base.setWidth 2
    d := dhi ++ r.base.extractLsb' 8 3, a := ahi ++ r.base.extractLsb' 5 3, b := bhi ++ r.base.extractLsb' 2 3
    dhi := dhi, ahi := ahi, bhi := bhi
    c := w.extractLsb' 3 5, e := w.setWidth 3
    mo := (r.mo.getD 0).setWidth 6, mr := r.mr.getD 0
    imm := kValue r.ks (r.base.setWidth 5), off8 := kValue r.ks (r.base.setWidth 8), off11 := kValue r.ks (r.base.setWidth 11)
    cr := r.base.setWidth 8
    hasG := r.g.isSome, hasW := r.w.isSome, hasMo := r.mo.isSome, hasMr := r.mr.isSome, hasK := !r.ks.isEmpty }

/-- The reserved bits of the G and MO payloads are 0 (R95). -/
def Raw.reservedOk (r : Raw) : Bool :=
  ((r.g.getD 0).extractLsb' 4 4 == 0) && ((r.mo.getD 0).extractLsb' 6 2 == 0)

/-- Only the prefixes of the opcode map's last column stand there (R98). -/
def Fields.takes (F : Fields) (w mo mr k : Bool) : Bool :=
  (w || !F.hasW) && (mo || !F.hasMo) && (mr || !F.hasMr) && (k || !F.hasK)

/-- MO stands only where the element type is f32, with whatever payload (R144). -/
def Fields.moType (F : Fields) (ty : BitVec 2) : Bool := ty == 0 || !F.hasMo

/-- The check holds, or the encoding is ILLEGAL. -/
def chk (c : Bool) (i : Instr) : Option Instr := if c then some i else none

/-- The C field of `ldg` and `stg` (R179): [4:3] 0, not both hints, and a capability base below 16. -/
def ldstOk (F : Fields) : Bool :=
  F.c.toNat < 8 && !(F.c.getLsbD 0 && F.c.getLsbD 1) && (!F.c.getLsbD 2 || F.a.toNat < 16)

/-- R103: page 0, integer, control and scratchpad access. -/
def decodePage0 (F : Fields) : Option Instr :=
  match F.maj.toNat with
  | 0 =>
    match F.f.toNat with
    | 0 => chk (F.takes false false true false && mrInt F.mr) (.add F.g F.mr F.d F.a F.b)
    | 1 => chk (F.takes false false true false && mrInt F.mr) (.sub F.g F.mr F.d F.a F.b)
    | 2 => chk (F.takes false false false false) (.and F.g F.d F.a F.b)
    | _ => chk (F.takes false false false false) (.or F.g F.d F.a F.b)
  | 1 =>
    match F.f.toNat with
    | 0 => chk (F.takes true false false false && F.c == 0 && F.e == 0) (.xor F.g F.d F.a F.b)
    | 1 => chk (F.takes true false false false && F.c == 0 && F.e == 0) (.andn F.g F.d F.a F.b)
    | 2 => chk (F.takes true false false false && F.c == 0 && F.e.toNat < 2) (.min F.g (F.e.getLsbD 0) F.d F.a F.b)
    | _ => chk (F.takes true false false false && F.c == 0 && F.e.toNat < 2) (.max F.g (F.e.getLsbD 0) F.d F.a F.b)
  | 2 =>
    match F.f.toNat with
    | 0 => chk (F.takes false false true false && mrInt F.mr) (.shl F.g F.mr F.d F.a F.b)
    | 1 => chk (F.takes false false false false) (.shr F.g F.d F.a F.b)
    | 2 => chk (F.takes false false false false) (.sra F.g F.d F.a F.b)
    | _ => chk (F.takes false false false false) (.rol F.g F.d F.a F.b)
  | 3 =>
    match F.f.toNat with
    | 0 => chk (F.takes true false true false && F.c == 0 && F.e == 0 && mrInt F.mr) (.mul F.g F.mr F.d F.a F.b)
    | 1 => chk (F.takes true false false false && F.c == 0 && F.e.toNat < 2) (.mulh F.g (F.e.getLsbD 0) F.d F.a F.b)
    | 2 => chk (F.takes true false false false && F.c == 0 && F.e.toNat < 2) (.div F.g (F.e.getLsbD 0) F.d F.a F.b)
    | _ => chk (F.takes true false false false && F.c == 0 && F.e.toNat < 2) (.rem F.g (F.e.getLsbD 0) F.d F.a F.b)
  | 4 =>
    match F.f.toNat with
    | 0 => chk (F.takes false false false false && F.b == 0) (.clz F.g F.d F.a)
    | 1 => chk (F.takes false false false false && F.b == 0) (.ctz F.g F.d F.a)
    | 2 => chk (F.takes false false false false && F.b == 0) (.popc F.g F.d F.a)
    | _ => chk (F.takes false false false false && F.b == 0) (.bswap F.g F.d F.a)
  | 5 =>
    match F.f.toNat with
    | 0 => chk (F.takes true false false false && F.hasW && F.e.toNat < 2) (.bext F.g (F.e.getLsbD 0) F.d F.a F.b F.c)
    | 1 => chk (F.takes true false false false && F.hasW && F.e == 0) (.bins F.g F.d F.a F.b F.c)
    | _ => none
  | 6 =>
    match F.f.toNat with
    | 0 => chk (F.takes true false false false && F.b == 0 && F.c == 0 && F.e == 0) (.mov F.g F.d F.a)
    | 1 => chk (F.takes true false false false && F.hasW && F.c.toNat < 8 && F.e == 0) (.sel F.g F.d F.a F.b (F.c.setWidth 3))
    | _ => none
  | 7 => chk (F.takes true false false false && F.e.toNat < 2 && F.c == 0 && F.d.toNat < 8 && !(F.e.getLsbD 0 && F.f == 3))
      (.cmp F.g (F.e.setWidth 1 ++ F.f) (F.d.setWidth 3) F.a F.b)
  | 8 =>
    match F.f.toNat with
    | 0 => chk (F.takes false false false false && F.d.toNat < 8 && F.a.toNat < 8 && F.b.toNat < 8)
        (.pand F.g (F.d.setWidth 3) (F.a.setWidth 3) (F.b.setWidth 3))
    | 1 => chk (F.takes false false false false && F.d.toNat < 8 && F.a.toNat < 8 && F.b.toNat < 8)
        (.por F.g (F.d.setWidth 3) (F.a.setWidth 3) (F.b.setWidth 3))
    | 2 => chk (F.takes false false false false && F.d.toNat < 8 && F.a.toNat < 8 && F.b.toNat < 8)
        (.pxor F.g (F.d.setWidth 3) (F.a.setWidth 3) (F.b.setWidth 3))
    | _ => none
  | 9 => chk (F.takes false false true true && F.bhi == 0 && mrInt F.mr) (.addImm F.g F.mr F.d F.a F.imm)
  | 10 => chk (F.takes false false false true && F.bhi == 0) (.andImm F.g F.d F.a F.imm)
  | 11 => chk (F.takes false false false true && F.bhi == 0) (.orImm F.g F.d F.a F.imm)
  | 12 => chk (F.takes false false false true && F.bhi == 0) (.xorImm F.g F.d F.a F.imm)
  | 13 => chk (F.takes false false true true && F.bhi == 0 && mrInt F.mr && F.imm < 64#64) (.shlImm F.g F.mr F.d F.a F.imm)
  | 14 => chk (F.takes false false false true && F.bhi == 0 && F.imm < 64#64) (.shrImm F.g F.d F.a F.imm)
  | 15 => chk (F.takes false false false true && F.bhi == 0 && F.imm < 64#64) (.sraImm F.g F.d F.a F.imm)
  | 16 => chk (F.takes false false false true && F.a == 0 && F.bhi == 0) (.li F.g F.d F.imm)
  | 17 => chk (F.takes true false false true && F.bhi == 0 && F.c == 0 && (F.e != 4))
      (.ld F.g (F.e.setWidth 2) (F.e.getLsbD 2) F.d F.a F.imm)
  | 18 => chk (F.takes true false true true && F.bhi == 0 && F.c == 0 && F.e.toNat < 4 && mrStore F.mr)
      (.st F.g F.mr (F.e.setWidth 2) F.d F.a F.imm)
  | 19 => chk (F.takes false false false true && F.bhi == 0) (.lds F.g F.d F.a F.imm)
  | 20 => chk (F.takes false false false true && F.bhi == 0) (.stf F.g F.d F.a F.imm)
  | 21 => chk (F.takes false false false true && F.d == 0 && F.bhi == 0) (.sete F.g F.a F.imm)
  | 22 => chk (F.takes false false false true && F.d.toNat < 8 && F.ahi == 0 && F.bhi == 0) (.br F.g (F.d.setWidth 3) F.off8)
  | 23 => chk (F.takes false false false true && !F.hasG && F.ahi == 0 && F.bhi == 0 && F.d != 0) (.loop F.d F.off8)
  | 24 => chk (F.takes false false false true && F.dhi == 0 && F.ahi == 0 && F.bhi == 0) (.jmp F.g F.off11)
  | 25 => chk (F.takes false false false true && F.dhi == 0 && F.ahi == 0 && F.bhi == 0) (.call F.g F.off11)
  | 26 =>
    match F.f.toNat with
    | 0 => chk (F.takes false false false false && F.d == 0 && F.b == 0) (.jr F.g F.a)
    | 1 => chk (F.takes false false false false && F.d == 0 && F.b == 0) (.callr F.g F.a)
    | 2 => chk (F.takes false false false false && F.d == 0 && F.a == 0 && F.b == 0) (.ret F.g)
    | _ => none
  | 27 =>
    match F.f.toNat with
    | 0 => chk (F.takes false false false false) (.hstart F.g F.d F.a F.b)
    | 1 => chk (F.takes false false false false && F.d == 0 && F.b == 0) (.hwait F.g F.a)
    | 2 => chk (F.takes false false false false && F.d == 0 && F.a == 0 && F.b == 0) (.retire F.g)
    | _ => chk (F.takes false false false false && F.d == 0 && F.a == 0 && F.b == 0) (.yield F.g)
  | 28 =>
    match F.f.toNat with
    | 0 => chk (F.takes false false false false && F.d == 0 && F.a == 0 && F.b == 0) (.brk F.g)
    | _ => none
  | _ => none

/-- R104: page 1, vector and matrix. -/
def decodePage1 (F : Fields) : Option Instr :=
  match F.maj.toNat with
  | 0 =>
    match F.f.toNat with
    | 0 => chk (F.takes true true true false && tyOk F.c && mrVec (F.c.setWidth 2) F.mr && F.moType (F.c.setWidth 2) && moVec (F.c.setWidth 2) F.mo 15)
        (.vadd F.g F.mo F.mr (F.c.setWidth 2) F.d F.a F.b F.e)
    | 1 => chk (F.takes true true true false && tyOk F.c && mrVec (F.c.setWidth 2) F.mr && F.moType (F.c.setWidth 2) && moVec (F.c.setWidth 2) F.mo 15)
        (.vsub F.g F.mo F.mr (F.c.setWidth 2) F.d F.a F.b F.e)
    | 2 => chk (F.takes true true true false && tyOk F.c && mrVec (F.c.setWidth 2) F.mr && F.moType (F.c.setWidth 2) && moVec (F.c.setWidth 2) F.mo 15)
        (.vmul F.g F.mo F.mr (F.c.setWidth 2) F.d F.a F.b F.e)
    | _ => chk (F.takes true true true false && tyOk F.c && mrVec (F.c.setWidth 2) F.mr && F.moType (F.c.setWidth 2) && moVec (F.c.setWidth 2) F.mo 15)
        (.vmin F.g F.mo F.mr (F.c.setWidth 2) F.d F.a F.b F.e)
  | 1 =>
    match F.f.toNat with
    | 0 => chk (F.takes true true true false && tyOk F.c && mrVec (F.c.setWidth 2) F.mr && F.moType (F.c.setWidth 2) && moVec (F.c.setWidth 2) F.mo 15)
        (.vmax F.g F.mo F.mr (F.c.setWidth 2) F.d F.a F.b F.e)
    | 1 => chk (F.takes true false false false && F.c == 0) (.vand F.g F.d F.a F.b F.e)
    | 2 => chk (F.takes true false false false && F.c == 0) (.vor F.g F.d F.a F.b F.e)
    | _ => chk (F.takes true false false false && F.c == 0) (.vxor F.g F.d F.a F.b F.e)
  | 2 =>
    match F.f.toNat with
    | 0 => chk (F.takes true false false false && (F.c == 1 || F.c == 2)) (.vshl F.g (F.c.setWidth 2) F.d F.a F.b F.e)
    | 1 => chk (F.takes true false false false && (F.c == 1 || F.c == 2)) (.vshr F.g (F.c.setWidth 2) F.d F.a F.b F.e)
    | 2 => chk (F.takes true false false false && F.c == 0) (.vrot F.g F.d F.a F.b F.e)
    | _ => chk (F.takes true false false false && F.c == 0) (.vperm F.g F.d F.a F.b F.e)
  | 3 =>
    match F.f.toNat with
    | 0 => chk (F.takes true true true false && F.hasW) (.vfma F.g F.mo F.mr F.d F.a F.b F.c F.e)
    | _ => none
  | 4 => chk (F.takes true true false false && F.c == 0 && F.d.toNat < 8 && (F.e ++ F.f).toNat < 11 && (if (F.e ++ F.f).toNat < 4 then moMask F.mo 15 else !F.hasMo))
      (.vcmp F.g F.mo (F.e ++ F.f) (F.d.setWidth 3) F.a F.b)
  | 5 =>
    match F.f.toNat with
    | 0 => chk (F.takes true false false false && F.hasW && F.c.toNat < 8 && F.e == 0) (.vsel F.g F.d F.a F.b (F.c.setWidth 3))
    | _ => none
  | 6 =>
    match F.f.toNat with
    | 0 => chk (F.takes false false false false && F.d.toNat < 8 && F.a.toNat < 8 && F.b.toNat < 8)
        (.kand F.g (F.d.setWidth 3) (F.a.setWidth 3) (F.b.setWidth 3))
    | 1 => chk (F.takes false false false false && F.d.toNat < 8 && F.a.toNat < 8 && F.b.toNat < 8)
        (.kor F.g (F.d.setWidth 3) (F.a.setWidth 3) (F.b.setWidth 3))
    | 2 => chk (F.takes false false false false && F.d.toNat < 8 && F.a.toNat < 8 && F.b == 0)
        (.knot F.g (F.d.setWidth 3) (F.a.setWidth 3))
    | _ => chk (F.takes false false false false && F.a.toNat < 8 && F.b == 0) (.kpop F.g F.d (F.a.setWidth 3))
  | 7 =>
    match F.f.toNat with
    | 0 => chk (F.takes true false false false && F.b == 0 && F.c == 0) (.vmov F.g F.d F.a F.e)
    | 1 => chk (F.takes true false false false && F.b == 0 && F.c == 0) (.vbcast F.g F.d F.a F.e)
    | 2 => chk (F.takes true false false false && F.c == 0 && F.e.toNat < 2) (.vext F.g (F.e.getLsbD 0) F.d F.a F.b)
    | _ => chk (F.takes true false false false && F.c == 0 && F.e == 0) (.vins F.g F.d F.a F.b)
  | 8 =>
    match F.f.toNat with
    | 0 => chk (F.takes true false true false && F.b == 0 && cvtOk F.c F.mr)
        (.vcvt F.g F.mr (F.c.setWidth 2) (F.c.extractLsb' 2 2) F.d F.a F.e)
    | 1 => chk (F.takes true false true false && F.b == 0 && (F.c.extractLsb' 3 2 == 0) && (F.mr.extractLsb' 2 6 == 0))
        (.vnarrow F.g (F.mr.setWidth 2) (F.c.setWidth 2) (F.c.getLsbD 2) F.d F.a F.e)
    | 2 => chk (F.takes true false true false && F.d == 0 && F.b == 0 && F.c == 0 && F.e == 0) (.vscale F.g F.a)
    | _ => chk (F.takes true false false false && F.b == 0 && F.c == 0) (.vtrans F.g F.d F.a F.e)
  | 9 =>
    match F.f.toNat with
    | 0 => chk (F.takes true true true false && F.b == 0 && F.moType (F.c.extractLsb' 2 2) && redOk F.c F.mr F.mo)
        (.vred F.g F.mo F.mr (F.c.setWidth 2) (F.c.extractLsb' 2 2) F.d F.a F.e)
    | 1 => chk (F.takes true true true false && F.b == 0 && F.moType (F.c.extractLsb' 2 2) && redOk F.c F.mr F.mo)
        (.vscan F.g F.mo F.mr (F.c.setWidth 2) (F.c.extractLsb' 2 2) F.d F.a F.e)
    | 2 => chk (F.takes true false false false && F.d == 0 && F.b == 0 && F.c == 0 && F.e.toNat < 4 && F.e != 0)
        (.vtbl F.g (F.e.setWidth 2) F.a)
    | _ => chk (F.takes true false false false && F.d == 0 && F.c == 0 && F.e == 0) (.vshape F.g F.a F.b)
  | 10 =>
    match F.f.toNat with
    | 0 => chk (F.takes true false true false && F.b == 0 && F.c.toNat < 8) (.vsf F.g F.mr F.e F.d F.a (F.c.setWidth 3))
    | _ => none
  | 11 => chk (F.takes true false false true && F.bhi == 0 && F.c.toNat < 16)
      (.vld F.g (F.c.getLsbD 3) F.e F.d F.a F.imm (F.c.setWidth 3))
  | 12 => chk (F.takes true false true true && F.bhi == 0 && F.c.toNat < 16 && (if F.c.getLsbD 3 then !F.hasMr else mrStore F.mr))
      (.vst F.g F.mr (F.c.getLsbD 3) F.e F.d F.a F.imm (F.c.setWidth 3))
  | 13 => chk (F.takes true false false true && F.bhi == 0 && F.c.toNat < 16 && F.e == 0)
      (.vldb F.g (F.c.getLsbD 3) F.d F.a F.imm (F.c.setWidth 3))
  | 14 =>
    match F.f.toNat with
    | 0 => chk (F.takes true false true false && F.d == 0 && F.b == 0 && F.c == 0 && F.e == 0) (.gang F.g F.a)
    | 1 => chk (F.takes true false false false && F.d == 0 && F.e == 0) (.mldb F.g F.a F.b F.c)
    | 2 => chk (F.takes true false false false && F.d == 0 && F.b == 0 && F.c == 0 && F.e == 0) (.mstc F.g F.a)
    | _ => chk (F.takes true false false false && F.d == 0 && F.a == 0 && F.b == 0 && F.c == 0 && F.e == 0) (.mzc F.g)
  | 15 =>
    match F.f.toNat with
    | 0 => chk (F.takes true false false false && F.d == 0 && F.b == 0 && F.c == 0 && F.e == 0) (.ecfg F.g F.a)
    | 1 => chk (F.takes true false false false && F.d.toNat < 2 && F.b == 0 && F.c == 0 && F.e == 0)
        (.tsave F.g (F.d.setWidth 1) F.a)
    | 2 => chk (F.takes true false false false && F.d.toNat < 2 && F.b == 0 && F.c == 0 && F.e == 0)
        (.trest F.g (F.d.setWidth 1) F.a)
    | _ => none
  | _ => none

/-- R105: page 2, global memory, engines and barriers. -/
def decodePage2 (F : Fields) : Option Instr :=
  match F.maj.toNat with
  | 0 => chk (F.takes true false false true && F.bhi == 0 && ldstOk F && (F.e != 4))
      (.ldg F.g (F.e.setWidth 2) (F.e.getLsbD 2) (F.c.getLsbD 2) (F.c.getLsbD 1) (F.c.getLsbD 0) F.d F.a F.imm)
  | 1 => chk (F.takes true false false true && F.bhi == 0 && ldstOk F && F.e.toNat < 4)
      (.stg F.g (F.e.setWidth 2) (F.c.getLsbD 2) (F.c.getLsbD 1) (F.c.getLsbD 0) F.d F.a F.imm)
  | 2 => chk (F.takes false false false true && F.d.toNat < 16 && F.a.toNat < 16 && F.bhi == 0)
      (.ldc F.g (F.d.setWidth 4) (F.a.setWidth 4) F.imm)
  | 3 => chk (F.takes false false false true && F.d.toNat < 16 && F.a.toNat < 16 && F.bhi == 0)
      (.stc F.g (F.d.setWidth 4) (F.a.setWidth 4) F.imm)
  | 4 => chk (F.takes true false false false && F.hasW && (F.e ++ F.f).toNat < 9 && F.c.toNat < 5)
      (.amo F.g ((F.e ++ F.f).setWidth 4) (F.c.setWidth 3) F.d F.a F.b)
  | 5 =>
    match F.f.toNat with
    | 0 => chk (F.takes true false false false && F.hasW && F.e.toNat ≤ 4) (.cas F.g F.e F.d F.a F.b F.c)
    | _ => none
  | 6 =>
    match F.f.toNat with
    | 0 => chk (F.takes true false false false && F.d == 0 && F.b == 0 && F.c == 0 && F.e.toNat < 4)
        (.prf F.g (F.e.getLsbD 0) (F.e.getLsbD 1) F.a)
    | 1 => chk (F.takes true false false false && F.d == 0 && F.b == 0 && F.c == 0 && F.e == 0) (.cclean F.g F.a)
    | 2 => chk (F.takes true false false false && F.d == 0 && F.b == 0 && F.c == 0 && F.e == 0) (.cflush F.g F.a)
    | _ => none
  | 7 =>
    match F.f.toNat with
    | 0 => chk (F.takes true false false false && F.e == 0) (.lease F.g F.d F.a F.b F.c)
    | 1 => chk (F.takes true false false false && F.d == 0 && F.b == 0 && F.c == 0 && F.e == 0) (.unlease F.g F.a)
    | 2 => chk (F.takes true false false false && F.d.toNat < 16 && F.b == 0 && F.c == 0 && F.e == 0)
        (.alloc F.g (F.d.setWidth 4) F.a)
    | _ => chk (F.takes true false false false && F.d == 0 && F.a.toNat < 16 && F.b == 0 && F.c == 0 && F.e == 0)
        (.free F.g (F.a.setWidth 4))
  | 8 => chk (F.takes true false false false && F.d == 0 && F.a == 0 && F.b == 0 && F.e.toNat < 2 && (F.e.setWidth 1 ++ F.f).toNat < 6
      && (if F.e.getLsbD 0 then F.c == 0 else F.c.toNat < 6)) (.fence F.g (F.e.setWidth 1 ++ F.f) (F.c.setWidth 3))
  | 9 =>
    match F.f.toNat with
    | 0 => chk (F.takes false false false false && F.d.toNat < 16 && F.b == 0) (.sopen F.g (F.d.setWidth 4) F.a)
    | 1 => chk (F.takes false false false false && F.d.toNat < 16 && F.a == 0) (.sadv F.g (F.d.setWidth 4) F.b)
    | 2 => chk (F.takes false false false false && F.d.toNat < 8 && F.a.toNat < 16 && F.b == 0)
        (.stest F.g (F.d.setWidth 3) (F.a.setWidth 4))
    | _ => chk (F.takes false false false false && F.a.toNat < 16 && F.b == 0) (.sget F.g F.d (F.a.setWidth 4))
  | 10 =>
    match F.f.toNat with
    | 0 => chk (F.takes false false false false && F.a.toNat < 16) (.sgetv F.g F.d (F.a.setWidth 4) F.b)
    | 1 => chk (F.takes false false false false && F.d.toNat < 16 && F.a == 0 && F.b == 0) (.sclose F.g (F.d.setWidth 4))
    | _ => none
  | 11 =>
    match F.f.toNat with
    | 0 => chk (F.takes true false false false && F.d.toNat < 8 && F.b == 0 && F.c == 0 && F.e == 0)
        (.send F.g (F.d.setWidth 3) F.a)
    | 1 => chk (F.takes true false false false && F.d.toNat < 8 && F.b == 0 && F.c == 0 && F.e == 0)
        (.fetch F.g (F.d.setWidth 3) F.a)
    | 2 => chk (F.takes true false false false && F.d.toNat < 8 && F.b == 0 && F.c == 0 && F.e == 0)
        (.gath F.g (F.d.setWidth 3) F.a)
    | _ => chk (F.takes true false false false && F.d.toNat < 8 && F.b == 0 && F.c == 0 && F.e == 0)
        (.scat F.g (F.d.setWidth 3) F.a)
  | 12 =>
    match F.f.toNat with
    | 0 => chk (F.takes true false false false && F.d == 0 && F.c == 0 && F.e == 0) (.bnew F.g F.a F.b)
    | 1 => chk (F.takes true false false false && F.b == 0 && F.c == 0 && F.e == 0) (.barv F.g F.d F.a)
    | 2 => chk (F.takes true false false false && F.d == 0 && F.c == 0 && F.e == 0) (.bexp F.g F.a F.b)
    | _ => chk (F.takes true false false false && F.d.toNat < 8 && F.c == 0 && F.e == 0) (.bwait F.g (F.d.setWidth 3) F.a F.b)
  | 13 =>
    match F.f.toNat with
    | 0 => chk (F.takes true false false false && F.d == 0 && F.a == 0 && F.b == 0 && F.c == 0 && F.e.toNat < 2) (if F.e == 0 then .step F.g else .stepCable F.g)
    | 1 => chk (F.takes true false false false && F.d == 0 && F.a == 0 && F.b == 0 && F.c == 0 && F.e == 0) (.subsync F.g)
    | 2 => chk (F.takes true false false false && F.d == 0 && F.e == 0) (.rsw F.g F.a F.b F.c)
    | _ => chk (F.takes true false false false && F.b == 0 && F.c.toNat < 8 && F.e == 0) (.rfin F.g F.d F.a (F.c.setWidth 3))
  | 14 =>
    match F.f.toNat with
    | 0 => chk (F.takes true false false false && F.d == 0 && F.b == 0 && F.c == 0 && F.e == 0) (.xsend F.g F.a)
    | 1 => chk (F.takes true false false false && F.d == 0 && F.b == 0 && F.c == 0 && F.e == 0) (.xsel F.g F.a)
    | 2 => chk (F.takes true false false false && F.a == 0 && F.b == 0 && F.c == 0 && F.e == 0) (.xrecv F.g F.d)
    | _ => none
  | 15 =>
    match F.f.toNat with
    | 0 => chk (F.takes true false false false && F.d.toNat < 16 && F.b == 0 && F.c.toNat < 8 && F.e == 0)
        (.subSubscription F.g (F.d.setWidth 4) F.a (F.c.setWidth 3))
    | 1 => chk (F.takes true false false false && F.d == 0 && F.b == 0 && F.c == 0 && F.e == 0) (.unsub F.g F.a)
    | _ => none
  | _ => none

/-- R106: page 3, mesh, scalar floating point, capabilities and system. -/
def decodePage3 (F : Fields) : Option Instr :=
  match F.maj.toNat with
  | 0 =>
    match F.f.toNat with
    | 0 => chk (F.takes false true true false && moMask F.mo 15) (.fadd F.g F.mo F.mr F.d F.a F.b)
    | 1 => chk (F.takes false true true false && moMask F.mo 15) (.fsub F.g F.mo F.mr F.d F.a F.b)
    | 2 => chk (F.takes false true true false && moMask F.mo 15) (.fmul F.g F.mo F.mr F.d F.a F.b)
    | _ => chk (F.takes false true true false && moMask F.mo 15) (.fdiv F.g F.mo F.mr F.d F.a F.b)
  | 1 =>
    match F.f.toNat with
    | 0 => chk (F.takes false true true false && moMask F.mo 15) (.faddD F.g F.mo F.mr F.d F.a F.b)
    | 1 => chk (F.takes false true true false && moMask F.mo 15) (.fsubD F.g F.mo F.mr F.d F.a F.b)
    | 2 => chk (F.takes false true true false && moMask F.mo 15) (.fmulD F.g F.mo F.mr F.d F.a F.b)
    | _ => chk (F.takes false true true false && moMask F.mo 15) (.fdivD F.g F.mo F.mr F.d F.a F.b)
  | 2 =>
    match F.f.toNat with
    | 0 => chk (F.takes false true false false && moMask F.mo 15) (.fmin F.g F.mo F.d F.a F.b)
    | 1 => chk (F.takes false true false false && moMask F.mo 15) (.fmax F.g F.mo F.d F.a F.b)
    | 2 => chk (F.takes false true true false && F.b == 0 && moMask F.mo 3) (.fsqrt F.g F.mo F.mr F.d F.a)
    | _ => chk (F.takes false false false false && F.b == 0) (.fclass F.g F.d F.a)
  | 3 =>
    match F.f.toNat with
    | 0 => chk (F.takes false true false false && moMask F.mo 15) (.fminD F.g F.mo F.d F.a F.b)
    | 1 => chk (F.takes false true false false && moMask F.mo 15) (.fmaxD F.g F.mo F.d F.a F.b)
    | 2 => chk (F.takes false true true false && F.b == 0 && moMask F.mo 3) (.fsqrtD F.g F.mo F.mr F.d F.a)
    | _ => chk (F.takes false false false false && F.b == 0) (.fclassD F.g F.d F.a)
  | 4 =>
    match F.f.toNat with
    | 0 => chk (F.takes true true true false && F.hasW && F.e == 0) (.fma F.g F.mo F.mr F.d F.a F.b F.c)
    | 1 => chk (F.takes true true true false && F.hasW && F.e == 0) (.fmaD F.g F.mo F.mr F.d F.a F.b F.c)
    | _ => none
  | 5 =>
    match F.f.toNat with
    | 0 => chk (F.takes true true false false && F.d.toNat < 8 && F.c == 0 && F.e.toNat < 4 && moMask F.mo 15)
        (.fcmp F.g F.mo (F.e.setWidth 2) (F.d.setWidth 3) F.a F.b)
    | 1 => chk (F.takes true true false false && F.d.toNat < 8 && F.c == 0 && F.e.toNat < 4 && moMask F.mo 15)
        (.fcmpD F.g F.mo (F.e.setWidth 2) (F.d.setWidth 3) F.a F.b)
    | 2 => chk (F.takes true false true false && F.b == 0 && F.c.toNat < 8 && fcvtOk F.e F.c F.mr)
        (.fcvt F.g F.mr F.e (F.c.setWidth 3) F.d F.a)
    | _ => none
  | 6 =>
    match F.f.toNat with
    | 0 => chk (F.takes true false false false && F.d.toNat < 16 && F.a.toNat < 16 && F.e == 0)
        (.cbound F.g (F.d.setWidth 4) (F.a.setWidth 4) F.b F.c)
    | 1 => chk (F.takes true false false false && F.d.toNat < 16 && F.a.toNat < 16 && F.c == 0 && F.e == 0)
        (.cadd F.g (F.d.setWidth 4) (F.a.setWidth 4) F.b)
    | 2 => chk (F.takes true false false false && F.a.toNat < 16 && F.b == 0 && F.c == 0 && F.e.toNat ≤ 5)
        (.cget F.g F.e F.d (F.a.setWidth 4))
    | _ => chk (F.takes true false false false && F.d.toNat < 8 && F.a.toNat < 16)
        (.cchk F.g F.e (F.d.setWidth 3) (F.a.setWidth 4) F.b F.c)
  | 7 =>
    match F.f.toNat with
    | 0 => chk (F.takes false false false false && F.d.toNat < 16 && F.a.toNat < 16)
        (.cmov F.g (F.d.setWidth 4) (F.a.setWidth 4) F.b)
    | 1 => chk (F.takes false false false false && F.d.toNat < 16 && F.a == 0 && F.b == 0) (.cnull F.g (F.d.setWidth 4))
    | _ => none
  | 8 =>
    match F.f.toNat with
    | 0 => chk (F.takes true false false false && F.d.toNat < 4 && F.a.toNat < 16 && F.b == 0 && F.c == 0 && F.e == 0)
        (.mopen F.g (F.d.setWidth 2) (F.a.setWidth 4))
    | 1 => chk (F.takes true false false false && F.d.toNat < 4 && F.a == 0 && F.b == 0 && F.c == 0 && F.e == 0)
        (.mrefresh F.g (F.d.setWidth 2))
    | 2 => chk (F.takes true false false false && F.a.toNat < 4 && F.b == 0 && F.c == 0 && F.e == 0)
        (.mround F.g F.d (F.a.setWidth 2))
    | _ => chk (F.takes true false false false && F.a.toNat < 4 && F.c == 0 && F.e == 0)
        (.mreserve F.g F.d (F.a.setWidth 2) F.b)
  | 9 =>
    match F.f.toNat with
    | 0 => chk (F.takes true false false false && !F.g.neg && F.a.toNat < 4 && (F.d.toNat + F.e.toNat ≤ 31))
        (.mget F.g (F.c.getLsbD 4) (F.c.setWidth 4) F.e F.d (F.a.setWidth 2) F.b)
    | 1 => chk (F.takes true false false false && !F.g.neg && F.a.toNat < 4 && F.c.toNat < 16)
        (.mfld F.g (F.c.setWidth 4) F.e F.d (F.a.setWidth 2) F.b)
    | 2 => chk (F.takes true false false false && !F.g.neg && F.a.toNat < 4 && F.c.toNat < 16)
        (.mfst F.g (F.c.setWidth 4) F.e F.d (F.a.setWidth 2) F.b)
    | _ => chk (F.takes true false false false && !F.g.neg && F.a.toNat < 4 && F.e == 0)
        (.medge F.g F.d (F.a.setWidth 2) F.b F.c)
  | 10 =>
    match F.f.toNat with
    | 0 => chk (F.takes true false false false && !F.g.neg && F.d.toNat < 16 && F.a.toNat < 4 && F.c == 0)
        (.mstar F.g F.e (F.d.setWidth 4) (F.a.setWidth 2) F.b)
    | 1 => chk (F.takes true false false false && F.d.toNat < 8 && F.a.toNat < 4 && F.c == 0 && F.e == 0)
        (.mvalid F.g (F.d.setWidth 3) (F.a.setWidth 2) F.b)
    | _ => none
  | 11 =>
    match F.f.toNat with
    | 0 => chk (F.takes true false false false && F.hasW && !F.g.neg && F.e.toNat < 4)
        (.msplit F.g (F.e.setWidth 2) F.d F.a F.b F.c)
    | 1 => chk (F.takes true false false false && F.hasW && !F.g.neg && F.e.toNat < 4)
        (.msplitC F.g (F.e.setWidth 2) F.d F.a F.b F.c)
    | 2 => chk (F.takes true false false false && F.hasW && !F.g.neg && F.e.toNat < 4)
        (.msplitX F.g (F.e.setWidth 2) F.d F.a F.b F.c)
    | _ => none
  | 12 =>
    match F.f.toNat with
    | 0 => chk (F.takes true false false false && F.hasW && !F.g.neg && F.b == 0)
        (.mcoll F.g (F.e.setWidth 2) (F.e.getLsbD 2) F.d F.a F.c)
    | 1 => chk (F.takes true false false false && F.hasW && !F.g.neg && F.b == 0)
        (.mcollC F.g (F.e.setWidth 2) (F.e.getLsbD 2) F.d F.a F.c)
    | 2 => chk (F.takes true false false false && F.hasW && !F.g.neg && F.b == 0)
        (.mcollX F.g (F.e.setWidth 2) (F.e.getLsbD 2) F.d F.a F.c)
    | _ => none
  | 13 =>
    match F.f.toNat with
    | 0 => chk (F.takes true false false false && F.hasW && !F.g.neg && F.b == 0 && F.e.toNat < 4)
        (.mflip F.g (F.e.setWidth 2) F.d F.a F.c)
    | 1 => chk (F.takes true false false false && F.hasW && !F.g.neg && F.b == 0 && F.e.toNat < 4)
        (.mflipC F.g (F.e.setWidth 2) F.d F.a F.c)
    | 2 => chk (F.takes true false false false && F.hasW && !F.g.neg && F.b == 0 && F.e.toNat < 4)
        (.mflipX F.g (F.e.setWidth 2) F.d F.a F.c)
    | _ => none
  | 14 =>
    match F.f.toNat with
    | 0 => chk (F.takes true false false false && F.hasW && !F.g.neg && F.e.toNat < 4)
        (.mrefine F.g (F.e.setWidth 2) F.d F.a F.b F.c)
    | 1 => chk (F.takes true false false false && F.hasW && !F.g.neg && F.e.toNat < 4)
        (.mrefineC F.g (F.e.setWidth 2) F.d F.a F.b F.c)
    | 2 => chk (F.takes true false false false && F.hasW && !F.g.neg && F.e.toNat < 4)
        (.mrefineX F.g (F.e.setWidth 2) F.d F.a F.b F.c)
    | _ => none
  | 15 =>
    match F.f.toNat with
    | 0 => chk (F.takes false false false false && F.d == 0 && F.b == 0) (.trap F.g F.a)
    | 1 => chk (F.takes false false false false && !F.hasG && F.d == 0 && F.a == 0 && F.b == 0) (.eret)
    | 2 => chk (F.takes false false false false && !F.hasG && F.d == 0 && F.a == 0 && F.b == 0) (.uret)
    | _ => none
  | 16 => chk (F.takes false false false false && F.ahi == 0 && F.bhi == 0) (.mfc F.g F.d F.cr)
  | 17 => chk (F.takes false false false false && F.ahi == 0 && F.bhi == 0) (.mtc F.g F.d F.cr)
  | 18 =>
    match F.f.toNat with
    | 0 => chk (F.takes true false false false && F.d.toNat < 8 && F.c == 0 && F.e == 0) (.sleep F.g (F.d.setWidth 3) F.a F.b)
    | 1 => chk (F.takes true false false false && F.d == 0 && F.b == 0 && F.c == 0 && F.e == 0) (.wake F.g F.a)
    | 2 => chk (F.takes true false false false && F.d.toNat < 8 && F.c == 0 && F.e == 0) (.launch F.g (F.d.setWidth 3) F.a F.b)
    | _ => chk (F.takes true false false false && F.d == 0 && F.b == 0 && F.c == 0 && F.e == 0) (.cancel F.g F.a)
  | 19 =>
    match F.f.toNat with
    | 0 => chk (F.takes true false false false && F.a == 0 && F.b == 0 && F.c.toNat < 4 && F.e == 0)
        (.rdcnt F.g F.d (F.c.setWidth 2))
    | _ => none
  | _ => none

/-- What an instruction's parts mean; none when ILLEGAL (R99, R103 to R109). -/
def decodeRaw (r : Raw) : Option Instr :=
  if r.reservedOk then
    match r.fields.page.toNat with
    | 0 => decodePage0 r.fields
    | 1 => decodePage1 r.fields
    | 2 => decodePage2 r.fields
    | _ => decodePage3 r.fields
  else none

/-- The instruction that stands first in a list of halfwords, and its length in halfwords. -/
def decode (hs : List Half) : Option (Instr × Nat) :=
  match parseChain hs 0 0 (.bare 0) with
  | some (r, n) => (decodeRaw r).map fun i => (i, n)
  | none => none

/-! ### The encoder -/

/-- One bit. -/
def ofB (b : Bool) : BitVec 1 := BitVec.ofBool b

/-- The K payloads of a value whose low `n` bits stand in the base word: the least number that represents it (R79, R93). -/
def kBytes (n : Nat) (v : Word) : List (BitVec 8) :=
  let k (i : Nat) : BitVec 8 := v.extractLsb' (n + 8 * i) 8
  if (v.setWidth n).signExtend 64 = v then []
  else if (v.setWidth (n + 8)).signExtend 64 = v then [k 0]
  else if (v.setWidth (n + 16)).signExtend 64 = v then [k 1, k 0]
  else if (v.setWidth (n + 24)).signExtend 64 = v then [k 2, k 1, k 0]
  else [k 3, k 2, k 1, k 0]

/-- A payload that is left out when it is 0, unless it is required. -/
def payload (req : Bool) (p : BitVec 8) : Option (BitVec 8) := if req || p != 0 then some p else none

/-- The G payload. -/
def gPay (g : Guard) : Option (BitVec 8) := payload false (0#4 ++ ofB g.neg ++ g.p)

/-- The X payload. -/
def xPay (page : BitVec 2) (d a b : BitVec 5) : Option (BitVec 8) :=
  payload false (d.extractLsb' 3 2 ++ a.extractLsb' 3 2 ++ b.extractLsb' 3 2 ++ page)

/-- Format R (R91). -/
def packR (g : Guard) (page : BitVec 2) (maj d a b : BitVec 5) (f : BitVec 2) (c : BitVec 5) (e : BitVec 3) (wreq : Bool)
    (mo : BitVec 6) (mr : BitVec 8) : Raw :=
  ⟨gPay g, xPay page d a b, payload wreq (c ++ e), payload false (mo.setWidth 8), payload false mr, [],
    maj ++ d.setWidth 3 ++ a.setWidth 3 ++ b.setWidth 3 ++ f⟩

/-- Format I. -/
def packI (g : Guard) (page : BitVec 2) (maj d a : BitVec 5) (imm : Word) (c : BitVec 5) (e : BitVec 3) (mr : BitVec 8) : Raw :=
  ⟨gPay g, xPay page d a 0, payload false (c ++ e), none, payload false mr, kBytes 5 imm,
    maj ++ d.setWidth 3 ++ a.setWidth 3 ++ imm.setWidth 5⟩

/-- Format I with a control-register number. -/
def packC (g : Guard) (maj d : BitVec 5) (cr : BitVec 8) : Raw :=
  ⟨gPay g, xPay 3 d 0 0, none, none, none, [], maj ++ d.setWidth 3 ++ cr⟩

/-- Format B. -/
def packB (g : Guard) (maj p : BitVec 5) (off : Word) : Raw :=
  ⟨gPay g, xPay 0 p 0 0, none, none, none, kBytes 8 off, maj ++ p.setWidth 3 ++ off.setWidth 8⟩

/-- Format J. -/
def packJ (g : Guard) (maj : BitVec 5) (off : Word) : Raw :=
  ⟨gPay g, none, none, none, none, kBytes 11 off, maj ++ off.setWidth 11⟩

/-- The parts of an instruction in canonical form (R96); an event has none. -/
def Instr.raw : Instr → Raw
  | .add g mr d a b => packR g 0 0 d a b 0 0 0 false 0 mr
  | .sub g mr d a b => packR g 0 0 d a b 1 0 0 false 0 mr
  | .and g d a b => packR g 0 0 d a b 2 0 0 false 0 0
  | .or g d a b => packR g 0 0 d a b 3 0 0 false 0 0
  | .xor g d a b => packR g 0 1 d a b 0 0 0 false 0 0
  | .andn g d a b => packR g 0 1 d a b 1 0 0 false 0 0
  | .min g u d a b => packR g 0 1 d a b 2 0 ((ofB u).setWidth 3) false 0 0
  | .max g u d a b => packR g 0 1 d a b 3 0 ((ofB u).setWidth 3) false 0 0
  | .shl g mr d a b => packR g 0 2 d a b 0 0 0 false 0 mr
  | .shr g d a b => packR g 0 2 d a b 1 0 0 false 0 0
  | .sra g d a b => packR g 0 2 d a b 2 0 0 false 0 0
  | .rol g d a b => packR g 0 2 d a b 3 0 0 false 0 0
  | .mul g mr d a b => packR g 0 3 d a b 0 0 0 false 0 mr
  | .mulh g u d a b => packR g 0 3 d a b 1 0 ((ofB u).setWidth 3) false 0 0
  | .div g u d a b => packR g 0 3 d a b 2 0 ((ofB u).setWidth 3) false 0 0
  | .rem g u d a b => packR g 0 3 d a b 3 0 ((ofB u).setWidth 3) false 0 0
  | .clz g d a => packR g 0 4 d a 0 0 0 0 false 0 0
  | .ctz g d a => packR g 0 4 d a 0 1 0 0 false 0 0
  | .popc g d a => packR g 0 4 d a 0 2 0 0 false 0 0
  | .bswap g d a => packR g 0 4 d a 0 3 0 0 false 0 0
  | .bext g sx d a b c => packR g 0 5 d a b 0 c ((ofB sx).setWidth 3) true 0 0
  | .bins g d a b c => packR g 0 5 d a b 1 c 0 true 0 0
  | .mov g d a => packR g 0 6 d a 0 0 0 0 false 0 0
  | .sel g d a b c => packR g 0 6 d a b 1 (c.setWidth 5) 0 true 0 0
  | .cmp g cond d a b => packR g 0 7 (d.setWidth 5) a b (cond.setWidth 2) 0 ((cond.extractLsb' 2 1).setWidth 3) false 0 0
  | .pand g d a b => packR g 0 8 (d.setWidth 5) (a.setWidth 5) (b.setWidth 5) 0 0 0 false 0 0
  | .por g d a b => packR g 0 8 (d.setWidth 5) (a.setWidth 5) (b.setWidth 5) 1 0 0 false 0 0
  | .pxor g d a b => packR g 0 8 (d.setWidth 5) (a.setWidth 5) (b.setWidth 5) 2 0 0 false 0 0
  | .addImm g mr d a imm => packI g 0 9 d a imm 0 0 mr
  | .andImm g d a imm => packI g 0 10 d a imm 0 0 0
  | .orImm g d a imm => packI g 0 11 d a imm 0 0 0
  | .xorImm g d a imm => packI g 0 12 d a imm 0 0 0
  | .shlImm g mr d a imm => packI g 0 13 d a imm 0 0 mr
  | .shrImm g d a imm => packI g 0 14 d a imm 0 0 0
  | .sraImm g d a imm => packI g 0 15 d a imm 0 0 0
  | .li g d imm => packI g 0 16 d 0 imm 0 0 0
  | .ld g sz sx d a imm => packI g 0 17 d a imm 0 (ofB sx ++ sz) 0
  | .st g mr sz d a imm => packI g 0 18 d a imm 0 (sz.setWidth 3) mr
  | .lds g d a imm => packI g 0 19 d a imm 0 0 0
  | .stf g d a imm => packI g 0 20 d a imm 0 0 0
  | .sete g a imm => packI g 0 21 0 a imm 0 0 0
  | .br g p off => packB g 22 (p.setWidth 5) off
  | .loop c off => packB .always 23 c off
  | .jmp g off => packJ g 24 off
  | .call g off => packJ g 25 off
  | .jr g a => packR g 0 26 0 a 0 0 0 0 false 0 0
  | .callr g a => packR g 0 26 0 a 0 1 0 0 false 0 0
  | .ret g => packR g 0 26 0 0 0 2 0 0 false 0 0
  | .hstart g d a b => packR g 0 27 d a b 0 0 0 false 0 0
  | .hwait g a => packR g 0 27 0 a 0 1 0 0 false 0 0
  | .retire g => packR g 0 27 0 0 0 2 0 0 false 0 0
  | .yield g => packR g 0 27 0 0 0 3 0 0 false 0 0
  | .brk g => packR g 0 28 0 0 0 0 0 0 false 0 0
  | .vadd g mo mr ty d a b k => packR g 1 0 d a b 0 (ty.setWidth 5) k false mo mr
  | .vsub g mo mr ty d a b k => packR g 1 0 d a b 1 (ty.setWidth 5) k false mo mr
  | .vmul g mo mr ty d a b k => packR g 1 0 d a b 2 (ty.setWidth 5) k false mo mr
  | .vmin g mo mr ty d a b k => packR g 1 0 d a b 3 (ty.setWidth 5) k false mo mr
  | .vmax g mo mr ty d a b k => packR g 1 1 d a b 0 (ty.setWidth 5) k false mo mr
  | .vand g d a b k => packR g 1 1 d a b 1 0 k false 0 0
  | .vor g d a b k => packR g 1 1 d a b 2 0 k false 0 0
  | .vxor g d a b k => packR g 1 1 d a b 3 0 k false 0 0
  | .vshl g ty d a b k => packR g 1 2 d a b 0 (ty.setWidth 5) k false 0 0
  | .vshr g ty d a b k => packR g 1 2 d a b 1 (ty.setWidth 5) k false 0 0
  | .vrot g d a b k => packR g 1 2 d a b 2 0 k false 0 0
  | .vperm g d a b k => packR g 1 2 d a b 3 0 k false 0 0
  | .vfma g mo mr d a b c k => packR g 1 3 d a b 0 c k true mo mr
  | .vcmp g mo cond d a b => packR g 1 4 (d.setWidth 5) a b (cond.setWidth 2) 0 (cond.extractLsb' 2 3) false mo 0
  | .vsel g d a b k => packR g 1 5 d a b 0 (k.setWidth 5) 0 true 0 0
  | .kand g d a b => packR g 1 6 (d.setWidth 5) (a.setWidth 5) (b.setWidth 5) 0 0 0 false 0 0
  | .kor g d a b => packR g 1 6 (d.setWidth 5) (a.setWidth 5) (b.setWidth 5) 1 0 0 false 0 0
  | .knot g d a => packR g 1 6 (d.setWidth 5) (a.setWidth 5) 0 2 0 0 false 0 0
  | .kpop g d a => packR g 1 6 d (a.setWidth 5) 0 3 0 0 false 0 0
  | .vmov g d a k => packR g 1 7 d a 0 0 0 k false 0 0
  | .vbcast g d a k => packR g 1 7 d a 0 1 0 k false 0 0
  | .vext g sx d a b => packR g 1 7 d a b 2 0 ((ofB sx).setWidth 3) false 0 0
  | .vins g d a b => packR g 1 7 d a b 3 0 0 false 0 0
  | .vcvt g mr fr tgt d a k => packR g 1 8 d a 0 0 (0#1 ++ tgt ++ fr) k false 0 mr
  | .vnarrow g rnd fmt nosat d a k => packR g 1 8 d a 0 1 (0#2 ++ ofB nosat ++ fmt) k false 0 (rnd.setWidth 8)
  | .vscale g a => packR g 1 8 0 a 0 2 0 0 false 0 0
  | .vtrans g d a k => packR g 1 8 d a 0 3 0 k false 0 0
  | .vred g mo mr op ty d a k => packR g 1 9 d a 0 0 (0#1 ++ ty ++ op) k false mo mr
  | .vscan g mo mr op ty d a k => packR g 1 9 d a 0 1 (0#1 ++ ty ++ op) k false mo mr
  | .vtbl g half a => packR g 1 9 0 a 0 2 0 (half.setWidth 3) false 0 0
  | .vshape g a b => packR g 1 9 0 a b 3 0 0 false 0 0
  | .vsf g mr fn d a k => packR g 1 10 d a 0 0 (k.setWidth 5) fn false 0 mr
  | .vld g code rs d a imm k => packI g 1 11 d a imm (0#1 ++ ofB code ++ k) rs 0
  | .vst g mr code rs d a imm k => packI g 1 12 d a imm (0#1 ++ ofB code ++ k) rs mr
  | .vldb g code d a imm k => packI g 1 13 d a imm (0#1 ++ ofB code ++ k) 0 0
  | .gang g a => packR g 1 14 0 a 0 0 0 0 false 0 0
  | .mldb g a b c => packR g 1 14 0 a b 1 c 0 false 0 0
  | .mstc g a => packR g 1 14 0 a 0 2 0 0 false 0 0
  | .mzc g => packR g 1 14 0 0 0 3 0 0 false 0 0
  | .ecfg g a => packR g 1 15 0 a 0 0 0 0 false 0 0
  | .tsave g t a => packR g 1 15 (t.setWidth 5) a 0 1 0 0 false 0 0
  | .trest g t a => packR g 1 15 (t.setWidth 5) a 0 2 0 0 false 0 0
  | .ldg g sz sx capb byp na d a imm => packI g 2 0 d a imm (0#2 ++ ofB capb ++ ofB byp ++ ofB na) (ofB sx ++ sz) 0
  | .stg g sz capb byp na d a imm => packI g 2 1 d a imm (0#2 ++ ofB capb ++ ofB byp ++ ofB na) (sz.setWidth 3) 0
  | .ldc g d a imm => packI g 2 2 (d.setWidth 5) (a.setWidth 5) imm 0 0 0
  | .stc g d a imm => packI g 2 3 (d.setWidth 5) (a.setWidth 5) imm 0 0 0
  | .amo g op scope d a b => packR g 2 4 d a b (op.setWidth 2) (scope.setWidth 5) ((op.extractLsb' 2 2).setWidth 3) true 0 0
  | .cas g scope d a b c => packR g 2 5 d a b 0 c scope true 0 0
  | .prf g l2 w a => packR g 2 6 0 a 0 0 0 (0#1 ++ ofB w ++ ofB l2) false 0 0
  | .cclean g a => packR g 2 6 0 a 0 1 0 0 false 0 0
  | .cflush g a => packR g 2 6 0 a 0 2 0 0 false 0 0
  | .lease g d a b c => packR g 2 7 d a b 0 c 0 false 0 0
  | .unlease g a => packR g 2 7 0 a 0 1 0 0 false 0 0
  | .alloc g d a => packR g 2 7 (d.setWidth 5) a 0 2 0 0 false 0 0
  | .free g a => packR g 2 7 0 (a.setWidth 5) 0 3 0 0 false 0 0
  | .fence g kind scope => packR g 2 8 0 0 0 (kind.setWidth 2) (scope.setWidth 5) ((kind.extractLsb' 2 1).setWidth 3) false 0 0
  | .sopen g h a => packR g 2 9 (h.setWidth 5) a 0 0 0 0 false 0 0
  | .sadv g h b => packR g 2 9 (h.setWidth 5) 0 b 1 0 0 false 0 0
  | .stest g d h => packR g 2 9 (d.setWidth 5) (h.setWidth 5) 0 2 0 0 false 0 0
  | .sget g d h => packR g 2 9 d (h.setWidth 5) 0 3 0 0 false 0 0
  | .sgetv g d h b => packR g 2 10 d (h.setWidth 5) b 0 0 0 false 0 0
  | .sclose g h => packR g 2 10 (h.setWidth 5) 0 0 1 0 0 false 0 0
  | .send g d a => packR g 2 11 (d.setWidth 5) a 0 0 0 0 false 0 0
  | .fetch g d a => packR g 2 11 (d.setWidth 5) a 0 1 0 0 false 0 0
  | .gath g d a => packR g 2 11 (d.setWidth 5) a 0 2 0 0 false 0 0
  | .scat g d a => packR g 2 11 (d.setWidth 5) a 0 3 0 0 false 0 0
  | .bnew g a b => packR g 2 12 0 a b 0 0 0 false 0 0
  | .barv g d a => packR g 2 12 d a 0 1 0 0 false 0 0
  | .bexp g a b => packR g 2 12 0 a b 2 0 0 false 0 0
  | .bwait g d a b => packR g 2 12 (d.setWidth 5) a b 3 0 0 false 0 0
  | .step g => packR g 2 13 0 0 0 0 0 0 false 0 0
  | .stepCable g => packR g 2 13 0 0 0 0 0 1 false 0 0
  | .subsync g => packR g 2 13 0 0 0 1 0 0 false 0 0
  | .rsw g a b c => packR g 2 13 0 a b 2 c 0 false 0 0
  | .rfin g d a c => packR g 2 13 d a 0 3 (c.setWidth 5) 0 false 0 0
  | .xsend g a => packR g 2 14 0 a 0 0 0 0 false 0 0
  | .xsel g a => packR g 2 14 0 a 0 1 0 0 false 0 0
  | .xrecv g d => packR g 2 14 d 0 0 2 0 0 false 0 0
  | .subSubscription g d a c => packR g 2 15 (d.setWidth 5) a 0 0 (c.setWidth 5) 0 false 0 0
  | .unsub g a => packR g 2 15 0 a 0 1 0 0 false 0 0
  | .fadd g mo mr d a b => packR g 3 0 d a b 0 0 0 false mo mr
  | .fsub g mo mr d a b => packR g 3 0 d a b 1 0 0 false mo mr
  | .fmul g mo mr d a b => packR g 3 0 d a b 2 0 0 false mo mr
  | .fdiv g mo mr d a b => packR g 3 0 d a b 3 0 0 false mo mr
  | .faddD g mo mr d a b => packR g 3 1 d a b 0 0 0 false mo mr
  | .fsubD g mo mr d a b => packR g 3 1 d a b 1 0 0 false mo mr
  | .fmulD g mo mr d a b => packR g 3 1 d a b 2 0 0 false mo mr
  | .fdivD g mo mr d a b => packR g 3 1 d a b 3 0 0 false mo mr
  | .fmin g mo d a b => packR g 3 2 d a b 0 0 0 false mo 0
  | .fmax g mo d a b => packR g 3 2 d a b 1 0 0 false mo 0
  | .fsqrt g mo mr d a => packR g 3 2 d a 0 2 0 0 false mo mr
  | .fclass g d a => packR g 3 2 d a 0 3 0 0 false 0 0
  | .fminD g mo d a b => packR g 3 3 d a b 0 0 0 false mo 0
  | .fmaxD g mo d a b => packR g 3 3 d a b 1 0 0 false mo 0
  | .fsqrtD g mo mr d a => packR g 3 3 d a 0 2 0 0 false mo mr
  | .fclassD g d a => packR g 3 3 d a 0 3 0 0 false 0 0
  | .fma g mo mr d a b c => packR g 3 4 d a b 0 c 0 true mo mr
  | .fmaD g mo mr d a b c => packR g 3 4 d a b 1 c 0 true mo mr
  | .fcmp g mo cond d a b => packR g 3 5 (d.setWidth 5) a b 0 0 (cond.setWidth 3) false mo 0
  | .fcmpD g mo cond d a b => packR g 3 5 (d.setWidth 5) a b 1 0 (cond.setWidth 3) false mo 0
  | .fcvt g mr fr tgt d a => packR g 3 5 d a 0 2 (tgt.setWidth 5) fr false 0 mr
  | .cbound g d a b c => packR g 3 6 (d.setWidth 5) (a.setWidth 5) b 0 c 0 false 0 0
  | .cadd g d a b => packR g 3 6 (d.setWidth 5) (a.setWidth 5) b 1 0 0 false 0 0
  | .cget g fld d a => packR g 3 6 d (a.setWidth 5) 0 2 0 fld false 0 0
  | .cchk g perms d a b c => packR g 3 6 (d.setWidth 5) (a.setWidth 5) b 3 c perms false 0 0
  | .cmov g d a b => packR g 3 7 (d.setWidth 5) (a.setWidth 5) b 0 0 0 false 0 0
  | .cnull g d => packR g 3 7 (d.setWidth 5) 0 0 1 0 0 false 0 0
  | .mopen g m a => packR g 3 8 (m.setWidth 5) (a.setWidth 5) 0 0 0 0 false 0 0
  | .mrefresh g m => packR g 3 8 (m.setWidth 5) 0 0 1 0 0 false 0 0
  | .mround g d m => packR g 3 8 d (m.setWidth 5) 0 2 0 0 false 0 0
  | .mreserve g d m b => packR g 3 8 d (m.setWidth 5) b 3 0 0 false 0 0
  | .mget g raw first cnt d m b => packR g 3 9 d (m.setWidth 5) b 0 (ofB raw ++ first) cnt false 0 0
  | .mfld g fid comp d m b => packR g 3 9 d (m.setWidth 5) b 1 (fid.setWidth 5) comp false 0 0
  | .mfst g fid comp d m b => packR g 3 9 d (m.setWidth 5) b 2 (fid.setWidth 5) comp false 0 0
  | .medge g d m b c => packR g 3 9 d (m.setWidth 5) b 3 c 0 false 0 0
  | .mstar g kind h m b => packR g 3 10 (h.setWidth 5) (m.setWidth 5) b 0 0 kind false 0 0
  | .mvalid g d m b => packR g 3 10 (d.setWidth 5) (m.setWidth 5) b 1 0 0 false 0 0
  | .msplit g m d a b c => packR g 3 11 d a b 0 c (m.setWidth 3) true 0 0
  | .msplitC g m d a b c => packR g 3 11 d a b 1 c (m.setWidth 3) true 0 0
  | .msplitX g m d a b c => packR g 3 11 d a b 2 c (m.setWidth 3) true 0 0
  | .mcoll g m v1 d a c => packR g 3 12 d a 0 0 c (ofB v1 ++ m) true 0 0
  | .mcollC g m v1 d a c => packR g 3 12 d a 0 1 c (ofB v1 ++ m) true 0 0
  | .mcollX g m v1 d a c => packR g 3 12 d a 0 2 c (ofB v1 ++ m) true 0 0
  | .mflip g m d a c => packR g 3 13 d a 0 0 c (m.setWidth 3) true 0 0
  | .mflipC g m d a c => packR g 3 13 d a 0 1 c (m.setWidth 3) true 0 0
  | .mflipX g m d a c => packR g 3 13 d a 0 2 c (m.setWidth 3) true 0 0
  | .mrefine g m d a b c => packR g 3 14 d a b 0 c (m.setWidth 3) true 0 0
  | .mrefineC g m d a b c => packR g 3 14 d a b 1 c (m.setWidth 3) true 0 0
  | .mrefineX g m d a b c => packR g 3 14 d a b 2 c (m.setWidth 3) true 0 0
  | .trap g a => packR g 3 15 0 a 0 0 0 0 false 0 0
  | .eret => packR .always 3 15 0 0 0 1 0 0 false 0 0
  | .uret => packR .always 3 15 0 0 0 2 0 0 false 0 0
  | .mfc g d cr => packC g 16 d cr
  | .mtc g d cr => packC g 17 d cr
  | .sleep g d a b => packR g 3 18 (d.setWidth 5) a b 0 0 0 false 0 0
  | .wake g a => packR g 3 18 0 a 0 1 0 0 false 0 0
  | .launch g d a b => packR g 3 18 (d.setWidth 5) a b 2 0 0 false 0 0
  | .cancel g a => packR g 3 18 0 a 0 3 0 0 false 0 0
  | .rdcnt g d n => packR g 3 19 d 0 0 0 (n.setWidth 5) 0 false 0 0
  | _ => .bare 0

/-- The halfwords of the parts in the order G, X, W, MO, MR, K…K, base (R96). -/
def Raw.words (r : Raw) : List Half :=
  let one (kind : BitVec 3) (p : Option (BitVec 8)) : List Half := (p.map fun v => 0x1F#5 ++ kind ++ v).toList
  one 4 r.g ++ one 1 r.x ++ one 5 r.w ++ one 2 r.mo ++ one 3 r.mr ++ r.ks.map (fun v => 0x1F#5 ++ 0#3 ++ v) ++ [r.base]

/-- The words of a well-formed instruction. -/
def encode (i : Instr) : List Half := i.raw.words

/-- The halfwords of a table row's word: the table numbers the row's LAST halfword from bit 0, so the first stands highest. -/
def tableHalves (nbits w : Nat) : List Half :=
  ((List.range ((nbits + 15) / 16)).map fun k => BitVec.ofNat 16 (w >>> (16 * k))).reverse

/-- The instruction the decoder reads from a table row's bits, followed by halfwords of zeros. -/
def decodeTableWord (nbits w : Nat) : Option Instr :=
  (decode (tableHalves nbits w ++ [0, 0, 0, 0, 0])).map (·.1)

end Sys2Proof
end

