-- ==== Sys2Proof/Machine/SMap.lean ====
section
/-! DEFINITION. Sparse maps with Nat keys, sets of Nats, and a sparse byte store in canonical form. -/

namespace Sys2Proof.Machine

/-- A sparse map: pairs of key and value. A key that is not listed has the default its reader names. -/
abbrev SMap (α : Type) := List (Nat × α)

/-- The value listed first for `k`. -/
def smapGet? {α : Type} : SMap α → Nat → Option α
  | [], _ => none
  | (k', v) :: t, k => if k' = k then some v else smapGet? t k

/-- `k` now maps to `v`; keys stay in rising order. -/
def smapSet {α : Type} : SMap α → Nat → α → SMap α
  | [], k, v => [(k, v)]
  | (k', v') :: t, k, v =>
    if k' = k then (k, v) :: t
    else if k < k' then (k, v) :: (k', v') :: t
    else (k', v') :: smapSet t k v

/-- `k` is listed no more. -/
def smapErase {α : Type} (m : SMap α) (k : Nat) : SMap α := m.filter fun e => e.1 != k

/-- The sparse byte store: an address that is not listed reads 0 (log entry 2). -/
abbrev Bytes := List (Nat × Byte)

/-- One byte. -/
def bytesGet (m : Bytes) (a : Nat) : Byte := (smapGet? m a).getD 0

/-- Writes one byte and keeps the canonical form: no listed byte is 0. -/
def bytesSet (m : Bytes) (a : Nat) (b : Byte) : Bytes :=
  if b = 0 then smapErase m a else smapSet m a b

/-- `n` bytes from `a`, little-endian (R8), as a number. -/
def bytesRead (m : Bytes) (a : Nat) : Nat → Nat
  | 0 => 0
  | n + 1 => (bytesGet m a).toNat + 256 * bytesRead m (a + 1) n

/-- Bytes as a little-endian number. -/
def leBytes : List Byte → Nat
  | [] => 0
  | b :: t => b.toNat + 256 * leBytes t

/-- Writes the low `n` bytes of `v` from `a`, little-endian. -/
def bytesWrite (m : Bytes) (a : Nat) : Nat → Nat → Bytes
  | 0, _ => m
  | n + 1, v => bytesWrite (bytesSet m a (BitVec.ofNat 8 v)) (a + 1) n (v / 256)

/-- The canonical form of the byte store: addresses strictly rising and no listed byte 0. -/
def bytesWf (m : Bytes) : Bool :=
  (m.map (·.1)).Pairwise (· < ·) && m.all fun e => e.2 != 0

/-- A set of Nats: strictly rising. -/
abbrev NatSet := List Nat

/-- Adds `n`. -/
def setInsert : NatSet → Nat → NatSet
  | [], n => [n]
  | h :: t, n => if h = n then h :: t else if n < h then n :: h :: t else h :: setInsert t n

/-- Removes `n`. -/
def setErase (s : NatSet) (n : Nat) : NatSet := s.filter (· != n)

/-- Puts `x` before the first element that `le` does not place before it. -/
def insertBy {α : Type} (le : α → α → Bool) (x : α) : List α → List α
  | [] => [x]
  | y :: t => if le x y then x :: y :: t else y :: insertBy le x t

/-- The list in the order of `le`; elements that `le` holds equal keep their order. -/
def sortBy {α : Type} (le : α → α → Bool) (l : List α) : List α := l.foldr (insertBy le) []

end Sys2Proof.Machine
end

