-- ==== Sys2Proof/Machine/State.lean ====
section
/-! DEFINITION. The state of one device, as plain data, with its peers as far as this device can see them. -/

namespace Sys2Proof.Machine

/-- How a step may stop the whole model. -/
inductive Fault where
  /-- Raised by `step` after a thermal trip (R429): every master is frozen and the module has stopped. Safe. -/
  | moduleStopped
  deriving DecidableEq, Repr

/-- What the model turns away. -/
inductive Refusal where
  /-- An instruction whose arm in Dispatch.lean has no meaning yet. Raised by `exec`. Safe. -/
  | notModelled (mnemonic : String)
  deriving DecidableEq, Repr

/-- An open strand (R195, R196; ring strands R235): the descriptor, the position, and for a ring its list of handles. -/
structure Strand where
  base   : Word
  pos    : BitVec 32
  fin    : BitVec 32
  stride : BitVec 32
  fmt    : BitVec 4
  loc    : Bool
  ring   : Bool
  list   : List W32
  deriving DecidableEq, Repr

/-- What a waiting context waits for (R12). -/
inductive Cond where
  /-- `lds`: the scratchpad word at this physical address is full -/
  | wordFull (pa : Nat)
  /-- `hwait`: these helpers are free, and what they queued has executed -/
  | helpers (mask : BitVec 11)
  /-- `bwait`: the barrier object at this physical address has left this phase or is broken -/
  | barrier (space : Nat) (pa : Nat) (phase : BitVec 32)
  /-- `rfin`: the object at this physical address is done -/
  | done (space : Nat) (pa : Nat)
  /-- `sleep`: a word, a deadline, a pending wake -/
  | sleep (word : Option Nat) (deadline : BitVec 64)
  /-- the core's vector queue has room, or writes a mask register no more -/
  | queueRoom
  | maskWritten (k : BitVec 3)
  /-- `mfc` and `mtc`: the control register may be read or written -/
  | register (cr : BitVec 8) (write : Bool)
  /-- `gang` offered and not yet started -/
  | gang
  /-- `step` issued and not yet released; true for `step.cable` -/
  | wired (cable : Bool)
  /-- `retire` of context 0: helpers, queue, commands -/
  | retire
  /-- `retire` of a helper: the replies of its loads -/
  | replies
  /-- what the context queued has executed -/
  | queued
  /-- the core's stores are performed; `released`: and the updates of its writes applied -/
  | performed
  | released
  /-- updates of this core's writes not yet applied, or those of one incoming entry, with the address after the `unsub` -/
  | updates
  | entryDrained (entry : Nat) (next : Word)
  /-- an access of the own scratchpad waits for the queue, the row array or the table (R38, R163, R171) -/
  | scratch (write : Bool) (w off size : Nat)
  /-- a cable value of the selected source is not yet decided -/
  | cable
  /-- a half of this line is on its way from the host, or is being recalled from it (R393, R397); or a walk lets a store to it go first -/
  | host (line : Nat)
  /-- the same for the fetch of an instruction, which has not been issued yet -/
  | fetching (line : Nat)
  /-- the other copies of this line are being invalidated before a write of it is granted (R391) -/
  | grant (line : Nat)
  /-- what the context issued before an instruction that faults has not yet taken its full effect (R356) -/
  | earlier
  /-- a fault of a cable step, held until its end (R289) -/
  | held (code : Nat) (addr info : Word)
  deriving DecidableEq, Repr

/-- The states of a context (R11). -/
inductive CtxState where
  | free | ready | waiting (c : Cond) | quiesced
  deriving DecidableEq, Repr

/-- A register that a reply writes. -/
inductive Dest where
  | s (r : BitVec 5) | a (r : BitVec 4) | none
  deriving DecidableEq, Repr

/-- A load reply on its way (R12): where it goes, the value bound, the flags it carries (R185), and the page-table and bitmap lines with
which the access was translated and checked (R383, R388). -/
structure Reply where
  dest  : Dest
  value : BitVec 128
  flags : BitVec 6
  lines : List Nat
  deriving DecidableEq, Repr

/-- One hardware context (R11, R17, R358). -/
structure Context where
  s       : Vector Word 32
  p       : Vector Bool 8
  a       : Vector CapBits 16
  h       : Vector (Option Strand) 16
  pc      : Word
  fflags  : BitVec 6
  epc     : Word
  ecause  : Word
  eaddr   : Word
  einfo   : Word
  uvec    : Word
  uframe  : Word
  sys     : Bool
  st      : CtxState
  wake    : Bool
  issued  : Word
  waited  : Word
  replies : List Reply
  /-- contexts that were ready at this context's `yield` and have not issued since (R128) -/
  yielded : List Nat
  /-- the instruction at the pc has been issued and is to be issued again: no event comes before it (R364) -/
  inHand  : Bool
  /-- the register that its last scratchpad load writes, with the core's cycle of that load (R15) -/
  loaded  : Option (BitVec 5 × Word)
  /-- the host's answer that its access waited for was lost with the link (R422) -/
  linkLost : Bool
  deriving DecidableEq, Repr

/-- An MCB snapshot in a mesh slot and the capability it was read through (R229). -/
structure Slot where
  mcb : Bytes
  cap : CapBits
  deriving DecidableEq, Repr

/-- A tile register (R18): elements and their status bits [0] valid, [1] dirty, [2] in-flight. An element beyond the list is 0. -/
structure TileReg where
  data : List W32
  st   : List (BitVec 3)
  deriving DecidableEq, Repr

/-- What a queued instruction captures on entry (R142). -/
structure Captured where
  ctx   : Nat
  shape : BitVec 8
  zero  : Bool
  half  : Bool
  rcp   : W32
  deriving DecidableEq, Repr

/-- The element-wise binary operations (R146, R148). -/
inductive VBin where
  | add | sub | mul | min | max | and | or | xor | shl | shr
  deriving DecidableEq, Repr

/-- What stands in the vector queue: the operation with its scalars already read (R142). -/
inductive VOp where
  | bin (op : VBin) (mo : BitVec 6) (mr : BitVec 8) (ty : BitVec 2) (d a b : BitVec 5) (k : BitVec 3)
  | fma (mo : BitVec 6) (mr : BitVec 8) (d a b c : BitVec 5) (k : BitVec 3)
  | rot (d a : BitVec 5) (n : Word) (k : BitVec 3)
  | perm (d a b : BitVec 5) (k : BitVec 3)
  | trans (d a : BitVec 5) (k : BitVec 3)
  | cmp (mo : BitVec 6) (cond : BitVec 5) (d : BitVec 3) (a b : BitVec 5)
  | sel (d a b : BitVec 5) (k : BitVec 3)
  | kbin (op : VBin) (d a b : BitVec 3)
  | knot (d a : BitVec 3)
  | kpop (d : BitVec 5) (a : BitVec 3)
  | mov (d a : BitVec 5) (k : BitVec 3)
  | bcast (d : BitVec 5) (x : W32) (k : BitVec 3)
  | ext (sx : Bool) (d a : BitVec 5) (i : Word)
  | ins (d : BitVec 5) (x : W32) (i : Word)
  | cvt (mr : BitVec 8) (fr tgt : BitVec 2) (d a : BitVec 5) (k : BitVec 3)
  | narrow (rnd fmt : BitVec 2) (nosat : Bool) (d a : BitVec 5) (k : BitVec 3)
  | red (mo : BitVec 6) (mr : BitVec 8) (op ty : BitVec 2) (d a : BitVec 5) (k : BitVec 3)
  | scan (mo : BitVec 6) (mr : BitVec 8) (op ty : BitVec 2) (d a : BitVec 5) (k : BitVec 3)
  | tbl (half : BitVec 2) (a : BitVec 5)
  | sf (mr : BitVec 8) (fn : BitVec 3) (d a : BitVec 5) (k : BitVec 3)
  | ld (code bcast : Bool) (rs : BitVec 3) (d : BitVec 5) (addr : Word) (k : BitVec 3)
  | st (mr : BitVec 8) (code : Bool) (rs : BitVec 3) (d : BitVec 5) (addr : Word) (k : BitVec 3)
  | sgetv (d : BitVec 5) (strand : Strand) (row : BitVec 4)
  | gang (word : Word) (next : Word)
  | mldb (src dst len : Word)
  | mstc (addr : Word)
  | mzc
  | ecfg (word : Word)
  | tsave (t : BitVec 1) (addr : Word)
  | trest (t : BitVec 1) (addr : Word)
  deriving DecidableEq, Repr

/-- One entry of the vector queue, with a number that rises with the order of entry. -/
structure VEntry where
  id  : Nat
  op  : VOp
  cap : Captured
  deriving DecidableEq, Repr

/-- The states of an incoming subscription entry (R291). -/
inductive SubSt where
  | free | live | redirected | draining | lapsed
  deriving DecidableEq, Repr

/-- An incoming subscription entry (R218, R219): publisher core and offset, subscriber offset, length, SETFULL. -/
structure Incoming where
  st      : SubSt
  pub     : Nat
  pubOff  : Nat
  loc     : Nat
  len     : Nat
  setfull : Bool
  deriving DecidableEq, Repr

/-- Where the updates of a subscription go: the scratchpad of a core, or the image of a saved unit (launch, unit) (R291). -/
inductive SubRef where
  | core (g : Nat)
  | image (launch unit : Nat)
  deriving DecidableEq, Repr

/-- An outgoing entry at the publisher's NI: the subscriber and its entry, the published region, and the saved unit of the
publisher's core to which the entry stays bound while it is suspended (R219, R291, R405). -/
structure Outgoing where
  sub   : SubRef
  entry : Nat
  off   : Nat
  len   : Nat
  susp  : Option (Nat × Nat)
  deriving DecidableEq, Repr

/-- Written bytes on their way along an entry (R220): the subscriber and entry, the offset in the region and the bytes; the number of
release fences of the publisher before them (R320), and the core that wrote them (R286). -/
structure Flit where
  sub    : SubRef
  entry  : Nat
  off    : Nat
  bytes  : List Byte
  closed : Bool
  epoch  : Nat
  writer : Nat
  deriving DecidableEq, Repr

/-- The unit a core holds (R28, R126). -/
structure Placed where
  launch  : Nat
  unit    : Nat
  helpers : Nat
  deriving DecidableEq, Repr

/-- One value sent on a core's transmit wire: the cycle of the cable step and the value (R216). -/
structure Wire where
  cycle : Nat
  value : Word
  deriving DecidableEq, Repr

/-- A line of the L1 instruction cache (R194, R261): the line of memory that it was fetched from, and its 64 halfwords, without those of a
half of a host-homed line that was not asked for (R393). -/
structure ILine where
  src  : Nat
  data : List (Option Half)
  deriving DecidableEq, Repr

/-- One core: what its contexts share (R17, R19), its queue, its unit and its subscriptions. -/
structure Core where
  ctxs     : SMap Context
  v        : Vector (List W32) 32
  k        : Vector (BitVec 256) 8
  m        : Vector (Option Slot) 4
  t0       : TileReg
  t1       : TileReg
  recovery : Bool
  shape    : BitVec 8
  zero     : Bool
  weight   : BitVec 4
  scale    : Word
  half     : Bool
  nmono0   : Bool
  nmono1   : Bool
  table    : List (BitVec 18)
  cfg      : Word
  shadow   : Word
  tvec     : Word
  splo     : BitVec 18
  sphi     : BitVec 18
  part     : BitVec 4
  svcpart  : Word
  inHandler : Bool
  stopped  : Bool
  vq       : List VEntry
  last     : Nat
  cycles   : Word
  vqbusy   : Word
  /-- the uses of lane groups over the last 1,024 cycles (R23): the beat in which they were bound, their number, the cycles they run -/
  laneUse  : List (Nat × Nat × Nat)
  /-- the beat in which the queue head began to wait for lane groups (R23) -/
  laneWait : Option Nat
  unit     : Option Placed
  lastHeld : Option Nat
  /-- the unit is ending: ERR bits and FCODE of its report (R360) -/
  ending   : Option (BitVec 16 × Nat)
  frozen   : Bool
  inc      : SMap Incoming
  out      : List Outgoing
  flits    : List Flit
  lapse    : BitVec 16
  wires    : List Wire
  sel      : Option Nat
  /-- cycles of the cable step that context 0 has used, and the register that its last instruction loaded (R15, R215) -/
  cable    : Nat
  loaded   : Option (BitVec 5)
  /-- the saver has stopped the contexts (R365) -/
  saving   : Bool
  /-- tags freed by this core whose `free` may still await its completion point (R388) -/
  freed    : NatSet
  /-- release fences so far, which order updates of different entries (R320) -/
  epoch    : Nat
  /-- the L1 instruction cache (R194, R261, R383), by context × 2^60 + the address of the line as the context fetched it -/
  icache   : SMap ILine
  deriving DecidableEq, Repr

/-- A row-array operation (R169, R170): lead and participants, with the configuration and table half it captured, and the
number of the lead's queue entry; `gangs` are the contexts whose `gang`s started it, with the numbers of their entries; `due` is the
cycle S of the lead's core before which it does not start. -/
structure RowOp where
  id    : Nat
  lead  : Nat
  ctx   : Nat
  parts : BitVec 4
  cfg   : Word
  half  : Bool
  gangs : List (Nat × Nat × Nat)
  due   : Word
  deriving DecidableEq, Repr

/-- One row of four cores: the matched operation that waits, the one that runs, the launch that last held the row, whether a `mldb` found
the row no longer held, and the cores whose `gang` waited when a unit left the row and is to fault (R165 to R170). A `gang` is offered while it stands at the head of its core's queue. -/
structure Row where
  matched : Option RowOp
  running : Option RowOp
  lastHeld : Option Nat
  broken  : Bool
  left    : List Nat
  deriving DecidableEq, Repr

/-- The kinds of engine command (R197). -/
inductive EngKind where
  | send | fetch | gath | scat
  deriving DecidableEq, Repr

/-- Where an engine command stands (R279, R281): waiting for a slot, moving data, stalled on a translation fault (FCODE, address,
level, write, on BAR, entry of the request ring), done but for its record, or of a frozen master (R203). -/
inductive EngSt where
  | waiting | active
  | stalled (code va level : Nat) (wr bar : Bool) (asked : Option Nat)
  | finishing | frozen
  deriving DecidableEq, Repr

/-- A command in a tile's engine queue (R199 to R209). `next` is the first byte (copies) or element not yet done, `count` the
elements that did not fail, `delivered` and `barred` the bytes delivered and subtracted from the barrier, `first`, `level` and
`fcode` the first failure, `endCode` an early end, `noBar` that the barrier cannot be reached. The index list and the data of a
`scat` are read at issue (R200); `bad` are the elements whose index (true) or data (false) is poisoned there (R207). -/
structure Cmd where
  id     : Nat
  core   : Nat
  ctx    : Nat
  unit   : Option Placed
  part   : Nat
  shared : Bool
  kind   : EngKind
  src    : Word
  dst    : Word
  srcl   : Bool
  dstl   : Bool
  bytes  : Nat
  caps   : List CapBits
  fill   : Word
  esz    : Bool
  idx    : List W32
  words  : List Word
  bad    : List (Nat × Bool)
  data   : Nat
  tag    : BitVec 16
  cslot  : Nat
  bare   : Bool
  bar    : Nat
  st     : EngSt
  stalledOnce : Bool
  next   : Nat
  count  : Nat
  delivered : Nat
  barred : Nat
  first  : Option Nat
  level  : Nat
  fcode  : Nat
  endCode : Option Nat
  noBar  : Bool
  /-- HEAD of the request ring when the append of its stall was refused (R371) -/
  head   : Option Nat
  /-- the host-homed line whose half it waits for, and whether the answer was lost with the link (R422) -/
  hostWait : Option Nat
  linkLost : Bool
  deriving DecidableEq, Repr

/-- A live lease (R189): its frame range, ways and end in TIME, with the lines pinned under it, the most recent last (R268). -/
structure Lease where
  id     : Nat
  lo     : Nat
  hi     : Nat
  ways   : Nat
  expiry : Nat
  pinned : List Nat
  deriving DecidableEq, Repr

/-- The state of one partition beside its table entry: slab classes, tags, frame pools, leases, freezing (R191, R385, R189, R263). -/
structure PartState where
  slabs    : SMap (List Nat)
  nextTag  : Nat
  pools    : SMap (List Nat)
  leases   : List Lease
  quiesced : Bool
  /-- KIND 2 and 3 requests already made since the pool or class became empty (R371) -/
  asked    : NatSet
  /-- the invalid unit-environment block has been reported, and has not been valid since (R348) -/
  envTold  : Bool
  deriving DecidableEq, Repr

/-- The steps of a launch region (R213). -/
inductive StepKind where
  | compute | exchange | cable
  deriving DecidableEq, Repr

/-- Where a unit stands: not started, running on a core, saved in an image (with the core it left, unless that is lost: it is bound to it
while entries of that core are suspended for it, R405), ended. -/
inductive UnitSt where
  | pending | running (core : Nat) | saved (image : Nat) (left : Option Nat) | ended
  deriving DecidableEq, Repr

/-- One unit of a launch: its stack slot, the tile that it reports through (R340), a number that rises with the order of placement
(R352), and while it is saved what its image holds in no stated form or not at all: incoming entries, states of the contexts,
counters (R260, R366). -/
structure Unit1 where
  idx   : Nat
  st    : UnitSt
  stack : Option Nat
  tile  : Option Nat
  placed : Nat
  kept  : Option Core
  /-- poisoned words of its saved scratchpad, by offset (R414) -/
  poison : NatSet
  deriving DecidableEq, Repr

/-- A context 0 that has issued its `step` (R214): the core, the cable form, the pc of the `step` and of the next instruction, and
the first number of a later command or queue entry. -/
structure Arrival where
  core  : Nat
  cable : Bool
  pc    : Word
  next  : Word
  mark  : Nat
  deriving DecidableEq, Repr

/-- Where a launch stands (R342, R343, R347). -/
inductive LaunchSt where
  | held | placed | done
  deriving DecidableEq, Repr

/-- A dequeued launch (R341 to R347). -/
structure Launch where
  id      : Nat
  part    : Nat
  prio    : Nat
  recVA   : Nat
  entry   : Nat
  across  : Nat
  down    : Nat
  percore : Nat
  vsw     : BitVec 4
  helpers : Nat
  swm1    : Nat
  wave    : Bool
  place   : Bool
  arg     : CapBits
  preds   : List (Nat × BitVec 32 × Bool)
  st      : LaunchSt
  eligible : Option Nat
  aged    : Bool
  cancelled : Bool
  origin  : Option Nat
  units   : List Unit1
  stepK   : StepKind
  arrived : List Arrival
  /-- a `step` was released and no unit has issued since (R287) -/
  atRelease : Bool
  deriving DecidableEq, Repr

/-- A word of the completion tree (R340) that has reached node `tile`: launch, ERR, COUNT, FCODE. -/
structure TreeWord where
  launch : Nat
  tile   : Nat
  err    : BitVec 16
  count  : Nat
  fcode  : Nat
  deriving DecidableEq, Repr

/-- A tile's power: gated or not, and since when (in ns) it has held no unit (R350). -/
structure Tile where
  gated : Bool
  idle  : Nat
  deriving DecidableEq, Repr

/-- A directory entry (R264, R390): the owner with its state, the sharers, the home's own copy while an owner holds the line dirty,
the mirror entry (R416), the acknowledgements awaited (R382), and the cores whose stores await them. A host-homed line has an entry for
each 64-byte half, since its halves are independent (R392). -/
structure DirEntry where
  line    : Nat
  owner   : Option (CacheAgent × Moesi)
  sharers : List CacheAgent
  home    : Option (List Byte)
  mirror  : Option (List Byte)
  awaited : List CacheAgent
  takeover : Bool
  writers : List Nat
  /-- cores whose stores have asked for the line and are not made yet (R391) -/
  claims  : List Nat
  /-- TIME when the first of the acknowledgements awaited was asked for (R402) -/
  asked   : Word
  deriving DecidableEq, Repr

/-- An entry of a translation cache (R379, R381): the agent and partition, the page [va, va + size) of the device's own addresses, the
leaf with its level and address, and the page-table lines it derives from. -/
structure Xlat where
  agent : CacheAgent
  part  : Nat
  va    : Nat
  size  : Nat
  lvl   : Nat
  pa    : Nat
  leaf  : Nat
  lines : List Nat
  deriving DecidableEq, Repr

/-- A line of the revocation bitmap that a tile's revocation cache holds (R55, R388). -/
structure Rev where
  tile  : Nat
  line  : Nat
  bytes : List Byte
  deriving DecidableEq, Repr

/-- What the caches hold beside the directory: translations, bitmap lines, the pinned lines in order of use (R268), the dirty lines in
the order in which they were last dirtied (R418), the latest last, and the lines that are dirty towards HBM in their home slice (R416). -/
structure Caches where
  xlat    : List Xlat
  revs    : List Rev
  pinUse  : List Nat
  dirtied : List Nat
  l2dirty : NatSet
  deriving DecidableEq, Repr

/-- CXL.cache states of a half (R392). -/
inductive HalfSt where
  | i | s | e | m
  deriving DecidableEq, Repr

/-- The bridge's states of the two halves of a host-homed line, with outstanding requests (true for RdOwn) (R392, R393). -/
structure Bridge where
  line : Nat
  h0   : HalfSt
  h1   : HalfSt
  req0 : Option Bool
  req1 : Option Bool
  deriving DecidableEq, Repr

/-- The halves of a device line that the host holds (R397), with back-invalidations outstanding, and TIME when the first of them was
sent (R399). -/
structure HostHeld where
  line  : Nat
  ld    : Nat
  h0    : HalfSt
  h1    : HalfSt
  bi0   : Bool
  bi1   : Bool
  asked : Word
  deriving DecidableEq, Repr

/-- The answers to a snoop of a half (R394). -/
inductive SnoopResp where
  | iFwdM | iHitSE | sFwdM | sHitSE | vFwdV | iHitI
  deriving DecidableEq, Repr

/-- What a port sends back to a host or a peer: the value of a read, the end of a write, a poisoned completion, a fault code, or the answer
to a snoop of the half at an address with the data that goes along (R380, R394, R397, R399, R413). -/
inductive PortMsg where
  | value (addr size v : Nat)
  | done (addr : Nat)
  | poison (addr : Nat)
  | fault (addr code : Nat)
  | snoop (addr : Nat) (resp : SnoopResp) (data : Option Nat)
  deriving DecidableEq, Repr

/-- Link and freeze state of a logical device, its owner codes, pending events and rings (R403, R404, R422 to R425). -/
structure LogDev where
  portsUp  : List Nat
  down     : Bool
  frozen   : Bool
  owners   : SMap (BitVec 2)
  pending  : List (Nat × BitVec 2)
  ringHead : Nat
  msix     : List Nat
  /-- host addresses of halves in quarantine or lost (R424) -/
  quarantined : NatSet
  /-- what its port has sent to the host, the latest last -/
  answers  : List PortMsg
  deriving DecidableEq, Repr

/-- What the partition of a peer device gives to one of our partitions that it accepts (R380): the root table, HBM ranges, tiles and
host-memory window. -/
structure Binding where
  part   : Nat
  ttbase : Nat
  hbm    : List (Nat × Nat)
  tiles  : List Nat
  hostLo : Nat
  hostSize : Nat
  deriving DecidableEq, Repr

/-- A peer device of the domain (R380, R400): its memory and poison, and the partitions of it that accept ours. -/
structure Peer where
  bytes  : Bytes
  full   : NatSet
  poison : NatSet
  bound  : List Binding
  pools  : SMap (List Nat)
  refused : Bool
  /-- what the fabric NI has sent to it, the latest last -/
  answers : List PortMsg
  deriving DecidableEq, Repr

/-- Clock points and handshake of a stack (R427): the point in force in MHz, the point requested, while new `step.cable` and `gang`
starts are held, and whether the control plane has acknowledged. -/
structure Clock where
  mhz   : Nat
  req   : Option Nat
  acked : Bool
  deriving DecidableEq, Repr

/-- The reports of the fault mailbox (R3). -/
inductive Report where
  | violation (master : Nat)
  | hostViolation (ld : Nat)
  | peerViolation (dev : Nat)
  | poison (pa : Nat)
  | drop (part : Nat)
  | counter (part : Nat)
  | envBlock (part : Nat)
  | unitFault (core : Nat) (code : Nat)
  | avlyn (n : Nat)
  | stack (n : Nat)
  | link (ld : Nat)
  | error (n : Nat)
  | thermal
  deriving DecidableEq, Repr

/-- The telemetry counters of R430, each by the thing it is kept per: array × 8 + stack, partition, cache node, stack, logical
device, sensor. -/
structure Telemetry where
  cecount   : SMap Nat
  uecount   : SMap Nat
  poisoned  : SMap Nat
  pinbypass : SMap Nat
  mirwb     : SMap Nat
  takeover  : SMap Nat
  linkdn    : SMap Nat
  power     : SMap Nat
  temp      : SMap Nat
  deriving DecidableEq, Repr

/-- The answers of the SPDM endpoint (R433). -/
inductive SpdmAnswer where
  | version (list : List Nat)
  | capabilities (secureSessions : Bool)
  | algorithms (ok : Bool)
  | digests (d : BitVec 256)
  | certificate (chain : List Byte)
  | challengeAuth (sig : Nat)
  | measurements (index : Nat) (value : BitVec 256) (sig : Nat)
  | error
  deriving DecidableEq, Repr

/-- Firmware and attestation (R431 to R433). -/
structure Firmware where
  flash    : Option Image
  recovery : Bool
  measured : SMap (BitVec 256)
  versionDone : Bool
  algsDone : Bool
  answers  : List SpdmAnswer
  /-- how far bring-up has come (R434): 0 before power-on, 7 when launch queues are accepted -/
  stage    : Nat
  deriving DecidableEq, Repr

/-- The instruction in hand: the core and context that issue it, its address, its length in halfwords, its first halfword. -/
structure InHand where
  core : Nat
  ctx  : Nat
  pc   : Word
  len  : Nat
  hw   : BitVec 16
  deriving DecidableEq, Repr

/-- The physical memory of this device (R373): HBM, scratchpads and host memory in one map of bytes, the full scratchpad words
(physical addresses), and the poisoned units: first bytes of lines, and of scratchpad words. -/
structure Phys where
  bytes  : Bytes
  full   : NatSet
  poison : NatSet
  deriving DecidableEq, Repr

/-- The state of the machine. -/
structure State where
  mem      : Phys
  sram     : Bytes
  cores    : SMap Core
  rows     : SMap Row
  cmds     : List Cmd
  lastServed : SMap Nat
  parts    : SMap Partition
  pstate   : SMap PartState
  device   : BitVec 9
  launches : List Launch
  tree     : List TreeWord
  tiles    : SMap Tile
  mailbox  : List Report
  time     : Word
  dir      : List DirEntry
  caches   : Caches
  bridge   : List Bridge
  hostHeld : List HostHeld
  lds      : SMap LogDev
  peers    : SMap Peer
  clocks   : SMap Clock
  watts    : Nat
  stopped  : Bool
  removed  : NatSet
  telemetry : Telemetry
  fw       : Firmware
  hand     : InHand
  agenda   : List Instr
  /-- requests of hosts and peers to scratchpads in a cable step, held until its end (R289) -/
  heldBus  : List Instr
  devTurn  : Bool
  turn     : Nat
  /-- the cycles of the device clock since reset (R23) -/
  beat     : Nat
  pace     : List Nat
  fresh    : Nat
  nextId   : Nat
  deriving DecidableEq, Repr

/-- A context that holds no unit. The register values are those of R28, except s1 and s2 (log entry 1). -/
def Context.reset : Context where
  s := Vector.replicate 32 0
  p := Vector.replicate 8 true
  a := Vector.replicate 16 0
  h := Vector.replicate 16 none
  pc := 0
  fflags := 0
  epc := 0
  ecause := 0
  eaddr := 0
  einfo := 0
  uvec := 0
  uframe := 0
  sys := false
  st := .free
  wake := false
  issued := 0
  waited := 0
  replies := []
  yielded := []
  inHand := false
  loaded := none
  linkLost := false

/-- A tile register of zeros with no status bit set. -/
def TileReg.zero : TileReg := ⟨[], []⟩

/-- A core at reset: the reset values of R20 to R27, R37, R42, R47, R164, and the values of log entry 1. -/
def Core.reset : Core where
  ctxs := []
  v := Vector.replicate 32 []
  k := Vector.replicate 8 (BitVec.allOnes 256)
  m := Vector.replicate 4 none
  t0 := .zero
  t1 := .zero
  recovery := false
  shape := 0xFF
  zero := false
  weight := 1
  scale := 0
  half := false
  nmono0 := false
  nmono1 := false
  table := []
  cfg := 0
  shadow := 0
  tvec := 0
  splo := 0
  sphi := 0x20000
  part := 0
  svcpart := 0
  inHandler := false
  stopped := false
  vq := []
  last := 10
  cycles := 0
  vqbusy := 0
  laneUse := []
  laneWait := none
  unit := none
  lastHeld := none
  ending := none
  frozen := false
  inc := []
  out := []
  flits := []
  lapse := 0
  wires := []
  sel := none
  cable := 0
  loaded := none
  saving := false
  freed := []
  epoch := 0
  icache := []

/-- The machine right after reset: nothing placed, the partition table empty, memory all 0 (R28, R434). -/
def State.reset : State where
  mem := ⟨[], [], []⟩
  sram := []
  cores := []
  rows := []
  cmds := []
  lastServed := []
  parts := []
  pstate := []
  device := 0
  launches := []
  tree := []
  tiles := []
  mailbox := []
  time := 0
  dir := []
  caches := ⟨[], [], [], [], []⟩
  bridge := []
  hostHeld := []
  lds := []
  peers := []
  clocks := []
  watts := 3500
  stopped := false
  removed := []
  telemetry := ⟨[], [], [], [], [], [], [], [], []⟩
  fw := ⟨none, false, [], false, false, [], 0⟩
  hand := ⟨0, 0, 0, 1, 0⟩
  agenda := []
  heldBus := []
  devTurn := false
  turn := 0
  beat := 0
  pace := []
  fresh := 0
  nextId := 1

end Sys2Proof.Machine
end

