-- ==== Sys2Proof/Machine/Float.lean ====
section
/-! DEFINITION. Number formats and arithmetic (R30 to R52). Results are computed exactly, as rationals, and rounded once. -/

namespace Sys2Proof.Machine

/-- A binary floating-point format: widths of exponent and fraction (R30). -/
structure Fmt where
  ew : Nat
  fw : Nat
  deriving DecidableEq, Repr

def f64 : Fmt := ⟨11, 52⟩
def f32 : Fmt := ⟨8, 23⟩
def h16 : Fmt := ⟨5, 10⟩
def b16 : Fmt := ⟨8, 7⟩
def e8m10 : Fmt := ⟨8, 10⟩
def e8m15 : Fmt := ⟨8, 15⟩

/-- The bias. -/
def Fmt.bias (f : Fmt) : Nat := 2 ^ (f.ew - 1) - 1
/-- The bits of +∞. -/
def Fmt.inf (f : Fmt) : Nat := (2 ^ f.ew - 1) * 2 ^ f.fw
/-- The sign bit. -/
def Fmt.sign (f : Fmt) : Nat := 2 ^ (f.ew + f.fw)
/-- The canonical NaN (R32). -/
def Fmt.nan (f : Fmt) : Nat := f.inf + 2 ^ (f.fw - 1)
/-- The largest finite number. -/
def Fmt.max (f : Fmt) : Nat := f.inf - 1

/-- The flags of R42: SAT, NV, DZ, OF, UF, NX from bit 5 down. -/
abbrev FFlags := BitVec 6
def fSAT : FFlags := 0x20
def fNV : FFlags := 0x10
def fDZ : FFlags := 0x08
def fOF : FFlags := 0x04
def fUF : FFlags := 0x02
def fNX : FFlags := 0x01
/-- A flag raised when the condition holds. -/
def flagIf (c : Bool) (f : FFlags) : FFlags := if c then f else 0

/-- An operand: a NaN (signalling or not), an infinity, or ±num × 2^exp (R31). -/
inductive FVal where
  | nan (signalling : Bool)
  | inf (neg : Bool)
  | fin (neg : Bool) (num : Nat) (exp : Int)
  deriving DecidableEq, Repr

/-- An exact result: ±num/den with den > 0. -/
inductive Exact where
  | nan
  | inf (neg : Bool)
  | rat (neg : Bool) (num den : Nat)
  deriving DecidableEq, Repr

/-- The value of bits in a format (R31). -/
def unpack (f : Fmt) (bits : Nat) : FVal :=
  let neg := bits / f.sign % 2 == 1
  let e := bits / 2 ^ f.fw % 2 ^ f.ew
  let m := bits % 2 ^ f.fw
  if e = 2 ^ f.ew - 1 then
    if m = 0 then .inf neg else .nan (m < 2 ^ (f.fw - 1))
  else if e = 0 then .fin neg m (1 - (f.bias : Int) - f.fw)
  else .fin neg (2 ^ f.fw + m) ((e : Int) - f.bias - f.fw)

/-- ±num × 2^exp as a rational. -/
def ratOf (neg : Bool) (num : Nat) (exp : Int) : Exact :=
  if 0 ≤ exp then .rat neg (num * 2 ^ exp.toNat) 1 else .rat neg num (2 ^ (-exp).toNat)

/-- The exact value of an operand. -/
def FVal.exact : FVal → Exact
  | .nan _ => .nan
  | .inf n => .inf n
  | .fin n m e => ratOf n m e

/-- Whether an operand is a signalling NaN. -/
def FVal.isSNaN : FVal → Bool
  | .nan s => s
  | _ => false

/-- Whether an operand is a NaN. -/
def FVal.isNaN : FVal → Bool
  | .nan _ => true
  | _ => false

/-- The sign of an operand. -/
def FVal.neg : FVal → Bool
  | .nan _ => false
  | .inf n => n
  | .fin n .. => n

/-- Multiplication of an exact value by 2^k. -/
def Exact.scale (k : Int) : Exact → Exact
  | .rat n a b => if 0 ≤ k then .rat n (a * 2 ^ k.toNat) b else .rat n a (b * 2 ^ (-k).toNat)
  | x => x

/-- Whether the rounding mode rounds a magnitude up: `twice` compares twice the remainder with the unit. -/
def roundsUp (mode : BitVec 2) (neg odd : Bool) (rem unit : Nat) : Bool :=
  rem != 0 &&
    match mode.toNat with
    | 0 => unit < 2 * rem || (unit == 2 * rem && odd)
    | 1 => false
    | 2 => neg
    | _ => !neg

/-- num/den in units of 2^q, rounded to an integer: the integer and whether it is inexact. -/
def quantize (mode : BitVec 2) (neg : Bool) (num den : Nat) (q : Int) : Nat × Bool :=
  let n := if 0 ≤ q then num else num * 2 ^ (-q).toNat
  let d := if 0 ≤ q then den * 2 ^ q.toNat else den
  let m := n / d
  let r := n % d
  (if roundsUp mode neg (m % 2 == 1) r d then m + 1 else m, r != 0)

/-- floor(log2(num/den)) of a positive rational. -/
def ilog2 (num den : Nat) : Int :=
  let e : Int := (Nat.log2 num : Int) - Nat.log2 den
  if 0 ≤ e then (if den * 2 ^ e.toNat ≤ num then e else e - 1)
  else (if den ≤ num * 2 ^ (-e).toNat then e else e - 1)

/-- Round(x, fmt, mode) of R40 on a rational: bits and flags. Tininess is detected after rounding. -/
def roundRat (f : Fmt) (mode : BitVec 2) (neg : Bool) (num den : Nat) : Nat × FFlags :=
  let s := if neg then f.sign else 0
  if num = 0 then (s, 0)
  else
    let e := ilog2 num den
    let emin : Int := 1 - (f.bias : Int)
    let q := (if e < emin then emin else e) - f.fw
    let (m, inexact) := quantize mode neg num den q
    let mag := ((q + f.fw + f.bias).toNat - 1) * 2 ^ f.fw + m
    if f.inf ≤ mag then
      let toInf := match mode.toNat with
        | 0 => true
        | 1 => false
        | 2 => neg
        | _ => !neg
      (s + (if toInf then f.inf else f.max), fOF ||| fNX)
    else
      let tiny := e < emin && !(e + 1 == emin && (quantize mode neg num den (e - f.fw)).1 == 2 ^ (f.fw + 1))
      (s + mag, flagIf inexact fNX ||| flagIf (tiny && inexact) fUF)

/-- Round of an exact value. -/
def roundExact (f : Fmt) (mode : BitVec 2) : Exact → Nat × FFlags
  | .nan => (f.nan, 0)
  | .inf n => ((if n then f.sign else 0) + f.inf, 0)
  | .rat n a b => roundRat f mode n a b

/-- The SCALE field of an MR payload, −8 to 7 (R40). -/
def mrScale (mr : BitVec 8) : Int := (mr.extractLsb' 2 4).toInt

/-- The ROUND field of an MR payload. -/
def mrRound (mr : BitVec 8) : BitVec 2 := mr.setWidth 2

/-- The MODE field of an MR payload. -/
def mrMode (mr : BitVec 8) : BitVec 2 := mr.extractLsb' 6 2

/-- Whether bits are a NaN. -/
def Fmt.isNaN (f : Fmt) (bits : Nat) : Bool := f.inf < bits % f.sign

/-- The bits of 1. -/
def Fmt.one (f : Fmt) : Nat := f.bias * 2 ^ f.fw

/-- The result modes on a rounded floating-point result (R41). -/
def resultMode (f : Fmt) (mode : BitVec 2) (bits : Nat) : Nat :=
  let mag := bits % f.sign
  let neg := bits / f.sign == 1
  match mode.toNat with
  | 0 => bits
  | 1 => if mag = f.inf then bits - 1 else bits
  | 2 => if f.isNaN bits || neg then 0 else if f.one < mag then f.one else bits
  | _ => if f.isNaN bits then 0 else if f.one < mag then (if neg then f.sign else 0) + f.one else bits

/-- R40 and R41: scale, round once, result mode; SAT when the result mode changes the value. -/
def formResult (f : Fmt) (mr : BitVec 8) (x : Exact) (flags : FFlags) : Nat × FFlags :=
  let (b, fl) := roundExact f (mrRound mr) (x.scale (mrScale mr))
  let b' := resultMode f (mrMode mr) b
  (b', flags ||| fl ||| flagIf (b' != b) fSAT)

/-- The sum of two rationals; a zero of operands of opposite sign is +0, and −0 toward −∞ (IEEE 754). -/
def ratAdd (mode : BitVec 2) (n1 : Bool) (a1 b1 : Nat) (n2 : Bool) (a2 b2 : Nat) : Exact :=
  let x := a1 * b2
  let y := a2 * b1
  if n1 == n2 then .rat n1 (x + y) (b1 * b2)
  else if x = y then .rat (mode == 2) 0 1
  else if y < x then .rat n1 (x - y) (b1 * b2)
  else .rat n2 (y - x) (b1 * b2)

/-- The exact sum of exact values; true when the operation is invalid. -/
def exactAdd (mode : BitVec 2) : Exact → Exact → Exact × Bool
  | .nan, _ => (.nan, false)
  | _, .nan => (.nan, false)
  | .inf n, .inf m => if n == m then (.inf n, false) else (.nan, true)
  | .inf n, _ => (.inf n, false)
  | _, .inf m => (.inf m, false)
  | .rat n a b, .rat m c d => (ratAdd mode n a b m c d, false)

/-- The exact product; true when the operation is invalid. -/
def exactMul : Exact → Exact → Exact × Bool
  | .nan, _ => (.nan, false)
  | _, .nan => (.nan, false)
  | .inf n, .inf m => (.inf (n != m), false)
  | .inf n, .rat m c _ => if c = 0 then (.nan, true) else (.inf (n != m), false)
  | .rat n a _, .inf m => if a = 0 then (.nan, true) else (.inf (n != m), false)
  | .rat n a b, .rat m c d => (.rat (n != m) (a * c) (b * d), false)

/-- NV of signalling operands (R44). -/
def snan (l : List FVal) : FFlags := flagIf (l.any FVal.isSNaN) fNV

/-- a + b (R137). -/
def fpAdd (mode : BitVec 2) (a b : FVal) : Exact × FFlags :=
  let (x, bad) := exactAdd mode a.exact b.exact
  (x, snan [a, b] ||| flagIf bad fNV)

/-- The operand with its sign turned; a NaN stays as it is. -/
def FVal.flip : FVal → FVal
  | .nan s => .nan s
  | .inf n => .inf !n
  | .fin n m e => .fin (!n) m e

/-- a − b. -/
def fpSub (mode : BitVec 2) (a b : FVal) : Exact × FFlags := fpAdd mode a b.flip

/-- a × b. -/
def fpMul (a b : FVal) : Exact × FFlags :=
  let (x, bad) := exactMul a.exact b.exact
  (x, snan [a, b] ||| flagIf bad fNV)

/-- a ÷ b (R137). -/
def fpDiv (a b : FVal) : Exact × FFlags :=
  let fl := snan [a, b]
  match a.exact, b.exact with
  | .nan, _ => (.nan, fl)
  | _, .nan => (.nan, fl)
  | .inf _, .inf _ => (.nan, fl ||| fNV)
  | .inf n, .rat m _ _ => (.inf (n != m), fl)
  | .rat n _ _, .inf m => (.rat (n != m) 0 1, fl)
  | .rat n x y, .rat m z w =>
    if z = 0 then (if x = 0 then (.nan, fl ||| fNV) else (.inf (n != m), fl ||| fDZ))
    else (.rat (n != m) (x * w) (y * z), fl)

/-- a × b + c with no rounding between (R50): 0 × ∞ + c is invalid even when c is a quiet NaN. -/
def fpFma (mode : BitVec 2) (a b c : FVal) : Exact × FFlags :=
  let (p, bad) := exactMul a.exact b.exact
  let (x, bad') := exactAdd mode p c.exact
  (x, snan [a, b, c] ||| flagIf (bad || bad') fNV)

/-- Integer square root by bits: `n` steps from the bit 2^(n-1). -/
def isqrtGo (x : Nat) : Nat → Nat → Nat
  | 0, r => r
  | n + 1, r =>
    let r' := r + 2 ^ n
    isqrtGo x n (if r' * r' ≤ x then r' else r)

/-- floor(√x). -/
def isqrt (x : Nat) : Nat := isqrtGo x (Nat.log2 x / 2 + 1) 0

/-- The square root of a positive rational: exact when it is rational with these parts, otherwise a rational strictly between two
neighbours of a grid finer than any rounding boundary of the formats, on the same side of each of them. -/
def ratSqrt (num den : Nat) : Nat × Nat :=
  let p := 200 + Nat.log2 den
  let v := num * den * 4 ^ p
  let r := isqrt v
  if r * r = v then (r, den * 2 ^ p) else (2 * r + 1, den * 2 ^ (p + 1))

/-- √a (R138). -/
def fpSqrt (a : FVal) : Exact × FFlags :=
  match a.exact with
  | .nan => (.nan, snan [a])
  | .inf n => if n then (.nan, fNV) else (.inf false, 0)
  | .rat n x y => if x = 0 then (.rat n 0 1, 0) else if n then (.nan, fNV) else let (r, d) := ratSqrt x y; (.rat false r d, 0)

/-- The order of two exact values that are no NaN: −1, 0, 1 as an Int; −0 equals +0. -/
def exactCmp : Exact → Exact → Int
  | .nan, _ => 0
  | _, .nan => 0
  | .inf n, .inf m => if n == m then 0 else if n then -1 else 1
  | .inf n, _ => if n then -1 else 1
  | _, .inf m => if m then 1 else -1
  | .rat n a b, .rat m c d =>
    let x : Int := (if n then -1 else 1) * ((a * d : Nat) : Int)
    let y : Int := (if m then -1 else 1) * ((c * b : Nat) : Int)
    if x < y then -1 else if y < x then 1 else 0

/-- a = b, a < b, a ≤ b, unordered (R44, R140). -/
def fpCond (code : BitVec 2) (a b : FVal) : Bool × FFlags :=
  let un := a.isNaN || b.isNaN
  let c := exactCmp a.exact b.exact
  let r := match code.toNat with
    | 0 => !un && c == 0
    | 1 => !un && c == -1
    | 2 => !un && c != 1
    | _ => un
  (r, snan [a, b])

/-- Whether a counts as less than b for minimum and maximum: −0 is less than +0 (R44). -/
def fpLess (a b : FVal) : Bool :=
  let c := exactCmp a.exact b.exact
  c == -1 || (c == 0 && a.neg && !b.neg)

/-- Minimum (or maximum) of two operands (R44). -/
def fpMinMax (max : Bool) (a b : FVal) : Exact × FFlags :=
  let fl := snan [a, b]
  if a.isNaN && b.isNaN then (.nan, fl)
  else if a.isNaN then (b.exact, fl)
  else if b.isNaN then (a.exact, fl)
  else if fpLess a b == max then (b.exact, fl) else (a.exact, fl)

/-- The mask of `fclass` (R138). -/
def fpClass (f : Fmt) (bits : Nat) : Nat :=
  let sub := bits % f.sign < 2 ^ f.fw
  match unpack f bits with
  | .nan s => if s then 256 else 512
  | .inf n => if n then 1 else 128
  | .fin n m _ => if m = 0 then (if n then 8 else 16) else if sub then (if n then 4 else 32) else if n then 2 else 64

/-- A value rounded to an integer in [lo, hi] (R46). -/
def toInt (mode : BitVec 2) (lo hi : Int) (x : Exact) : Int × FFlags :=
  match x with
  | .nan => (0, fNV)
  | .inf n => (if n then lo else hi, fNV)
  | .rat n a b =>
    let (m, inexact) := quantize mode n a b 0
    let v : Int := if n then -(m : Int) else m
    if v < lo then (lo, fNV) else if hi < v then (hi, fNV) else (v, flagIf inexact fNX)

/-- An integer as an exact value. -/
def intExact (v : Int) : Exact := .rat (v < 0) v.natAbs 1

/-- Widen to a wider format: exact, a NaN becomes canonical (R33). -/
def widen (src dst : Fmt) (bits : Nat) : Nat := (roundExact dst 0 (unpack src bits).exact).1

/-! ### Narrow codes (R34 to R39) -/

/-- Entry j of half h of a decode table, as an e8m10 magnitude. -/
def tableMag (table : List (BitVec 18)) (half : Bool) (j : Nat) : Nat := ((table.getD ((if half then 128 else 0) + j) 0)).toNat

/-- Decode(code, q8) and, with `q6`, Decode(code, q6): e8m10 bits with the NaN canonical where it is used (R35). -/
def decodeCode (table : List (BitVec 18)) (half : Bool) (q6 : Bool) (code : Nat) : Nat :=
  let c := if q6 then (code / 32 % 2) * 128 + code % 32 * 4 else code
  (if c / 128 % 2 = 1 then e8m10.sign else 0) + tableMag table half (c % 128)

/-- The least index search of R39: `n` steps over [lo, hi]. -/
def encodeSearch (mag : Nat → Exact) (a : Exact) : Nat → Nat → Nat → Nat
  | 0, lo, _ => lo
  | n + 1, lo, hi =>
    let mid := (lo + hi + 1) / 2
    if mag mid != .nan && exactCmp (mag mid) a != 1 then encodeSearch mag a n mid hi else encodeSearch mag a n lo (mid - 1)

/-- The magnitude of an exact value. -/
def Exact.abs : Exact → Exact
  | .nan => .nan
  | .inf _ => .inf false
  | .rat _ a b => .rat false a b

/-- Whether an exact value is negative (a −0 included). -/
def Exact.isNeg : Exact → Bool
  | .nan => false
  | .inf n => n
  | .rat n .. => n

/-- Whether it is finite. -/
def Exact.finite : Exact → Bool
  | .rat .. => true
  | _ => false

/-- Whether it is zero. -/
def Exact.isZero : Exact → Bool
  | .rat _ a _ => a == 0
  | _ => false

/-- Whether it is an infinity. -/
def Exact.isInf : Exact → Bool
  | .inf _ => true
  | _ => false

/-- Encode(x, fmt, mode, sat) (R39): the code and the flags. -/
def encodeCode (table : List (BitVec 18)) (half : Bool) (q6 : Bool) (mode : BitVec 2) (sat : Bool) (x : Exact) : Nat × FFlags :=
  let n := if q6 then 32 else 128
  let mag (j : Nat) : Exact := (unpack e8m10 (tableMag table half (if q6 then 4 * j else j))).exact
  let pack (sg : Bool) (i : Nat) : Nat := (if sg then n else 0) + i
  if x = .nan then (pack false (n - 1), fNV)
  else
    let sg := x.isNeg
    let a := x.abs
    let lo := encodeSearch mag a (if q6 then 5 else 7) 0 (n - 1)
    let up := min (lo + 1) (n - 1)
    let diff (p q : Exact) : Exact := match q with
      | .rat _ c d => (exactAdd 0 p (.rat true c d)).1
      | _ => .inf (!q.isNeg)
    let i :=
      if mag lo != .nan && exactCmp (mag lo) a != -1 then lo
      else if mode == 1 || (mode == 2 && !sg) || (mode == 3 && sg) then lo
      else if mode != 0 then up
      else if mag up = .nan || mag lo = .nan then (if lo % 2 = 0 then lo else up)
      else if (mag up).isInf then (if a.isInf then (if lo % 2 = 0 then lo else up) else lo)
      else if a.isInf then (if lo % 2 = 0 then lo else up)
      else
        let c := exactCmp (diff a (mag lo)) (diff (mag up) a)
        if c = -1 then lo else if c = 1 then up else if lo % 2 = 0 then lo else up
    let i := if sat && (mag i).isInf then (((List.range i).filter fun j => (mag j).finite).getLast?).getD i else i
    let i := if !sat && a.finite && (mag i).finite && exactCmp a (mag i) == 1 && i + 1 < n && (mag (i + 1)).isInf then i + 1 else i
    let fl1 := flagIf (a.finite && (List.range n).all fun j => !(mag j).finite || exactCmp a (mag j) == 1) fOF
    let fl2 := flagIf (!x.isZero && a.finite && (mag i).isZero) fUF
    let same := mag i != .nan && exactCmp (mag i) a == 0
    (pack sg i, fl1 ||| fl2 ||| flagIf (!same) fNX)

/-! ### Order of sums (R49) -/

/-- One level of TreeCombine: neighbours combined, an odd last element kept; flags joined. -/
def treeLevel {α : Type} (op : α → α → α × FFlags) : List α → List α × FFlags
  | x :: y :: t =>
    let (z, f) := op x y
    let (r, g) := treeLevel op t
    (z :: r, f ||| g)
  | l => (l, 0)

/-- TreeCombine of R49, with fuel at least the length. -/
def treeGo {α : Type} (op : α → α → α × FFlags) : Nat → List α → FFlags → List α × FFlags
  | 0, l, f => (l, f)
  | n + 1, l, f =>
    match l with
    | _ :: _ :: _ => let (l', g) := treeLevel op l; treeGo op n l' (f ||| g)
    | l => (l, f)

/-- A value of a format, a NaN as the canonical one (R32, R52). -/
def Fmt.canon (f : Fmt) (bits : Nat) : Nat := if f.isNaN bits then f.nan else bits

/-- The combined value of a list, `dflt` for an empty one, and the flags (R49); `canon` gives a NaN that is the only element in its canonical
form, as every helper does that meets one (R52). -/
def treeCombine {α : Type} (op : α → α → α × FFlags) (canon : α → α) (dflt : α) (l : List α) : α × FFlags :=
  let (r, f) := treeGo op l.length l 0
  (canon (r.headD dflt), f)

end Sys2Proof.Machine
end

