-- ==== Sys2Proof/Machine/Ops.lean ====
section
/-! DEFINITION. The named operations over registers and memory, how an instruction runs, and taking an exception (R17, R56, R57,
R99, R176, R356 to R364, R368 to R370). Every operation acts for the instruction in hand. -/

namespace Sys2Proof.Machine

/-- The outcome of one step. -/
abbrev Out := Host.Outcome State Fault Refusal

/-- A fault: its cause code, EADDR and EINFO (R357). -/
structure Flt where
  code : Nat
  addr : Word
  info : Word
  deriving DecidableEq, Repr

/-! Cause codes (R357). -/

def cILLEGAL : Nat := 1
def cPRIV : Nat := 2
def cALIGN : Nat := 3
def cWINDOW : Nat := 4
def cSPBOUND : Nat := 5
def cCAPNULL : Nat := 6
def cCAPBOUND : Nat := 7
def cCAPPERM : Nat := 8
def cCAPREVOKED : Nat := 9
def cPAGE : Nat := 10
def cWPROT : Nat := 11
def cPOISON : Nat := 12
def cNONMANIFOLD : Nat := 13
def cINVERT : Nat := 14
def cMESHFMT : Nat := 15
def cGANGABORT : Nat := 16
def cLINKDOWN : Nat := 18
def cSUBLAPSE : Nat := 19
def cBRK : Nat := 20
def cTRAP : Nat := 21

/-- Why an instruction does not complete: it traps (with the address EPC is to hold), it waits, or its master is frozen. -/
inductive Stop where
  | trap (s : State) (f : Flt) (epc : Word)
  | wait (s : State) (c : Cond)
  | freeze (s : State)
  deriving DecidableEq, Repr

/-- The result of the body of an instruction. -/
abbrev Res (α : Type) := Except Stop α

/-! ### Cores and contexts -/

/-- Context `n` of a core. -/
def Core.ctxAt (c : Core) (n : Nat) : Context := (smapGet? c.ctxs n).getD Context.reset

/-- Sets context `n`. -/
def Core.setCtx (c : Core) (n : Nat) (x : Context) : Core := { c with ctxs := smapSet c.ctxs n x }

/-- Core number `n` (R24); 4,608 + n is Avlyn core n (R370). -/
def State.coreAt (s : State) (n : Nat) : Core := (smapGet? s.cores n).getD Core.reset

/-- Sets core `n`. -/
def State.setCore (s : State) (n : Nat) (c : Core) : State := { s with cores := smapSet s.cores n c }

/-- The core of the instruction in hand. -/
def State.me (s : State) : Core := s.coreAt s.hand.core

/-- The context of the instruction in hand. -/
def State.my (s : State) : Context := s.me.ctxAt s.hand.ctx

/-- Changes the core in hand. -/
def State.modMe (s : State) (f : Core → Core) : State := s.setCore s.hand.core (f s.me)

/-- Changes the context in hand. -/
def State.modMy (s : State) (f : Context → Context) : State := s.modMe fun c => c.setCtx s.hand.ctx (f (c.ctxAt s.hand.ctx))

/-- The same state with another context in hand, at its own pc. -/
def State.at (s : State) (core ctx : Nat) : State :=
  { s with hand := ⟨core, ctx, ((s.coreAt core).ctxAt ctx).pc, 0, 0⟩ }

/-- The number of compute cores. -/
def nCores : Nat := 4608

/-- Whether the core in hand is an Avlyn core (R370). -/
def State.isAvlyn (s : State) : Bool := nCores ≤ s.hand.core

/-- Whether the context in hand runs in system mode; an Avlyn core always does (R24, R370). -/
def State.inSys (s : State) : Bool := s.isAvlyn || s.my.sys

/-- The partition of the context in hand: PARTID.PART (R25), on an Avlyn core SVCPART.PART (R370). -/
def State.partNo (s : State) : Nat := if s.isAvlyn then s.me.svcpart.toNat % 16 else s.me.part.toNat

/-- The partition table entry of a partition, when it is valid. -/
def State.partEntry (s : State) (p : Nat) : Option Partition := (smapGet? s.parts p).filter (·.valid)

/-- A report to the fault mailbox (R3). -/
def State.report (s : State) (r : Report) : State := { s with mailbox := s.mailbox ++ [r] }

/-- The launch with this number. -/
def State.launchAt (s : State) (id : Nat) : Option Launch := s.launches.find? (·.id == id)

/-- Changes the launch with this number. -/
def State.modLaunch (s : State) (id : Nat) (f : Launch → Launch) : State :=
  { s with launches := s.launches.map fun l => if l.id == id then f l else l }

/-- The launch whose unit a core holds. -/
def State.launchOf (s : State) (core : Nat) : Option Launch := (s.coreAt core).unit.bind fun u => s.launchAt u.launch

/-- Whether a core is in a cable step (R213, R289). -/
def State.coreInCable (s : State) (core : Nat) : Bool :=
  match s.launchOf core with
  | some l => l.stepK == .cable
  | none => false

/-- Whether the saver has stopped a core (R287, R365): it is to be saved, a launch with PLACE once a `step` of it has been released, and
no unit of that is frozen (R368). -/
def State.stopping (s : State) (core : Nat) : Bool :=
  (s.coreAt core).saving && (s.launchOf core).all fun l => !l.place || (l.atRelease && l.stepK != .cable
    && l.units.all fun u => match u.st with
      | .running g => !(s.coreAt g).frozen
      | _ => true)

/-- Whether the core in hand is in a cable step. -/
def State.inCable (s : State) : Bool := s.coreInCable s.hand.core

/-! ### Registers (R17) -/

/-- Reads a scalar register; s0 reads 0. -/
def State.S (s : State) (r : BitVec 5) : Word := if r = 0 then 0 else s.my.s.get r.toFin

/-- Writes a scalar register; a write to s0 is discarded. -/
def State.setS (s : State) (r : BitVec 5) (v : Word) : State :=
  if r = 0 then s else s.modMy fun c => { c with s := c.s.set r.toNat v r.isLt }

/-- Reads a predicate; p0 reads true. -/
def State.P (s : State) (r : BitVec 3) : Bool := r = 0 || s.my.p.get r.toFin

/-- Writes a predicate; a write to p0 is discarded. -/
def State.setP (s : State) (r : BitVec 3) (v : Bool) : State :=
  if r = 0 then s else s.modMy fun c => { c with p := c.p.set r.toNat v r.isLt }

/-- Reads a capability register; a0 is null. -/
def State.A (s : State) (r : BitVec 4) : CapBits := if r = 0 then 0 else s.my.a.get r.toFin

/-- Writes a capability register; a write to a0 is discarded. -/
def State.setA (s : State) (r : BitVec 4) (v : CapBits) : State :=
  if r = 0 then s else s.modMy fun c => { c with a := c.a.set r.toNat v r.isLt }

/-- Reads a strand register: none when it is closed. -/
def State.H (s : State) (r : BitVec 4) : Option Strand := s.my.h.get r.toFin

/-- Writes a strand register. -/
def State.setH (s : State) (r : BitVec 4) (v : Option Strand) : State :=
  s.modMy fun c => { c with h := c.h.set r.toNat v r.isLt }

/-- ORs flags into FFLAGS (R43). -/
def State.orFlags (s : State) (f : FFlags) : State := s.modMy fun c => { c with fflags := c.fflags ||| f }

/-- Sets the pc of the context in hand. -/
def State.setPc (s : State) (pc : Word) : State := s.modMy fun c => { c with pc := pc }

/-- The address after the instruction in hand. -/
def State.nextPc (s : State) : Word := s.hand.pc + 2 * BitVec.ofNat 64 s.hand.len

/-- A vector register read at element `e` (R17): row e div 16, column e mod 16. -/
def Core.vElem (c : Core) (r : BitVec 5) (e : Nat) : W32 := (c.v.get r.toFin).getD e 0

/-- A mask register: k0 reads all true. -/
def Core.mask (c : Core) (r : BitVec 3) : BitVec 256 := if r = 0 then BitVec.allOnes 256 else c.k.get r.toFin

/-- Writes a whole vector register, 256 elements. -/
def Core.setV (c : Core) (r : BitVec 5) (f : Nat → W32) : Core :=
  { c with v := c.v.set r.toNat ((List.range 256).map f) r.isLt }

/-- Writes a mask register; a write to k0 is discarded. -/
def Core.setMask (c : Core) (r : BitVec 3) (m : BitVec 256) : Core :=
  if r = 0 then c else { c with k := c.k.set r.toNat m r.isLt }

/-! ### Physical memory (R373) -/

/-- The first physical address of the scratchpads, and of host memory. -/
def spadBase : Nat := 0x1000000000000
def hostBase : Nat := 0x8000000000000
/-- The bytes of HBM of one device. -/
def hbmSize : Nat := 0x6000000000

/-- Where an access goes: 0 for this device or the number of a peer, and the physical address there. -/
structure Loc where
  dev : Nat
  pa  : Nat
  deriving DecidableEq, Repr

/-- An unlisted peer. -/
def Peer.none : Peer := ⟨[], [], [], [], [], false, []⟩

/-- Peer device `n`. -/
def State.peer (s : State) (n : Nat) : Peer := (smapGet? s.peers n).getD Peer.none

/-- The memory of a device. -/
def State.phys (s : State) (dev : Nat) : Phys :=
  if dev = 0 then s.mem else let p := s.peer dev; ⟨p.bytes, p.full, p.poison⟩

/-- Sets the memory of a device. -/
def State.setPhys (s : State) (dev : Nat) (m : Phys) : State :=
  if dev = 0 then { s with mem := m }
  else { s with peers := smapSet s.peers dev { s.peer dev with bytes := m.bytes, full := m.full, poison := m.poison } }

/-- `n` bytes at a location, little-endian. -/
def State.readAt (s : State) (l : Loc) (n : Nat) : Nat := bytesRead (s.phys l.dev).bytes l.pa n

/-- Writes `n` bytes at a location. -/
def State.writeAt (s : State) (l : Loc) (n v : Nat) : State :=
  let m := s.phys l.dev
  s.setPhys l.dev { m with bytes := bytesWrite m.bytes l.pa n v }

/-- Whether a physical address lies in the scratchpads. -/
def isSpad (pa : Nat) : Bool := spadBase ≤ pa && pa < spadBase + nCores * 0x100000

/-- Whether a physical address lies in host memory. -/
def isHost (pa : Nat) : Bool := hostBase ≤ pa && pa < 0x10000000000000

/-- The physical address of offset `off` of the scratchpad of core `g`, window RAW. -/
def spadPa (g off : Nat) : Nat := spadBase + g * 0x100000 + off

/-- The core, window and offset of a scratchpad address. -/
def spadParts (pa : Nat) : Nat × Nat × Nat :=
  let r := pa - spadBase
  (r / 0x100000, r / 0x20000 % 8, r % 0x20000)

/-- The addresses of the words or lines of `u` bytes that [a, a + n) touches. -/
def unitsOf (u a n : Nat) : List Nat :=
  if n = 0 then [] else (List.range ((a + n - 1) / u + 1 - a / u)).map fun i => (a / u + i) * u

/-- Whether an access to [pa, pa + n) meets poison that it does not clear: any poisoned unit for a read, a unit only partly
replaced for a write (R413, R414). A line of device or host memory is one unit of 128 bytes, in a scratchpad a word is one. -/
def Phys.poisoned (m : Phys) (write : Bool) (pa n : Nat) : Bool :=
  let u := if isSpad pa then 4 else 128
  (unitsOf u pa n).any fun x => m.poison.contains x && !(write && pa ≤ x && x + u ≤ pa + n)

/-- Clears the poison of the units that [pa, pa + n) covers whole. -/
def Phys.cleanse (m : Phys) (pa n : Nat) : Phys :=
  if m.poison.isEmpty then m
  else
    let u := if isSpad pa then 4 else 128
    { m with poison := m.poison.filter fun x => !(pa ≤ x && x + u ≤ pa + n) }

/-! ### Scratchpads (R56, R57, R176, R220, R283) -/

/-- What a write does to the full-empty bits of its words (R283). -/
def Phys.setFull (m : Phys) (pa n : Nat) : Phys := { m with full := (unitsOf 4 pa n).foldl setInsert m.full }

/-- The outgoing entry's share of a write of `n` bytes at `off` with value `v`, as flits of one 64-byte half-line each (R220, R292),
after `epoch` release fences, written by core `w`. -/
def flitsOf (o : Outgoing) (epoch w off n v : Nat) : List Flit :=
  (unitsOf 64 off n).filterMap fun h =>
    let lo := max (max off o.off) h
    let hi := min (min (off + n) (o.off + o.len)) (h + 64)
    if lo < hi then
      some ⟨o.sub, o.entry, lo - o.off, (List.range (hi - lo)).map fun i => BitVec.ofNat 8 (v / 256 ^ (lo - off + i)), false, epoch, w⟩
    else none

/-- Adds a flit to those of its entry: joined to the last one where it continues it in its 64-byte half-line, else a new one
before which the last is closed. A flit whose half-line is written to its end is closed (R220). -/
def addFlit (fs : List Flit) (f : Flit) : List Flit :=
  let done (x : Flit) : Flit := if (x.off + x.bytes.length) % 64 = 0 then { x with closed := true } else x
  match fs.reverse.find? fun x => x.sub == f.sub && x.entry == f.entry with
  | some x =>
    if !x.closed && x.writer == f.writer && x.off + x.bytes.length == f.off && x.off / 64 == (f.off + f.bytes.length - 1) / 64 then
      fs.map fun y => if y == x then done { x with bytes := x.bytes ++ f.bytes } else y
    else (fs.map fun y => if y.sub == f.sub && y.entry == f.entry then { y with closed := true } else y) ++ [done f]
  | none => fs ++ [done f]

/-- Forwards a write into published regions of core `g` (R220); it carries the release count of the core that writes (R320). -/
def State.forwardWrite (s : State) (g off n v : Nat) : State :=
  let c := s.coreAt g
  if c.out.isEmpty then s
  else s.setCore g { c with
    flits := (c.out.flatMap fun o => if o.susp.isSome then [] else flitsOf o s.me.epoch s.hand.core off n v).foldl addFlit c.flits }

/-- Writes `n` bytes of the scratchpad of core `g` at `off`; sets the words full when `full`; `fwd` when subscriptions see it. -/
def State.spWrite (s : State) (g off n v : Nat) (full fwd : Bool) : State :=
  let pa := spadPa g off
  let m := { s.mem with bytes := bytesWrite s.mem.bytes pa n v }.cleanse pa n
  let s := { s with mem := if full then m.setFull pa n else m }
  if fwd then s.forwardWrite g off n v else s

/-- `n` bytes of the scratchpad of core `g`. -/
def State.spRead (s : State) (g off n : Nat) : Nat := bytesRead s.mem.bytes (spadPa g off) n

/-- `n` bytes of full-empty bits from offset `off` of window FE. -/
def Phys.feRead (m : Phys) (g off n : Nat) : Nat :=
  (List.range (8 * n)).foldl (fun v j => if m.full.contains (spadPa g (4 * (8 * off + j))) then v + 2 ^ j else v) 0

/-- Sets and clears full-empty bits from offset `off` of window FE. -/
def Phys.feWrite (m : Phys) (g off n v : Nat) : Phys :=
  { m with full := (List.range (8 * n)).foldl (fun f j =>
      let a := spadPa g (4 * (8 * off + j))
      if v / 2 ^ j % 2 = 1 then setInsert f a else setErase f a) m.full }

/-- The stored bytes of an access through window `w`: first byte and number (R27, R57). -/
def storedBytes (w off size : Nat) : Nat × Nat :=
  match w with
  | 1 => (off, 1)
  | 2 => (3 * (off / 4), 3)
  | 3 | 4 => (off, 2)
  | 5 => (32 * off, 32 * size)
  | _ => (off, size)

/-- Whether the scratchpad bytes [off, off + n) of core `g` meet poison that the access does not clear. -/
def State.spPoison (s : State) (write : Bool) (g off n : Nat) : Bool := s.mem.poisoned write (spadPa g off) n

/-- Whether an access through window `w` meets poison (R413, R414); a store through FE replaces no data. -/
def State.winPoison (s : State) (write : Bool) (g w off size : Nat) : Bool :=
  let (o, n) := storedBytes w off size
  s.spPoison (write && w != 5) g o n

/-- The decode table and HALF of core `g` of a device (R58); those of a peer's core are free values. -/
def State.tableOf (s : State) (dev g : Nat) : List (BitVec 18) × Bool :=
  if dev = 0 then ((s.coreAt g).table, (s.coreAt g).half) else (Config.peerTable dev g, false)

/-- A load through a window of a scratchpad (R57): the bytes, the widened f32, or the bits. -/
def Phys.winRead (m : Phys) (tab : List (BitVec 18) × Bool) (g w off size : Nat) : Nat :=
  let rd (o n : Nat) : Nat := bytesRead m.bytes (spadPa g o) n
  match w with
  | 1 => widen e8m10 f32 (decodeCode tab.1 tab.2 false (rd off 1))
  | 2 => widen e8m10 f32 (decodeCode tab.1 tab.2 true (rd (3 * (off / 4)) 3 / 64 ^ (off % 4) % 64))
  | 3 => widen h16 f32 (rd off 2)
  | 4 => widen b16 f32 (rd off 2)
  | 5 => m.feRead g off size
  | _ => rd off size

/-- What a store of `v` through a window other than FE writes (R57): the first byte, the number of bytes, their value, and the
flags of the conversion under MR payload `mr`. -/
def Phys.winBytes (m : Phys) (tab : List (BitVec 18) × Bool) (g w off size v : Nat) (mr : BitVec 8) : Nat × Nat × Nat × FFlags :=
  let x := (unpack f32 (v % 2 ^ 32)).exact
  let nv := snan [unpack f32 (v % 2 ^ 32)]
  match w with
  | 1 =>
    let (code, fl) := encodeCode tab.1 tab.2 false (mrRound mr) (mrMode mr == 1) x
    (off, 1, code, fl)
  | 2 =>
    let (code, fl) := encodeCode tab.1 tab.2 true (mrRound mr) (mrMode mr == 1) x
    let old := bytesRead m.bytes (spadPa g (3 * (off / 4))) 3
    let k := 64 ^ (off % 4)
    (3 * (off / 4), 3, old - old / k % 64 * k + code * k, fl)
  | 3 => let (b, fl) := formResult h16 mr x nv; (off, 2, b, fl)
  | 4 => let (b, fl) := formResult b16 mr x nv; (off, 2, b, fl)
  | _ => (off, size, v, 0)

/-- A load through a window of the scratchpad of core `g` of this device, under a given HALF (R35, R38). -/
def State.winReadAs (s : State) (half : Bool) (g w off size : Nat) : Nat := s.mem.winRead ((s.coreAt g).table, half) g w off size

/-- A load through a window under the core's own HALF. -/
def State.winRead (s : State) (g w off size : Nat) : Nat := s.winReadAs (s.coreAt g).half g w off size

/-- A store through a window of the scratchpad of core `g` of this device, under a given HALF: the new state and the flags. -/
def State.winWriteAs (s : State) (half : Bool) (g w off size v : Nat) (mr : BitVec 8) : State × FFlags :=
  if w = 5 then ({ s with mem := s.mem.feWrite g off size v }, 0)
  else
    let (o, n, b, fl) := s.mem.winBytes ((s.coreAt g).table, half) g w off size v mr
    (s.spWrite g o n b false true, fl)

/-- A store through a window under the core's own HALF. -/
def State.winWrite (s : State) (g w off size v : Nat) (mr : BitVec 8) : State × FFlags :=
  s.winWriteAs (s.coreAt g).half g w off size v mr

/-- The checks of R176 on a local address: window, alignment, bounds. `align` is the alignment through RAW. Answers the window
and the offset; EADDR is the address. -/
def State.localCheck (s : State) (a : Word) (size align : Nat) (rawOnly : Bool) : Except Flt (Nat × Nat) :=
  let w := a.toNat / 0x20000 % 8
  let off := a.toNat % 0x20000
  if 6 ≤ w || (rawOnly && w != 0) || (w == 5 && 0x1000 < off + size) then .error ⟨cWINDOW, a, 0⟩
  else if (w == 0 && off % align != 0) || ((w == 3 || w == 4) && off % 2 != 0) then .error ⟨cALIGN, a, 0⟩
  else
    let (o, n) := storedBytes w off size
    let lo := s.me.splo.toNat
    let hi := min s.me.sphi.toNat 0x20000
    if 0x100000 ≤ a.toNat || hi ≤ lo || o < lo || hi < o + n then .error ⟨cSPBOUND, a, 0⟩
    else .ok (w, off)

/-- Turns a fault found by a check into the trap of the instruction in hand. -/
def State.lift {α : Type} (s : State) : Except Flt α → Res α
  | .ok x => .ok x
  | .error f => .error (.trap s f s.hand.pc)

/-- The instruction in hand faults. -/
def State.fault {α : Type} (s : State) (code : Nat) (addr info : Word) : Res α := .error (.trap s ⟨code, addr, info⟩ s.hand.pc)

/-- ILLEGAL: EINFO holds the halfword at the saved address (R357). -/
def State.illegal {α : Type} (s : State) : Res α := s.fault cILLEGAL 0 (s.hand.hw.setWidth 64)

/-- Faults unless the condition holds. -/
def State.need (s : State) (c : Bool) (code : Nat) (addr info : Word) : Res Unit := if c then .ok () else s.fault code addr info

/-- ILLEGAL unless the condition holds. -/
def State.legal (s : State) (c : Bool) : Res Unit := if c then .ok () else s.illegal

/-! ### Taking an exception (R356 to R364, R368 to R370) -/

/-- The image of a strand register in an upcall frame (R362): four doublewords. -/
def strandImage : Option Strand → List Word
  | none => [0, 0, 0, 0]
  | some h =>
    [if h.ring then 0 else h.base, h.fin ++ h.pos,
      h.stride ++ (0#24 ++ (if h.ring then 2#4 else h.fmt) ++ 0#3 ++ BitVec.ofBool (h.loc && !h.ring)),
      0#62 ++ BitVec.ofBool h.ring ++ 1#1]

/-- The handle list of a ring strand as 32 doublewords (R362). -/
def strandList : Option Strand → List Word
  | some h => if h.ring then (List.range 32).map fun i => h.list.getD (2 * i + 1) 0 ++ h.list.getD (2 * i) 0 else List.replicate 32 0
  | none => List.replicate 32 0

/-- The predicates p1 to p7 as bits [7:1] (R362). -/
def Context.predBits (c : Context) : Word := BitVec.ofNat 64 ((List.range 8).foldl (fun v i => if i != 0 && c.p.toList.getD i true then v + 2 ^ i else v) 0)

/-- The upcall frame of R362, 644 doublewords. -/
def Context.frame (c : Context) (pc cause addr info : Word) : List Word :=
  [pc, cause, addr, info, c.fflags.setWidth 64, c.predBits] ++ c.s.toList.drop 1 ++ [0]
    ++ (c.a.toList.drop 1).flatMap (fun x => [x.setWidth 64, x.extractLsb' 64 64])
    ++ c.h.toList.flatMap strandImage ++ c.h.toList.flatMap strandList

/-- Writes doublewords into the scratchpad of core `g`. -/
def State.spWriteWords (s : State) (g off : Nat) : List Word → State
  | [] => s
  | w :: t => (s.spWrite g off 8 w.toNat false true).spWriteWords g (off + 8) t

/-- Doublewords of the scratchpad. -/
def State.spReadWords (s : State) (g off n : Nat) : List Word := (List.range n).map fun i => BitVec.ofNat 64 (s.spRead g (off + 8 * i) 8)

/-- The size of an upcall frame. -/
def frameSize : Nat := 0x1420

/-- UFRAME.ADDR << 6. -/
def Context.frameAddr (c : Context) : Word := c.uframe &&& 0xFFFC0

/-- Whether the frame range lies in window RAW and passes R27 (R361). -/
def State.frameOk (s : State) : Bool := (s.localCheck s.my.frameAddr frameSize 64 true).isOk

/-- Enters the handler at TVEC (R359). -/
def State.enterHandler (s : State) (f : Flt) (epc : Word) : State :=
  s.modMy fun c => { c with
    epc := epc
    ecause := (if s.inSys then 0x100 else 0) ||| BitVec.ofNat 64 f.code
    eaddr := f.addr
    einfo := f.info
    sys := true
    pc := s.me.tvec
    st := .ready }

/-- Writes the upcall frame and enters the upcall (R361). -/
def State.enterUpcall (s : State) (f : Flt) (pc : Word) : State :=
  let c := s.my
  let s := s.spWriteWords s.hand.core c.frameAddr.toNat (c.frame pc (BitVec.ofNat 64 f.code) f.addr f.info)
  s.modMy fun c => { c with uframe := c.uframe ||| 1, pc := c.uvec, st := .ready }

/-- Ends the unit of a core (R360): its contexts issue no more, and the report carries these ERR bits and FCODE. -/
def State.endUnit (s : State) (core : Nat) (err : BitVec 16) (fcode : Nat) : State :=
  s.setCore core { s.coreAt core with ending := some (err, fcode) }

/-! The bits of ERR (R339), from bit 40 of a status word. -/

def errFAULT : BitVec 16 := 1
def errCANCEL : BitVec 16 := 2
def errLAUNCH : BitVec 16 := 4
def errLOST : BitVec 16 := 8
def errVIOLATION : BitVec 16 := 16
def errPREDFAIL : BitVec 16 := 32

/-- A logical device of which nothing is known yet. -/
def LogDev.none : LogDev := ⟨[], false, false, [], [], 0, [], [], []⟩

/-- An event of a class for a logical device becomes pending under the owner code in force (R403, R404). -/
def State.raiseEvent (s : State) (ld cls : Nat) : State :=
  let d := (smapGet? s.lds ld).getD LogDev.none
  { s with lds := smapSet s.lds ld { d with pending := d.pending ++ [(cls, (smapGet? d.owners cls).getD 0)] } }

/-- An operation of the row array of a core, when one runs. -/
def State.rowRuns (s : State) (core : Nat) : Option RowOp := ((smapGet? s.rows (core / 4)).bind (·.running))

/-- The context number of what helper `n` that has retired leaves in the queue and in the row array (R128): it writes no register any more,
and is waited for as context 0's (R29) and by the `hwait` for that helper (R129). -/
def orphan (n : Nat) : Nat := 11 + n

/-- Whether a queued instruction of context `m` counts as context `n`'s. -/
def queuedFor (n m : Nat) : Bool := m == n || (n == 0 && orphan 0 ≤ m)

/-- Whether nothing that context `n` of a core queued is still to execute, and no row-array operation runs that a `gang` of it started. -/
def State.queueQuiet (s : State) (core n : Nat) : Bool :=
  ((s.coreAt core).vq.all fun e => !queuedFor n e.cap.ctx)
    && (s.rowRuns core).all fun op => !op.gangs.any fun x => x.1 == core && queuedFor n x.2.1

/-- What context `n` of a core has queued or started goes on without it (R128). -/
def State.orphaned (s : State) (core n : Nat) : State :=
  let c := s.coreAt core
  let s := if c.vq.all fun e => e.cap.ctx != n then s
    else s.setCore core { c with vq := c.vq.map fun e => if e.cap.ctx = n then { e with cap := { e.cap with ctx := orphan n } } else e }
  let op (x : RowOp) : RowOp := { x with
    ctx := if x.lead = core && x.ctx = n then orphan n else x.ctx
    gangs := x.gangs.map fun y => if y.1 = core && y.2.1 = n then (y.1, orphan n, y.2.2) else y }
  match smapGet? s.rows (core / 4) with
  | none => s
  | some r => { s with rows := smapSet s.rows (core / 4) { r with matched := r.matched.map op, running := r.running.map op } }

/-- Whether every instruction that the context in hand issued has taken its full effect (R356): its replies have arrived, and what it
queued has executed. An Avlyn core has no queue (R370). -/
def State.settled (s : State) : Bool := s.my.replies.isEmpty && (s.isAvlyn || s.queueQuiet s.hand.core s.hand.ctx)

/-- Delivers a cause (R359 to R361, R289, R370) to the context in hand; `epc` is the address saved. -/
def State.deliverNow (s : State) (f : Flt) (epc : Word) : State :=
  if s.isAvlyn then
    if s.me.inHandler || s.me.tvec = 0 then
      ((s.setPc epc).modMe fun c => { c with stopped := true }).report (.avlyn (s.hand.core - nCores))
    else (s.enterHandler f epc).modMe fun c => { c with inHandler := true }
  else if s.inCable then s.modMy fun c => { c with pc := epc, st := .waiting (.held f.code f.addr f.info) }
  else
    let up := (f.code == cPAGE || f.code == cWPROT || f.code == cSUBLAPSE) && !s.my.sys && s.my.uvec != 0 && !s.my.uframe.getLsbD 0
    if up && s.frameOk then s.enterUpcall f epc
    else if s.my.sys || s.me.tvec = 0 then
      (((s.setPc epc).endUnit s.hand.core errFAULT f.code).report (.unitFault s.hand.core f.code)).raiseEvent s.partNo 5
    else s.enterHandler (if up && f.code != cSUBLAPSE then { f with info := f.info ||| 4 } else f) epc

/-- Takes a cause, once every earlier instruction of the context has taken its full effect; until then the context waits at the
instruction in hand, which issues again (R356). -/
def State.deliver (s : State) (f : Flt) (epc : Word) : State :=
  if s.settled then s.deliverNow f epc else s.modMy fun x => { x with pc := s.hand.pc, st := .waiting .earlier }

/-- Freezes the master in hand after a violation (R368): the instruction in hand takes no effect, its core is kept in place and a report
goes to the mailbox. -/
def State.freezeMaster (s : State) : State :=
  ((s.modMe fun c => { c with frozen := true }).report (.violation s.hand.core)).raiseEvent s.partNo 0

/-! ### Running an instruction (R99) -/

/-- The outcome of a body: the trap, the wait (the context stays at the instruction, which is issued again), or the freeze, each
a next state. -/
def finish (r : Res State) : Out :=
  match r with
  | .ok s => .next s
  | .error (.trap s f epc) => .next (s.deliver f epc)
  | .error (.wait s c) => .next (s.modMy fun x => { x with pc := s.hand.pc, st := .waiting c })
  | .error (.freeze s) => .next (s.setPc s.hand.pc).freezeMaster

/-- Whether the guard holds (R97, R99). -/
def State.guard (s : State) (g : Guard) : Bool := s.P g.p != g.neg

/-- Whether the core in hand has an instruction at all, a check of step 2 (R99, R370): `av` whether an Avlyn core has it. -/
def State.coreHas (s : State) (av : Bool) : Bool := av || !s.isAvlyn

/-- Whether it may issue an instruction: it has it, and the step of its region allows it (`cable`: in a cable step, R215). The list that R99
gives for step 2 does not name the ILLEGAL of a cable step: that one is a check of step 5 (log entry 31). -/
def State.issuable (s : State) (av cable : Bool) : Bool := s.coreHas av && (cable || !s.inCable)

/-- The guard, and under it the check of the cable step and the body, which starts with the pc at the next instruction (R99 steps 4 and
5). -/
def State.guarded (s : State) (cable : Bool) (g : Guard) (body : State → Res State) : Res State :=
  let s' := s.setPc s.nextPc
  if s.guard g then (if cable || !s.inCable then body s' else s.illegal) else .ok s'

/-- Runs an instruction: the checks by core (R99 step 2), the guard, then the checks and effect of its own. -/
def run (av cable : Bool) (g : Guard) (s : State) (body : State → Res State) : Out :=
  finish <| if !s.coreHas av then s.illegal else s.guarded cable g body

/-- Runs an instruction that faults PRIV in user mode, before its guard (R99 step 3). -/
def runPriv (av cable : Bool) (g : Guard) (s : State) (body : State → Res State) : Out :=
  finish <|
    if !s.coreHas av then s.illegal
    else if !s.inSys then s.fault cPRIV 0 (s.hand.hw.setWidth 64)
    else s.guarded cable g body

/-- An event of the device acts outside every context. -/
def event (s : State) : Out := .next s

/-- Waits until the condition holds. -/
def State.await (s : State) (ready : Bool) (c : Cond) : Res Unit := if ready then .ok () else .error (.wait s c)

/-- Whether a scratchpad word is full. -/
def State.isFull (s : State) (pa : Nat) : Bool := s.mem.full.contains pa

end Sys2Proof.Machine
end

