-- ==== Sys2Proof/Machine/Queue.lean ====
section
/-! DEFINITION. The shapes of vector accesses, the fields of ARRAYCFG, the rows, and which scratchpad accesses wait for the vector queue
and the row array (R38, R143, R161, R163, R164, R171). -/

namespace Sys2Proof.Machine

/-- The elements of a shape region in row-major order (R143). -/
def regionElems (shape : BitVec 8) : List Nat :=
  let r := (shape.setWidth 4).toNat + 1
  let c := (shape.extractLsb' 4 4).toNat + 1
  (List.range r).flatMap fun i => (List.range c).map fun j => 16 * i + j

/-- The number of columns of a shape. -/
def shapeCols (shape : BitVec 8) : Nat := (shape.extractLsb' 4 4).toNat + 1

/-- The units of a row of a vector access (R161): stride code 0 gives the columns of the shape. -/
def rowStride (shape : BitVec 8) (rs : BitVec 3) : Nat := if rs = 0 then shapeCols shape else 2 ^ (rs.toNat + 3)

/-- Address units of one element in a window (R161). -/
def winUnit (w : Nat) : Nat :=
  match w with
  | 0 => 4
  | 1 | 2 => 1
  | _ => 2

/-- The offset of an element of a vector access (R161); `bcast` names row 0 for every row. -/
def elemOff (o w : Nat) (shape : BitVec 8) (rs : BitVec 3) (bcast : Bool) (e : Nat) : Nat :=
  o + ((if bcast then 0 else e / 16 * rowStride shape rs) + e % 16) * winUnit w

/-- Fields of an ARRAYCFG word (R164). -/
def cfgACC (c : Word) : Bool := c.getLsbD 63
def cfgSTORE (c : Word) : Bool := c.getLsbD 62
def cfgBFMT (c : Word) : Nat := (c.extractLsb' 60 2).toNat
def cfgP (c : Word) : Nat := (c.extractLsb' 55 5).toNat + 1
def cfgK (c : Word) : Nat := (c.extractLsb' 43 12).toNat + 1
def cfgBOff (c : Word) : Nat := (c.extractLsb' 31 12).toNat * 128
def cfgCOff (c : Word) : Nat := (c.extractLsb' 20 11).toNat * 64
def cfgAWin (c : Word) : Nat := (c.extractLsb' 17 3).toNat
def cfgAOff (c : Word) : Nat := (c.extractLsb' 0 17).toNat
/-- Bytes of a row of B. -/
def cfgBw (c : Word) : Nat :=
  match cfgBFMT c with
  | 0 => 128
  | 1 => 96
  | _ => 256

/-- The stored bytes of A: 32 rows of K units (R164). -/
def cfgARange (c : Word) : Nat × Nat :=
  let n := 32 * cfgK c
  match cfgAWin c with
  | 2 => (3 * (cfgAOff c / 4), 3 * ((n + 3) / 4))
  | 1 => (cfgAOff c, n)
  | _ => (cfgAOff c, 2 * n)

/-- An unlisted row. -/
def Row.none : Row := ⟨Option.none, Option.none, Option.none, false, []⟩

/-- The row number `n`: cores 4n to 4n + 3. -/
def State.row (s : State) (n : Nat) : Row := (smapGet? s.rows n).getD Row.none

/-- Sets a row. -/
def State.setRow (s : State) (n : Nat) (r : Row) : State := { s with rows := smapSet s.rows n r }

/-- Whether [a, a + n) and [b, b + m) overlap. -/
def overlaps (a n b m : Nat) : Bool := a < b + m && b < a + n

/-- The bytes an entry of the queue reads (false) or writes (true) in the scratchpad: a covering range, none when it makes no
access. -/
def VEntry.touches (x : VEntry) : Option (Bool × Nat × Nat) :=
  let vec (wr bcast : Bool) (rs : BitVec 3) (a : Word) : Option (Bool × Nat × Nat) :=
    let w := a.toNat / 0x20000 % 8
    let o := a.toNat % 0x20000
    let last := (regionElems x.cap.shape).foldl (fun m e => max m (elemOff o w x.cap.shape rs bcast e)) o
    let (lo, _) := storedBytes w o 4
    let (hi, n) := storedBytes w last 4
    some (wr, lo, hi + n - lo)
  match x.op with
  | .ld _ bc rs _ a _ => vec false bc rs a
  | .st _ _ rs _ a _ => vec true false rs a
  | .sgetv _ st _ =>
    let w := st.base.toNat / 0x20000 % 8
    if st.ring then none else some (false, (storedBytes w 0 0).1, 0x20000)
  | .mldb a _ n => some (false, a.toNat % 0x20000, n.toNat)
  | .mstc a => some (true, a.toNat % 0x20000, 4096)
  | .tsave _ a => some (true, a.toNat % 0x20000, 5120)
  | .trest _ a => some (false, a.toNat % 0x20000, 5120)
  | _ => none

/-- Whether an access of core `core` to bytes [o, o + n) of its scratchpad must wait for what its queue did not yet do (R163). -/
def State.queueBlocks (s : State) (core : Nat) (write : Bool) (o n : Nat) : Bool :=
  (s.coreAt core).vq.any fun x =>
    match x.touches with
    | some (wr, b, m) => (wr || write) && overlaps o n b m
    | none => false

/-- Whether the operation that runs in the row of a core is to store into the C range of that core, and where (R171). -/
def State.arrayStores (s : State) (core : Nat) : Option (Nat × Nat) :=
  match (s.row (core / 4)).running with
  | some op => if cfgSTORE op.cfg && op.parts.getLsbD (core % 4) then some (cfgCOff op.cfg, 4096) else none
  | none => none

/-- Whether a write of bytes [o, o + n) of a core's scratchpad meets a published region that a queued instruction, or a row-array operation
that runs (log entry 61), is still to write too: the updates of an entry are forwarded in the order in which the writes were issued
(R320). -/
def State.entryBlocks (s : State) (core o n : Nat) : Bool :=
  let c := s.coreAt core
  let due := (c.vq.filterMap fun x => match x.touches with
    | some (true, b, m) => some (b, m)
    | _ => none) ++ (s.arrayStores core).toList
  c.out.any fun p => p.susp.isNone && overlaps o n p.off p.len && due.any fun x => overlaps x.1 x.2 p.off p.len

/-- Whether it must wait for the row array: the lead's A range, a participant's C range (R171). -/
def State.arrayBlocks (s : State) (core o n : Nat) : Bool :=
  match (s.row (core / 4)).running with
  | none => false
  | some op =>
    let (a, m) := cfgARange op.cfg
    (op.lead == core && overlaps o n a m) || (s.arrayStores core).any fun x => overlaps o n x.1 x.2

/-- Whether a `vtbl` stands in the queue of a core (R38). -/
def State.tablePending (s : State) (core : Nat) : Bool :=
  (s.coreAt core).vq.any fun x => match x.op with
    | .tbl .. => true
    | _ => false

/-- Whether an access to the scratchpad of `core` through window `w`, by one of its own contexts, must wait for its queue, its row array
or its table (R38, R163, R171, R320). -/
def State.accessBlocked (s : State) (core : Nat) (write : Bool) (w off size : Nat) : Bool :=
  let (o, n) := storedBytes w off size
  s.arrayBlocks core o n || s.queueBlocks core write o n || (write && w != 5 && s.entryBlocks core o n) || ((w == 1 || w == 2) && s.tablePending core)

end Sys2Proof.Machine
end

