-- ==== Sys2Proof/Machine/Translate.lean ====
section
/-! DEFINITION. Address translation, first-touch placement, the hardware request ring, capabilities, and the checks and accesses
of the NI (R53 to R58, R180 to R183, R371 to R393, R413, R422, R424). -/

namespace Sys2Proof.Machine

/-- What an access does, for its checks (R377). An update (an atomic, an operation at a bank ALU) reads what it writes: it has the
permission checks of a write, and meets poison as a read does (R180, R413). -/
inductive Acc where
  | read | write | fetch | update
  deriving DecidableEq, Repr

/-- Whether an access writes. -/
def Acc.writes : Acc → Bool
  | .write | .update => true
  | _ => false

/-- Why a translation fails: a fault code with its detail, a violation (R373), or that it waits until the acknowledgements of a page-table
line are in (R385). -/
inductive Bad where
  | flt (code : Nat) (info : Word)
  | violation
  | wait (line : Nat)
  deriving DecidableEq, Repr

/-- A translation or access step: the state (a walker may place a page) and why it failed, or the state and the result. -/
abbrev Tr (α : Type) := Except (State × Bad) (State × α)

/-- The tables of one partition on one device: the root, the HBM ranges, the tiles, the host window. -/
structure Space where
  dev    : Nat
  part   : Nat
  ttbase : Nat
  hbm    : List (Nat × Nat)
  tiles  : List Nat
  hostLo : Nat
  hostHi : Nat
  deriving DecidableEq, Repr

/-- The space of a partition of this device. -/
def State.space (s : State) (p : Nat) : Option Space :=
  (s.partEntry p).map fun e => ⟨0, p, e.ttbase, e.hbm, e.tiles, hostBase + e.hostBase, hostBase + e.hostBase + e.hostSize⟩

/-- The space that device `d` gives to partition `p` of this device (R380). -/
def State.peerSpace (s : State) (d p : Nat) : Option Space :=
  ((s.peer d).bound.find? (·.part == p)).map fun b =>
    ⟨d, p, b.ttbase, b.hbm, b.tiles, hostBase + b.hostLo, hostBase + b.hostLo + b.hostSize⟩

/-- Whether [lo, hi) is covered by the ranges. -/
def covered (ranges : List (Nat × Nat)) : Nat → Nat → Nat → Bool
  | 0, lo, hi => hi ≤ lo
  | n + 1, lo, hi =>
    if hi ≤ lo then true
    else match ranges.find? fun r => r.1 ≤ lo && lo < r.2 with
      | some r => covered ranges n r.2 hi
      | none => false

/-- Whether a physical range lies in the regions of a partition (R373). -/
def Space.owns (x : Space) (lo hi : Nat) : Bool :=
  if hi ≤ hbmSize then covered x.hbm (x.hbm.length + 1) lo hi
  else if isSpad lo && hi ≤ spadBase + nCores * 0x100000 then
    (unitsOf 0x100000 (lo - spadBase) (hi - lo)).all fun a => x.tiles.contains (a / 0x100000 / 8)
  else isHost lo && x.hostLo ≤ lo && hi ≤ x.hostHi

/-! ### The fields of a capability (R53) -/

/-- The fields of a capability. -/
def capBase (c : CapBits) : Nat := c.toNat % 2 ^ 57
def capLen (c : CapBits) : Nat := c.toNat / 2 ^ 57 % 2 ^ 40
/-- The permissions MEDIT, SUBS, GATH, EXEC, WRITE, READ as bits 5 to 0. -/
def capPerm (c : CapBits) : BitVec 6 := c.extractLsb' 97 6
def capSeal (c : CapBits) : Bool := c.getLsbD 103
def capTag (c : CapBits) : Nat := c.toNat / 2 ^ 104
def permREAD : BitVec 6 := 1
def permWRITE : BitVec 6 := 2
def permEXEC : BitVec 6 := 4
def permGATH : BitVec 6 := 8
def permSUBS : BitVec 6 := 16
def permMEDIT : BitVec 6 := 32

/-- A capability from its fields. -/
def mkCap (tag : Nat) (perm : BitVec 6) (len base : Nat) : CapBits :=
  BitVec.ofNat 128 (tag % 2 ^ 24 * 2 ^ 104 + perm.toNat * 2 ^ 97 + len % 2 ^ 40 * 2 ^ 57 + base % 2 ^ 57)

/-! ### The directory and the host (R390 to R397, R416 to R418) -/

/-- The key of a line in the directory: device and address of its first byte. -/
def lineKey (l : Loc) : Nat := l.dev * 2 ^ 52 + l.pa / 128 * 128

/-- The location of a key. -/
def keyLoc (k : Nat) : Loc := ⟨k / 2 ^ 52, k % 2 ^ 52⟩

/-- Whether a key names a half of a host-homed line of this device: the copies of the two halves are independent (R392). -/
def hostKey (k : Nat) : Bool := k < 2 ^ 52 && isHost k

/-- The line that a key names, or a half of which it names. -/
def keyLine (k : Nat) : Nat := k / 128 * 128

/-- The directory keys of the bytes [l, l + n) of one line: the line, or the halves of a host-homed line that they touch (R392). -/
def copyKeys (l : Loc) (n : Nat) : List Nat := if l.dev = 0 && isHost l.pa then unitsOf 64 l.pa n else [lineKey l]

/-- The bytes that a key names. -/
def State.lineBytes (s : State) (k : Nat) : List Byte :=
  (List.range (if hostKey k then 64 else 128)).map fun i => bytesGet (s.phys (keyLoc k).dev).bytes ((keyLoc k).pa + i)

/-- The clock of a stack (R427). -/
def State.clock (s : State) (stack : Nat) : Clock := (smapGet? s.clocks stack).getD ⟨1600, none, false⟩

/-- Whether new `step.cable` and `gang` starts are held on a stack for a change of frequency (R427). -/
def State.clockHeld (s : State) (stack : Nat) : Bool := (s.clock stack).req.isSome

/-- The directory entry of a key. -/
def State.dirAt (s : State) (k : Nat) : Option DirEntry := s.dir.find? (·.line == k)

/-- Replaces the directory entry of a key, or removes it; the entry becomes the most recently used one (R264). -/
def State.setDir (s : State) (k : Nat) (e : Option DirEntry) : State :=
  { s with dir := s.dir.filter (·.line != k) ++ e.toList }

/-- Changes a directory entry where it stands. -/
def State.modDir (s : State) (k : Nat) (f : DirEntry → DirEntry) : State :=
  { s with dir := s.dir.map fun e => if e.line == k then f e else e }

/-- A line no agent caches. -/
def DirEntry.empty (k : Nat) : DirEntry := ⟨k, none, [], none, none, [], false, [], [], 0⟩

/-- Whether a copy state is dirty. -/
def moesiDirty (x : Moesi) : Bool := x == .m || x == .o

/-- Whether a line is dirty in the copy of an owner. -/
def DirEntry.dirty (e : DirEntry) : Bool := e.owner.any fun x => moesiDirty x.2

/-- Whether a cache holds a line dirty. -/
def State.dirtyOwner (s : State) (k : Nat) : Bool := (s.dirAt k).any DirEntry.dirty

/-- Whether an agent has a copy of a line. -/
def State.holds (s : State) (a : CacheAgent) (k : Nat) : Bool :=
  (s.dirAt k).any fun e => e.owner.any (·.1 == a) || e.sharers.contains a

/-- The stack of an agent, for mirroring (R416). -/
def agentStack : CacheAgent → Nat
  | .l1 c => c / 1152
  | .slice n | .tlb n | .revoke n => n / 144
  | _ => 4

/-- Whether a stack answers no more: it is reported to the mailbox, or out of service (R419, R420). -/
def State.stackDead (s : State) (stack : Nat) : Bool := s.removed.contains stack || s.mailbox.contains (.stack stack)

/-- Whether the mirror store of the buddy stack serves a stack (R416, R420, R421). -/
def State.mirrors (s : State) (stack : Nat) : Bool := stack < 4 && !s.stackDead (stack ^^^ 1)

/-- A directory entry whose mirror entry holds the line's current contents, where the line is dirty and mirrored (R417). -/
def State.mirrored (s : State) (e : DirEntry) : DirEntry :=
  if e.dirty && e.owner.any (fun x => s.mirrors (agentStack x.1)) then { e with mirror := some (s.lineBytes e.line) } else e

/-- The mirror entry of a line takes its current contents before data leaves the owner (R417). -/
def State.mirrorNow (s : State) (k : Nat) : State := s.modDir k s.mirrored

/-- Every dirty line of the device is in the mirror with its current contents: then no store made so far waits for the mirror any more
(R193, R322, R417). -/
def State.mirrorAll (s : State) : State := { s with dir := s.dir.map s.mirrored }

/-- The bridge entry of a host line (R392). -/
def State.bridgeAt (s : State) (line : Nat) : Bridge := (s.bridge.find? (·.line == line)).getD ⟨line, .i, .i, none, none⟩

/-- Sets it; an entry with nothing in it is dropped. -/
def State.setBridge (s : State) (b : Bridge) : State :=
  { s with bridge := s.bridge.filter (·.line != b.line)
      ++ (if b.h0 == .i && b.h1 == .i && b.req0.isNone && b.req1.isNone then [] else [b]) }

/-- One half of a bridge entry: its state and outstanding request. -/
def Bridge.half (b : Bridge) (h : Bool) : HalfSt × Option Bool := if h then (b.h1, b.req1) else (b.h0, b.req0)

/-- Sets one half. -/
def Bridge.setHalf (b : Bridge) (h : Bool) (x : HalfSt) (r : Option Bool) : Bridge :=
  if h then { b with h1 := x, req1 := r } else { b with h0 := x, req0 := r }

/-- Which half of its line a key names. -/
def keyHalf (k : Nat) : Bool := k / 64 % 2 == 1

/-- The bridge state of the half that a key names becomes `f` of it; a key of another line has none. -/
def State.modHalf (s : State) (k : Nat) (f : HalfSt → HalfSt) : State :=
  if hostKey k then
    let b := s.bridgeAt (keyLine k)
    s.setBridge (b.setHalf (keyHalf k) (f (b.half (keyHalf k)).1) (b.half (keyHalf k)).2)
  else s

/-- A half in M is written back to the host and becomes E (R393). -/
def State.cleanHalf (s : State) (k : Nat) : State := s.modHalf k fun x => if x == .m then .e else x

/-- A half is written back where it is dirty, and released (R393). -/
def State.dropHalf (s : State) (k : Nat) : State := s.modHalf k fun _ => .i

/-- A line is no longer dirty towards HBM in its home slice (R416). -/
def State.sliceClean (s : State) (k : Nat) : State :=
  { s with caches := { s.caches with l2dirty := setErase s.caches.l2dirty k } }

/-- Writes a dirty line back to memory (R188, R418), a half of a host-homed one through the bridge: the copy stays, clean. -/
def State.writeBack (s : State) (k : Nat) : State :=
  let s := s.sliceClean k
  match s.dirAt k with
  | some e =>
    match e.owner with
    | some (a, st) =>
      if moesiDirty st then
        (s.modDir k fun e =>
          if e.sharers.isEmpty then { e with owner := some (a, .e), home := none, mirror := none }
          else { e with owner := none, sharers := a :: e.sharers, home := none, mirror := none }).cleanHalf k
      else s
    | none => s
  | none => s

/-- The tile under which an agent's dirty lines are mirrored (R416). -/
def agentTile : CacheAgent → Nat
  | .l1 c => c / 8
  | .slice n => n
  | _ => 576

/-- One more in a telemetry counter (R430). -/
def bump (m : SMap Nat) (k : Nat) : SMap Nat := smapSet m k (((smapGet? m k).getD 0 + 1) % 2 ^ 64)

/-- The lines of a list of directory entries, each once. -/
def linesOf (es : List DirEntry) : List Nat := (es.map fun e => keyLine e.line).eraseDups

/-- The slice × 1,024 + bank × 64 + set where a physical address has its home (R263); a set is set within its bank. -/
def homeSet (slices : List Nat) (pa : Nat) : Nat :=
  let line := pa / 128
  let h := line % 2 ^ 15 ^^^ line / 2 ^ 15 % 2 ^ 15 ^^^ line / 2 ^ 30 % 2 ^ 15
  slices.getD (h * slices.length / 2 ^ 15) 0 * 1024 + line % 16 * 64 + line / 16 % 64

/-- SliceList of a partition, in ascending node number (R263). -/
def sliceList (e : Partition) : List Nat := sortBy (fun a b => a ≤ b) e.slices

/-- The partition that a line of device memory, or of its host-memory window, belongs to. -/
def State.lineOwner (s : State) (pa : Nat) : Option (Nat × Partition) :=
  s.parts.find? fun (_, e) => e.valid && (covered e.hbm (e.hbm.length + 1) pa (pa + 1)
    || (hostBase + e.hostBase ≤ pa && pa < hostBase + e.hostBase + e.hostSize))

/-- The home slice, bank and set of a line, by the slice set of the partition that it belongs to (R263). Of a host-homed line the frame to which
R263 applies the function is taken to be the host's physical address itself (log entry 117). -/
def State.homeOf (s : State) (pa : Nat) : Option Nat :=
  (s.lineOwner pa).bind fun (_, e) => if e.slices.isEmpty then none else some (homeSet (sliceList e) pa)

/-- The slice that is the home of a line (R263). -/
def State.homeSlice (s : State) (pa : Nat) : Option Nat := (s.homeOf pa).map (· / 1024)

/-- The dirty lines of a tile and its cache node (R416): those that its L1s and its slice own, and those that are dirty in the slice as their
home. -/
def State.dirtyLines (s : State) (tile : Nat) : List Nat :=
  linesOf (s.dir.filter fun e => e.dirty && e.owner.any fun x => agentTile x.1 == tile)
    ++ s.caches.l2dirty.filter fun k => s.homeSlice (keyLoc k).pa == some tile

/-- Before a tile whose buddy mirrors it dirties one more line than the 1,024 mirror entries hold, its least recently dirtied line is
written back (R418). -/
def State.mirrorRoomAt (s : State) (tile k : Nat) : State :=
  if !s.mirrors (tile / 144) || s.dir.length + s.caches.l2dirty.length < 1024 then s
  else
    let lines := s.dirtyLines tile
    if lines.length < 1024 || lines.contains (keyLine k) then s
    else match s.caches.dirtied.find? fun q => lines.contains (keyLine q) with
      | some q =>
        let s := (s.dir.filter fun e => keyLine e.line == keyLine q).foldl (fun s e => s.writeBack e.line) (s.sliceClean (keyLine q))
        { s with telemetry := { s.telemetry with mirwb := bump s.telemetry.mirwb tile } }
      | none => s

/-- The same for the tile of an agent. -/
def State.mirrorRoom (s : State) (a : CacheAgent) (k : Nat) : State := s.mirrorRoomAt (agentTile a) k

/-- A line becomes the most recently dirtied one (R418). -/
def State.dirtiedNow (s : State) (k : Nat) : State :=
  { s with caches := { s.caches with
      dirtied := (s.caches.dirtied.filter fun q => q != k && (s.dirtyOwner q || s.caches.l2dirty.contains q)) ++ [k] } }

/-- A line of device memory that is written at its home becomes dirty there, with its bytes in the mirror (R265, R416, R417). -/
def State.sliceDirty (s : State) (k : Nat) : State :=
  match if 2 ^ 52 ≤ k || hostKey k then none else s.homeSlice (keyLoc k).pa with
  | none => s
  | some n =>
    let s := s.mirrorRoomAt n k
    ({ s with caches := { s.caches with l2dirty := setInsert s.caches.l2dirty k } } : State).dirtiedNow k

/-- The halves that [pa, pa + n) touches. -/
def halvesOf (pa n : Nat) : List Bool := (unitsOf 64 pa n).map fun a => a / 64 % 2 == 1

/-- Asks the host for a half where it is needed (R393): true when the access must wait for the answer. -/
def State.askHalf (s : State) (line : Nat) (write h : Bool) : State × Bool :=
  let b := s.bridgeAt line
  let (st, rq) := b.half h
  match st with
  | .i => (s.setBridge (b.setHalf h st (some (write || rq == some true))), true)
  | .s => if write then (s.setBridge (b.setHalf h st (some true)), true) else (s, false)
  | _ => (s, false)

/-- The record of a device line that the host holds (R397). -/
def State.heldAt (s : State) (line : Nat) : Option HostHeld := s.hostHeld.find? (·.line == line)

/-- Sends a back-invalidate snoop for each half the host holds of a line that a device agent needs (R397). True when the access must
wait. -/
def State.recall (s : State) (k : Nat) : State × Bool :=
  if (s.heldAt k).isNone then (s, false)
  else
    ({ s with hostHeld := s.hostHeld.map fun y =>
        if y.line == k then { y with bi0 := y.h0 != .i, bi1 := y.h1 != .i, asked := if y.bi0 || y.bi1 then y.asked else s.time } else y }, true)

/-- The state of a logical device (R422). -/
def State.ld (s : State) (n : Nat) : LogDev := (smapGet? s.lds n).getD LogDev.none

/-- Sets it. -/
def State.setLd (s : State) (n : Nat) (d : LogDev) : State := { s with lds := smapSet s.lds n d }

/-- The logical device whose host-memory window holds a host-homed line; a logical device has the number of its partition. -/
def State.ldOf (s : State) (k : Nat) : Option Nat :=
  (s.parts.find? fun (_, e) => e.valid && e.hostBase ≤ k - hostBase && k - hostBase < e.hostBase + e.hostSize).map (·.1)

/-! ### Copies (R264, R381, R390, R391) -/

/-- Whether an agent keeps copies in S only: a translation or revocation cache, or the distributor (R390). -/
def sOnly : CacheAgent → Bool
  | .tlb _ | .revoke _ | .fabricTlb _ | .portTlb _ | .distributor => true
  | _ => false

/-- Whether the acknowledgement of an agent takes messages of its own: a cache that must first drop and drain what it derived (R382, R388),
and a peer device (R401, R402). The other caches give up a copy within the step that asks for it (log entry 86). -/
def slow (a : CacheAgent) : Bool :=
  sOnly a || match a with
  | .fabric _ => true
  | _ => false

/-- What a cache derives from a line goes: translations, and lines of the revocation bitmap (R381, R388). -/
def State.dropDerived (s : State) (a : CacheAgent) (k : Nat) : State :=
  { s with caches := { s.caches with
      xlat := s.caches.xlat.filter fun x => !(x.agent == a && x.lines.contains k)
      revs := s.caches.revs.filter fun x => !(CacheAgent.revoke x.tile == a && x.line == k) } }

/-- Whether no load of a tile that was translated or checked with line `k` is on its way to a register (R383, R388). -/
def State.repliesDone (s : State) (t k : Nat) : Bool :=
  (List.range 8).all fun j => (s.coreAt (8 * t + j)).ctxs.all fun x => x.2.replies.all fun r => !r.lines.contains k

/-- Whether a cache that keeps copies in S only has drained what it translated or checked with line `k`: the loads of its tile, for a
revocation cache also the commands it accepted with a tag of that line (R383, R388). Stores are performed when they are made. -/
def State.drained (s : State) (a : CacheAgent) (k : Nat) : Bool :=
  match a with
  | .tlb t => s.repliesDone t k
  | .revoke t => s.repliesDone t k && s.cmds.all fun c => c.core / 8 != t || c.st == .frozen || c.caps.all fun x =>
      capTag x == 0 || ((s.partEntry c.part).map fun e => (e.bitmap + capTag x / 8) / 128 * 128) != some k
  | _ => true

/-- The lines that live leases pin (R268). -/
def State.pins (s : State) : List Nat := s.pstate.flatMap fun x => x.2.leases.flatMap (·.pinned)

/-- Whether every copy of a line can go at once: no host holds it, no acknowledgement is awaited, and none that takes time would be (R264,
R382, R397). -/
def State.evictable (s : State) (e : DirEntry) : Bool :=
  e.awaited.isEmpty && (s.heldAt e.line).isNone && ((e.owner.map (·.1)).toList ++ e.sharers).all fun a => !slow a

/-- Every copy of a line goes, a dirty one written back (R264): the entry is free. A half of a host-homed line is released (R395). -/
def State.evictLine (s : State) (e : DirEntry) : State :=
  let s := s.writeBack e.line
  let s := e.sharers.foldl (fun s a => if sOnly a then s.dropDerived a e.line else s) s
  (s.setDir e.line none).dropHalf e.line

/-- Where an entry counts: in the directory of the line's home slice (R264), or, for a line of a peer, in the remote-sharer filter of the
fabric NI (R401). -/
def State.dirPlace (s : State) (k : Nat) : Bool × Option Nat :=
  if 2 ^ 52 ≤ k then (true, none) else (false, s.homeSlice (keyLoc k).pa)

/-- The entries of the line that goes when a line needs an entry in a full directory of 65,536 lines: the least recently used one that is not
pinned (R264, R401); `now`: of those whose copies can go at once. Entries stand in the order of their last use. -/
def State.dirVictim (s : State) (now : Bool) (k : Nat) : List DirEntry :=
  if s.dir.length < 65536 || (s.dirAt k).isSome then []
  else
    let same := s.dir.filter fun e => s.dirPlace e.line == s.dirPlace k
    let line (e : DirEntry) : List DirEntry := same.filter fun x => keyLine x.line == keyLine e.line
    if (linesOf same).length < 65536 || (linesOf same).contains (keyLine k) then []
    else match same.find? fun e => !s.pins.contains (keyLine e.line) && (!now || (line e).all s.evictable) with
      | some e => line e
      | none => []

/-- Room for a line at once: what an agent that acts in one step makes (log entry 76). -/
def State.dirRoom (s : State) (k : Nat) : State := (s.dirVictim true k).foldl State.evictLine s

/-- Whether a read by `a` leaves it in S even when no other cache has a copy: a cache that keeps S only, a replica slice, and a copy of a
half that the host may share (R267, R390, R392). -/
def State.readsShared (s : State) (a : CacheAgent) (k : Nat) : Bool :=
  sOnly a || if hostKey k then ((s.bridgeAt (keyLine k)).half (keyHalf k)).1 == .s else match a with
    | .slice _ => true
    | _ => false

/-- A read by `a` (R391): a dirty owner supplies the data and goes to O, an E owner to S; with no copy, in the device or at a host, the
reader gets E unless it is to be a sharer. -/
def State.dirReadAs (s : State) (shared : Bool) (a : CacheAgent) (k : Nat) : State :=
  let s := (s.dirRoom k).mirrorNow k
  let e := (s.dirAt k).getD (.empty k)
  match e.owner with
  | some (b, st) =>
    if b == a then s.setDir k (some e)
    else if moesiDirty st then s.setDir k (some { e with owner := some (b, .o), sharers := a :: e.sharers.filter (· != a) })
    else s.setDir k (some { e with owner := none, sharers := a :: b :: (e.sharers.filter (· != a)).filter (· != b) })
  | none =>
    if e.sharers.isEmpty && (s.heldAt k).isNone && !shared then s.setDir k (some { e with owner := some (a, .e) })
    else s.setDir k (some { e with sharers := a :: e.sharers.filter (· != a) })

/-- A read by `a`. -/
def State.dirRead (s : State) (a : CacheAgent) (k : Nat) : State := s.dirReadAs (s.readsShared a k) a k

/-- `a` becomes a sharer, when it is none (R267, R381). -/
def State.shareLine (s : State) (a : CacheAgent) (k : Nat) : State :=
  if (s.dirAt k).any fun e => e.sharers.contains a then s else s.dirReadAs true a k

/-- A read that leaves no copy (R181, R391): a dirty owner supplies the data, once the mirror holds it, and an M owner goes to O. The
line has been used (R264). -/
def State.supply (s : State) (k : Nat) : State :=
  let s := s.mirrorNow k
  match s.dirAt k with
  | some e => s.setDir k (some { e with owner := e.owner.map fun x => (x.1, if x.2 == .m then .o else x.2) })
  | none => s

/-- The acknowledgements of `others` that take time are awaited as well, asked for at TIME `now`; `w` is the core whose store awaits them. -/
def DirEntry.await (e : DirEntry) (now : Word) (w : Option Nat) (others : List CacheAgent) : DirEntry :=
  let aw := e.awaited ++ others.filter fun b => slow b && !e.awaited.contains b
  { e with awaited := aw, writers := if aw.isEmpty then [] else w.elim e.writers (setInsert e.writers)
           asked := if e.awaited.isEmpty && !aw.isEmpty then now else e.asked }

/-- The copies of a line other than that of `a`. -/
def DirEntry.others (e : DirEntry) (a : Option CacheAgent) : List CacheAgent :=
  ((e.owner.map (·.1)).toList ++ e.sharers).filter fun b => some b != a

/-- Asks that every copy of a line but that of `a` goes, before a write is granted (R382, R391). True while an acknowledgement is awaited:
the copies stay until their acknowledgements, and the write, of core `w` when it is a core's, is then tried again. The claim of an agent that is
no core stands under a number that no core has. -/
def State.claimLine (s : State) (w : Option Nat) (a : Option CacheAgent) (k : Nat) : State × Bool :=
  match s.dirAt k with
  | none => (s, false)
  | some e =>
    if ((e.others a).filter slow).isEmpty && e.awaited.isEmpty then (s, false)
    else (s.modDir k fun e => { e.await s.time none (e.others a) with claims := setInsert e.claims (w.getD (nCores + 32)) }, true)

/-- Asks that a line is free for a write at its home by an agent `a`, or by no agent: that every other copy goes, those of a host too (R382,
R391, R397). `w` is the core whose store it is. True while the line is not free. -/
def State.askHome (s : State) (w : Option Nat) (a : Option CacheAgent) (k : Nat) : State × Bool :=
  let (s, x) := s.recall k
  let (s, y) := s.claimLine w a k
  (s, x || y)

/-- Asks so for several lines; answers one that is not free yet. -/
def State.askHomes (s : State) (w : Option Nat) (a : Option CacheAgent) (ks : List Nat) : State × Option Nat :=
  ks.foldl (fun (s, z) k =>
    let (s, x) := s.askHome w a k
    (s, if x then some k else z)) (s, none)

/-- Lines that the instruction in hand writes at their homes are free for it, or it waits (R265, R391, R397). -/
def State.homeTurn (s : State) (ks : List Nat) : Res State :=
  match s.askHomes (some s.hand.core) none ks with
  | (s, none) => .ok s
  | (s, some k) => .error (.wait s (if (s.heldAt k).isSome then .host (keyLine k) else .grant k))

/-- Room for a line in a full directory, once every copy of the line that goes is gone (R264). Answers that line while it is not. -/
def State.makeRoom (s : State) (k : Nat) : State × Option Nat :=
  let es := s.dirVictim false k
  if es.all s.evictable then (es.foldl State.evictLine s, none) else s.askHomes none none (es.map (·.line))

/-- Whether a core has an instruction in hand that waits for a grant, or that is tried again after one (R391). -/
def State.insists (s : State) (g : Nat) : Bool :=
  let c := s.coreAt g
  (c.unit.isSome || nCores ≤ g) && !c.frozen && !c.saving && c.ending.isNone && c.ctxs.any fun x => match x.2.st with
    | .waiting (.grant _) => true
    | .ready => x.2.inHand
    | _ => false

/-- Whether a store to a line is in progress that a walk for core `g` lets go first (R384). -/
def State.claimed (s : State) (g k : Nat) : Bool :=
  (s.dirAt k).any fun e => !e.awaited.isEmpty || e.claims.any fun x => x != g && s.insists x

/-- The core whose L1 an agent is. -/
def agentCore? : CacheAgent → Option Nat
  | .l1 c => some c
  | _ => none

/-- `a` becomes the only holder of a line, in M where it writes it or takes it over dirty, else in E (R391): every other copy is
invalidated. The home keeps its old bytes while the line is dirty. What a former owner had stored is in a mirror entry of the new owner
before the old entry is freed (R417, R418). -/
def State.dirTake (s : State) (a : CacheAgent) (k : Nat) (write : Bool) : State :=
  let dirty := write || s.dirtyOwner k
  let s := (s.mirrorNow k).dirRoom k
  let s := if dirty then s.mirrorRoom a k else s
  let e := (s.dirAt k).getD (.empty k)
  let mirror :=
    if (e.owner.map (·.1)) == some a then e.mirror
    else if e.dirty && s.mirrors (agentStack a) then some (s.lineBytes k)
    else none
  let s := s.setDir k (some { e.await s.time (agentCore? a) (e.others (some a)) with
    owner := some (a, if dirty then .m else .e), sharers := [], home := if dirty then some (e.home.getD (s.lineBytes k)) else none
    mirror := mirror, claims := [] })
  if dirty then s.dirtiedNow k else s

/-- A write by `a`; the first write of a half of a host-homed line makes its bridge state M (R392, R393). -/
def State.dirWrite (s : State) (a : CacheAgent) (k : Nat) : State := (s.dirTake a k true).modHalf k fun _ => .m

/-- `a` gains exclusive ownership without having written yet (R186, R188). -/
def State.dirOwn (s : State) (a : CacheAgent) (k : Nat) : State := s.dirTake a k false

/-- A write at the line's home (R186, R265): a dirty copy is written back, every copy but that of the writing agent `a` is invalidated, and no
cache owns the line. `w` is the core whose store it is, which awaits the acknowledgements that take time. -/
def State.homeStore (s : State) (w : Option Nat) (a : Option CacheAgent) (k : Nat) : State :=
  match s.dirAt k with
  | none => s
  | some e =>
    let e := { e.await s.time w (e.others a) with
      owner := none, sharers := e.sharers.filter fun b => some b == a, home := none, mirror := none, claims := [] }
    s.setDir k (if e.awaited.isEmpty && e.sharers.isEmpty then none else some e)

/-- A hinted store to a line that a cache holds dirty is made in that copy, which stays where it is; the clean copies are invalidated
(R181). -/
def State.storeInPlace (s : State) (k : Nat) : State :=
  match s.dirAt k with
  | none => s
  | some e =>
    let a := e.owner.map (·.1)
    (s.setDir k (some { e.await s.time (some s.hand.core) (e.others a) with
      owner := a.map fun a => (a, .m), sharers := [], claims := [] })).dirtiedNow k

/-- Whether acknowledgements of a line are awaited. -/
def State.awaits (s : State) (k : Nat) : Bool := (s.dirAt k).any fun e => !e.awaited.isEmpty

/-- A pinned line becomes the most recently used one (R268). -/
def State.usePin (s : State) (k : Nat) : State :=
  if s.pins.contains k then { s with caches := { s.caches with pinUse := s.caches.pinUse.filter (· != k) ++ [k] } } else s

/-- A write of `n` bytes at a line's home by an agent `a` that is no core, or by no caching agent: no other copy of the line stays, and a host
that holds it is asked to give it up (R391, R397). -/
def State.storeHome (s : State) (a : Option CacheAgent) (l : Loc) (n v : Nat) : State :=
  let k := lineKey l
  (((((s.recall k).1).homeStore none a k).sliceDirty k).usePin k).writeAt l n v

/-- The lines for which an agent that acts in one step has come too early: `t` is what it has made of `s`, and a line that it changed is one of
which a copy was still to be given up (R391, R397). -/
def State.blockers (s t : State) : List Nat :=
  (((t.dir.filter fun e => !e.awaited.isEmpty).map (·.line)) ++ t.hostHeld.map (·.line)).filter fun k => s.lineBytes k != t.lineBytes k

/-- The lines that a host holds of which an agent has become a holder in `t` (R397). -/
def State.gains (s t : State) : List Nat :=
  (t.hostHeld.map (·.line)).filter fun k => (t.dirAt k).any fun e => ((e.owner.map (·.1)).toList ++ e.sharers).any fun b => !s.holds b k

/-- What agent `a` makes of `s` in one step, `t`, when nothing stands against it; else it asks for the lines first, those that it writes and those
that it reads, and acts when it comes again (R382, R391, R397; log entry 76). -/
def State.agentActs (s : State) (a : Option CacheAgent) (t : State) : State :=
  match s.blockers t, s.gains t with
  | [], [] => t
  | ks, rs => rs.foldl (fun s k => (s.recall k).1) (s.askHomes none a ks).1

/-- A request from outside waits at the NI: for the end of a cable step or of a quiesce (R3, R289, R420), for a host, or for the
acknowledgements of other copies (R391, R393, R397). -/
def State.holdBus (s : State) (i : Instr) : State := { s with heldBus := s.heldBus ++ [i] }

/-- The same for an event `i` that comes only once: where it came too early it is held, and comes again. -/
def State.actsOnce (s : State) (a : Option CacheAgent) (i : Instr) (t : State) : State :=
  if (s.blockers t).isEmpty && (s.gains t).isEmpty then t else (s.agentActs a t).holdBus i

/-- The same for an instruction whose bank ALU acts in one step: it waits (R391, R397). -/
def State.inOneStep (s : State) (r : Res State) : Res State :=
  match r with
  | .ok t => (match s.homeTurn (s.blockers t) with
    | .ok _ => .ok t
    | .error x => .error x)
  | .error x => .error x

/-! ### The hardware request ring (R371) -/

/-- The pending-wake bit of context `n` of a core (R257); a free context takes no effect. -/
def State.wakeCtx (s : State) (core n : Nat) : State :=
  let c := s.coreAt core
  let x := c.ctxAt n
  if 10 < n || (x.st == .free && core < nCores) then s else s.setCore core (c.setCtx n { x with wake := true })

/-- The fields of the ring header of a partition: HEAD, TAIL, LOG2SZ, RING, WAKE, or none when it is invalid: misaligned, a reserved
field not 0, a size out of range, or a ring that does not lie in the partition's HBM; also when its line is poisoned (R413, log entry
118). -/
def State.ringHeader (s : State) (e : Partition) : Option (Nat × Nat × Nat × Nat × Nat) :=
  let hdr := e.ringHdr
  let w0 := bytesRead s.mem.bytes hdr 8
  let w1 := bytesRead s.mem.bytes (hdr + 8) 8
  let w2 := bytesRead s.mem.bytes (hdr + 16) 8
  let w3 := bytesRead s.mem.bytes (hdr + 24) 8
  let log := w1 % 32
  if !s.mem.poisoned false hdr 64 && hdr % 64 = 0 && w1 / 32 % 2 ^ 27 = 0 && 4 ≤ log && log ≤ 12 && w2 < 2 ^ 52 && w2 % 64 = 0 && w3 < 32
      && bytesRead s.mem.bytes (hdr + 32) 32 = 0 && covered e.hbm (e.hbm.length + 1) w2 (w2 + 64 * 2 ^ log) then
    some (w0 / 2 ^ 32, w0 % 2 ^ 32, log, w2, w3)
  else none

/-- DROPS of the ring of a partition counts one refused append more, by agent `a`. -/
def State.ringDrop (s : State) (a : Option CacheAgent) (e : Partition) : State :=
  s.storeHome a ⟨0, e.ringHdr + 12⟩ 4 (bytesRead s.mem.bytes (e.ringHdr + 12) 4 + 1)

/-- The address of the entry that the next append to the ring of a partition takes; none when it is refused: the ring is full, its header is
invalid, or the line of the entry is poisoned, which an append replaces only in part (R371, R413). -/
def State.ringSlot (s : State) (e : Partition) : Option Nat :=
  (s.ringHeader e).bind fun (head, tail, log, ring, _) =>
    let a := ring + 64 * (tail % 2 ^ log)
    if (tail + 2 ^ 32 - head) % 2 ^ 32 = 2 ^ log || s.mem.poisoned true a 64 then none else some a

/-- Makes the lines of the ring of a partition ready for an append by agent `a`: a dirty copy supplies what is read, and every other copy of
what is written goes first. Answers a line that it must wait for (R371, R391, R397). -/
def State.ringReady (s : State) (a : Option CacheAgent) (p : Nat) : State × Option Nat :=
  match s.partEntry p with
  | none => (s, none)
  | some e => s.askHomes none a (lineKey ⟨0, e.ringHdr⟩ :: ((s.ringSlot e).map fun x => lineKey ⟨0, x⟩).toList)

/-- Appends a request of agent `a` to the ring of partition `p`: kind, detail, GCORE, VA[56:0]. Answers the entry's address, none when the
append is refused (DROPS counts it), and whether the header is valid. -/
def State.ringAppend (s : State) (a : Option CacheAgent) (p kind detail gcore va : Nat) : State × Option Nat × Bool :=
  match s.partEntry p with
  | none => (s, none, false)
  | some e =>
    match s.ringHeader e, s.ringSlot e with
    | some (_, tail, _, _, wk), some x =>
      let s := s.storeHome a ⟨0, x + 8⟩ 56 (va % 2 ^ 57)
      let s := s.storeHome a ⟨0, x⟩ 8 (kind * 2 ^ 56 + detail * 2 ^ 48 + gcore)
      let s := s.storeHome a ⟨0, e.ringHdr⟩ 4 (tail + 1)
      (s.wakeCtx (nCores + wk) 0, some x, true)
    | h, _ => (s.ringDrop a e, none, h.isSome)

/-- The dynamic state of a partition at its start (log entry 3). -/
def PartState.none : PartState := ⟨[], 1, [], [], false, [], false⟩

/-- The dynamic state of a partition. -/
def State.pst (s : State) (p : Nat) : PartState := (smapGet? s.pstate p).getD PartState.none

/-- Sets it. -/
def State.setPst (s : State) (p : Nat) (x : PartState) : State := { s with pstate := smapSet s.pstate p x }

/-- Whether a request of kind 2 or 3 is to be made for a pool or class found empty: once each time it becomes empty (R191, R371, R385). -/
def State.refillDue (s : State) (p kind detail : Nat) : Bool := !(s.pst p).asked.contains (kind * 256 + detail)

/-- A request of kind 2 or 3 by whoever finds a pool or class empty; a refused one is made again at the next find (R191, R371, R385). -/
def State.askRefill (s : State) (p kind detail : Nat) : State :=
  if s.refillDue p kind detail then
    let (s, a, _) := s.ringAppend none p kind detail 0x1FFF 0
    if a.isSome then s.setPst p { s.pst p with asked := setInsert (s.pst p).asked (kind * 256 + detail) } else s
  else s

/-- A pool or class was not empty: it can become empty again. -/
def State.wasFilled (s : State) (p kind detail : Nat) : State :=
  let x := s.pst p
  s.setPst p { x with asked := setErase x.asked (kind * 256 + detail) }

/-! ### Page-table entries (R375) -/

def pteBit (e i : Nat) : Bool := e / 2 ^ i % 2 == 1
def pteV (e : Nat) : Bool := pteBit e 0
def pteLeaf (e : Nat) : Bool := pteBit e 1
def pteWr (e : Nat) : Bool := pteBit e 2
def pteEx (e : Nat) : Bool := pteBit e 3
def pteRor (e : Nat) : Bool := pteBit e 4
def pteRdup (e : Nat) : Bool := pteBit e 5
def pteFtp (e : Nat) : Bool := pteBit e 6
def ptePois (e : Nat) : Bool := pteBit e 7
def pteSize (e : Nat) : Nat := e / 256 % 16
def pteFrame (e : Nat) : Nat := e / 4096 % 2 ^ 40
def pteHgrp (e : Nat) : Nat := e / 2 ^ 52 % 16

/-- The frame pools of a device for group `h` and size code `k` (R385). -/
def State.poolOf (s : State) (x : Space) : SMap (List Nat) := if x.dev = 0 then (s.pst x.part).pools else (s.peer x.dev).pools

/-- Sets them. -/
def State.setPool (s : State) (x : Space) (m : SMap (List Nat)) : State :=
  if x.dev = 0 then s.setPst x.part { s.pst x.part with pools := m }
  else { s with peers := smapSet s.peers x.dev { s.peer x.dev with pools := m } }

/-- EINFO of PAGE and WPROT (R357). -/
def accInfo : Acc → Word
  | .read => 0
  | .write | .update => 1
  | .fetch => 2

/-- EINFO of POISON: [0] write (R357). -/
def poisonInfo (info : Word) : Word := info &&& 1

/-- Whether a walk of an agent waits within the access for the completion point of a placement (R385): all but the distributor's, which acts
in one step and comes again where that is too early (log entry 76). -/
def agentWaits : CacheAgent → Bool
  | .distributor => false
  | _ => true

/-- Place and R386: places the page of the pending leaf `e` of level `lvl` at `pa`, in every entry of its group; answers the entry
to translate with. A pending entry other than the first of its group is read through the first. The store is one at the home of the
page-table lines; it is made, and the new entry used, once every other copy of them is gone. -/
def State.place (s : State) (a : CacheAgent) (x : Space) (info : Word) (lvl pa e : Nat) : Tr Nat :=
  let k := pteSize e
  let n := 2 ^ (if lvl = 1 then k - 9 else k)
  let first := pa / (8 * n) * (8 * n)
  let e0 := s.readAt ⟨x.dev, first⟩ 8
  if (s.phys x.dev).poisoned false first 8 then .error (s, .flt cPOISON (poisonInfo info))
  else if !pteV e0 then .error (s, .flt cPAGE info)
  else if !pteFtp e0 then .ok (s, e0)
  else
    let key := pteHgrp e0 * 16 + k
    let pools := s.poolOf x
    match (smapGet? pools key).getD [] with
    | [] =>
      let detail := pteHgrp e0 + 16 * k
      let (s, w) := if x.dev = 0 && agentWaits a && s.refillDue x.part 2 detail then s.ringReady none x.part else (s, none)
      match w with
      | some q => .error (s, .wait q)
      | none => .error (if x.dev = 0 then s.askRefill x.part 2 detail else s, .flt cPAGE info)
    | f :: rest =>
      let ks := if x.dev = 0 then unitsOf 128 first (8 * n) else []
      let (s, w) := if agentWaits a then s.askHomes none none ks else (s, none)
      match w with
      | some k => .error (s, .wait k)
      | none =>
        let s := s.setPool x (smapSet pools key rest)
        let s := if x.dev = 0 then s.wasFilled x.part 2 (pteHgrp e0 + 16 * k) else s
        let e' := e0 - 2 ^ 6 - pteFrame e0 * 4096 + f / 4096 * 4096
        let s := ks.foldl (fun s k => ((s.recall k).1.homeStore none none k).sliceDirty k) s
        .ok ((List.range n).foldl (fun s i => s.writeAt ⟨x.dev, first + 8 * i⟩ 8 e') s, e')

/-- The leaf that maps `va`, with its level and address, or the fault of the walk (R377; R413 where it meets a poisoned line); `n`
levels are left, table at `t`. -/
def State.walk (s : State) (x : Space) (info : Word) (va : Nat) : Nat → Nat → Except Bad (Nat × Nat × Nat)
  | 0, _ => .error (.flt cPAGE info)
  | n + 1, t =>
    if !covered x.hbm (x.hbm.length + 1) t (t + 4096) then .error .violation
    else
      let pa := t + 8 * (va / 2 ^ (12 + 9 * n) % 512)
      let e := s.readAt ⟨x.dev, pa⟩ 8
      if (s.phys x.dev).poisoned false pa 8 then .error (.flt cPOISON (poisonInfo info))
      else if !pteV e then .error (.flt cPAGE info)
      else if !pteLeaf e then
        if n = 0 || e / 4 % 1024 != 0 || e / 2 ^ 52 != 0 then .error (.flt cPAGE info) else s.walk x info va n (pteFrame e * 4096)
      else if 2 ≤ n || e / 2 ^ 56 != 0 || (n = 1 && pteSize e < 9) || (n = 0 && 8 < pteSize e) || (pteFtp e && pteRdup e) then
        .error (.flt cPAGE info)
      else .ok (n, pa, e)

/-- The physical address through a leaf (R376): [19:17] come from the virtual address in the scratchpad range. -/
def leafPa (e va : Nat) : Nat :=
  let sz := 4096 * 2 ^ pteSize e
  let pa := pteFrame e * 4096 / sz * sz + va % sz
  if isSpad pa then pa - pa / 0x20000 % 8 * 0x20000 + va / 0x20000 % 8 * 0x20000 else pa

/-- The entry of an agent's translation cache that maps an address of this device (R379). -/
def State.xlatAt (s : State) (a : CacheAgent) (p va : Nat) : Option Xlat :=
  s.caches.xlat.find? fun x => x.agent == a && x.part == p && x.va ≤ va && va < x.va + x.size

/-- The leaf with which an agent translates: that of its cache, else that of a walk. -/
def State.leafFor (s : State) (a : CacheAgent) (x : Space) (info : Word) (va : Nat) : Except Bad (Nat × Nat × Nat) :=
  match if x.dev = 0 then s.xlatAt a x.part va else none with
  | some t => .ok (t.lvl, t.pa, t.leaf)
  | none => s.walk x info va 4 x.ttbase

/-- The page-table lines that a walk reads, at every level (R381). -/
def State.walkLines (s : State) (dev va : Nat) : Nat → Nat → List Nat
  | 0, _ => []
  | n + 1, t =>
    let pa := t + 8 * (va / 2 ^ (12 + 9 * n) % 512)
    let e := s.readAt ⟨dev, pa⟩ 8
    lineKey ⟨dev, pa⟩ :: if pteLeaf e then [] else s.walkLines dev va n (pteFrame e * 4096)

/-- The lines from which a translation by an agent derives: those of its cache's entry, else those of a walk; none on a peer (R381). -/
def State.linesFor (s : State) (a : CacheAgent) (x : Space) (va : Nat) : List Nat :=
  if x.dev != 0 then []
  else match s.xlatAt a x.part va with
    | some t => t.lines
    | none => s.walkLines 0 va 4 x.ttbase

/-- The line, if any, of a walk that a host holds (R397), or, of a tile's walk, that a store in progress comes first at (R384). -/
def State.walkWaits (s : State) (a : CacheAgent) (x : Space) (va : Nat) : Option Nat :=
  if x.dev != 0 || !agentWaits a || (s.xlatAt a x.part va).isSome then none
  else (s.walkLines 0 va 4 x.ttbase).find? fun k => (s.heldAt k).isSome || match a with
    | .tlb _ => s.claimed s.hand.core k
    | _ => false

/-- Translate on the tables of a space (R377, R373). A walk of a tile that meets a line with a store in progress reads it once that store
is complete (R384), and a walk that meets one that a host holds once the host has given it up (R397). -/
def State.translateIn (s : State) (a : CacheAgent) (x : Space) (va : Nat) (acc : Acc) : Tr Loc :=
  let info := accInfo acc
  match s.leafFor a x info va with
  | .error b => .error (s, b)
  | .ok (lvl, pa, e) =>
    let found : Tr Nat := match s.walkWaits a x va with
      | some k => .error ((s.recall k).1, .wait k)
      | none => if pteFtp e then s.place a x info lvl pa e else .ok (s, e)
    match found with
    | .error b => .error b
    | .ok (s, e) =>
      if ptePois e then .error (s, .flt cPOISON (poisonInfo info))
      else if acc.writes && (!pteWr e || pteRdup e) then .error (s, .flt cWPROT info)
      else if acc = .fetch && !pteEx e then .error (s, .flt cILLEGAL 0)
      else
        let sz := 4096 * 2 ^ pteSize e
        let lo := pteFrame e * 4096 / sz * sz
        if !x.owns lo (lo + sz) then .error (s, .violation) else .ok (s, ⟨x.dev, leafPa e va⟩)

/-- Whether an address names this device (R372). -/
def State.isLocal (s : State) (va : Nat) : Bool := va / 2 ^ 48 = 0 || va / 2 ^ 48 = s.device.toNat

/-- Translate by agent `a` for partition `p` (R372, R377, R380, R400). Of the refusal of a violating peer's traffic (R402) the spec names no fault: an
access to its memory faults PAGE, as for a number that no device has (log entry 130). -/
def State.translate (s : State) (a : CacheAgent) (p : Nat) (va : Nat) (acc : Acc) : Tr Loc :=
  let page : Tr Loc := .error (s, .flt cPAGE (accInfo acc))
  let d := va / 2 ^ 48
  if 2 ^ 57 ≤ va || (s.partEntry p).isNone then page
  else if s.isLocal va then
    match s.space p with
    | none => page
    | some x => s.translateIn a x (va % 2 ^ 48) acc
  else if s.device = 0 || (smapGet? s.peers d).isNone || (s.peer d).refused then page
  else match s.peerSpace d p with
    | none => .error (s, .violation)
    | some x => s.translateIn a x (va % 2 ^ 48) acc

/-- Whether the issuing core works on physical addresses (R370). -/
def State.physMode (s : State) : Bool := s.isAvlyn && s.me.svcpart.getLsbD 8

/-- The translation cache of the tile NI of the core in hand (R379). -/
def State.tlb (s : State) : CacheAgent := .tlb (s.hand.core / 8)

/-- Whether a physical address is one of the map of R373. -/
def isPhysical (pa : Nat) : Bool := pa < hbmSize || isSpad pa || isHost pa

/-- Translate for the context in hand; an Avlyn core with PHYS = 1 uses physical addresses, and one outside the map is a violation (R370,
R373). -/
def State.translateMy (s : State) (va : Nat) (acc : Acc) : Tr Loc :=
  if s.physMode then
    if 2 ^ 52 ≤ va then .error (s, .flt cPAGE (accInfo acc))
    else if isPhysical va then .ok (s, ⟨0, va⟩) else .error (s, .violation)
  else s.translate s.tlb s.partNo va acc

/-- The space in which an address is looked up for partition `p`. -/
def State.spaceOf (s : State) (p va : Nat) : Option Space :=
  if s.isLocal va then s.space p
  else if (smapGet? s.peers (va / 2 ^ 48)).isNone || (s.peer (va / 2 ^ 48)).refused then none
  else s.peerSpace (va / 2 ^ 48) p

/-- The leaf with which an agent maps an address for partition `p`, without placing it. -/
def State.leafIn (s : State) (a : CacheAgent) (p va : Nat) : Option Nat :=
  if 2 ^ 57 ≤ va then none
  else (s.spaceOf p va).bind fun x => match s.leafFor a x 0 (va % 2 ^ 48) with
    | .ok (_, _, e) => some e
    | .error _ => none

/-- The leaf that maps an address for the context in hand, without placing it. -/
def State.leafOf (s : State) (va : Nat) : Option Nat := if s.physMode then none else s.leafIn s.tlb s.partNo va

/-- The entries of a translation cache (R379). -/
def agentEntries : CacheAgent → Nat
  | .tlb _ => 512
  | .fabricTlb _ => 2048
  | .portTlb _ => 4096
  | _ => 256

/-- An agent that has translated an address of this device keeps the translation, and is a sharer of every page-table line it read (R379,
R381). A full cache drops its oldest entry; otherwise one drops entries as time passes, not within an instruction. What derives from a
line that this access itself has written, one of `written`, is not kept. -/
def State.fillXlat (s : State) (a : CacheAgent) (p va : Nat) (written : List Nat) : State :=
  match s.space p with
  | none => s
  | some x =>
    if (s.xlatAt a p va).isSome then s
    else match s.walk x 0 va 4 x.ttbase with
      | .error _ => s
      | .ok (lvl, pa, e) =>
        let lines := s.walkLines 0 va 4 x.ttbase
        if pteFtp e || lines.any written.contains then s
        else
          let sz := 4096 * 2 ^ pteSize e
          let s := lines.foldl (fun s k => s.shareLine a k) s
          let mine := s.caches.xlat.filter fun t => t.agent == a
          let old := if mine.length < agentEntries a then s.caches.xlat else mine.head?.elim s.caches.xlat s.caches.xlat.erase
          { s with caches := { s.caches with xlat := old ++ [⟨a, p, va / sz * sz, sz, lvl, pa, e, lines⟩] } }

/-- The same for an address of the context in hand. -/
def State.fillMy (s : State) (va : Nat) (written : List Nat) : State :=
  if s.physMode || !s.isLocal va then s else s.fillXlat s.tlb s.partNo (va % 2 ^ 48) written

/-- The lines from which the translation of an address of the context in hand derives (R381, R383). -/
def State.myLines (s : State) (va : Nat) : List Nat :=
  if s.physMode then [] else ((s.spaceOf s.partNo va).map fun x => s.linesFor s.tlb x (va % 2 ^ 48)).getD []

/-- The caches as time passes: an agent may drop a translation at any time (R381). Whether one goes, and which, is free. -/
def State.agedCaches (s : State) : Caches :=
  if s.caches.xlat.isEmpty || !(Config.freeByte s.fresh 1).getLsbD 0 then s.caches
  else { s.caches with xlat := s.caches.xlat.eraseIdx ((Config.freeByte s.fresh 2).toNat % s.caches.xlat.length) }

/-! ### Capabilities (R53 to R55) -/

/-- The low 64 bits of BASE, which EADDR holds where no address is formed (R54). -/
def capAddr (c : CapBits) : Word := BitVec.ofNat 64 (capBase c)

/-- RevokedBit (R55) in the bitmap of the partition in hand, at its home. -/
def State.revokedHome (s : State) (tag : Nat) : Bool :=
  match s.partEntry s.partNo with
  | some e => (bytesGet s.mem.bytes (e.bitmap + tag / 8)).getLsbD (tag % 8)
  | none => false

/-- The line of the bitmap that holds the bit of a tag, and the bit's byte in it. -/
def State.tagLine (s : State) (tag : Nat) : Option (Nat × Nat) :=
  (s.partEntry s.partNo).map fun e => ((e.bitmap + tag / 8) / 128 * 128, (e.bitmap + tag / 8) % 128)

/-- RevokedBit as the tile NI of the core in hand reads it: in its revocation cache when that holds the line (R55, R388). -/
def State.revoked (s : State) (tag : Nat) : Bool :=
  match (s.tagLine tag).bind fun (k, o) => (s.caches.revs.find? fun r => r.tile == s.hand.core / 8 && r.line == k).map fun r => r.bytes.getD o 0 with
  | some b => b.getLsbD (tag % 8)
  | none => s.revokedHome tag

/-- The line of the bitmap, when the check of a tag has to read it from its home: the revocation cache of the tile does not hold it (R55). -/
def State.tagRead (s : State) (tag : Nat) : Option Nat :=
  if tag = 0 then none
  else (s.tagLine tag).bind fun (k, _) => if s.caches.revs.any fun r => r.tile == s.hand.core / 8 && r.line == k then none else some k

/-- Whether the check of a tag reads a poisoned line of the bitmap (R413). -/
def State.tagPoisoned (s : State) (tag : Nat) : Bool := (s.tagRead tag).any fun k => s.mem.poisoned false (keyLoc k).pa 1

/-- The check of a tag waits while a host holds the line of the bitmap that it reads (R397); a dirty copy supplies the line (R391). -/
def State.tagTurn (s : State) (tag : Nat) : Res State :=
  match s.tagRead tag with
  | some k => if (s.heldAt k).isNone then .ok (s.supply k) else .error (.wait (s.recall k).1 (.host k))
  | none => .ok s

/-- The revocation cache of the tile of the core in hand keeps the line of a tag that it has checked, and is a sharer of it (R55, R388). -/
def State.fillRev (s : State) (tag : Nat) : State :=
  match s.tagLine tag with
  | none => s
  | some (k, _) =>
    let t := s.hand.core / 8
    if tag = 0 || s.caches.revs.any fun r => r.tile == t && r.line == k then s
    else
      let s := s.shareLine (.revoke t) k
      { s with caches := { s.caches with revs := s.caches.revs ++ [⟨t, k, s.lineBytes k⟩] } }

/-- The checks of R54 on the capability alone, without the bound: null, seal and permissions. -/
def capPermits (c : CapBits) (perm : BitVec 6) (info : Word) : Except Flt Unit :=
  if c = 0 then .error ⟨cCAPNULL, 0, info⟩
  else if capSeal c || capPerm c &&& perm != perm then .error ⟨cCAPPERM, capAddr c, info⟩
  else .ok ()

/-- CheckCap (R54): the virtual address. `info` is EINFO, the register number or 16. A tag whose bit stands in a poisoned line faults POISON
at that check (R413, log entry 118). -/
def State.checkCap (s : State) (c : CapBits) (off : Int) (size : Nat) (perm : BitVec 6) (info : Word) : Except Flt Nat := do
  capPermits c perm info
  if off < 0 || (capLen c : Int) < off + size then .error ⟨cCAPBOUND, capAddr c, info⟩
  let va := capBase c + off.toNat
  if 2 ^ 57 ≤ va then .error ⟨cCAPBOUND, BitVec.ofNat 64 va, info⟩
  if s.tagPoisoned (capTag c) then .error ⟨cPOISON, BitVec.ofNat 64 va, 0⟩
  if capTag c != 0 && s.revoked (capTag c) then .error ⟨cCAPREVOKED, BitVec.ofNat 64 va, info⟩
  .ok va

/-- EINFO for a capability read from memory. -/
def infoMem : Word := 16

/-! ### Accesses through the NI (R180 to R183) -/

/-- One part of an access: where it goes and how many address units it has. -/
structure Part where
  loc : Loc
  len : Nat
  deriving DecidableEq, Repr

/-- Whether a virtual address lies in the scratchpad aperture (R58). -/
def inAperture (va : Nat) : Bool :=
  let a := va % 2 ^ 48
  0xF00000000000 ≤ a && a < 0xF00000000000 + nCores * 0x100000

/-- Whether an address of the context in hand names a scratchpad: in the aperture, or, with PHYS = 1, physically (R58, R370). -/
def State.aperture (s : State) (va : Nat) : Bool := if s.physMode then isSpad va else inAperture va

/-- The window field of an aperture address, and of a physical scratchpad address. -/
def vaWindow (va : Nat) : Nat := va / 0x20000 % 8

/-- The number of address units an access of `size` bytes names (R179): through an aperture window other than RAW and FE one code
or one 16-bit value. -/
def State.vaUnits (s : State) (va size : Nat) : Nat :=
  if s.aperture va then
    match vaWindow va with
    | 1 | 2 => 1
    | 3 | 4 => 2
    | _ => size
  else size

/-- Steps 2 to 4 of R180: bits [63:57], the aperture window and its alignment, the entry's alignment. -/
def State.niForm (s : State) (va : Word) (size align : Nat) (rawOnly : Bool) (acc : Acc) : Except Flt Unit :=
  let a := va.toNat
  let w := vaWindow a
  let ap := s.aperture a
  if 2 ^ 57 ≤ a then .error ⟨cPAGE, va, accInfo acc⟩
  else if ap && (6 ≤ w || (rawOnly && w != 0) || (w == 5 && 0x1000 < a % 0x20000 + size)) then .error ⟨cWINDOW, va, 0⟩
  else if ap && ((w == 0 && a % size != 0) || ((w == 3 || w == 4) && a % 2 != 0)) then .error ⟨cALIGN, va, 0⟩
  else if a % align != 0 then .error ⟨cALIGN, va, 0⟩
  else .ok ()

/-- Step 6 of R180 on the data of one part: POISON of the data, of quarantined halves (R424) and of a frozen host, whose port answers
with poison (R399); LINKDOWN (R422). -/
def State.dataBad (s : State) (p : Part) (acc : Acc) : Option Bad :=
  let m := s.phys p.loc.dev
  let write := acc == .write
  let bad := if isSpad p.loc.pa then
      let (g, w, off) := spadParts p.loc.pa
      let (o, n) := storedBytes w off p.len
      m.poisoned (write && w != 5) (spadPa g o) n
    else m.poisoned write p.loc.pa p.len
  let d := ((s.ldOf p.loc.pa).map s.ld).getD LogDev.none
  let host := p.loc.dev = 0 && isHost p.loc.pa
  if bad || (host && (d.frozen || (unitsOf 64 (p.loc.pa - hostBase) p.len).any d.quarantined.contains)) then
    some (.flt cPOISON (if acc.writes then 1 else 0))
  else if host && d.down then some (.flt cLINKDOWN 0)
  else none

/-- The data of one part as a requester finds it: `lost` when the answer of a host that it waited for was lost with the link (R422). -/
def State.dataBadFor (s : State) (lost : Bool) (p : Part) (acc : Acc) : Option Bad :=
  (s.dataBad p acc).orElse fun _ => if lost && p.loc.dev = 0 && isHost p.loc.pa then some (.flt cLINKDOWN 0) else none

/-- One part translated and its data checked. -/
def State.niPart (s : State) (va len : Nat) (acc : Acc) : Except (State × Bad × Nat) (State × Part) :=
  match s.translateMy va acc with
  | .error (s, b) => .error (s, b, va)
  | .ok (s, l) =>
    match s.dataBadFor s.my.linkLost ⟨l, len⟩ acc with
    | some b => .error (s, b, va)
    | none => .ok (s, ⟨l, len⟩)

/-- Steps 5 and 6 of R180 for an access of `n` units: one part, or two where it spans two lines (R182). -/
def State.niParts (s : State) (va n : Nat) (acc : Acc) : Except (State × Bad × Nat) (State × List Part) :=
  let n1 := min n (128 - va % 128)
  match s.niPart va n1 acc with
  | .error x => .error x
  | .ok (s, p) =>
    if n1 = n then .ok (s, [p])
    else match s.niPart (va + n1) (n - n1) acc with
      | .error x => .error x
      | .ok (s, q) => .ok (s, [p, q])

/-- A failed access as the stop of the instruction in hand: a trap with EADDR the failing part's first byte, the freeze, or the wait. -/
def badStop (x : State × Bad × Nat) : Stop :=
  match x with
  | (s, .flt c i, va) => .trap s ⟨c, BitVec.ofNat 64 va, i⟩ s.hand.pc
  | (s, .violation, _) => .freeze s
  | (s, .wait k, _) => .wait s (.host k)

/-- The caching agent of the core in hand. -/
def State.agent (s : State) : CacheAgent := .l1 s.hand.core

/-- Where an access is performed: in the core's L1, with `.na` or `.by` (R181), or at the home bank ALU (R186, R265). -/
inductive Hint where
  | plain | na | byp | bank
  deriving DecidableEq, Repr

/-- The hint of an instruction with its two hint bits. -/
def hintOf (byp na : Bool) : Hint := if byp then .byp else if na then .na else .plain

/-- Whether the 16 ways of a set of the cache, numbered as a home, all hold pinned lines, of which line `k` is none (R269). -/
def State.fullyPinned (s : State) (set k : Nat) : Bool :=
  let pins := s.pins
  16 ≤ pins.length && !pins.contains (keyLine k) &&
    16 ≤ (pins.filter fun q => q < 2 ^ 52 && s.homeOf (keyLoc q).pa == some set).length

/-- A demand miss in a set whose 16 ways are all pinned allocates nothing in L2 and is counted (R269, R430). -/
def State.countBypass (s : State) (k : Nat) : State :=
  if s.pins.length < 16 || s.holds s.agent k || 2 ^ 52 ≤ k then s
  else match s.homeOf (keyLoc k).pa with
    | none => s
    | some set =>
      if s.fullyPinned set k then
        { s with telemetry := { s.telemetry with pinbypass := bump s.telemetry.pinbypass (set / 1024) } }
      else s

/-- The L2 slice that holds a host line exclusively (R186, R263): its home slice. -/
def State.hostSlice (s : State) (k : Nat) : CacheAgent := .slice ((s.homeSlice (keyLoc k).pa).getD 0)

/-- How an access to a line goes: one with a hint that hits in the L1, or that meets it, as without the hint (R181); an atomic on a line of a
peer at its home (R186). -/
def State.hintAt (s : State) (k : Nat) (acc : Acc) (h : Hint) : Hint :=
  if 2 ^ 52 ≤ k && acc == .update then .bank
  else if h != .bank && s.holds s.agent k then .plain
  else h

/-- The agent that a write to a line is to be made in, none for the home (R181, R186). -/
def State.writesIn (s : State) (k : Nat) (h : Hint) : Option CacheAgent :=
  if h = .plain then some s.agent
  else if h != .bank && s.dirtyOwner k then (s.dirAt k).bind fun e => e.owner.map (·.1)
  else if hostKey k && !(h = .byp && (s.dirAt k).isNone) then some (s.hostSlice k)
  else none

/-- What an access to a key asks for first (R264, R391 to R393, R397): room in the directory, the half of the host, what the host holds of the
line, the end of the other copies. Answers what it must wait for. -/
def State.askLine (s : State) (k : Nat) (acc : Acc) (h : Hint) : State × Option Cond :=
  let h := s.hintAt k acc h
  match if h = .plain then s.makeRoom k else (s, none) with
  | (s, some q) => (s, some (.host (keyLine q)))
  | (s, none) =>
  let (s, w) := if hostKey k then s.askHalf (keyLine k) acc.writes (keyHalf k)
    else if !acc.writes && s.holds s.agent k then (s, false)
    else s.recall k
  if w then (s, some (.host (keyLine k)))
  else if !acc.writes then (s, none)
  else
    let (s, w) := s.claimLine (some s.hand.core) (s.writesIn k h) k
    (s, if w then some (.grant k) else none)

/-- A write to a line that is granted, by the agent it is made in or at the line's home. Where a hinted store finds no copy of a half of a
host-homed line, it goes on to the host and the half is released (R181). -/
def State.writeLine (s : State) (k : Nat) (h : Hint) : State :=
  let h := s.hintAt k .write h
  if h != .plain && h != .bank && s.dirtyOwner k then s.storeInPlace k
  else match s.writesIn k h with
    | some a => s.dirWrite a k
    | none => if hostKey k then s.dropHalf k else (s.homeStore (some s.hand.core) none k).sliceDirty k

/-- The directory's part in an access to a key that is ready for it (R181, R186, R265, R391). A host-homed line is held in the L1, or
exclusively in a slice where the access is not the L1's. An update gains ownership, and writes later (R187). A read that leaves no copy of
a half of a host-homed line releases it, but for `.na`, as which instructions are fetched too: it leaves it in the slice (R393). -/
def State.touchLine (s : State) (k : Nat) (acc : Acc) (h : Hint) : State :=
  let s := s.usePin (keyLine k)
  let h := s.hintAt k acc h
  match acc with
  | .write => s.writeLine k h
  | .update => match s.writesIn k h with
    | some a => s.dirOwn a k
    | none => s.homeStore (some s.hand.core) none k
  | _ =>
    if h = .plain then s.dirRead s.agent k
    else if hostKey k && (s.dirAt k).isNone then (if h = .na then s.dirRead (s.hostSlice k) k else s.dropHalf k)
    else s.supply k

/-- The keys of the parts of an access outside the scratchpads. -/
def partKeys (ps : List Part) : List Nat := ps.flatMap fun p => if isSpad p.loc.pa then [] else copyKeys p.loc p.len

/-- The write of an update that is made (R187, R393): what gained ownership is now modified; at its home the line is dirty in the slice
(R416). -/
def State.updated (s : State) (ps : List Part) (h : Hint) : State :=
  (partKeys ps).foldl (fun s k => match s.writesIn k (s.hintAt k .update h) with
    | some a => s.dirWrite a k
    | none => s.sliceDirty k) s

/-- The hops between two cache nodes in the package mesh. -/
def nodeHops (m n : Nat) : Nat :=
  let x (t : Nat) : Nat := 12 * (t / 144 % 2) + t % 12
  let y (t : Nat) : Nat := 12 * (t / 288) + t % 144 / 12
  let d (a b : Nat) : Nat := if a ≤ b then b - a else a - b
  d (x m) (x n) + d (y m) (y n)

/-- The replica slice of a tile (R267): the node below it when it is in the slice set, else the nearest, ties to the lower number. -/
def replicaSlice (slices : List Nat) (tile : Nat) : Option Nat :=
  if slices.contains tile then some tile
  else slices.foldl (fun b n => match b with
    | none => some n
    | some m => if nodeHops tile n < nodeHops tile m then some n else b) none

/-- The slice with which a read of a tile of a partition looks up a replicable line first, when it is not the line's home (R267). -/
def State.replicaOf (s : State) (q tile k : Nat) : Option Nat :=
  ((s.partEntry q).bind fun e => replicaSlice (sliceList e) tile).filter fun n => s.homeSlice (keyLoc k).pa != some n

/-- The keys of the parts of a read at `va` that lie in replicable pages: in a page with the read-only-replicable bit and without the writable
bit (R267). -/
def State.rorKeys (s : State) (a : CacheAgent) (q va : Nat) (ps : List Part) : List Nat :=
  (ps.foldl (fun (l, va) p =>
    let ror := (s.leafIn a q va).any fun e => pteRor e && !pteWr e
    (if ror && p.loc.dev == 0 && !isSpad p.loc.pa then l ++ copyKeys p.loc p.len else l, va + p.len)) ([], va)).1

/-- Those that the replica slice of a tile holds: a read of them is served there (R267). -/
def State.replicaHits (s : State) (q tile : Nat) (ks : List Nat) : List Nat :=
  ks.filter fun k => (s.replicaOf q tile k).any fun n => s.holds (.slice n) k

/-- A read by a tile of replicable lines copies them into the replica slice, which the home records as a sharer (R267). The home slice itself
is no sharer (R390), and where every way of the set is pinned no replica is made (R269). -/
def State.replicate (s : State) (q tile : Nat) (ks : List Nat) : State :=
  ks.foldl (fun s k => match s.replicaOf q tile k with
    | none => s
    | some n => if s.fullyPinned (homeSet [n] (keyLoc k).pa) k then s else s.shareLine (.slice n) k) s

/-- The keys of a read of the context in hand that are looked up in the replica slice; `.by` allocates nothing (R181, R267). -/
def State.rorMy (s : State) (va : Nat) (ps : List Part) (h : Hint) : List Nat :=
  if h = .byp || s.isAvlyn then [] else s.rorKeys s.tlb s.partNo va ps

/-! ### Launch-queue tail lines (R344, R345) -/

/-- The partition whose launch-queue header has its APPEND doubleword at this line of device memory, when [pa, pa + 1) touches it. -/
def State.appendLine (s : State) (pa : Nat) : Option Nat :=
  if 8 ≤ pa % 128 then none
  else
    let line := pa / 128 * 128
    (s.parts.find? fun (p, e) => e.valid && match e.queueBase with
      | none => false
      | some b =>
        let q := (line % 4096 + 4096 - b % 4096) % 4096 / 128
        q < 24 && match s.translate .distributor p (b + 128 * q) .read with
          | .ok (_, l) => l == ⟨0, line⟩
          | .error _ => false).map (·.1)

/-- Adds one to DROPS of the queue header at `hdr`, at the header's home by agent `a`; the distributor, a sharer of the tail line, reads it anew
(R3). -/
def State.countDrop (s : State) (a : Option CacheAgent) (hdr : Nat) : State :=
  (s.storeHome a ⟨0, hdr + 20⟩ 4 (bytesRead s.mem.bytes (hdr + 20) 4 + 1)).shareLine .distributor (lineKey ⟨0, hdr⟩)

/-- A refused append to a queue of partition `p`: DROPS, and event class 3 (R345, R403). -/
def State.dropAppend (s : State) (p hdr : Nat) : State := (s.countDrop none hdr).raiseEvent p 3

/-- Where the next entry of the queue with its header at physical address `hdr` goes, and the state in which its page is placed; none when an
append is refused: the ring is full, its header is invalid (log entry 119), the entry cannot be reached (log entry 20), or its line is
poisoned, which an append replaces only in part (R413). -/
def State.slotAt (s : State) (p hdr : Nat) : State × Option Loc :=
  let tail := bytesRead s.mem.bytes (hdr + 8) 4
  let head := bytesRead s.mem.bytes (hdr + 12) 4
  let log := bytesRead s.mem.bytes (hdr + 16) 1 % 32
  let ring := bytesRead s.mem.bytes (hdr + 24) 8
  if log < 6 || 16 < log || ring % 128 != 0 || 2 ^ 57 ≤ ring || (tail + 2 ^ 32 - head) % 2 ^ 32 = 2 ^ log then (s, none)
  else match s.translate .distributor p (ring + 8 * (tail % 2 ^ log)) .write with
    | .ok (s, l) => (s, if l.dev = 0 && l.pa < hbmSize && !s.mem.poisoned true l.pa 8 then some l else none)
    | .error (s, _) => (s, none)

/-- Append (R345) at the bank ALU of the header at physical address `hdr`: the new state, and whether the entry was appended. The distributor,
a sharer of the tail line, reads it anew (R3, R343). -/
def State.appendEntry (s : State) (p hdr v : Nat) : State × Bool :=
  let tail := bytesRead s.mem.bytes (hdr + 8) 4
  if 2 ^ 57 ≤ v then (s.dropAppend p hdr, false)
  else match s.slotAt p hdr with
    | (s, some l) => (((s.storeHome none l 8 v).storeHome none ⟨0, hdr + 8⟩ 4 (tail + 1)).shareLine .distributor (lineKey ⟨0, hdr⟩), true)
    | (s, none) => (s.dropAppend p hdr, false)

/-- The entry of the queue ring that an append to the APPEND doubleword at `pa` is to write, made ready: what placing its page waits for, then the
other copies of its line. Answers a line that it must wait for (R345, R391). -/
def State.slotReady (s : State) (p : Part) : State × Option Nat :=
  match if p.loc.dev = 0 && p.loc.pa < hbmSize then s.appendLine p.loc.pa else none with
  | none => (s, none)
  | some q => match s.slotAt q (p.loc.pa / 128 * 128) with
    | (_, none) => (s, none)
    | (t, some l) => match s.blockers t with
      | [] => s.askHomes none none [lineKey l]
      | ks => s.askHomes none none ks

/-- Prepares the lines of an access (R391 to R393, R397): asks the host for halves, recalls what the host holds, asks that other copies
go, and, once all of this is there, moves ownership. Answers what the access must wait for, the end of a cable step of the scratchpad's
core among it (R289). The lines `hits` are served by a replica: they need nothing of their home, and the L1 becomes one more sharer (R267). -/
def State.prepareBut (s : State) (hits : List Nat) (ps : List Part) (acc : Acc) (h : Hint) : State × Option Cond :=
  match ps.find? fun p => isSpad p.loc.pa && p.loc.dev == 0 && s.coreInCable (spadParts p.loc.pa).1 with
  | some p => (s, some (.host (lineKey p.loc)))
  | none =>
    let ks := partKeys ps
    let (s, w) := ks.foldl (fun (s, w) k =>
      let (s, x) := if hits.contains k then (s, none) else s.askLine k acc h
      (s, w.orElse fun _ => x)) (s, none)
    let (s, w) := if acc.writes then ps.foldl (fun (s, w) p =>
      let (s, x) := s.slotReady p
      (s, w.orElse fun _ => x.map Cond.host)) (s, w) else (s, w)
    match w with
    | some c => (s, some c)
    | none => (ks.foldl (fun s k =>
        if hits.contains k then (if h = .plain then s.shareLine s.agent k else s)
        else (if h = .byp then s else s.countBypass k).touchLine k acc h) s, none)

/-- The same where no line is looked up in a replica slice. -/
def State.prepare (s : State) (ps : List Part) (acc : Acc) (h : Hint) : State × Option Cond := s.prepareBut [] ps acc h

/-- A store to memory outside the scratchpads: at an APPEND doubleword it appends, or counts a drop when it is not an aligned store
of 8 bytes (R345). What an atomic writes there is appended as a store of it would be, and a store that is dropped writes none of its bytes
(log entry 120). -/
def State.store (s : State) (l : Loc) (n v : Nat) : State :=
  if l.dev = 0 && l.pa < hbmSize then
    match s.appendLine l.pa with
    | some p => if n = 8 && l.pa % 128 = 0 then (s.appendEntry p l.pa v).1 else s.dropAppend p (l.pa / 128 * 128)
    | none => s.writeAt l n v
  else s.writeAt l n v

/-- A load outside the scratchpads; APPEND reads 0 (R344). -/
def State.load (s : State) (l : Loc) (n : Nat) : Nat :=
  let v := s.readAt l n
  if l.dev = 0 && l.pa < hbmSize && (s.appendLine l.pa).isSome then v - v % 256 ^ (8 - l.pa % 128) else v

/-- Reads the bytes of a part, or the value of a scratchpad window (R57, R58). -/
def State.readPart (s : State) (p : Part) : Nat :=
  if isSpad p.loc.pa then
    let (g, w, off) := spadParts p.loc.pa
    (s.phys p.loc.dev).winRead (s.tableOf p.loc.dev g) g w off p.len
  else s.load p.loc p.len

/-- Writes a part; flags of the conversion through a window (R179: rne, no saturation). -/
def State.writePart (s : State) (p : Part) (v : Nat) : State × FFlags :=
  if isSpad p.loc.pa then
    let (g, w, off) := spadParts p.loc.pa
    if p.loc.dev = 0 then s.winWrite g w off p.len v 0
    else
      let m := s.phys p.loc.dev
      if w = 5 then (s.setPhys p.loc.dev (m.feWrite g off p.len v), 0)
      else
        let (o, n, b, fl) := m.winBytes (s.tableOf p.loc.dev g) g w off p.len v 0
        (s.setPhys p.loc.dev ({ m with bytes := bytesWrite m.bytes (spadPa g o) n b }.cleanse (spadPa g o) n), fl)
  else (s.store p.loc p.len v, 0)

/-- Reads the parts of an access, the lower first. -/
def State.readParts (s : State) : List Part → Nat
  | [] => 0
  | p :: t => s.readPart p + 256 ^ p.len * s.readParts t

/-- Writes the parts of an access, the lower first. -/
def State.writeParts (s : State) : List Part → Nat → State × FFlags
  | [], _ => (s, 0)
  | p :: t, v =>
    let (s, f) := s.writePart p (if isSpad p.loc.pa then v else v % 256 ^ p.len)
    let (s, g) := s.writeParts t (v / 256 ^ p.len)
    (s, f ||| g)

/-- What an access to parts in the scratchpad of the core in hand must wait for, if anything: its queue, its row array or its table
(R163, R171, R323). -/
def State.ownBlocked (s : State) (ps : List Part) (write : Bool) : Option Cond :=
  ps.findSome? fun p =>
    let (g, w, off) := spadParts p.loc.pa
    if p.loc.dev = 0 && isSpad p.loc.pa && g == s.hand.core && s.accessBlocked g write w off p.len then some (.scratch write w off p.len)
    else none

/-- All the checks of R180 after CheckCap, as those of an access `acc`, and the lines made ready as for an access `own`. The tile NI keeps
the translations it made. -/
def State.niReach (s : State) (va : Word) (size align : Nat) (rawOnly : Bool) (acc own : Acc) (h : Hint) : Res (State × List Part) := do
  s.lift (s.niForm va size align rawOnly acc)
  let n := s.vaUnits va.toNat size
  match s.niParts va.toNat n acc with
  | .error x => .error (badStop x)
  | .ok (s, ps) =>
    match s.ownBlocked ps acc.writes with
    | some c => .error (.wait s c)
    | none =>
      let ror := if acc = .read then s.rorMy va.toNat ps h else []
      let (s, w) := s.prepareBut (s.replicaHits s.partNo (s.hand.core / 8) ror) ps own h
      match w with
      | some c => .error (.wait s c)
      | none =>
        let written := if acc.writes then partKeys ps else []
        let s := (s.fillMy va.toNat written).fillMy (va.toNat + n - 1) written
        return (s.replicate s.partNo (s.hand.core / 8) ror, ps)

/-- The checks and the lines of an access, which is then performed in one step. -/
def State.niAccess (s : State) (va : Word) (size align : Nat) (rawOnly : Bool) (acc : Acc) (h : Hint) : Res (State × List Part) :=
  s.niReach va size align rawOnly acc acc h

/-- A global read of `size` bytes: the value. -/
def State.niRead (s : State) (va : Word) (size align : Nat) (rawOnly : Bool) (h : Hint) : Res (State × Nat) := do
  let (s, ps) ← s.niAccess va size align rawOnly .read h
  return (s, s.readParts ps)

/-- A global write of `size` bytes. -/
def State.niWrite (s : State) (va : Word) (size align : Nat) (rawOnly : Bool) (h : Hint) (v : Nat) : Res State := do
  let (s, ps) ← s.niAccess va size align rawOnly .write h
  let (s, f) := s.writeParts ps v
  return s.orFlags f

/-- An indivisible read and write of a doubleword or a larger aligned object (R185): `f` gives the new value, or none to write
nothing. -/
def State.niUpdate (s : State) (va : Word) (size align : Nat) (h : Hint) (f : Nat → Option Nat) : Res (State × Nat) := do
  let (s, ps) ← s.niAccess va size align true .update h
  let old := s.readParts ps
  match f old with
  | some v => return (((s.updated ps h).writeParts ps v).1, old)
  | none => return (s, old)

/-- Posts the reply of a load of `n` bytes at `va`, checked with a tag (R12): LOAD_REPLY will write it. It keeps the lines that the
translation and the check came from (R383, R388). -/
def State.postReply (s : State) (va n tag : Nat) (d : Dest) (v : BitVec 128) (fl : FFlags) : State :=
  let two := if (va + n - 1) / 4096 = va / 4096 then [] else s.myLines (va + n - 1)
  let lines := s.myLines va ++ two ++ if tag = 0 then [] else ((s.tagLine tag).map (·.1)).toList
  s.modMy fun c => { c with replies := c.replies ++ [⟨d, v, fl, lines⟩] }

/-! ### Global performance (R193, R220, R322) -/

/-- Whether no gather or scatter accepted before the `free`s of core `g` still uses a tag they revoked (R388). -/
def State.freesDone (s : State) (g : Nat) : Bool :=
  let tags := (s.coreAt g).freed
  tags.isEmpty || s.cmds.all fun c => c.st == .frozen || c.caps.all fun x => !tags.contains (capTag x)

/-- Whether every store of the core in hand is globally performed: no line awaits acknowledgements for one of them, and no
engine still uses what it freed (R382, R388). -/
def State.storesPerformed (s : State) : Bool :=
  (s.dir.all fun e => e.awaited.isEmpty || !e.writers.contains s.hand.core) && s.freesDone s.hand.core

/-- Closes the update flits of a core: of what it has written, and of what it publishes (R220). -/
def State.closeFlits (s : State) (g : Nat) : State :=
  { s with cores := s.cores.map fun x =>
      if x.2.flits.any fun f => !f.closed && (f.writer == g || x.1 == g) then
        (x.1, { x.2 with flits := x.2.flits.map fun f => if f.writer = g || x.1 = g then { f with closed := true } else f })
      else x }

/-- Whether every update of what a core has written, in whatever scratchpad, has been applied (R212, R221). -/
def State.updatesDone (s : State) (g : Nat) : Bool := s.cores.all fun x => x.2.flits.all fun f => f.writer != g && x.1 != g

/-- Extension of a loaded value of `size` bytes (R175). -/
def extend (size : Nat) (sx : Bool) (v : Nat) : Word :=
  let w := BitVec.ofNat 64 v
  match size, sx with
  | 1, true => (w.setWidth 8).signExtend 64
  | 2, true => (w.setWidth 16).signExtend 64
  | 4, true => (w.setWidth 32).signExtend 64
  | 1, false => (w.setWidth 8).setWidth 64
  | 2, false => (w.setWidth 16).setWidth 64
  | 4, false => (w.setWidth 32).setWidth 64
  | _, _ => w

/-- The size in bytes of the SIZE field (R175). -/
def sizeOf2 (sz : BitVec 2) : Nat :=
  match sz.toNat with
  | 0 => 8
  | 1 => 1
  | 2 => 2
  | _ => 4

end Sys2Proof.Machine
end

