-- ==== Sys2Proof/Machine/Fetch.lean ====
section
/-! DEFINITION. Instruction fetch through the L1 instruction cache (R99, R101, R183, R194, R261), the instruction a context has next, and
when its registers let it issue (R12, R14, R15). -/

namespace Sys2Proof.Machine

/-! ### The instruction cache (R194) -/

/-- The key of a line in the instruction cache: the lines of each context are its own, by the address at which it fetched them. -/
def icacheKey (ctx line : Nat) : Nat := ctx * 2 ^ 60 + line

/-- The line of the instruction cache that holds an address for the context in hand. -/
def State.fetchedLine (s : State) (va : Nat) : Option ILine := smapGet? s.me.icache (icacheKey s.hand.ctx (va / 128 * 128))

/-- The halfword at a location outside the scratchpads. -/
def State.halfIn (s : State) (l : Loc) : Half := BitVec.ofNat 16 (s.readAt l 2)

/-- The instruction cache keeps the line of a part that was fetched at `va`; of a host-homed line only the half that was asked for (R194,
R393). A halfword in a scratchpad is read where it lies. -/
def State.keepFetched (s : State) (va : Nat) (p : Part) : State :=
  if isSpad p.loc.pa then s
  else
    let src := lineKey p.loc
    let old (i : Nat) : Option Half := (s.fetchedLine va).bind fun l => l.data.getD i none
    let asked (i : Nat) : Bool := !(p.loc.dev == 0 && isHost p.loc.pa) || i / 32 == p.loc.pa % 128 / 64
    let data := (List.range 64).map fun i => if asked i then some (s.halfIn ⟨(keyLoc src).dev, (keyLoc src).pa + 2 * i⟩) else old i
    s.modMe fun c => { c with icache := smapSet c.icache (icacheKey s.hand.ctx (va / 128 * 128)) ⟨src, data⟩ }

/-- `fence.desc`: the instruction cache holds nothing more for the context in hand (R194). -/
def State.dropFetched (s : State) : State :=
  if s.me.icache.isEmpty then s
  else s.modMe fun c => { c with icache := c.icache.filter fun x => x.1 / 2 ^ 60 != s.hand.ctx }

/-- Why a fetch does not go on: it fails at an address, or waits. -/
abbrev FetchStop := State × Bad × Nat ⊕ State × Cond

/-- Fetches the halfword of a part that the instruction cache does not hold; `ror` are the keys of it that are looked up in the replica slice
(R267). It goes through the L2 slice, which keeps a half of a host-homed line (R393). -/
def State.fetchMiss (s : State) (va : Nat) (p : Part) (ror : List Nat) : Except FetchStop (State × Half) :=
  match s.prepareBut (s.replicaHits s.partNo (s.hand.core / 8) ror) [p] .fetch .na with
  | (s, some c) => .error (.inr (s, c))
  | (s, none) =>
    let s := (s.fillMy va []).replicate s.partNo (s.hand.core / 8) ror
    .ok (s.keepFetched va p, BitVec.ofNat 16 (s.readPart p))

/-- Fetches the halfword at an address. A line stays in the instruction cache as it was fetched, and with the place that it was fetched from,
until the context's `fence.desc`: a new mapping of its page is not looked at before (R383). Where memory has changed there since, the old
or the new halfword comes, independently for each (R194); which of the two is a free value. An aperture address is fetched through window
RAW, and through FE for its own bytes; through a converting window (Q8, Q6, H16, B16) what comes is the low half of the converted value,
the model's choice (log entry 121); windows 6 and 7 are no windows (R58, R180). -/
def State.fetchOne (s : State) (va : Nat) : Except FetchStop (State × Half) :=
  match s.fetchedLine va with
  | some l =>
    let p : Part := ⟨⟨(keyLoc l.src).dev, (keyLoc l.src).pa + va % 128⟩, 2⟩
    match l.data.getD (va % 128 / 2) none with
    | some old =>
      let now := s.halfIn p.loc
      if old = now then .ok (s, now)
      else
        let t : State := { s with fresh := s.fresh + 1 }
        if !(Config.freeByte s.fresh 0).getLsbD 0 || (t.dataBad p .fetch).isSome then .ok (t, old)
        else match t.prepare [p] .fetch .na with
          | (t, some c) => .error (.inr (t, c))
          | (t, none) => .ok (t, now)
    | none => match s.dataBadFor s.my.linkLost p .fetch with
      | some b => .error (.inl (s, b, va))
      | none => s.fetchMiss va p []
  | none =>
    match s.niForm (BitVec.ofNat 64 va) 2 1 false .fetch with
    | .error f => .error (.inl (s, .flt f.code f.info, va))
    | .ok () =>
      match s.niPart va (s.vaUnits va 2) .fetch with
      | .error x => .error (.inl x)
      | .ok (s, p) => s.fetchMiss va p (s.rorMy va [p] .na)

/-- Fetches halfwords from `va` until the base word, an invalid chain, or a fetch that fails or waits. -/
def State.fetchGo : Nat → State → Nat → List Half → Except FetchStop (State × List Half)
  | 0, s, _, hs => .ok (s, hs)
  | k + 1, s, va, hs =>
    match s.fetchOne va with
    | .error x => .error x
    | .ok (s, h) =>
      let hs := hs ++ [h]
      if isPfx h && (parseChain (hs ++ [0]) 0 0 (.bare 0)).isSome then State.fetchGo k s (va + 2) hs else .ok (s, hs)

/-- The halfwords of the instruction at an address. -/
def State.fetch (s : State) (pc : Word) : Except FetchStop (State × List Half) := State.fetchGo 5 s pc.toNat []

/-- The halfword that stands at an address, 0 where none can be read. -/
def State.halfAt (s : State) (pc : Word) : Half :=
  match s.translateMy pc.toNat .read with
  | .ok (s, l) => BitVec.ofNat 16 (s.readAt l 2)
  | .error _ => 0

/-- The next instruction of context `n` of core `g`, when it can be fetched. -/
def State.nextInstr (s : State) (g n : Nat) : Option Instr :=
  let t := s.at g n
  match t.fetch t.hand.pc with
  | .ok (_, hs) => (decode hs).map (·.1)
  | .error _ => none

/-! ### Register interlocks (R12, R14, R15) -/

/-- The scalar and capability registers that an instruction reads or writes. -/
def regsOf : Instr → List (BitVec 5) × List (BitVec 4)
  | .add _ _ d a b | .sub _ _ d a b | .and _ d a b | .or _ d a b | .xor _ d a b | .andn _ d a b | .min _ _ d a b
  | .max _ _ d a b | .shl _ _ d a b | .shr _ d a b | .sra _ d a b | .rol _ d a b | .mul _ _ d a b | .mulh _ _ d a b
  | .div _ _ d a b | .rem _ _ d a b | .sel _ d a b _ | .amo _ _ _ d a b | .fadd _ _ _ d a b | .fsub _ _ _ d a b
  | .fmul _ _ _ d a b | .fdiv _ _ _ d a b | .faddD _ _ _ d a b | .fsubD _ _ _ d a b | .fmulD _ _ _ d a b
  | .fdivD _ _ _ d a b | .fmin _ _ d a b | .fmax _ _ d a b | .fminD _ _ d a b | .fmaxD _ _ d a b => ([d, a, b], [])
  | .clz _ d a | .ctz _ d a | .popc _ d a | .bswap _ d a | .mov _ d a | .addImm _ _ d a _ | .andImm _ d a _ | .orImm _ d a _
  | .xorImm _ d a _ | .shlImm _ _ d a _ | .shrImm _ d a _ | .sraImm _ d a _ | .ld _ _ _ d a _ | .st _ _ _ d a _
  | .lds _ d a _ | .stf _ d a _ | .barv _ d a | .rfin _ d a _ | .fsqrt _ _ _ d a | .fclass _ d a | .fsqrtD _ _ _ d a
  | .fclassD _ d a | .fcvt _ _ _ _ d a => ([d, a], [])
  | .bext _ _ d a b c | .bins _ d a b c | .cas _ _ d a b c | .lease _ d a b c | .fma _ _ _ d a b c | .fmaD _ _ _ d a b c
  | .msplit _ _ d a b c | .msplitC _ _ d a b c | .msplitX _ _ d a b c | .mrefine _ _ d a b c | .mrefineC _ _ d a b c
  | .mrefineX _ _ d a b c => ([d, a, b, c], [])
  | .cmp _ _ _ a b | .vins _ _ a b | .vshape _ a b | .bnew _ a b | .bexp _ a b | .bwait _ _ a b | .fcmp _ _ _ _ a b
  | .fcmpD _ _ _ _ a b | .sleep _ _ a b | .launch _ _ a b => ([a, b], [])
  | .li _ d _ | .kpop _ d _ | .vred _ _ _ _ _ d _ _ | .sget _ d _ | .xrecv _ d | .mround _ d _ | .mfc _ d _ | .mtc _ d _
  | .rdcnt _ d _ => ([d], [])
  | .sete _ a _ | .jr _ a | .hwait _ a | .vbcast _ _ a _ | .vscale _ a | .vld _ _ _ _ a _ _ | .vst _ _ _ _ _ a _ _
  | .vldb _ _ _ a _ _ | .gang _ a | .mstc _ a | .ecfg _ a | .tsave _ _ a | .trest _ _ a | .prf _ _ _ a | .cclean _ a
  | .cflush _ a | .unlease _ a | .sopen _ _ a | .send _ _ a | .fetch _ _ a | .gath _ _ a | .scat _ _ a | .xsend _ a
  | .xsel _ a | .unsub _ a | .trap _ a | .wake _ a | .cancel _ a => ([a], [])
  | .loop c _ => ([c], [])
  | .call _ _ | .ret _ => ([31], [])
  | .callr _ a => ([31, a], [])
  | .hstart _ d a b => ([d, a, b], [1, 15])
  | .vrot _ _ _ b _ | .sadv _ _ b | .sgetv _ _ _ b | .mstar _ _ _ _ b | .mvalid _ _ _ b => ([b], [])
  | .vext _ _ d _ b | .mreserve _ d _ b | .mfld _ _ _ d _ b | .mfst _ _ _ d _ b => ([d, b], [])
  | .mldb _ a b c | .rsw _ a b c => ([a, b, c], [])
  | .ldg _ _ _ capb _ _ d a _ | .stg _ _ capb _ _ d a _ => if capb then ([d], [a.setWidth 4]) else ([d, a], [])
  | .ldc _ d a _ | .stc _ d a _ => ([], [d, a])
  | .alloc _ d a | .subSubscription _ d a _ => ([a], [d])
  | .free _ a | .mopen _ _ a => ([], [a])
  | .cbound _ d a b c => ([b, c], [d, a])
  | .cadd _ d a b | .cmov _ d a b => ([b], [d, a])
  | .cget _ _ d a => ([d], [a])
  | .cchk _ _ _ a b c => ([b, c], [a])
  | .cnull _ d => ([], [d])
  | .mget _ _ _ n d _ b => (b :: (List.range (n.toNat + 1)).map fun i => d + BitVec.ofNat 5 i, [])
  | .medge _ d _ b c => ([d, b, c], [])
  | .mcoll _ _ _ d a c | .mcollC _ _ _ d a c | .mcollX _ _ _ d a c | .mflip _ _ d a c | .mflipC _ _ d a c
  | .mflipX _ _ d a c => ([d, a, c], [])
  | .uret => ((List.range 32).map (BitVec.ofNat 5), (List.range 16).map (BitVec.ofNat 4))
  | _ => ([], [])

/-- The scalar register that a queued instruction writes (R142). -/
def VOp.scalarDest : VOp → Option (BitVec 5)
  | .kpop d _ => some d
  | .ext _ d _ _ => some d
  | .red _ _ _ _ d _ _ => some d
  | _ => none

/-- The registers of context `n` of a core that an earlier instruction is still to write: by a load reply, or at the queue head. -/
def Core.owed (c : Core) (n : Nat) : List (BitVec 5) × List (BitVec 4) :=
  let ds := (c.ctxAt n).replies.map (·.dest)
  ((ds.filterMap fun d => match d with
      | .s r => some r
      | _ => none) ++ c.vq.filterMap (fun e => if e.cap.ctx = n then e.op.scalarDest else none),
   ds.filterMap fun d => match d with
      | .a r => some r
      | _ => none)

/-- Whether the latest scratchpad load of a context delivers its result only after this cycle (R7, R15): its register, when it was issued
less than 2 cycles ago. -/
def Core.fresh2 (c : Core) (n : Nat) : Option (BitVec 5) :=
  match (c.ctxAt n).loaded with
  | some (r, t) => if c.cycles - t < 2 then some r else none
  | none => none

/-- Whether an instruction of context `n` must wait for a register: one it reads, or one it writes that an earlier instruction is still to
write (R12, R14, R15; log entry 77). Writes to s0 and a0 are discarded. -/
def Core.interlocked (c : Core) (n : Nat) (i : Instr) : Bool :=
  let (ss, as) := c.owed n
  let (rs, ra) := regsOf i
  (ss.any fun r => r != 0 && rs.contains r) || (as.any fun r => r != 0 && ra.contains r)
    || (c.fresh2 n).any fun r => r != 0 && rs.contains r

/-- Whether a context waits for a register of its next instruction (R12). -/
def State.regWait (s : State) (g n : Nat) : Bool :=
  let c := s.coreAt g
  !((c.owed n).1.isEmpty && (c.owed n).2.isEmpty && (c.fresh2 n).isNone) && (s.nextInstr g n).any (c.interlocked n)

/-- Whether a context is ready (R11): its next instruction may issue. -/
def State.isReady (s : State) (g n : Nat) : Bool := ((s.coreAt g).ctxAt n).st == .ready && !s.regWait g n

/-! ### The cable step (R15, R215 to R217) -/

/-- The registers that an instruction allowed in a cable step reads (R15, R215). -/
def cableReads : Instr → List (BitVec 5)
  | .add _ _ _ a b | .sub _ _ _ a b | .shl _ _ _ a b => [a, b]
  | .and _ _ a b | .or _ _ a b | .xor _ _ a b | .andn _ _ a b | .shr _ _ a b | .sra _ _ a b | .rol _ _ a b => [a, b]
  | .min _ _ _ a b | .max _ _ _ a b => [a, b]
  | .clz _ _ a | .ctz _ _ a | .popc _ _ a | .bswap _ _ a | .mov _ _ a => [a]
  | .bext _ _ _ a b c => [a, b, c]
  | .bins _ d a b c => [d, a, b, c]
  | .sel _ _ a b _ => [a, b]
  | .cmp _ _ _ a b => [a, b]
  | .addImm _ _ _ a _ | .shlImm _ _ _ a _ => [a]
  | .andImm _ _ a _ | .orImm _ _ a _ | .xorImm _ _ a _ | .shrImm _ _ a _ | .sraImm _ _ a _ => [a]
  | .ld _ _ _ _ a _ => [a]
  | .st _ _ _ d a _ => [d, a]
  | .stf _ d a _ => [d, a]
  | .sete _ a _ => [a]
  | .loop c _ => [c]
  | .xsend _ a | .xsel _ a => [a]
  | _ => []

/-- The guard and the destination of a scratchpad load, whose result comes a cycle later (R15): `ld`, `lds`, and `sget` of a strand of the own
scratchpad, which reads as `ld` (R196). -/
def State.cableLoads (s : State) : Instr → Option (Guard × BitVec 5)
  | .ld g _ _ d _ _ | .lds g d _ _ => if d = 0 then none else some (g, d)
  | .sget g d h => if d = 0 || !(s.my.h[h.toNat]).any (fun x => x.loc && !x.ring) then none else some (g, d)
  | _ => none

/-- Whether an instruction of context 0 reads what the load just before it loads, in a cable step: it then issues a cycle later. -/
def State.cableLate1 (s : State) (g : Nat) (i : Instr) : Bool :=
  s.coreInCable g && (s.coreAt g).loaded.any fun r => (cableReads i).contains r

/-- The cycles of a cable step. -/
def cableCycles : Nat := 4096

/-- The cycle of a cable step in which context 0 of a core would issue next. -/
def State.cableNext (s : State) (g : Nat) : Nat :=
  (s.coreAt g).cable + if (s.coreAt g).loaded.isSome && (s.nextInstr g 0).any (s.cableLate1 g) then 1 else 0

end Sys2Proof.Machine
end

