-- ==== Sys2Proof/Machine/Operands.lean ====
section
/-! DEFINITION. Operand forms: floating-point operands with their modifiers, register layouts of the formats, local and global
effective addresses (R95, R136, R141, R176, R179). -/

namespace Sys2Proof.Machine

/-- Negation and absolute value act on the sign bit only, absolute value first (R95, R136). -/
def opMod (f : Fmt) (neg abs : Bool) (bits : Nat) : Nat :=
  let sg := if abs then false else bits / f.sign % 2 == 1
  bits % f.sign + (if sg != neg then f.sign else 0)

/-- Operand number `i` (0 for a, 1 for b, 2 for c) under the MO payload. -/
def modOperand (f : Fmt) (mo : BitVec 6) (i bits : Nat) : Nat := opMod f (mo.getLsbD (2 * i + 1)) (mo.getLsbD (2 * i)) bits

/-- The width of a format in bits. -/
def Fmt.width (f : Fmt) : Nat := 1 + f.ew + f.fw

/-- The bits of a floating-point operand in a scalar register: the low bits of the register (R136, R141). -/
def fBits (f : Fmt) (x : Word) : Nat := x.toNat % 2 ^ f.width

/-- A floating-point operand read from a scalar register. -/
def State.fOperand (s : State) (f : Fmt) (mo : BitVec 6) (i : Nat) (r : BitVec 5) : FVal := unpack f (modOperand f mo i (fBits f (s.S r)))

/-- A floating-point result as a scalar register holds it, zero-extended (R136). -/
def fWord (bits : Nat) : Word := BitVec.ofNat 64 bits

/-- The effective address of a base register and an immediate (R176, R179). -/
def State.ea (s : State) (a : BitVec 5) (imm : Word) : Word := s.S a + imm

/-- The target of a branch, jump or call: pc + 2 × off (R93, R123). -/
def State.target (s : State) (off : Word) : Word := s.hand.pc + 2 * off

/-- The format codes of `fcvt` (R141): floating-point formats. -/
def cvtFmt (code : BitVec 3) : Fmt :=
  match code.toNat with
  | 0 => f32
  | 1 => f64
  | 2 => h16
  | _ => b16

/-- The range of an integer format of `fcvt`, codes 4 to 7 (R141). -/
def cvtRange (code : BitVec 3) : Int × Int :=
  match code.toNat with
  | 4 => (-(2 ^ 63), 2 ^ 63 - 1)
  | 5 => (0, 2 ^ 64 - 1)
  | 6 => (-(2 ^ 31), 2 ^ 31 - 1)
  | _ => (0, 2 ^ 32 - 1)

/-- An integer operand of `fcvt`. -/
def cvtInt (code : BitVec 3) (x : Word) : Int :=
  match code.toNat with
  | 4 => x.toInt
  | 5 => x.toNat
  | 6 => (x.setWidth 32).toInt
  | _ => (x.setWidth 32).toNat

end Sys2Proof.Machine
end

