-- ==== Sys2Proof/Machine/Flags.lean ====
section
/-! DEFINITION. Results with flags, and conditions (R41, R45, R107, R113, R121, R136, R140). -/

namespace Sys2Proof.Machine

/-- An integer result from its exact value: wrapped modulo 2^64, or saturated with FFLAGS.SAT under MR `sat` (R113). -/
def intResult (mr : BitVec 8) (x : Int) : Word × FFlags :=
  if mrMode mr = 1 then
    let y := max (-(2 ^ 63)) (min x (2 ^ 63 - 1))
    (BitVec.ofInt 64 y, flagIf (y != x) fSAT)
  else (BitVec.ofInt 64 x, 0)

/-- The conditions of `cmp` (R121). -/
def intCond (cond : BitVec 3) (a b : Word) : Bool :=
  match cond.toNat with
  | 0 => a == b
  | 1 => a != b
  | 2 => a.slt b
  | 3 => !a.slt b
  | 4 => a.ult b
  | 5 => !a.ult b
  | _ => a &&& b != 0

/-- Quotient (R116, R45): division by zero gives all ones, signed MIN ÷ −1 gives MIN. -/
def intDiv (u : Bool) (a b : Word) : Word :=
  if b = 0 then BitVec.allOnes 64 else if u then a / b else BitVec.ofInt 64 (a.toInt.tdiv b.toInt)

/-- Remainder, with the sign of the dividend (R116, R45): division by zero gives the dividend. -/
def intRem (u : Bool) (a b : Word) : Word :=
  if b = 0 then a else if u then a % b else BitVec.ofInt 64 (a.toInt.tmod b.toInt)

/-- The high 64 bits of the product (R116). -/
def intMulh (u : Bool) (a b : Word) : Word :=
  if u then BitVec.ofNat 64 (a.toNat * b.toNat / 2 ^ 64) else BitVec.ofInt 64 ((a.toInt * b.toInt) / 2 ^ 64)

/-- Leading zeros of the low `n` bits (R117). -/
def clzGo (a : Word) : Nat → Nat
  | 0 => 0
  | n + 1 => if a.getLsbD n then 0 else 1 + clzGo a n

/-- Trailing zeros, `n` bits left from bit `i`. -/
def ctzGo (a : Word) : Nat → Nat → Nat
  | 0, _ => 0
  | n + 1, i => if a.getLsbD i then 0 else 1 + ctzGo a n (i + 1)

/-- One bits among the low `n`. -/
def popGo (a : Word) : Nat → Nat
  | 0 => 0
  | n + 1 => (if a.getLsbD n then 1 else 0) + popGo a n

/-- The eight bytes in reverse order (R117). -/
def byteSwap (a : Word) : Word :=
  a.extractLsb' 0 8 ++ a.extractLsb' 8 8 ++ a.extractLsb' 16 8 ++ a.extractLsb' 24 8 ++ a.extractLsb' 32 8 ++ a.extractLsb' 40 8
    ++ a.extractLsb' 48 8 ++ a.extractLsb' 56 8

/-- The field mask of `bext` and `bins`: width and mask, none when the field is empty (R118). -/
def fieldMask (off w : Word) : Option (Nat × Word) :=
  if 64 ≤ off.toNat || w = 0 then none
  else
    let n := min w.toNat (64 - off.toNat)
    some (n, BitVec.ofNat 64 (2 ^ n - 1) <<< off.toNat)

/-- `bext` (R118). -/
def bitExtract (sx : Bool) (x off w : Word) : Word :=
  match fieldMask off w with
  | none => 0
  | some (n, m) =>
    let y := (x &&& m) >>> off.toNat
    if sx && y.getLsbD (n - 1) then y ||| BitVec.allOnes 64 <<< n else y

/-- `bins` (R118). -/
def bitInsert (d x off w : Word) : Word :=
  match fieldMask off w with
  | none => d
  | some (_, m) => (d &&& ~~~m) ||| ((x <<< off.toNat) &&& m)

/-- Writes a floating-point result formed by R40 and R41, with its flags (R136). -/
def State.setF (s : State) (f : Fmt) (mr : BitVec 8) (d : BitVec 5) (x : Exact × FFlags) : State :=
  let (b, fl) := formResult f mr x.1 x.2
  (s.setS d (fWord b)).orFlags fl

end Sys2Proof.Machine
end

