-- ==== Sys2Proof/Machine/Scalar.lean ====
section
/-! DEFINITION. Scalar integer and predicate instructions (R110 to R122). -/

namespace Sys2Proof.Machine

/-- A result that `sat` may saturate: writes the register and ORs the flags (R113). -/
def State.setInt (s : State) (mr : BitVec 8) (d : BitVec 5) (x : Int) : State :=
  let (v, fl) := intResult mr x
  (s.setS d v).orFlags fl

/-- `add` (R112, R113). -/
def execAdd (g : Guard) (mr : BitVec 8) (d a b : BitVec 5) (s : State) : Out :=
  run true true g s fun s => .ok (s.setInt mr d ((s.S a).toInt + (s.S b).toInt))

/-- `sub` (R112, R113). -/
def execSub (g : Guard) (mr : BitVec 8) (d a b : BitVec 5) (s : State) : Out :=
  run true true g s fun s => .ok (s.setInt mr d ((s.S a).toInt - (s.S b).toInt))

/-- `and` (R112). -/
def execAnd (g : Guard) (d a b : BitVec 5) (s : State) : Out := run true true g s fun s => .ok (s.setS d (s.S a &&& s.S b))

/-- `or` (R112). -/
def execOr (g : Guard) (d a b : BitVec 5) (s : State) : Out := run true true g s fun s => .ok (s.setS d (s.S a ||| s.S b))

/-- `xor` (R112). -/
def execXor (g : Guard) (d a b : BitVec 5) (s : State) : Out := run true true g s fun s => .ok (s.setS d (s.S a ^^^ s.S b))

/-- `andn` (R112). -/
def execAndn (g : Guard) (d a b : BitVec 5) (s : State) : Out := run true true g s fun s => .ok (s.setS d (s.S a &&& ~~~(s.S b)))

/-- Whether a is less than b, unsigned with `u`. -/
def intLess (u : Bool) (a b : Word) : Bool := if u then a.ult b else a.slt b

/-- `min` (R112). -/
def execMin (g : Guard) (u : Bool) (d a b : BitVec 5) (s : State) : Out :=
  run true true g s fun s => .ok (s.setS d (if intLess u (s.S b) (s.S a) then s.S b else s.S a))

/-- `max` (R112). -/
def execMax (g : Guard) (u : Bool) (d a b : BitVec 5) (s : State) : Out :=
  run true true g s fun s => .ok (s.setS d (if intLess u (s.S a) (s.S b) then s.S b else s.S a))

/-- The count of a register shift: s_b[5:0] (R115). -/
def shiftCount (x : Word) : Nat := x.toNat % 64

/-- `shl` (R113, R115). -/
def execShl (g : Guard) (mr : BitVec 8) (d a b : BitVec 5) (s : State) : Out :=
  run true true g s fun s => .ok (s.setInt mr d ((s.S a).toInt * 2 ^ shiftCount (s.S b)))

/-- `shr` (R115). -/
def execShr (g : Guard) (d a b : BitVec 5) (s : State) : Out :=
  run true true g s fun s => .ok (s.setS d (s.S a >>> shiftCount (s.S b)))

/-- `sra` (R115). -/
def execSra (g : Guard) (d a b : BitVec 5) (s : State) : Out :=
  run true true g s fun s => .ok (s.setS d ((s.S a).sshiftRight (shiftCount (s.S b))))

/-- `rol` (R115). -/
def execRol (g : Guard) (d a b : BitVec 5) (s : State) : Out :=
  run true true g s fun s => .ok (s.setS d ((s.S a).rotateLeft (shiftCount (s.S b))))

/-- `mul` (R113, R116). Page 0 major 0x03 is not allowed in a cable step (R215). -/
def execMul (g : Guard) (mr : BitVec 8) (d a b : BitVec 5) (s : State) : Out :=
  run true false g s fun s => .ok (s.setInt mr d ((s.S a).toInt * (s.S b).toInt))

/-- `mulh` (R116). -/
def execMulh (g : Guard) (u : Bool) (d a b : BitVec 5) (s : State) : Out :=
  run true false g s fun s => .ok (s.setS d (intMulh u (s.S a) (s.S b)))

/-- `div` (R116). -/
def execDiv (g : Guard) (u : Bool) (d a b : BitVec 5) (s : State) : Out :=
  run true false g s fun s => .ok (s.setS d (intDiv u (s.S a) (s.S b)))

/-- `rem` (R116). -/
def execRem (g : Guard) (u : Bool) (d a b : BitVec 5) (s : State) : Out :=
  run true false g s fun s => .ok (s.setS d (intRem u (s.S a) (s.S b)))

/-- `clz` (R117). -/
def execClz (g : Guard) (d a : BitVec 5) (s : State) : Out :=
  run true true g s fun s => .ok (s.setS d (BitVec.ofNat 64 (clzGo (s.S a) 64)))

/-- `ctz` (R117). -/
def execCtz (g : Guard) (d a : BitVec 5) (s : State) : Out :=
  run true true g s fun s => .ok (s.setS d (BitVec.ofNat 64 (ctzGo (s.S a) 64 0)))

/-- `popc` (R117). -/
def execPopc (g : Guard) (d a : BitVec 5) (s : State) : Out :=
  run true true g s fun s => .ok (s.setS d (BitVec.ofNat 64 (popGo (s.S a) 64)))

/-- `bswap` (R117). -/
def execBswap (g : Guard) (d a : BitVec 5) (s : State) : Out := run true true g s fun s => .ok (s.setS d (byteSwap (s.S a)))

/-- `bext` (R118). -/
def execBext (g : Guard) (sx : Bool) (d a b c : BitVec 5) (s : State) : Out :=
  run true true g s fun s => .ok (s.setS d (bitExtract sx (s.S a) (s.S b) (s.S c)))

/-- `bins` (R118). -/
def execBins (g : Guard) (d a b c : BitVec 5) (s : State) : Out :=
  run true true g s fun s => .ok (s.setS d (bitInsert (s.S d) (s.S a) (s.S b) (s.S c)))

/-- `mov` (R120). -/
def execMov (g : Guard) (d a : BitVec 5) (s : State) : Out := run true true g s fun s => .ok (s.setS d (s.S a))

/-- `sel` (R120). -/
def execSel (g : Guard) (d a b : BitVec 5) (c : BitVec 3) (s : State) : Out :=
  run true true g s fun s => .ok (s.setS d (if s.P c then s.S a else s.S b))

/-- `cmp` (R121). -/
def execCmp (g : Guard) (cond d : BitVec 3) (a b : BitVec 5) (s : State) : Out :=
  run true true g s fun s => .ok (s.setP d (intCond cond (s.S a) (s.S b)))

/-- `pand` (R122). -/
def execPand (g : Guard) (d a b : BitVec 3) (s : State) : Out := run true true g s fun s => .ok (s.setP d (s.P a && s.P b))

/-- `por` (R122). -/
def execPor (g : Guard) (d a b : BitVec 3) (s : State) : Out := run true true g s fun s => .ok (s.setP d (s.P a || s.P b))

/-- `pxor` (R122). -/
def execPxor (g : Guard) (d a b : BitVec 3) (s : State) : Out := run true true g s fun s => .ok (s.setP d (s.P a != s.P b))

/-- `add` immediate (R113, R114). -/
def execAddImm (g : Guard) (mr : BitVec 8) (d a : BitVec 5) (imm : BitVec 64) (s : State) : Out :=
  run true true g s fun s => .ok (s.setInt mr d ((s.S a).toInt + imm.toInt))

/-- `and` immediate (R114). -/
def execAndImm (g : Guard) (d a : BitVec 5) (imm : BitVec 64) (s : State) : Out :=
  run true true g s fun s => .ok (s.setS d (s.S a &&& imm))

/-- `or` immediate (R114). -/
def execOrImm (g : Guard) (d a : BitVec 5) (imm : BitVec 64) (s : State) : Out :=
  run true true g s fun s => .ok (s.setS d (s.S a ||| imm))

/-- `xor` immediate (R114). -/
def execXorImm (g : Guard) (d a : BitVec 5) (imm : BitVec 64) (s : State) : Out :=
  run true true g s fun s => .ok (s.setS d (s.S a ^^^ imm))

/-- `shl` immediate (R113, R114). -/
def execShlImm (g : Guard) (mr : BitVec 8) (d a : BitVec 5) (imm : BitVec 64) (s : State) : Out :=
  run true true g s fun s => .ok (s.setInt mr d ((s.S a).toInt * 2 ^ shiftCount imm))

/-- `shr` immediate (R114). -/
def execShrImm (g : Guard) (d a : BitVec 5) (imm : BitVec 64) (s : State) : Out :=
  run true true g s fun s => .ok (s.setS d (s.S a >>> shiftCount imm))

/-- `sra` immediate (R114). -/
def execSraImm (g : Guard) (d a : BitVec 5) (imm : BitVec 64) (s : State) : Out :=
  run true true g s fun s => .ok (s.setS d ((s.S a).sshiftRight (shiftCount imm)))

/-- `li` (R119). -/
def execLi (g : Guard) (d : BitVec 5) (imm : BitVec 64) (s : State) : Out := run true true g s fun s => .ok (s.setS d imm)

end Sys2Proof.Machine
end

