-- ==== Sys2Proof/Machine/Control.lean ====
section
/-! DEFINITION. Control transfers, helpers, `retire`, `yield` and `brk` (R29, R89, R123 to R130). -/

namespace Sys2Proof.Machine

/-- `br` (R123). -/
def execBr (g : Guard) (p : BitVec 3) (off : BitVec 64) (s : State) : Out :=
  run true true g s fun s => .ok (if s.P p then s.setPc (s.target off) else s)

/-- `loop` (R125); it takes no guard (R98). -/
def execLoop (c : BitVec 5) (off : BitVec 64) (s : State) : Out :=
  run true true .always s fun s =>
    let n := s.S c - 1
    let s := s.setS c n
    .ok (if n != 0 then s.setPc (s.target off) else s)

/-- `jmp` (R123). -/
def execJmp (g : Guard) (off : BitVec 64) (s : State) : Out := run true true g s fun s => .ok (s.setPc (s.target off))

/-- `call` (R123). Majors 0x19 and 0x1A are not allowed in a cable step (R215). -/
def execCall (g : Guard) (off : BitVec 64) (s : State) : Out :=
  run true false g s fun s => .ok ((s.setS 31 s.nextPc).setPc (s.target off))

/-- An odd target faults ALIGN on the transfer itself (R89). -/
def State.needEven (s : State) (t : Word) : Res Unit := s.need (!t.getLsbD 0) cALIGN t 0

/-- `jr` (R124). -/
def execJr (g : Guard) (a : BitVec 5) (s : State) : Out :=
  run true false g s fun s => do
    s.needEven (s.S a)
    return s.setPc (s.S a)

/-- `callr` (R124): the target is read before the link is written. -/
def execCallr (g : Guard) (a : BitVec 5) (s : State) : Out :=
  run true false g s fun s => do
    s.needEven (s.S a)
    return (s.setS 31 s.nextPc).setPc (s.S a)

/-- `ret` (R124). -/
def execRet (g : Guard) (s : State) : Out :=
  run true false g s fun s => do
    s.needEven (s.S 31)
    return s.setPc (s.S 31)

/-- The launch's helper budget on the core in hand (R126). -/
def State.budget (s : State) : Nat :=
  match s.me.unit with
  | some u => u.helpers
  | none => 0

/-- The lowest free context among 1 to `b`. -/
def State.freeHelper (s : State) (b : Nat) : Option Nat :=
  (List.range b).find? (fun i => (s.me.ctxAt (i + 1)).st == .free) |>.map (· + 1)

/-- The start state of helper `n` (R126). -/
def State.helperStart (s : State) (n : Nat) (pc x : Word) : Context :=
  { Context.reset with
    s := (Context.reset.s.set 1 x).set 2 (BitVec.ofNat 64 n)
    a := (Context.reset.a.set 1 (s.A 1)).set 15 (s.A 15)
    uvec := s.my.uvec
    uframe := s.my.uframe
    pc := pc
    st := .ready }

/-- Waits until nothing that the context in hand queued is still to execute: a release (R129, R317). -/
def State.queueTurn (s : State) : Res Unit := s.await (s.queueQuiet s.hand.core s.hand.ctx) .queued

/-- A release waits until what the context queued has executed and the core's stores are globally performed (R317, R321). -/
def State.releaseTurn (s : State) : Res Unit := do
  s.queueTurn
  s.await s.storesPerformed .performed

/-- `hstart` (R126), a release by context 0 (R129). From a helper it is ILLEGAL, a check of its own (log entry 31). -/
def execHstart (g : Guard) (d a b : BitVec 5) (s : State) : Out :=
  run false false g s fun s => do
    s.legal (s.hand.ctx == 0)
    s.needEven (s.S a)
    s.releaseTurn
    match s.freeHelper s.budget with
    | none => return s.setS d 0
    | some n =>
      let h := s.helperStart n (s.S a) (s.S b)
      let s := s.modMe fun c => c.setCtx n h
      return s.setS d (BitVec.ofNat 64 n)

/-- Whether the helpers named in bits 10 to 1 are free. -/
def Core.helpersFree (c : Core) (mask : BitVec 11) : Bool :=
  (List.range 10).all fun i => !mask.getLsbD (i + 1) || (c.ctxAt (i + 1)).st == .free

/-- Whether the helpers named in bits 10 to 1 have retired and nothing that they queued is still to execute (R127, R129). -/
def State.helpersDone (s : State) (core : Nat) (mask : BitVec 11) : Bool :=
  (s.coreAt core).helpersFree mask && (List.range 10).all fun i => !mask.getLsbD (i + 1) || s.queueQuiet core (orphan (i + 1))

/-- The helpers an `hwait` names: all when it names none (R127). -/
def hwaitMask (x : Word) : BitVec 11 :=
  let m := x.setWidth 11 &&& 0x7FE
  if m = 0 then 0x7FE else m

/-- `hwait` (R127), the acquire of the helpers' `retire`: what they queued has executed, their page-table stores and `free`s have completed
(R129, R317, R325). From a helper it is ILLEGAL, a check of its own (log entry 31). -/
def execHwait (g : Guard) (a : BitVec 5) (s : State) : Out :=
  run false false g s fun s => do
    s.legal (s.hand.ctx == 0)
    let m := hwaitMask (s.S a)
    s.await (s.helpersDone s.hand.core m) (.helpers m)
    s.await s.storesPerformed .performed
    return s

/-- `retire` (R29, R128). A helper waits for its replies and becomes free, its registers discarded; what it queued goes on. Context 0 waits for what R29 lists; the unit then ends as an event. -/
def execRetire (g : Guard) (s : State) : Out :=
  run false false g s fun s =>
    if s.hand.ctx = 0 then .error (.wait s .retire)
    else do
      s.await s.my.replies.isEmpty .replies
      return (s.orphaned s.hand.core s.hand.ctx).modMy fun _ => Context.reset

/-- `yield` (R128): the other contexts that are ready, and do not wait for a register, issue once first. On an Avlyn core it has no
effect (R370). -/
def execYield (g : Guard) (s : State) : Out :=
  run true false g s fun s =>
    .ok (if s.isAvlyn then s
      else s.modMy fun c => { c with
        yielded := (List.range 11).filter fun n => n != s.hand.ctx && s.isReady s.hand.core n })

/-- `brk` (R130). -/
def execBrk (g : Guard) (s : State) : Out := run true false g s fun s => s.fault cBRK 0 0

end Sys2Proof.Machine
end

