-- ==== Sys2Proof/Machine/FloatInstr.lean ====
section
/-! DEFINITION. Scalar floating-point instructions (R136 to R141) and capability derivations (R131 to R135). -/

namespace Sys2Proof.Machine

/-- The rounding mode of an MR payload decides the sign of an exact zero sum, so it goes into the operation. -/
def fpBin (op : BitVec 2) (mr : BitVec 8) (x y : FVal) : Exact × FFlags :=
  match op.toNat with
  | 0 => fpAdd (mrRound mr) x y
  | 1 => fpSub (mrRound mr) x y
  | 2 => fpMul x y
  | _ => fpDiv x y

/-- A basic operation in a format (R137). -/
def execFBin (f : Fmt) (op : BitVec 2) (g : Guard) (mo : BitVec 6) (mr : BitVec 8) (d a b : BitVec 5) (s : State) : Out :=
  run true false g s fun s => .ok (s.setF f mr d (fpBin op mr (s.fOperand f mo 0 a) (s.fOperand f mo 1 b)))

/-- `fadd` (R137). -/
def execFadd (g : Guard) (mo : BitVec 6) (mr : BitVec 8) (d a b : BitVec 5) (s : State) : Out := execFBin f32 0 g mo mr d a b s
/-- `fsub` (R137). -/
def execFsub (g : Guard) (mo : BitVec 6) (mr : BitVec 8) (d a b : BitVec 5) (s : State) : Out := execFBin f32 1 g mo mr d a b s
/-- `fmul` (R137). -/
def execFmul (g : Guard) (mo : BitVec 6) (mr : BitVec 8) (d a b : BitVec 5) (s : State) : Out := execFBin f32 2 g mo mr d a b s
/-- `fdiv` (R137). -/
def execFdiv (g : Guard) (mo : BitVec 6) (mr : BitVec 8) (d a b : BitVec 5) (s : State) : Out := execFBin f32 3 g mo mr d a b s
/-- `fadd.d` (R137). -/
def execFaddD (g : Guard) (mo : BitVec 6) (mr : BitVec 8) (d a b : BitVec 5) (s : State) : Out := execFBin f64 0 g mo mr d a b s
/-- `fsub.d` (R137). -/
def execFsubD (g : Guard) (mo : BitVec 6) (mr : BitVec 8) (d a b : BitVec 5) (s : State) : Out := execFBin f64 1 g mo mr d a b s
/-- `fmul.d` (R137). -/
def execFmulD (g : Guard) (mo : BitVec 6) (mr : BitVec 8) (d a b : BitVec 5) (s : State) : Out := execFBin f64 2 g mo mr d a b s
/-- `fdiv.d` (R137). -/
def execFdivD (g : Guard) (mo : BitVec 6) (mr : BitVec 8) (d a b : BitVec 5) (s : State) : Out := execFBin f64 3 g mo mr d a b s

/-- Minimum or maximum in a format (R44, R138). -/
def execFMinMax (f : Fmt) (mx : Bool) (g : Guard) (mo : BitVec 6) (d a b : BitVec 5) (s : State) : Out :=
  run true false g s fun s => .ok (s.setF f 0 d (fpMinMax mx (s.fOperand f mo 0 a) (s.fOperand f mo 1 b)))

/-- `fmin` (R138). -/
def execFmin (g : Guard) (mo : BitVec 6) (d a b : BitVec 5) (s : State) : Out := execFMinMax f32 false g mo d a b s
/-- `fmax` (R138). -/
def execFmax (g : Guard) (mo : BitVec 6) (d a b : BitVec 5) (s : State) : Out := execFMinMax f32 true g mo d a b s
/-- `fmin.d` (R138). -/
def execFminD (g : Guard) (mo : BitVec 6) (d a b : BitVec 5) (s : State) : Out := execFMinMax f64 false g mo d a b s
/-- `fmax.d` (R138). -/
def execFmaxD (g : Guard) (mo : BitVec 6) (d a b : BitVec 5) (s : State) : Out := execFMinMax f64 true g mo d a b s

/-- Square root in a format (R138). -/
def execFSqrtIn (f : Fmt) (g : Guard) (mo : BitVec 6) (mr : BitVec 8) (d a : BitVec 5) (s : State) : Out :=
  run true false g s fun s => .ok (s.setF f mr d (fpSqrt (s.fOperand f mo 0 a)))

/-- `fsqrt` (R138). -/
def execFsqrt (g : Guard) (mo : BitVec 6) (mr : BitVec 8) (d a : BitVec 5) (s : State) : Out := execFSqrtIn f32 g mo mr d a s
/-- `fsqrt.d` (R138). -/
def execFsqrtD (g : Guard) (mo : BitVec 6) (mr : BitVec 8) (d a : BitVec 5) (s : State) : Out := execFSqrtIn f64 g mo mr d a s

/-- Classification in a format (R138). -/
def execFClassIn (f : Fmt) (g : Guard) (d a : BitVec 5) (s : State) : Out :=
  run true false g s fun s => .ok (s.setS d (fWord (fpClass f (fBits f (s.S a)))))

/-- `fclass` (R138). -/
def execFclass (g : Guard) (d a : BitVec 5) (s : State) : Out := execFClassIn f32 g d a s
/-- `fclass.d` (R138). -/
def execFclassD (g : Guard) (d a : BitVec 5) (s : State) : Out := execFClassIn f64 g d a s

/-- Fused multiply-add in a format (R50, R139). -/
def execFmaIn (f : Fmt) (g : Guard) (mo : BitVec 6) (mr : BitVec 8) (d a b c : BitVec 5) (s : State) : Out :=
  run true false g s fun s =>
    .ok (s.setF f mr d (fpFma (mrRound mr) (s.fOperand f mo 0 a) (s.fOperand f mo 1 b) (s.fOperand f mo 2 c)))

/-- `fma` (R139). -/
def execFma (g : Guard) (mo : BitVec 6) (mr : BitVec 8) (d a b c : BitVec 5) (s : State) : Out := execFmaIn f32 g mo mr d a b c s
/-- `fma.d` (R139). -/
def execFmaD (g : Guard) (mo : BitVec 6) (mr : BitVec 8) (d a b c : BitVec 5) (s : State) : Out := execFmaIn f64 g mo mr d a b c s

/-- Comparison in a format (R140). -/
def execFCmpIn (f : Fmt) (g : Guard) (mo : BitVec 6) (cond : BitVec 2) (d : BitVec 3) (a b : BitVec 5) (s : State) : Out :=
  run true false g s fun s =>
    let (r, fl) := fpCond cond (s.fOperand f mo 0 a) (s.fOperand f mo 1 b)
    .ok ((s.setP d r).orFlags fl)

/-- `fcmp` (R140). -/
def execFcmp (g : Guard) (mo : BitVec 6) (cond : BitVec 2) (d : BitVec 3) (a b : BitVec 5) (s : State) : Out :=
  execFCmpIn f32 g mo cond d a b s
/-- `fcmp.d` (R140). -/
def execFcmpD (g : Guard) (mo : BitVec 6) (cond : BitVec 2) (d : BitVec 3) (a b : BitVec 5) (s : State) : Out :=
  execFCmpIn f64 g mo cond d a b s

/-- A conversion (R46, R141): the register value and the flags. -/
def fpConvert (mr : BitVec 8) (fr tgt : BitVec 3) (x : Word) : Word × FFlags :=
  let src : Exact × FFlags :=
    if fr.getLsbD 2 then (intExact (cvtInt fr x), 0)
    else let v := unpack (cvtFmt fr) (fBits (cvtFmt fr) x); (v.exact, snan [v])
  if tgt.getLsbD 2 then
    let (lo, hi) := cvtRange tgt
    let (v, fl) := toInt (mrRound mr) lo hi (src.1.scale (mrScale mr))
    (BitVec.ofInt 64 v, src.2 ||| fl)
  else
    let (b, fl) := formResult (cvtFmt tgt) mr src.1 src.2
    (fWord b, fl)

/-- `fcvt` (R141). -/
def execFcvt (g : Guard) (mr : BitVec 8) (fr tgt : BitVec 3) (d a : BitVec 5) (s : State) : Out :=
  run true false g s fun s =>
    let (v, fl) := fpConvert mr fr tgt (s.S a)
    .ok ((s.setS d v).orFlags fl)

/-! ### Capabilities -/

/-- A capability register number as EINFO (R357). -/
def capInfo (r : BitVec 4) : Word := r.setWidth 64

/-- The source checks of a derivation, then its bound (R131, R132): BASE and LENGTH replaced. -/
def State.derive (s : State) (d a : BitVec 4) (off len : Nat) : Res State := do
  let c := s.A a
  s.need (c != 0) cCAPNULL (capAddr c) (capInfo a)
  s.need (!capSeal c) cCAPPERM (capAddr c) (capInfo a)
  s.need (off ≤ capLen c && len ≤ capLen c - off && capBase c + off < 2 ^ 57) cCAPBOUND (capAddr c) (capInfo a)
  return s.setA d (c.extractLsb' 97 31 ++ BitVec.ofNat 40 len ++ BitVec.ofNat 57 (capBase c + off))

/-- `cbound` (R132). -/
def execCbound (g : Guard) (d a : BitVec 4) (b c : BitVec 5) (s : State) : Out :=
  run true false g s fun s => s.derive d a (s.S b).toNat (s.S c).toNat

/-- `cadd` (R132). -/
def execCadd (g : Guard) (d a : BitVec 4) (b : BitVec 5) (s : State) : Out :=
  run true false g s fun s => s.derive d a (s.S b).toNat (capLen (s.A a) - (s.S b).toNat)

/-- One field of a capability (R134). -/
def capField (fld : BitVec 3) (c : CapBits) : Word :=
  match fld.toNat with
  | 0 => capAddr c
  | 1 => BitVec.ofNat 64 (capLen c)
  | 2 => (c.extractLsb' 97 7).setWidth 64
  | 3 => BitVec.ofNat 64 (capTag c)
  | 4 => c.setWidth 64
  | _ => c.extractLsb' 64 64

/-- `cget` (R134). -/
def execCget (g : Guard) (fld : BitVec 3) (d : BitVec 5) (a : BitVec 4) (s : State) : Out :=
  run true false g s fun s => .ok (s.setS d (capField fld (s.A a)))

/-- Whether CheckCap passes every check but that of revocation (R135). -/
def capReaches (c : CapBits) (off : Int) (size : Nat) (perm : BitVec 6) : Bool :=
  c != 0 && !capSeal c && capPerm c &&& perm == perm && 0 ≤ off && off + size ≤ capLen c && capBase c + off.toNat < 2 ^ 57

/-- `cchk` (R135). -/
def execCchk (g : Guard) (perms d : BitVec 3) (a : BitVec 4) (b c : BitVec 5) (s : State) : Out :=
  run true false g s fun s => .ok (s.setP d (capReaches (s.A a) (s.S b).toInt (s.S c).toNat (perms.setWidth 6)))

/-- `cmov` (R133). -/
def execCmov (g : Guard) (d a : BitVec 4) (b : BitVec 5) (s : State) : Out :=
  run true false g s fun s =>
    .ok (s.setA d (s.A a &&& ~~~((s.S b).setWidth 6 ++ 0#97).setWidth 128))

/-- `cnull` (R133). -/
def execCnull (g : Guard) (d : BitVec 4) (s : State) : Out := run true false g s fun s => .ok (s.setA d 0)

end Sys2Proof.Machine
end

