-- ==== Sys2Proof/Machine/Special.lean ====
section
/-! DEFINITION. The special functions of `vsf` (R149). The exact value is rounded once; where it is irrational it is computed in
fixed point with an error below 2^-500, far less than the distance of any result for an f32 input from a rounding boundary. -/

namespace Sys2Proof.Machine

/-- Bits of fraction of the fixed-point numbers. -/
def fxBits : Nat := 640

/-- 1 in fixed point. -/
def fxOne : Int := 2 ^ fxBits

/-- Product in fixed point. -/
def fxMul (a b : Int) : Int := a * b / fxOne

/-- Σ term_k with term_(k+1) = ± term_k × z / q_k, where q_k = (a + k b)(a + k b + c) or a + k b when c = 0. -/
def seriesGo (z : Int) (neg : Bool) (a b c : Nat) : Nat → Nat → Int → Int → Int
  | 0, _, _, acc => acc
  | n + 1, k, t, acc =>
    let q := a + k * b
    let q := if c = 0 then q else q * (q + c)
    let t' := fxMul t z / (q : Int)
    let t' := if neg then -t' else t'
    seriesGo z neg a b c n (k + 1) t' (acc + t')

/-- e^r for |r| ≤ 1. -/
def fxExp (r : Int) : Int := seriesGo r false 1 1 0 160 0 fxOne fxOne

/-- sin r for |r| ≤ 1. -/
def fxSin (r : Int) : Int := seriesGo (fxMul r r) true 2 2 1 90 0 r r

/-- cos r for |r| ≤ 1. -/
def fxCos (r : Int) : Int := seriesGo (fxMul r r) true 1 2 1 90 0 fxOne fxOne

/-- Σ ± p_k / (2k + 1) with p_(k+1) = p_k × z: the series of arctan and artanh. -/
def oddGo (z : Int) (neg : Bool) : Nat → Nat → Int → Int → Int
  | 0, _, _, acc => acc
  | n + 1, k, p, acc =>
    let t := p / ((2 * k + 1 : Nat) : Int)
    oddGo z neg n (k + 1) (fxMul p z) (if neg && k % 2 = 1 then acc - t else acc + t)

/-- artanh y for |y| ≤ 1/3. -/
def fxArtanh (y : Int) : Int := oddGo (fxMul y y) false 210 0 y 0

/-- arctan(1/n). -/
def fxArctan (n : Int) : Int := oddGo (fxOne / (n * n)) true 150 0 (fxOne / n) 0

/-- π/2, by Machin's formula. -/
def fxHalfPi : Int := 8 * fxArctan 5 - 2 * fxArctan 239

/-- ln 2. -/
def fxLn2 : Int := 2 * fxArtanh (fxOne / 3)

/-- A fixed-point number times 2^k as an exact value. -/
def fxExact (x k : Int) : Exact := (Exact.rat (x < 0) x.natAbs (2 ^ fxBits)).scale k

/-- A finite operand in fixed point; exact for every f32. -/
def fxOf (neg : Bool) (num : Nat) (exp : Int) : Int :=
  let m : Int := if 0 ≤ exp then num * 2 ^ exp.toNat * fxOne else num * fxOne / 2 ^ (-exp).toNat
  if neg then -m else m

/-- e^x as a fixed-point number and a power of two, for |x| below 1,000. -/
def fxExpBig (x : Int) : Int × Int :=
  let n := x / fxLn2
  (fxExp (x - n * fxLn2), n)

/-- exp2 (R149). -/
def sfExp2 (neg : Bool) (num : Nat) (exp : Int) : Exact :=
  let x := fxOf neg num exp
  if 1000 * fxOne ≤ x then .rat false (2 ^ 2000) 1
  else if x ≤ -(1000 * fxOne) then .rat false 1 (2 ^ 2000)
  else
    let n := x / fxOne
    let f := x - n * fxOne
    if f = 0 then (Exact.rat false 1 1).scale n else fxExact (fxExp (fxMul f fxLn2)) n

/-- log2 of a positive number (R149). -/
def sfLog2 (num : Nat) (exp : Int) : Exact :=
  let l := Nat.log2 num
  if num = 2 ^ l then intExact (exp + l)
  else
    let m : Int := num * fxOne / 2 ^ l
    let ln := 2 * fxArtanh ((m - fxOne) * fxOne / (m + fxOne))
    fxExact ((exp + l) * fxOne + ln * fxOne / fxLn2) 0

/-- sin, or cos with `c` (R149). -/
def sfTrig (c : Bool) (neg : Bool) (num : Nat) (exp : Int) : Exact :=
  let x := fxOf neg num exp
  let q := (x + fxHalfPi / 2) / fxHalfPi
  let r := x - q * fxHalfPi
  let y := match ((q + if c then 1 else 0) % 4).toNat with
    | 0 => fxSin r
    | 1 => fxCos r
    | 2 => -fxSin r
    | _ => -fxCos r
  fxExact y 0

/-- A number just below 1. -/
def belowOne (neg : Bool) : Exact := .rat neg (2 ^ 400 - 1) (2 ^ 400)

/-- tanh of a number that is not zero (R149). -/
def sfTanh (neg : Bool) (num : Nat) (exp : Int) : Exact :=
  let x := fxOf false num exp
  if 200 * fxOne ≤ x then belowOne neg
  else
    let (e, n) := fxExpBig (-2 * x)
    let t := e / 2 ^ (-n).toNat
    .rat neg (fxOne - t).toNat (fxOne + t).toNat

/-- 1 / (1 + e^−x) (R149). -/
def sfSigm (neg : Bool) (num : Nat) (exp : Int) : Exact :=
  let x := fxOf false num exp
  if 200 * fxOne ≤ x then (if neg then .rat false 1 (2 ^ 2000) else belowOne false)
  else
    let (e, n) := fxExpBig (-x)
    let t := e / 2 ^ (-n).toNat
    .rat false (if neg then t else fxOne).toNat (fxOne + t).toNat

/-- fn(a) as an exact value with the flags of the special cases (R149). -/
def sfValue (fn : BitVec 3) (a : FVal) : Exact × FFlags :=
  match a with
  | .nan sg => (.nan, flagIf sg fNV)
  | .inf n =>
    match fn.toNat with
    | 0 => (if n then .rat false 0 1 else .inf false, 0)
    | 1 => if n then (.nan, fNV) else (.inf false, 0)
    | 2 => (.rat n 0 1, 0)
    | 3 => if n then (.nan, fNV) else (.rat false 0 1, 0)
    | 4 | 5 => (.nan, fNV)
    | 6 => (.rat n 1 1, 0)
    | _ => (if n then .rat false 0 1 else .rat false 1 1, 0)
  | .fin n m e =>
    if m = 0 then
      match fn.toNat with
      | 0 => (.rat false 1 1, 0)
      | 1 => (.inf true, fDZ)
      | 2 | 3 => (.inf n, fDZ)
      | 5 => (.rat false 1 1, 0)
      | 7 => (.rat false 1 2, 0)
      | _ => (.rat n 0 1, 0)
    else
      match fn.toNat with
      | 0 => (sfExp2 n m e, 0)
      | 1 => if n then (.nan, fNV) else (sfLog2 m e, 0)
      | 2 => fpDiv (.fin false 1 0) a
      | 3 =>
        if n then (.nan, fNV)
        else match ratOf false m e with
          | .rat _ x y => let (r, d) := ratSqrt y x; (.rat false r d, 0)
          | _ => (.nan, 0)
      | 4 => (sfTrig false n m e, 0)
      | 5 => (sfTrig true n m e, 0)
      | 6 => (sfTanh n m e, 0)
      | _ => (sfSigm n m e, 0)

end Sys2Proof.Machine
end

