-- ==== Sys2Proof/Machine/Local.lean ====
section
/-! DEFINITION. Accesses to the own scratchpad: which wait for the vector queue and the row array, and the checked load and store
(R38, R161, R163, R164, R171, R176, R177, R413, R414). -/

namespace Sys2Proof.Machine

/-- Whether a local access through window `w` must wait (R38, R163, R171). -/
def State.localBlocked (s : State) (write : Bool) (w off size : Nat) : Bool :=
  s.accessBlocked s.hand.core write w off size

/-- Waits until a local access may be made. -/
def State.localTurn (s : State) (write : Bool) (w off size : Nat) : Res Unit := s.await (!s.localBlocked write w off size) (.scratch write w off size)

/-- A local load: the checks, the wait, poison, the value (R57, R163, R176, R413): what was issued before it is written before poison is
looked for. -/
def State.localLoad (s : State) (a : Word) (size : Nat) (rawOnly : Bool) : Res Nat := do
  let (w, off) ← s.lift (s.localCheck a size size rawOnly)
  s.localTurn false w off size
  s.need (!s.winPoison false s.hand.core w off size) cPOISON a 0
  return s.winRead s.hand.core w off size

/-- A local store: the checks, poison, the write; flags are ORed into FFLAGS. -/
def State.localStore (s : State) (a : Word) (size : Nat) (v : Word) (mr : BitVec 8) : Res State := do
  let (w, off) ← s.lift (s.localCheck a size size false)
  s.localTurn true w off size
  s.need (!s.winPoison true s.hand.core w off size) cPOISON a 1
  let (s', fl) := s.winWrite s.hand.core w off size v.toNat mr
  return s'.orFlags fl

/-- POISON of bytes that a queued instruction or one that reads at issue names, looked for once what was issued before has been written
(R163, R200). -/
def State.needClean (s : State) (bad write : Bool) (w off size : Nat) (a info : Word) : Res Unit := do
  if bad then
    s.localTurn write w off size
    s.fault cPOISON a info

/-- The address check of a synchronising word (R177): window RAW, a multiple of 4. Answers its offset. -/
def State.syncWord (s : State) (a : Word) : Res Nat := do
  let (_, off) ← s.lift (s.localCheck a 4 4 true)
  return off

/-- Doublewords of a local descriptor read through RAW (R195, R198, R200): address checks, the wait, poison, the words. -/
def State.localWords (s : State) (a : Word) (n align : Nat) : Res (List Word) := do
  let (_, off) ← s.lift (s.localCheck a (8 * n) align true)
  s.localTurn false 0 off (8 * n)
  s.need (!s.spPoison false s.hand.core off (8 * n)) cPOISON a 0
  return s.spReadWords s.hand.core off n

/-- `ld` (R175, R176). -/
def execLd (g : Guard) (sz : BitVec 2) (sx : Bool) (d a : BitVec 5) (imm : BitVec 64) (s : State) : Out :=
  run false true g s fun s => do
    let n := sizeOf2 sz
    let x := s.ea a imm
    let v ← s.localLoad x n false
    let w := x.toNat / 0x20000 % 8
    return s.setS d (if w == 0 || w == 5 then extend n sx v else BitVec.ofNat 64 v)

/-- `st` (R175, R176). -/
def execSt (g : Guard) (mr : BitVec 8) (sz : BitVec 2) (d a : BitVec 5) (imm : BitVec 64) (s : State) : Out :=
  run false true g s fun s =>
    let n := sizeOf2 sz
    s.localStore (s.ea a imm) n (s.S d) mr

/-- `lds` (R177): waits while the word is empty; on a poisoned word it faults (R414). -/
def execLds (g : Guard) (d a : BitVec 5) (imm : BitVec 64) (s : State) : Out :=
  run false false g s fun s => do
    let x := s.ea a imm
    let off ← s.syncWord x
    s.localTurn false 0 off 4
    s.need (!s.spPoison false s.hand.core off 4) cPOISON x 0
    s.await (s.isFull (spadPa s.hand.core off)) (.wordFull (spadPa s.hand.core off))
    return s.setS d (BitVec.ofNat 64 (s.spRead s.hand.core off 4))

/-- `stf` (R177). -/
def execStf (g : Guard) (d a : BitVec 5) (imm : BitVec 64) (s : State) : Out :=
  run false true g s fun s => do
    let off ← s.syncWord (s.ea a imm)
    s.localTurn true 0 off 4
    return s.spWrite s.hand.core off 4 ((s.S d).toNat % 2 ^ 32) true true

/-- `sete` (R177): on a poisoned word it faults (R414). -/
def execSete (g : Guard) (a : BitVec 5) (imm : BitVec 64) (s : State) : Out :=
  run false true g s fun s => do
    let x := s.ea a imm
    let off ← s.syncWord x
    s.localTurn true 0 off 4
    s.need (!s.spPoison false s.hand.core off 4) cPOISON x 0
    return { s with mem := { s.mem with full := setErase s.mem.full (spadPa s.hand.core off) } }

end Sys2Proof.Machine
end

