-- ==== Sys2Proof/Machine/VecOps.lean ====
section
/-! DEFINITION. What the vector instructions do when they execute at the head of the vector queue (R143 to R162). -/

namespace Sys2Proof.Machine

/-- What an operation does to a core: its new state, the flags, and the scalar it writes, if any. -/
structure VRes where
  core  : Core
  flags : FFlags
  out   : Option (BitVec 5 × Word)

/-- Whether element `e` lies in the captured region. -/
def inRegion (shape : BitVec 8) (e : Nat) : Bool := e / 16 ≤ (shape.setWidth 4).toNat && e % 16 ≤ (shape.extractLsb' 4 4).toNat

/-- Writes the elements of v_d that `act` names with `f`, each with its flags (R143, R144). -/
def Core.vmap (c : Core) (d : BitVec 5) (act : Nat → Bool) (f : Nat → W32 × FFlags) : VRes :=
  let l := (List.range 256).map fun e => if act e then f e else (c.vElem d e, 0)
  ⟨{ c with v := c.v.set d.toNat (l.map (·.1)) d.isLt }, l.foldl (fun fl x => fl ||| x.2) 0, none⟩

/-- Whether an element is active (R143). -/
def Core.active (c : Core) (shape : BitVec 8) (k : BitVec 3) (e : Nat) : Bool := inRegion shape e && (c.mask k).getLsbD e

/-- An f32 result. -/
def f32Result (mr : BitVec 8) (x : Exact × FFlags) : W32 × FFlags :=
  let (b, fl) := formResult f32 mr x.1 x.2
  (BitVec.ofNat 32 b, fl)

/-- An f32 operand under MO. -/
def f32Op (mo : BitVec 6) (i : Nat) (x : W32) : FVal := unpack f32 (modOperand f32 mo i x.toNat)

/-- A 32-bit integer result: wrapped, or saturated for i32 (R41). -/
def i32Result (ty : BitVec 2) (mr : BitVec 8) (x : Int) : W32 × FFlags :=
  if ty = 1 && mrMode mr = 1 then
    let y := max (-(2 ^ 31)) (min x (2 ^ 31 - 1))
    (BitVec.ofInt 32 y, flagIf (y != x) fSAT)
  else (BitVec.ofInt 32 x, 0)

/-- The value of an integer element of type i32 or u32. -/
def i32Val (ty : BitVec 2) (x : W32) : Int := if ty = 1 then x.toInt else x.toNat

/-- A binary operation on two elements (R146, R148). -/
def vbin (op : VBin) (ty : BitVec 2) (mo : BitVec 6) (mr : BitVec 8) (a b : W32) : W32 × FFlags :=
  let x := f32Op mo 0 a
  let y := f32Op mo 1 b
  let m := i32Val ty a
  let n := i32Val ty b
  match op with
  | .add => if ty = 0 then f32Result mr (fpAdd (mrRound mr) x y) else i32Result ty mr (m + n)
  | .sub => if ty = 0 then f32Result mr (fpSub (mrRound mr) x y) else i32Result ty mr (m - n)
  | .mul => if ty = 0 then f32Result mr (fpMul x y) else i32Result ty mr (m * n)
  | .min => if ty = 0 then f32Result mr (fpMinMax false x y) else i32Result ty mr (min m n)
  | .max => if ty = 0 then f32Result mr (fpMinMax true x y) else i32Result ty mr (max m n)
  | .and => (a &&& b, 0)
  | .or => (a ||| b, 0)
  | .xor => (a ^^^ b, 0)
  | .shl => (a <<< (b.toNat % 32), 0)
  | .shr => (if ty = 1 then a.sshiftRight (b.toNat % 32) else a >>> (b.toNat % 32), 0)

/-- The conditions of `vcmp` (R150). -/
def vcond (mo : BitVec 6) (cond : BitVec 5) (a b : W32) : Bool × FFlags :=
  match cond.toNat with
  | 0 | 1 | 2 | 3 => fpCond (cond.setWidth 2) (f32Op mo 0 a) (f32Op mo 1 b)
  | 4 => (a == b, 0)
  | 5 => (a != b, 0)
  | 6 => (a.slt b, 0)
  | 7 => (!a.slt b, 0)
  | 8 => (a.ult b, 0)
  | 9 => (!a.ult b, 0)
  | _ => (a &&& b != 0, 0)

/-- A mask from a test on each element. -/
def maskOf (f : Nat → Bool) : BitVec 256 := BitVec.ofNat 256 ((List.range 256).foldl (fun v e => if f e then v + 2 ^ e else v) 0)

/-- A cross-lane result (R143): the source where it is active, else the old element, or 0 under LANEMODE.ZERO. -/
def Core.cross (c : Core) (x : Captured) (d a : BitVec 5) (k : BitVec 3) (dst : Nat → Bool) (src : Nat → Nat) : VRes :=
  c.vmap d dst fun e =>
    let j := src e
    if j < 256 && c.active x.shape k j then (c.vElem a j, 0) else if x.zero then (0, 0) else (c.vElem d e, 0)

/-- A conversion of one element (R46, R155): types f32, i32, u32; log entry 78 for one between the integer types. -/
def vconvert (mr : BitVec 8) (fr tgt : BitVec 2) (x : W32) : W32 × FFlags :=
  let v := unpack f32 x.toNat
  let src : Exact × FFlags := if fr = 0 then (v.exact, snan [v]) else (intExact (i32Val fr x), 0)
  if tgt = 0 then f32Result mr src
  else
    let (lo, hi) : Int × Int := if tgt = 1 then (-(2 ^ 31), 2 ^ 31 - 1) else (0, 2 ^ 32 - 1)
    let (y, fl) := toInt (mrRound mr) lo hi (src.1.scale (mrScale mr))
    (BitVec.ofInt 32 y, src.2 ||| fl)

/-- Scaled narrowing of one element (R48): formats q8, q6, h16, b16. -/
def vnarrow1 (c : Core) (cap : Captured) (rnd fmt : BitVec 2) (nosat : Bool) (x : W32) : W32 × FFlags :=
  let v := unpack f32 x.toNat
  let r := unpack f32 cap.rcp.toNat
  let (p, fl) := fpMul v r
  if fmt.toNat < 2 then
    let (code, g) := encodeCode c.table cap.half (fmt == 1) rnd (!nosat) p
    (BitVec.ofNat 32 code, fl ||| g)
  else
    let mr : BitVec 8 := (if nosat then 0#2 else 1#2) ++ 0#4 ++ rnd
    let (b, g) := formResult (if fmt = 2 then h16 else b16) mr p fl
    (BitVec.ofNat 32 b, g)

/-- The operation of `vred` and `vscan`: 0 add, 1 min, 2 max (R158). -/
def redOp (op : BitVec 2) : VBin := if op = 0 then .add else if op = 1 then .min else .max

/-- The identity of a reduction (R49, R158). -/
def redId (op ty : BitVec 2) : W32 :=
  match ty.toNat, op.toNat with
  | 0, 0 => 0x80000000
  | 0, 1 => 0x7F800000
  | 0, _ => 0xFF800000
  | _, 0 => 0
  | 1, 1 => 0x7FFFFFFF
  | 1, _ => 0x80000000
  | _, 1 => 0xFFFFFFFF
  | _, _ => 0

/-- The list of a reduction (R49): the region in row-major order, identities for inactive elements. -/
def Core.redList (c : Core) (cap : Captured) (mo : BitVec 6) (op ty : BitVec 2) (a : BitVec 5) (k : BitVec 3) : List W32 :=
  (regionElems cap.shape).map fun e =>
    if (c.mask k).getLsbD e then
      (if ty = 0 then BitVec.ofNat 32 (modOperand f32 mo 0 (c.vElem a e).toNat) else c.vElem a e)
    else redId op ty

/-- Writes halves of the decode table from elements 0 to 255 (R159), with NMONO (R37). -/
def Core.writeTable (c : Core) (half : BitVec 2) (a : BitVec 5) : Core :=
  let t := (List.range 256).map fun e =>
    if half.getLsbD (e / 128) then (c.vElem a e).setWidth 18 else c.table.getD e 0
  let bad (h : Nat) : Bool := (List.range 127).any fun i =>
    let x := (t.getD (128 * h + i) 0).toNat
    let y := (t.getD (128 * h + i + 1) 0).toNat
    y < x || e8m10.inf < x || e8m10.inf < y
  { c with table := t
           nmono0 := if half.getLsbD 0 then bad 0 else c.nmono0
           nmono1 := if half.getLsbD 1 then bad 1 else c.nmono1 }

/-- An element of a type, a NaN of f32 as the canonical one (R52). -/
def vcanon (ty : BitVec 2) (x : W32) : W32 := if ty = 0 then BitVec.ofNat 32 (f32.canon x.toNat) else x

/-- An operation that touches the core only (R146 to R159). -/
def Core.vexec (c : Core) (x : Captured) : VOp → VRes
  | .bin op mo mr ty d a b k => c.vmap d (c.active x.shape k) fun e => vbin op ty mo mr (c.vElem a e) (c.vElem b e)
  | .fma mo mr d a b y k => c.vmap d (c.active x.shape k) fun e =>
      f32Result mr (fpFma (mrRound mr) (f32Op mo 0 (c.vElem a e)) (f32Op mo 1 (c.vElem b e)) (f32Op mo 2 (c.vElem y e)))
  | .rot d a n k =>
    let l := regionElems x.shape
    let m := l.length
    c.cross x d a k (c.active x.shape k) fun e =>
      let q := e / 16 * shapeCols x.shape + e % 16
      l.getD ((q + n.toNat % m) % m) 256
  | .perm d a b k => c.cross x d a k (c.active x.shape k) fun e => (c.vElem b e).toNat
  | .trans d a k =>
    let t : BitVec 8 := x.shape.setWidth 4 ++ x.shape.extractLsb' 4 4
    c.cross x d a k (c.active t k) fun e => 16 * (e % 16) + e / 16
  | .cmp mo cond d a b =>
    let f (e : Nat) : Bool × FFlags := if inRegion x.shape e then vcond mo cond (c.vElem a e) (c.vElem b e) else (false, 0)
    ⟨c.setMask d (maskOf fun e => (f e).1), (List.range 256).foldl (fun fl e => fl ||| (f e).2) 0, none⟩
  | .sel d a b k => c.vmap d (inRegion x.shape) fun e => (if (c.mask k).getLsbD e then c.vElem a e else c.vElem b e, 0)
  | .kbin op d a b => ⟨c.setMask d (match op with
      | .and => c.mask a &&& c.mask b
      | _ => c.mask a ||| c.mask b), 0, none⟩
  | .knot d a => ⟨c.setMask d (~~~c.mask a), 0, none⟩
  | .kpop d a => ⟨c, 0, some (d, BitVec.ofNat 64 ((regionElems x.shape).filter fun e => (c.mask a).getLsbD e).length)⟩
  | .mov d a k => c.vmap d (c.active x.shape k) fun e => (c.vElem a e, 0)
  | .bcast d v k => c.vmap d (c.active x.shape k) fun _ => (v, 0)
  | .ext sx d a i =>
    let v := if i.toNat < 256 then c.vElem a i.toNat else 0
    ⟨c, 0, some (d, if sx then v.signExtend 64 else v.setWidth 64)⟩
  | .ins d v i => c.vmap d (fun e => e == i.toNat) fun _ => (v, 0)
  | .cvt mr fr tgt d a k => c.vmap d (c.active x.shape k) fun e => vconvert mr fr tgt (c.vElem a e)
  | .narrow rnd fmt nosat d a k => c.vmap d (c.active x.shape k) fun e => vnarrow1 c x rnd fmt nosat (c.vElem a e)
  | .red mo mr op ty d a k =>
    let (v, fl) := treeCombine (vbin (redOp op) ty 0 mr) (vcanon ty) 0 (c.redList x mo op ty a k)
    ⟨c, fl, some (d, if ty = 1 then v.signExtend 64 else v.setWidth 64)⟩
  | .scan mo mr op ty d a k =>
    let l := c.redList x mo op ty a k
    c.vmap d (c.active x.shape k) fun e => treeCombine (vbin (redOp op) ty 0 mr) (vcanon ty) 0 (l.take (e / 16 * shapeCols x.shape + e % 16 + 1))
  | .tbl half a => ⟨c.writeTable half a, 0, none⟩
  | .sf mr fn d a k => c.vmap d (c.active x.shape k) fun e => f32Result mr (sfValue fn (unpack f32 (c.vElem a e).toNat))
  | _ => ⟨c, 0, none⟩

/-- The stored code of a code-mode access (R162). -/
def State.codeRead (s : State) (g w off : Nat) : Nat :=
  match w with
  | 1 => s.spRead g off 1
  | 2 => s.spRead g (3 * (off / 4)) 3 / 64 ^ (off % 4) % 64
  | _ => s.spRead g off 2

/-- Stores a code as it stands (R162). -/
def State.codeWrite (s : State) (g w off v : Nat) : State :=
  match w with
  | 1 => s.spWrite g off 1 (v % 256) false true
  | 2 =>
    let old := s.spRead g (3 * (off / 4)) 3
    let k := 64 ^ (off % 4)
    s.spWrite g (3 * (off / 4)) 3 (old - old / k % 64 * k + v % 64 * k) false true
  | _ => s.spWrite g off 2 (v % 65536) false true

/-- `vld` and `vldb` at the head (R161, R162). -/
def State.vload (s : State) (g : Nat) (x : Captured) (code bcast : Bool) (rs : BitVec 3) (d : BitVec 5) (a : Word) (k : BitVec 3) : State :=
  let c := s.coreAt g
  let w := a.toNat / 0x20000 % 8
  let o := a.toNat % 0x20000
  s.setCore g (c.vmap d (c.active x.shape k) fun e =>
    let off := elemOff o w x.shape rs bcast e
    (BitVec.ofNat 32 (if code then s.codeRead g w off else s.winReadAs x.half g w off 4), 0)).core

/-- `vst` at the head: the elements in list order; the new state and the flags (R161, R162). -/
def State.vstore (s : State) (g : Nat) (x : Captured) (mr : BitVec 8) (code : Bool) (rs : BitVec 3) (d : BitVec 5) (a : Word)
    (k : BitVec 3) : State × FFlags :=
  let c := s.coreAt g
  let w := a.toNat / 0x20000 % 8
  let o := a.toNat % 0x20000
  (regionElems x.shape).foldl (fun (s, fl) e =>
    if (c.mask k).getLsbD e then
      let off := elemOff o w x.shape rs false e
      let v := (c.vElem d e).toNat
      if code then (s.codeWrite g w off v, fl)
      else
        let (s, f) := s.winWriteAs x.half g w off 4 v mr
        (s, fl ||| f)
    else (s, fl)) (s, 0)

/-- The bytes and extension of a strand element format (R195). -/
def strandSize (fmt : BitVec 4) : Nat × Bool :=
  match fmt.toNat with
  | 0 => (1, false)
  | 1 => (2, false)
  | 2 => (4, false)
  | 3 => (8, false)
  | 4 => (1, true)
  | 5 => (2, true)
  | _ => (4, true)

/-- The address of element `i` of a strand (R195). -/
def Strand.elemAddr (h : Strand) (i : Nat) : Word := h.base + BitVec.ofNat 64 i * h.stride.signExtend 64

/-- The number of elements `sgetv` reads (R196). -/
def Strand.count (h : Strand) : Nat := if h.pos.toNat < h.fin.toNat then min 16 (h.fin.toNat - h.pos.toNat) else 0

/-- `sgetv` at the head (R196): VSHAPE and masks do not apply. -/
def State.strandRow (s : State) (g : Nat) (x : Captured) (d : BitVec 5) (h : Strand) (row : BitVec 4) : State :=
  let c := s.coreAt g
  let (n, sx) := strandSize h.fmt
  s.setCore g (c.vmap d (fun e => e / 16 == row.toNat) fun e =>
    let j := e % 16
    if j < h.count then
      if h.ring then (h.list.getD (h.pos.toNat + j) 0, 0)
      else
        let a := (h.elemAddr (h.pos.toNat + j)).toNat
        let w := a / 0x20000 % 8
        let v := s.winReadAs x.half g w (a % 0x20000) n
        (if w = 0 || w = 5 then (extend n sx v).setWidth 32 else BitVec.ofNat 32 v, 0)
    else (0, 0)).core

end Sys2Proof.Machine
end

