-- ==== Sys2Proof/Machine/Vector.lean ====
section
/-! DEFINITION. Issue of the vector instructions (R142, R145 to R162): each enters the core's vector queue with what it captures,
or writes its control register at issue. -/

namespace Sys2Proof.Machine

/-- What an instruction captures on entry (R142). -/
def State.capture (s : State) : Captured := ⟨s.hand.ctx, s.me.shape, s.me.zero, s.me.half, s.me.scale.extractLsb' 32 32⟩

/-- Enters the vector queue of 8 entries, or waits for room (R12, R142). -/
def State.enqueue (s : State) (op : VOp) : Res State := do
  s.await (s.me.vq.length < 8) .queueRoom
  return { s.modMe fun c => { c with vq := c.vq ++ [⟨s.nextId, op, s.capture⟩] } with nextId := s.nextId + 1 }

/-- A vector instruction that cannot fault after decoding (R145). -/
def runVec (g : Guard) (s : State) (op : State → VOp) : Out := run false false g s fun s => s.enqueue (op s)

/-- `vadd` (R146). -/
def execVadd (g : Guard) (mo : BitVec 6) (mr : BitVec 8) (ty : BitVec 2) (d a b : BitVec 5) (k : BitVec 3) (s : State) : Out :=
  runVec g s fun _ => .bin .add mo mr ty d a b k
/-- `vsub` (R146). -/
def execVsub (g : Guard) (mo : BitVec 6) (mr : BitVec 8) (ty : BitVec 2) (d a b : BitVec 5) (k : BitVec 3) (s : State) : Out :=
  runVec g s fun _ => .bin .sub mo mr ty d a b k
/-- `vmul` (R146). -/
def execVmul (g : Guard) (mo : BitVec 6) (mr : BitVec 8) (ty : BitVec 2) (d a b : BitVec 5) (k : BitVec 3) (s : State) : Out :=
  runVec g s fun _ => .bin .mul mo mr ty d a b k
/-- `vmin` (R146). -/
def execVmin (g : Guard) (mo : BitVec 6) (mr : BitVec 8) (ty : BitVec 2) (d a b : BitVec 5) (k : BitVec 3) (s : State) : Out :=
  runVec g s fun _ => .bin .min mo mr ty d a b k
/-- `vmax` (R146). -/
def execVmax (g : Guard) (mo : BitVec 6) (mr : BitVec 8) (ty : BitVec 2) (d a b : BitVec 5) (k : BitVec 3) (s : State) : Out :=
  runVec g s fun _ => .bin .max mo mr ty d a b k
/-- `vand` (R146). -/
def execVand (g : Guard) (d a b : BitVec 5) (k : BitVec 3) (s : State) : Out := runVec g s fun _ => .bin .and 0 0 0 d a b k
/-- `vor` (R146). -/
def execVor (g : Guard) (d a b : BitVec 5) (k : BitVec 3) (s : State) : Out := runVec g s fun _ => .bin .or 0 0 0 d a b k
/-- `vxor` (R146). -/
def execVxor (g : Guard) (d a b : BitVec 5) (k : BitVec 3) (s : State) : Out := runVec g s fun _ => .bin .xor 0 0 0 d a b k
/-- `vshl` (R148). -/
def execVshl (g : Guard) (ty : BitVec 2) (d a b : BitVec 5) (k : BitVec 3) (s : State) : Out :=
  runVec g s fun _ => .bin .shl 0 0 ty d a b k
/-- `vshr` (R148). -/
def execVshr (g : Guard) (ty : BitVec 2) (d a b : BitVec 5) (k : BitVec 3) (s : State) : Out :=
  runVec g s fun _ => .bin .shr 0 0 ty d a b k
/-- `vrot` (R154). -/
def execVrot (g : Guard) (d a b : BitVec 5) (k : BitVec 3) (s : State) : Out := runVec g s fun s => .rot d a (s.S b) k
/-- `vperm` (R154). -/
def execVperm (g : Guard) (d a b : BitVec 5) (k : BitVec 3) (s : State) : Out := runVec g s fun _ => .perm d a b k
/-- `vfma` (R147). -/
def execVfma (g : Guard) (mo : BitVec 6) (mr : BitVec 8) (d a b c : BitVec 5) (k : BitVec 3) (s : State) : Out :=
  runVec g s fun _ => .fma mo mr d a b c k
/-- `vcmp` (R150). -/
def execVcmp (g : Guard) (mo : BitVec 6) (cond : BitVec 5) (d : BitVec 3) (a b : BitVec 5) (s : State) : Out :=
  runVec g s fun _ => .cmp mo cond d a b
/-- `vsel` (R151). -/
def execVsel (g : Guard) (d a b : BitVec 5) (k : BitVec 3) (s : State) : Out := runVec g s fun _ => .sel d a b k
/-- `kand` (R152). -/
def execKand (g : Guard) (d a b : BitVec 3) (s : State) : Out := runVec g s fun _ => .kbin .and d a b
/-- `kor` (R152). -/
def execKor (g : Guard) (d a b : BitVec 3) (s : State) : Out := runVec g s fun _ => .kbin .or d a b
/-- `knot` (R152). -/
def execKnot (g : Guard) (d a : BitVec 3) (s : State) : Out := runVec g s fun _ => .knot d a
/-- `kpop` (R152). -/
def execKpop (g : Guard) (d : BitVec 5) (a : BitVec 3) (s : State) : Out := runVec g s fun _ => .kpop d a
/-- `vmov` (R153). -/
def execVmov (g : Guard) (d a : BitVec 5) (k : BitVec 3) (s : State) : Out := runVec g s fun _ => .mov d a k
/-- `vbcast` (R153). -/
def execVbcast (g : Guard) (d a : BitVec 5) (k : BitVec 3) (s : State) : Out := runVec g s fun s => .bcast d ((s.S a).setWidth 32) k
/-- `vext` (R153). -/
def execVext (g : Guard) (sx : Bool) (d a b : BitVec 5) (s : State) : Out := runVec g s fun s => .ext sx d a (s.S b)
/-- `vins` (R153). -/
def execVins (g : Guard) (d a b : BitVec 5) (s : State) : Out := runVec g s fun s => .ins d ((s.S a).setWidth 32) (s.S b)
/-- `vcvt` (R155). -/
def execVcvt (g : Guard) (mr : BitVec 8) (fr tgt : BitVec 2) (d a : BitVec 5) (k : BitVec 3) (s : State) : Out :=
  runVec g s fun _ => .cvt mr fr tgt d a k
/-- `vnarrow` (R157). -/
def execVnarrow (g : Guard) (rnd fmt : BitVec 2) (nosat : Bool) (d a : BitVec 5) (k : BitVec 3) (s : State) : Out :=
  runVec g s fun _ => .narrow rnd fmt nosat d a k
/-- `vtrans` (R154). -/
def execVtrans (g : Guard) (d a : BitVec 5) (k : BitVec 3) (s : State) : Out := runVec g s fun _ => .trans d a k
/-- `vred` (R158). -/
def execVred (g : Guard) (mo : BitVec 6) (mr : BitVec 8) (op ty : BitVec 2) (d a : BitVec 5) (k : BitVec 3) (s : State) : Out :=
  runVec g s fun _ => .red mo mr op ty d a k
/-- `vscan` (R158). -/
def execVscan (g : Guard) (mo : BitVec 6) (mr : BitVec 8) (op ty : BitVec 2) (d a : BitVec 5) (k : BitVec 3) (s : State) : Out :=
  runVec g s fun _ => .scan mo mr op ty d a k
/-- `vtbl` (R159). -/
def execVtbl (g : Guard) (half : BitVec 2) (a : BitVec 5) (s : State) : Out := runVec g s fun _ => .tbl half a
/-- `vsf` (R149). -/
def execVsf (g : Guard) (mr : BitVec 8) (fn : BitVec 3) (d a : BitVec 5) (k : BitVec 3) (s : State) : Out :=
  runVec g s fun _ => .sf mr fn d a k

/-- SCALE as `vscale` writes it, with the flags of the reciprocal (R47). -/
def scaleOf (x : W32) : Word × FFlags :=
  let (r, fl) := formResult f32 0 (fpDiv (.fin false 1 0) (unpack f32 x.toNat)).1 (fpDiv (.fin false 1 0) (unpack f32 x.toNat)).2
  (BitVec.ofNat 32 r ++ x, fl)

/-- `vscale` (R47, R156): writes SCALE at issue. -/
def execVscale (g : Guard) (a : BitVec 5) (s : State) : Out :=
  run false false g s fun s =>
    let (v, fl) := scaleOf ((s.S a).setWidth 32)
    .ok ((s.modMe fun c => { c with scale := v }).orFlags fl)

/-- A row or column count as VSHAPE holds it (R160). -/
def shapeField (x : Word) : BitVec 4 := BitVec.ofNat 4 (min (max x.toNat 1) 16 - 1)

/-- `vshape` (R160): writes VSHAPE at issue. -/
def execVshape (g : Guard) (a b : BitVec 5) (s : State) : Out :=
  run false false g s fun s => .ok (s.modMe fun c => { c with shape := shapeField (s.S b) ++ shapeField (s.S a) })

/-! ### Vector loads and stores -/

/-- The mask register an entry of the queue writes. -/
def VOp.maskDest : VOp → BitVec 3
  | .cmp _ _ d _ _ => d
  | .kbin _ d _ _ => d
  | .knot d _ => d
  | _ => 0

/-- Waits while an entry of the queue writes the mask register (R142). -/
def State.maskTurn (s : State) (k : BitVec 3) : Res Unit :=
  s.await (k == 0 || s.me.vq.all fun x => x.op.maskDest != k) (.maskWritten k)

/-- The checks of one element (R161): alignment, the offset limit, SPLIM. -/
def State.elemCheck (s : State) (w off rowOff : Nat) : Option Nat :=
  let (o, n) := storedBytes w off 4
  let lo := s.me.splo.toNat
  let hi := min s.me.sphi.toNat 0x20000
  if (w == 0 && off % 4 != 0) || ((w == 3 || w == 4) && off % 2 != 0) || (w == 2 && rowOff % 4 != 0) then some cALIGN
  else if 0x20000 ≤ off || hi ≤ lo || o < lo || hi < o + n then some cSPBOUND
  else none

/-- The checks of R161 at issue, in the order of R161 and R162, then poison (R413). -/
def State.vecCheck (s : State) (write code bcast : Bool) (rs k : BitVec 3) (a : Word) : Res Unit := do
  s.need (a.toNat < 0x100000) cSPBOUND a 0
  let w := a.toNat / 0x20000 % 8
  let o := a.toNat % 0x20000
  s.need (w < 5) cWINDOW a 0
  s.legal (!(code && w == 0))
  let els := (regionElems s.me.shape).filter fun e => (s.me.mask k).getLsbD e
  let addr (e : Nat) : Word := BitVec.ofNat 64 (w * 0x20000 + elemOff o w s.me.shape rs bcast e)
  match els.findSome? fun e => (s.elemCheck w (elemOff o w s.me.shape rs bcast e) (elemOff o w s.me.shape rs bcast (e / 16 * 16))).map (·, e) with
  | some (c, e) => s.fault c (addr e) 0
  | none =>
    match els.find? fun e => s.winPoison write s.hand.core w (elemOff o w s.me.shape rs bcast e) 4 with
    | some e => s.needClean true write w (elemOff o w s.me.shape rs bcast e) 4 (addr e) (if write then 1 else 0)
    | none => return ()

/-- `vld` (R161, R162). -/
def execVld (g : Guard) (code : Bool) (rs : BitVec 3) (d a : BitVec 5) (imm : BitVec 64) (k : BitVec 3) (s : State) : Out :=
  run false false g s fun s => do
    s.maskTurn k
    s.vecCheck false code false rs k (s.ea a imm)
    s.enqueue (.ld code false rs d (s.ea a imm) k)

/-- `vst` (R161, R162). -/
def execVst (g : Guard) (mr : BitVec 8) (code : Bool) (rs : BitVec 3) (d a : BitVec 5) (imm : BitVec 64) (k : BitVec 3) (s : State) : Out :=
  run false false g s fun s => do
    s.maskTurn k
    s.vecCheck true code false rs k (s.ea a imm)
    s.enqueue (.st mr code rs d (s.ea a imm) k)

/-- `vldb` (R161, R162). -/
def execVldb (g : Guard) (code : Bool) (d a : BitVec 5) (imm : BitVec 64) (k : BitVec 3) (s : State) : Out :=
  run false false g s fun s => do
    s.maskTurn k
    s.vecCheck false code true 0 k (s.ea a imm)
    s.enqueue (.ld code true 0 d (s.ea a imm) k)

end Sys2Proof.Machine
end

