-- ==== Sys2Proof/Machine/Matrix.lean ====
section
/-! DEFINITION. The row array, the matrix instructions, and the execution of queue heads (R23, R51, R142, R164 to R174). -/

namespace Sys2Proof.Machine

/-! ### Matrix instructions at issue -/

/-- `ecfg` (R166): the checks at issue; the shadow set is written at the queue head. EADDR is 0 (log entry 83). -/
def execEcfg (g : Guard) (a : BitVec 5) (s : State) : Out :=
  run false false g s fun s => do
    let c := s.S a
    let w := cfgAWin c
    let k := cfgK c
    s.need (1 ≤ w && w ≤ 4) cWINDOW 0 0
    s.need (!(w == 2 && (k % 4 != 0 || cfgAOff c % 4 != 0)) && !((w == 3 || w == 4) && cfgAOff c % 2 != 0)) cALIGN 0 0
    s.need (cfgAOff c + 32 * k * winUnit w ≤ 0x20000 && cfgBOff c + k * cfgBw c ≤ 0x80000 && cfgCOff c + 4096 ≤ 0x20000) cSPBOUND 0 0
    s.enqueue (.ecfg c)

/-- `gang` (R167, R168): enters the queue; the context waits until the operation starts. -/
def execGang (g : Guard) (a : BitVec 5) (s : State) : Out :=
  run false false g s fun s => do
    let s ← s.enqueue (.gang (s.S a) s.nextPc)
    .error (.wait s .gang)

/-- The launch that holds a row: all four cores hold units of it (R165). -/
def State.rowHeld (s : State) (row : Nat) : Option Nat :=
  let l := (List.range 4).map fun j => (s.coreAt (4 * row + j)).unit.map (·.launch)
  match l.headD none with
  | some x => if l.all (· == some x) then some x else none
  | none => none

/-- `mldb` (R165, R172): the checks at issue; log entry 82 for the place of GANGABORT among them, for a length of 0 and for EADDR. -/
def execMldb (g : Guard) (a b c : BitVec 5) (s : State) : Out :=
  run false false g s fun s => do
    let x := s.S a
    let n := (s.S c).toNat
    s.need (x.toNat / 0x20000 % 8 == 0) cWINDOW x 0
    s.need (x.toNat % 128 == 0 && (s.S b).toNat % 128 == 0 && n % 128 == 0) cALIGN x 0
    s.need ((s.S b).toNat + n ≤ 0x80000 && (n == 0 || (s.localCheck x n 128 true).isOk)) cSPBOUND x 0
    s.need (s.rowHeld (s.hand.core / 4)).isSome cGANGABORT 0 1
    s.needClean (s.spPoison false s.hand.core (x.toNat % 0x20000) n) false 0 (x.toNat % 0x20000) n x 0
    s.enqueue (.mldb x (s.S b) (s.S c))

/-- `mstc` (R173): the faults of R161 for RAW, a multiple of 64. -/
def execMstc (g : Guard) (a : BitVec 5) (s : State) : Out :=
  run false false g s fun s => do
    let x := s.S a
    s.need (x.toNat < 0x100000) cSPBOUND x 0
    let _ ← s.lift (s.localCheck x 4096 64 true)
    s.enqueue (.mstc x)

/-- `mzc` (R173). -/
def execMzc (g : Guard) (s : State) : Out := runVec g s fun _ => .mzc

/-- Runs a tile-register instruction, PRIV outside recovery mode (R18, R174). -/
def runTile (g : Guard) (s : State) (body : State → Res State) : Out :=
  finish <|
    if !s.coreHas false then s.illegal
    else if !s.me.recovery then s.fault cPRIV 0 (s.hand.hw.setWidth 64)
    else s.guarded false g body

/-- `tsave` (R174). -/
def execTsave (g : Guard) (t : BitVec 1) (a : BitVec 5) (s : State) : Out :=
  runTile g s fun s => do
    let x := s.S a
    let _ ← s.lift (s.localCheck x 5120 64 true)
    s.enqueue (.tsave t x)

/-- `trest` (R174). -/
def execTrest (g : Guard) (t : BitVec 1) (a : BitVec 5) (s : State) : Out :=
  runTile g s fun s => do
    let x := s.S a
    let (_, off) ← s.lift (s.localCheck x 5120 64 true)
    s.needClean (s.spPoison false s.hand.core off 5120) false 0 off 5120 x 0
    s.enqueue (.trest t x)

/-! ### Queue heads -/

/-- A tile register. -/
def Core.tile (c : Core) (t : BitVec 1) : TileReg := if t = 0 then c.t0 else c.t1

/-- Sets a tile register. -/
def Core.setTile (c : Core) (t : BitVec 1) (x : TileReg) : Core := if t = 0 then { c with t0 := x } else { c with t1 := x }

/-- Whether the head of a queue may execute now (R38, R168, R171 to R174). -/
def State.headReady (s : State) (g : Nat) (x : VEntry) : Bool :=
  let op := (s.row (g / 4)).running
  let free := match x.touches with
    | some (_, o, n) => !s.arrayBlocks g o n
    | none => true
  free && match x.op with
    | .gang .. => false
    | .mldb _ b n => match op with
      | some r => !overlaps b.toNat n.toNat (cfgBOff r.cfg) (cfgK r.cfg * cfgBw r.cfg)
      | none => true
    | .mstc .. | .mzc | .trest .. => op.isNone
    | .tsave t _ => ((s.coreAt g).tile t).st.all fun b => !b.getLsbD 2
    | .tbl half _ => match op with
      | some r => !(r.lead == g && half.getLsbD (if r.half then 1 else 0))
      | none => true
    | _ => true

/-- The index of a row's byte in the B-operand SRAM store. -/
def sramKey (row off : Nat) : Nat := row * 0x80000 + off

/-- Doublewords of an image of a tile register (R174). -/
def tileBytes (t : TileReg) : List Byte :=
  (List.range 4096).map (fun i => BitVec.ofNat 8 ((t.data.getD (i / 4) 0).toNat / 256 ^ (i % 4)))
    ++ (List.range 1024).map fun e => (t.st.getD e 0).setWidth 8

/-- An element of a tile register as its image gives it: f32 in t0, in t1 the 24 bits of e8m15 in [31:8] (R30, R174). -/
def tileElem (t : BitVec 1) (x : W32) : W32 := if t = 0 then x else x &&& 0xFFFFFF00

/-- Writes bytes into a scratchpad, whole words at a time. -/
def State.spWriteBytes (s : State) (g off : Nat) (l : List Byte) (full fwd : Bool) : State :=
  (List.range (l.length / 4)).foldl (fun s i =>
    s.spWrite g (off + 4 * i) 4 ((l.getD (4 * i) 0).toNat + 256 * (l.getD (4 * i + 1) 0).toNat + 65536 * (l.getD (4 * i + 2) 0).toNat
      + 16777216 * (l.getD (4 * i + 3) 0).toNat) full fwd) s

/-- Changes context `n` of core `g`. -/
def State.modCtx (s : State) (g n : Nat) (f : Context → Context) : State :=
  let c := s.coreAt g
  s.setCore g (c.setCtx n (f (c.ctxAt n)))

/-- Changes a context that is still there: the registers and flags of a helper that has retired are discarded (R128). -/
def State.modLive (s : State) (g n : Nat) (f : Context → Context) : State := if orphan 0 ≤ n then s else s.modCtx g n f

/-- What the entry at the head of the queue of core `g` does (R142). -/
def State.runEntry (s : State) (g : Nat) (x : VEntry) : State :=
  let row := g / 4
  match x.op with
  | .ld code bc rs d a k => s.vload g x.cap code bc rs d a k
  | .st mr code rs d a k =>
    let (s, fl) := s.vstore g x.cap mr code rs d a k
    s.modLive g x.cap.ctx fun c => { c with fflags := c.fflags ||| fl }
  | .sgetv d h r => s.strandRow g x.cap d h r
  | .mldb a b n =>
    if (s.rowHeld row).isSome then
      { s with sram := (List.range n.toNat).foldl (fun m i =>
          bytesSet m (sramKey row (b.toNat + i)) (bytesGet s.mem.bytes (spadPa g (a.toNat % 0x20000 + i)))) s.sram }
    else if n = 0 then s
    else s.setRow row { s.row row with broken := true }
  | .mstc a => s.spWriteBytes g (a.toNat % 0x20000) ((tileBytes (s.coreAt g).t0).take 4096) false true
  | .mzc => s.setCore g { s.coreAt g with t0 := { (s.coreAt g).t0 with data := [] } }
  | .ecfg w =>
    let c := s.coreAt g
    s.setCore g (if (s.row row).running.isNone then { c with shadow := w, cfg := w } else { c with shadow := w })
  | .tsave t a => s.spWriteBytes g (a.toNat % 0x20000) (tileBytes ((s.coreAt g).tile t)) false true
  | .trest t a =>
    let o := a.toNat % 0x20000
    let data := (List.range 1024).map fun e => tileElem t (BitVec.ofNat 32 (s.spRead g (o + 4 * e) 4))
    let st := (List.range 1024).map fun e => BitVec.ofNat 3 (s.spRead g (o + 4096 + e) 1 % 4)
    s.setCore g ((s.coreAt g).setTile t ⟨data, st⟩)
  | op =>
    let r := (s.coreAt g).vexec x.cap op
    (s.setCore g r.core).modLive g x.cap.ctx fun c => { c with
      fflags := c.fflags ||| r.flags
      s := match r.out with
        | some (d, v) => if d = 0 then c.s else c.s.set d.toNat v d.isLt
        | none => c.s }

/-- Lane groups an operation can use: none for those R142 names, else ceil(n / 16) (R23). -/
def VEntry.lanes (x : VEntry) : Nat :=
  match x.op with
  | .kbin .. | .knot .. | .kpop .. | .tbl .. | .ext .. | .ins .. | .gang .. | .mldb .. | .mstc .. | .mzc | .ecfg .. | .tsave .. | .trest .. => 0
  | _ => ((regionElems x.cap.shape).length + 15) / 16

/-- The lane groups of a tile. -/
def laneGroups : Nat := 8

/-- Lane groups that instructions of a core still hold in a beat: bound to g groups an instruction holds them while it runs (R23). -/
def Core.holds (c : Core) (now : Nat) : Nat := c.laneUse.foldl (fun n (t, g, r) => if now < t + r then n + g else n) 0

/-- The free lane groups of a tile. -/
def State.freeLanes (s : State) (tile : Nat) : Nat := (List.range 8).foldl (fun n i => n - (s.coreAt (8 * tile + i)).holds s.beat) laneGroups

/-- A use of lane groups by the head of a core with `free` groups free: it takes at most ceil(n / 16), and runs for ceil(n / (16 g)) cycles
(R23). -/
def Core.bindLanes (c : Core) (now : Nat) (x : VEntry) (free : Nat) : Core :=
  let g := min free x.lanes
  let n := (regionElems x.cap.shape).length
  let use := if g = 0 then c.laneUse else (now, g, (n + 16 * g - 1) / (16 * g)) :: c.laneUse
  { c with laneUse := use.filter (fun u => now < u.1 + u.2.2 + 1024), laneWait := none }

/-- What core `g` does of itself, as its queue head or the row array: its writes count as that core's (R220, R286, R320). -/
def State.asCore (s : State) (g : Nat) (f : State → State) : State := { f (s.at g 0) with hand := s.hand }

/-- Executes the head of the queue of core `g`, when it may (R142). The lane groups it uses are noted (R23). -/
def State.runHead (s : State) (g : Nat) : State :=
  match (s.coreAt g).vq with
  | [] => s
  | x :: rest =>
    if s.headReady g x then
      let c := (s.coreAt g).bindLanes s.beat x (s.freeLanes (g / 8))
      (s.setCore g { c with vq := rest }).asCore g fun s => s.runEntry g x
    else s

/-- VECTOR_QUEUE_HEAD (R142): a head that needs no lane group. -/
def execVectorQueueHead (core : Nat) (s : State) : Out := event (s.runHead core)

/-- Whether a core's head waits for lane groups. -/
def State.wantsLanes (s : State) (g : Nat) : Bool :=
  match (s.coreAt g).vq with
  | x :: _ => s.headReady g x && x.lanes != 0
  | [] => false

/-- Lane-group cycles used by a core in the last 1,024 cycles: of each use those of its cycles that have passed and lie among them (R23). -/
def Core.used (c : Core) (now : Nat) : Nat :=
  c.laneUse.foldl (fun n (t, g, r) => n + g * (min now (t + r) - max t (now - 1024))) 0

/-- The cycles that a head of WEIGHT 1 or more has waited before it goes ahead of the ratio: half the bound of R23 (log entry 116). -/
def laneUrgent : Nat := 64

/-- Whether the head of a core has waited so long for lane groups that it is bound first, so that the bound of 128 cycles holds. -/
def State.laneUrged (s : State) (g : Nat) : Bool :=
  (s.coreAt g).weight != 0 && (s.coreAt g).laneWait.any fun t => t + laneUrgent ≤ s.beat

/-- The first of some cores by a strict order, ties to the one that stands first. -/
def firstBy (lt : Nat → Nat → Bool) (l : List Nat) : Option Nat :=
  l.foldl (fun b g => match b with
    | none => some g
    | some h => if lt g h then some g else some h) none

/-- The core whose waiting head is offered the free lane groups of a tile (R23): that with the smallest ratio of use to weight, ties to the
lower core; a head of weight 0 only when no head of another weight waits (log entry 75). Heads that have waited long go before the ratio,
the longest first (log entry 116). -/
def State.arbitrate (s : State) (tile : Nat) : Option Nat :=
  let want := ((List.range 8).map (8 * tile + ·)).filter s.wantsLanes
  let heavy := want.filter fun g => (s.coreAt g).weight != 0
  let ratio (g h : Nat) : Bool :=
    (s.coreAt g).used s.beat * (s.coreAt h).weight.toNat < (s.coreAt h).used s.beat * (s.coreAt g).weight.toNat
  let since (g : Nat) : Nat := (s.coreAt g).laneWait.getD s.beat
  (firstBy (fun g h => decide (since g < since h)) (want.filter s.laneUrged)).orElse fun _ =>
    (firstBy ratio heavy).orElse fun _ => want.head?

/-- Free lane groups of a tile go to a head, which executes (R23). -/
def State.bindTile (s : State) (tile : Nat) : State :=
  if s.freeLanes tile = 0 then s else ((s.arbitrate tile).map s.runHead).getD s

/-- VECTOR_ARBITER_BIND (R23). -/
def execVectorArbiterBind (tile : Nat) (s : State) : Out := event (s.bindTile tile)

/-- In each cycle every free lane group of every tile is offered (R23); a head that goes on waiting has waited since its first cycle. -/
def State.offerLanes (s : State) : State :=
  let waits := s.cores.any fun x => s.wantsLanes x.1
  if !waits then s
  else
    let s := ((s.cores.map fun x => x.1 / 8).eraseDups).foldl (fun s t => (List.range laneGroups).foldl (fun s _ => s.bindTile t) s) s
    { s with cores := s.cores.map fun x =>
        (x.1, if s.wantsLanes x.1 && x.2.laneWait.isNone then { x.2 with laneWait := some s.beat } else x.2) }

/-! ### Matching and running -/

/-- The `gang` at the head of a core's queue: its context, command word and next pc (R168). -/
def State.gangHead (s : State) (g : Nat) : Option (Nat × Word × Word) :=
  match (s.coreAt g).vq with
  | x :: _ => match x.op with
    | .gang w n => some (x.cap.ctx, w, n)
    | _ => none
  | [] => none

/-- The cores of a row. -/
def rowCores (row : Nat) : List Nat := (List.range 4).map (4 * row + ·)

/-- Removes the `gang` at the head of core `g` and makes its context fault (R168). A unit that is ending already takes no cause, and a
frozen core is kept in place (R368). -/
def State.gangFault (s : State) (g : Nat) (code : Nat) (info : Word) : State :=
  if (s.coreAt g).frozen then s
  else match s.gangHead g with
  | none => s
  | some (n, _, _) =>
    let s := s.setCore g { s.coreAt g with vq := (s.coreAt g).vq.tail }
    if (s.coreAt g).ending.isSome then s
    else
      let h := s.hand
      { (s.at g n).deliverNow ⟨code, 0, info⟩ ((s.coreAt g).ctxAt n).pc with hand := h }

/-- Whether the context of the `gang` at the head of core `g` has taken the full effect of all it issued before it, so that it may fault
(R356). -/
def State.gangSettled (s : State) (g : Nat) : Bool :=
  match s.gangHead g with
  | none => true
  | some (n, _, _) => ((s.coreAt g).ctxAt n).replies.isEmpty && (s.rowRuns g).all fun op => !op.gangs.any fun x => x.1 == g && x.2.1 == n

/-- Every waiting `gang` of a row faults. -/
def State.gangAbort (s : State) (row : Nat) (info : Word) : State := (rowCores row).foldl (fun s g => s.gangFault g cGANGABORT info) s

/-- Whether [off, off + n) of core `g` passes its SPLIM (R27). -/
def State.inLimits (s : State) (g off n : Nat) : Bool :=
  let c := s.coreAt g
  c.splo.toNat ≤ off && off + n ≤ min c.sphi.toNat 0x20000

/-- The participants of a command word. -/
def partsOf (row : Nat) (parts : BitVec 4) : List Nat := (rowCores row).filter fun g => parts.getLsbD (g % 4)

/-- Whether the `gang`s of a row fault for a missing core (R168): a core holds no unit of the launch, or a unit that is ending, or a `mldb`
found the row no longer held (R165). -/
def State.rowMissing (s : State) (row : Nat) : Bool :=
  (s.row row).broken || (s.rowHeld row).isNone || (rowCores row).any fun g => (s.coreAt g).ending.isSome

/-- The `gang`s offered at the heads of the queues of a row: core, context and number of the entry. A frozen core offers none (R368). -/
def State.gangsOf (s : State) (row : Nat) : List (Nat × Nat × Nat) :=
  (rowCores row).filterMap fun g => if (s.coreAt g).frozen then none else (s.gangHead g).map fun h => (g, h.1, ((s.coreAt g).vq.head?.map (·.id)).getD 0)

/-- Whether the waiting `gang` of a core faults for a missing core (R168): the row lacks one, or a unit left it while the `gang` waited. -/
def State.gangLost (s : State) (row g : Nat) : Bool := s.rowMissing row || (s.row row).left.contains g

/-- Whether a matched operation of a row cannot start: a `gang` of it is to fault, or a core is frozen (R168, R368). -/
def State.rowHalted (s : State) (row : Nat) : Bool :=
  s.rowMissing row || !(s.row row).left.isEmpty || (rowCores row).any fun g => (s.coreAt g).frozen

/-- The check of R168 that a core fails at the match, under the configuration of the lead. -/
def State.badRange (s : State) (lead : Nat) (parts : BitVec 4) (g : Nat) : Bool :=
  let cfg := (s.coreAt lead).cfg
  let (a, n) := cfgARange cfg
  (g == lead && !s.inLimits g a n) || (cfgSTORE cfg && parts.getLsbD (g % 4) && !s.inLimits g (cfgCOff cfg) 4096)

/-- GANG_MATCH (R168): the checks in order, then the matched operation, which waits to start at S, two cycles after the last `gang` has
reached its queue head (R169). A fault waits until each of its contexts may take it. Log entry 84 for EINFO of a reserved bit and EADDR of SPBOUND. -/
def State.matchRow (s : State) (row : Nat) : State :=
  let r := s.row row
  let gangs := s.gangsOf row
  let settled := (rowCores row).all s.gangSettled
  let lost := gangs.filter fun x => s.gangLost row x.1
  let due (lead : Nat) : Word := (s.coreAt lead).cycles + 2
  if gangs.isEmpty then s
  else if !lost.isEmpty then
    if lost.all fun x => s.gangSettled x.1 then
      lost.foldl (fun s x => s.gangFault x.1 cGANGABORT 1) (s.setRow row { r with broken := false, left := [], matched := none })
    else s
  else if r.matched.isSome || gangs.length < 4 then s
  else
    let words := (rowCores row).filterMap fun g => (s.gangHead g).map (·.2.1)
    let w := words.headD 0
    let parts : BitVec 4 := w.setWidth 4
    if !words.all fun x => x == w && x &&& 0xFFFFFFFFFFFF00F0 == 0 then if settled then s.gangAbort row 0 else s
    else match partsOf row parts with
      | [] => s.setRow row { r with matched := some ⟨0, 4 * row, (gangs.headD (0, 0, 0)).2.1, 0, 0, false, gangs, due (4 * row)⟩ }
      | lead :: _ =>
        let bad := (rowCores row).filter (s.badRange lead parts)
        let own := (gangs.find? fun x => x.1 == lead).getD (0, 0, 0)
        if bad.isEmpty then s.setRow row { r with matched := some ⟨own.2.2, lead, own.2.1, parts, 0, false, gangs, due lead⟩ }
        else if settled then
          (rowCores row).foldl (fun s g => if bad.contains g then s.gangFault g cSPBOUND 0 else s.gangFault g cGANGABORT 2) s
        else s

/-- Whether a GANG_MATCH has something to do. -/
def State.matchDue (s : State) (row : Nat) : Bool :=
  let gangs := s.gangsOf row
  let lost := gangs.filter fun x => s.gangLost row x.1
  if lost.isEmpty then (s.row row).matched.isNone && gangs.length == 4 else lost.all fun x => s.gangSettled x.1

/-- GANG_MATCH. -/
def execGangMatch (row : Nat) (s : State) : Out := event (s.matchRow row)

/-- In-flight bits of all elements of a participant's tile registers. -/
def inFlight (t : TileReg) : TileReg := { t with st := (List.range 1024).map fun e => t.st.getD e 0 ||| 4 }

/-- Releases the `gang` at the head of core `g`: its context goes on after it (R169). -/
def State.gangRelease (s : State) (g : Nat) : State :=
  match s.gangHead g with
  | none => s
  | some (n, _, next) =>
    (s.setCore g { s.coreAt g with vq := (s.coreAt g).vq.tail }).modCtx g n fun c => { c with pc := next, st := .ready, issued := c.issued + 1 }

/-- Whether the cycle S of a matched operation has come (R169). -/
def State.rowDue (s : State) (op : RowOp) : Bool := ((s.coreAt op.lead).cycles - op.due).toNat < 2 ^ 63

/-- ROW_ARRAY_START (R169, R427): a matched operation starts in its cycle S, once the array is idle, and takes the lead's active set and
HALF. -/
def State.startRow (s : State) (row : Nat) : State :=
  let r := s.row row
  match r.matched, r.running with
  | some op, none =>
    if s.clockHeld (row / 288) || s.rowHalted row || !s.rowDue op then s
    else
    let c := s.coreAt op.lead
    let s := (rowCores row).foldl State.gangRelease s
    if op.parts = 0 then s.setRow row { r with matched := none }
    else
      let s := s.setRow row { r with matched := none, running := some { op with cfg := c.cfg, half := c.half } }
      (partsOf row op.parts).foldl (fun s g =>
        let c := s.coreAt g
        s.setCore g { c with t0 := inFlight c.t0, t1 := inFlight c.t1 }) s
  | _, _ => s

/-- ROW_ARRAY_START. -/
def execRowArrayStart (row : Nat) (s : State) : Out := event (s.startRow row)

/-- A[i][k] as e8m10 (R164, R33). -/
def State.arrayA (s : State) (op : RowOp) (i k : Nat) : Nat :=
  let o := cfgAOff op.cfg + (i * cfgK op.cfg + k) * winUnit (cfgAWin op.cfg)
  let t := (s.coreAt op.lead).table
  match cfgAWin op.cfg with
  | 1 => widen e8m10 e8m10 (decodeCode t op.half false (s.spRead op.lead o 1))
  | 2 => widen e8m10 e8m10 (decodeCode t op.half true (s.spRead op.lead (3 * (o / 4)) 3 / 64 ^ (o % 4) % 64))
  | 3 => widen h16 e8m10 (s.spRead op.lead o 2)
  | _ => widen b16 e8m10 (s.spRead op.lead o 2)

/-- B[k][j] as e8m10. -/
def State.arrayB (s : State) (row : Nat) (op : RowOp) (k j : Nat) : Nat :=
  let o := cfgBOff op.cfg + k * cfgBw op.cfg
  let rd (a n : Nat) : Nat := bytesRead s.sram (sramKey row a) n
  let t := (s.coreAt op.lead).table
  match cfgBFMT op.cfg with
  | 0 => widen e8m10 e8m10 (decodeCode t op.half false (rd (o + j) 1))
  | 1 => widen e8m10 e8m10 (decodeCode t op.half true (rd (o + 3 * (j / 4)) 3 / 64 ^ (j % 4) % 64))
  | 2 => widen b16 e8m10 (rd (o + 2 * j) 2)
  | _ => widen h16 e8m10 (rd (o + 2 * j) 2)

/-- The accumulation of one element (R51): steps left, k, the partial, its count, C, flags. -/
def macGo (a b : Nat → Nat) (P : Nat) : Nat → Nat → Nat → Nat → Nat → FFlags → Nat × FFlags
  | 0, _, _, _, c, fl => (c, fl)
  | m + 1, k, part, n, c, fl =>
    let (x, f1) := fpFma 0 (unpack e8m10 (a k)) (unpack e8m10 (b k)) (unpack e8m15 part)
    let (p, f2) := roundExact e8m15 0 x
    let fl := fl ||| f1 ||| f2
    if n + 1 = P || m = 0 then
      let (y, f3) := fpAdd 0 (unpack f32 c) (unpack e8m15 p)
      let (c', f4) := roundExact f32 0 y
      macGo a b P m (k + 1) 0 0 c' (fl ||| f3 ||| f4)
    else macGo a b P m (k + 1) p (n + 1) c fl

/-- The slice of a participant after the operation, and its flags (R170). -/
def State.slice (s : State) (row : Nat) (op : RowOp) (g : Nat) : List W32 × FFlags :=
  let l := (List.range 1024).map fun e =>
    let c0 := if cfgACC op.cfg then ((s.coreAt g).t0.data.getD e 0).toNat else 0
    macGo (s.arrayA op (e / 32)) (fun k => s.arrayB row op k (32 * (g % 4) + e % 32)) (cfgP op.cfg) (cfgK op.cfg) 0 0 0 c0 0
  (l.map fun x => BitVec.ofNat 32 x.1, l.foldl (fun fl x => fl ||| x.2) 0)

/-- ROW_ARRAY_COMPLETE (R166, R169, R170): a matched operation starts in the next cycle; slices computed, stored with STORE, flags to the lead's context, the shadow sets copied. The
valid and dirty bits of the slice are free values (the manual does not state them); the partials are invalid (R174). -/
def State.completeRow (s : State) (row : Nat) : State :=
  match (s.row row).running with
  | none => s
  | some op =>
    let res := (partsOf row op.parts).map fun g => (g, s.slice row op g)
    let s := s.setRow row { s.row row with
      running := none, matched := (s.row row).matched.map fun m => { m with due := (s.coreAt m.lead).cycles + 1 } }
    let s := res.foldl (fun s (g, d, _) =>
      let c := s.coreAt g
      let st := (List.range 1024).map fun e => (Config.freeByte s.fresh e).setWidth 3 &&& 3
      let s := { s.setCore g { c with t0 := ⟨d, st⟩, t1 := ⟨c.t1.data, []⟩ } with fresh := s.fresh + 1 }
      if cfgSTORE op.cfg then s.asCore g fun s => s.spWriteBytes g (cfgCOff op.cfg) ((tileBytes ⟨d, []⟩).take 4096) false true else s) s
    let fl := res.foldl (fun fl x => fl ||| x.2.2) 0
    let s := s.modLive op.lead op.ctx fun c => { c with fflags := c.fflags ||| fl }
    (rowCores row).foldl (fun s g => s.setCore g { s.coreAt g with cfg := (s.coreAt g).shadow }) s

/-- ROW_ARRAY_COMPLETE. -/
def execRowArrayComplete (row : Nat) (s : State) : Out := event (s.completeRow row)

end Sys2Proof.Machine
end

