-- ==== Sys2Proof/Machine/Global.lean ====
section
/-! DEFINITION. Global loads and stores, atomics, cache maintenance, leases, allocation and fences (R179 to R194). -/

namespace Sys2Proof.Machine

/-- The base of a global access (R179): a scalar base plus the immediate, or a capability checked for the units the access names. -/
def State.globalBase (s : State) (capb : Bool) (a : BitVec 5) (imm : Word) (size : Nat) (perm : BitVec 6) : Res Word :=
  if capb then do
    let r : BitVec 4 := a.setWidth 4
    let c := s.A r
    let s ← s.tagTurn (capTag c)
    let va ← s.lift (s.checkCap c imm.toInt (s.vaUnits (capBase c + imm.toNat) size) perm (capInfo r))
    return BitVec.ofNat 64 va
  else return s.ea a imm

/-- The tag with which the base of an access was checked. -/
def State.baseTag (s : State) (capb : Bool) (a : BitVec 5) : Nat := if capb then capTag (s.A (a.setWidth 4)) else 0

/-- The revocation cache keeps the line of the tag of the base of an access (R388). -/
def State.fillBase (s : State) (capb : Bool) (a : BitVec 5) : State := s.fillRev (s.baseTag capb a)

/-- Whether the access goes to a scratchpad window that converts (Q8, Q6, H16, B16). -/
def converts (ps : List Part) : Bool :=
  match ps with
  | [p] => isSpad p.loc.pa && (let w := (spadParts p.loc.pa).2.1; 1 ≤ w && w ≤ 4)
  | _ => false

/-- `ldg` (R179 to R182): the reply is written by LOAD_REPLY. -/
def execLdg (g : Guard) (sz : BitVec 2) (sx capb byp na : Bool) (d a : BitVec 5) (imm : BitVec 64) (s : State) : Out :=
  run true false g s fun s => do
    let n := sizeOf2 sz
    let va ← s.globalBase capb a imm n permREAD
    let (s, ps) ← s.niAccess va n 1 false .read (hintOf byp na)
    let v := s.readParts ps
    return (s.fillBase capb a).postReply va.toNat n (s.baseTag capb a) (.s d) ((if converts ps then BitVec.ofNat 64 v else extend n sx v).setWidth 128) 0

/-- `stg` (R179 to R182). -/
def execStg (g : Guard) (sz : BitVec 2) (capb byp na : Bool) (d a : BitVec 5) (imm : BitVec 64) (s : State) : Out :=
  run true false g s fun s => do
    let n := sizeOf2 sz
    let va ← s.globalBase capb a imm n permWRITE
    let s ← s.niWrite va n 1 false (hintOf byp na) (s.S d).toNat
    return s.fillBase capb a

/-- `ldc` (R184). -/
def execLdc (g : Guard) (d a : BitVec 4) (imm : BitVec 64) (s : State) : Out :=
  run true false g s fun s => do
    let s ← s.tagTurn (capTag (s.A a))
    let va ← s.lift (s.checkCap (s.A a) imm.toInt 16 permREAD (capInfo a))
    let (s, v) ← s.niRead (BitVec.ofNat 64 va) 16 16 true .plain
    return (s.fillBase true (a.setWidth 5)).postReply va 16 (capTag (s.A a)) (.a d) (BitVec.ofNat 128 v) 0

/-- `stc` (R184). -/
def execStc (g : Guard) (d a : BitVec 4) (imm : BitVec 64) (s : State) : Out :=
  run true false g s fun s => do
    let s ← s.tagTurn (capTag (s.A a))
    let va ← s.lift (s.checkCap (s.A a) imm.toInt 16 permWRITE (capInfo a))
    let s ← s.niWrite (BitVec.ofNat 64 va) 16 16 true .plain (s.A d).toNat
    return s.fillBase true (a.setWidth 5)

/-- ClaimMin (R65): the new marker, none when the old one stands. -/
def claimMin (r key old : Nat) : Option Nat :=
  if old / 2 ^ 56 != r || key < old % 2 ^ 56 then some (r * 2 ^ 56 + key) else none

/-- Op(old, x) of R185, with the flags of `fadd`. -/
def amoOp (op : BitVec 4) (old x : Word) : Word × FFlags :=
  match op.toNat with
  | 0 => (old + x, 0)
  | 1 => (old &&& x, 0)
  | 2 => (old ||| x, 0)
  | 3 => (old ^^^ x, 0)
  | 4 => (if x.slt old then x else old, 0)
  | 5 => (if old.slt x then x else old, 0)
  | 6 => (x, 0)
  | 7 => let (b, fl) := formResult f64 0 (fpAdd 0 (unpack f64 old.toNat) (unpack f64 x.toNat)).1 (fpAdd 0 (unpack f64 old.toNat) (unpack f64 x.toNat)).2
         (BitVec.ofNat 64 b, fl)
  | _ => (BitVec.ofNat 64 ((claimMin (x.toNat / 2 ^ 56) (x.toNat % 2 ^ 56) old.toNat).getD old.toNat), 0)

/-- Where an atomic of a scope executes (R186): in the issuing core's L1 at core and tile scope, else at the home. -/
def atomicAt (scope : BitVec 3) : Hint := if scope.toNat ≤ 1 then .plain else .bank

/-- `amo` (R185, R186): indivisible; the old value comes with the reply. `claim` executes at the home at any scope. -/
def execAmo (g : Guard) (op : BitVec 4) (scope : BitVec 3) (d a b : BitVec 5) (s : State) : Out :=
  run true false g s fun s => do
    let x := s.S b
    let (s, old) ← s.niUpdate (s.S a) 8 8 (if op = 8 then .bank else atomicAt scope) fun old => some (amoOp op (BitVec.ofNat 64 old) x).1.toNat
    return s.postReply (s.S a).toNat 8 0 (.s d) (BitVec.ofNat 128 old) (amoOp op (BitVec.ofNat 64 old) x).2

/-- `cas` (R187): the checks are those of a write whatever the outcome. -/
def execCas (g : Guard) (scope : BitVec 3) (d a b c : BitVec 5) (s : State) : Out :=
  run true false g s fun s => do
    let x := s.S b
    let y := s.S c
    let (s, old) ← s.niUpdate (s.S a) 8 8 (atomicAt scope) fun old => if old = x.toNat then some y.toNat else none
    return s.postReply (s.S a).toNat 8 0 (.s d) (BitVec.ofNat 128 old) 0

/-! ### Cache maintenance -/

/-- The directory keys of a line: itself, or its two halves (R188, R392). -/
def lineKeys (k : Nat) : List Nat := if hostKey k then [k, k + 64] else [k]

/-- What `prf` does with one key (R188, R393): it asks for what is missing and, where nothing is, makes a copy, with `w` one that may be
written. -/
def State.prefetch (s : State) (l2 w : Bool) (k : Nat) : State :=
  let a := if l2 then s.hostSlice k else s.agent
  let (s, x) := if hostKey k then s.askHalf (keyLine k) w (keyHalf k)
    else if !w && s.holds a k then (s, false)
    else s.recall k
  if x || (l2 && !hostKey k) then s
  else if w then
    let (s, x) := s.claimLine none (some a) k
    if x then s else s.dirOwn a k
  else s.dirRead a k

/-- `prf` (R188, R393): a hint. It brings the line towards the core where a load or, with `.w`, a store would be allowed and the data is
readable, and does nothing else; it never faults and places no page. -/
def execPrf (g : Guard) (l2 w : Bool) (a : BitVec 5) (s : State) : Out :=
  run true false g s fun s =>
    let va := (s.S a).toNat
    let acc : Acc := if w then .update else .read
    .ok (if (s.leafOf va).any pteFtp then s
      else match s.niPart (va / 128 * 128) 128 acc with
        | .error _ => s
        | .ok (_, p) => if isSpad p.loc.pa then s else (lineKeys (lineKey p.loc)).foldl (fun s k => s.prefetch l2 w k) s)

/-- The line an address names, when maintenance acts on it: not an aperture address, not a read-duplicate copy (R188). -/
def State.maintained (s : State) (va : Nat) (p : Part) : Option Nat :=
  if s.aperture va || isSpad p.loc.pa || (s.leafOf va).any pteRdup then none else some (lineKey p.loc)

/-- The checks of `cclean` and `cflush`: those of a load at s_a (R188). -/
def State.lineAccess (s : State) (a : BitVec 5) : Res (State × Option Nat) := do
  let va := s.S a
  s.lift (s.niForm va 1 1 false .read)
  match s.niPart va.toNat 1 .read with
  | .error x => .error (badStop x)
  | .ok (s, p) => return (s, s.maintained va.toNat p)

/-- `cclean` (R188). -/
def execCclean (g : Guard) (a : BitVec 5) (s : State) : Out :=
  run true false g s fun s => do
    let (s, k) ← s.lineAccess a
    match k with
    | some k => return (lineKeys k).foldl State.writeBack s
    | none => return s

/-- A line no lease pins any more; the ways stay reserved (R270). -/
def State.unpin (s : State) (k : Nat) : State :=
  { s with pstate := s.pstate.map fun (p, x) => (p, { x with leases := x.leases.map fun l => { l with pinned := setErase l.pinned k } }) }

/-- Every copy of a line is invalidated after a write-back. -/
def State.flushLine (s : State) (k : Nat) : State :=
  (lineKeys k).foldl (fun s k => match s.dirAt k with
    | some e => s.evictLine e
    | none => (s.sliceClean k).dropHalf k) s

/-- `cflush` (R188): written back, then every copy invalidated, once the copies that take time have been acknowledged and a host has given up
its own (R382, R397). -/
def execCflush (g : Guard) (a : BitVec 5) (s : State) : Out :=
  run true false g s fun s => do
    let (s, k) ← s.lineAccess a
    match k with
    | some k =>
      let s ← s.homeTurn (lineKeys k)
      return (s.flushLine k).unpin k
    | none => return s

/-! ### Leases (R189, R190, R263, R268) -/

/-- The sets that the lines [lo, hi) map to; lines of a peer map to none of this device. -/
def setsOf (slices : List Nat) (lo hi : Nat) : List Nat := if 2 ^ 52 ≤ lo then [] else (unitsOf 128 lo (hi - lo)).map (homeSet slices)

/-- Whether one more lease would make a set hold more than 16 reserved ways; leases of every partition count. -/
def State.waysExceeded (s : State) (slices : List Nat) (lo hi ways : Nat) : Bool :=
  let live := s.pstate.flatMap fun (p, x) => x.leases.map fun l => (((s.partEntry p).map sliceList).getD [], l)
  (setsOf slices lo hi).any fun k =>
    16 < live.foldl (fun n (sl, l) => if (setsOf sl l.lo l.hi).contains k then n + l.ways else n) ways

/-- The lowest lease id from 1 to 64 that is not live; R189 does not say which it is (log entry 122). -/
def freeLease (ls : List Lease) : Option Nat := ((List.range 64).map (· + 1)).find? fun i => !ls.any (·.id == i)

/-- `lease` (R189): the page must translate as for a load; its data is not read. -/
def execLease (g : Guard) (d a b c : BitVec 5) (s : State) : Out :=
  run true false g s fun s => do
    let va := s.S a
    let n := (s.S b).toNat
    let o := s.S c
    s.lift (s.niForm va 1 128 false .read)
    s.need (n % 128 == 0) cALIGN va 0
    match s.translateMy va.toNat .read with
    | .error (s, b) => .error (badStop (s, b, va.toNat))
    | .ok (s, l) =>
      let page := 4096 * 2 ^ ((s.leafOf va.toNat).map pteSize).getD 40
      s.need (va.toNat % page + n ≤ page) cALIGN va 0
      let expiry := (o.extractLsb' 32 32).toNat
      let ways := (o.setWidth 5).toNat
      let x := s.pst s.partNo
      let slices := ((s.partEntry s.partNo).map sliceList).getD []
      let lo := l.dev * 2 ^ 52 + l.pa
      let refused := expiry == 0 || ways == 0 || 16 < ways || o.extractLsb' 5 27 != 0 || n == 0 || 0x4000000 < n
        || (!isSpad l.pa && s.waysExceeded slices lo (lo + n) ways)
      match if refused then none else freeLease x.leases with
      | none => return s.setS d 0
      | some id =>
        let l : Lease := ⟨id, lo, lo + n, ways, s.time.toNat * 8 + expiry * 5, []⟩
        return (s.setPst s.partNo { x with leases := x.leases ++ [l] }).setS d (BitVec.ofNat 64 id)

/-- Ends a lease of a partition (R189, R190). -/
def State.endLease (s : State) (p id : Nat) : State :=
  s.setPst p { s.pst p with leases := (s.pst p).leases.filter (·.id != id) }

/-- `unlease` (R190). -/
def execUnlease (g : Guard) (a : BitVec 5) (s : State) : Out :=
  run true false g s fun s => .ok (s.endLease s.partNo (s.S a).toNat)

/-- LEASE_EXPIRY (R189): once its lifetime has ended. -/
def execLeaseExpiry (part id : Nat) (s : State) : Out :=
  event (if (s.pst part).leases.any fun l => l.id == id && l.expiry ≤ s.time.toNat * 8 then s.endLease part id else s)

/-! ### Allocation and revocation (R191, R192) -/

/-- The size class of a request: the least j with s_a ≤ 16 × 2^j. -/
def slabClass (n : Nat) : Option Nat := if n = 0 then none else (List.range 17).find? fun j => n ≤ 16 * 2 ^ j

/-- Whether the bit of a tag stands in a poisoned line of the bitmap (R413). -/
def State.bitPoisoned (s : State) (tag : Nat) : Bool := (s.tagLine tag).any fun x => s.mem.poisoned false (keyLoc x.1).pa 1

/-- The first tag from `t` on, modulo 2^24, that is not 0 and not revoked (R389); true when the search meets a poisoned line first. -/
def State.freshTag (s : State) : Nat → Nat → Option (Nat × Bool)
  | 0, _ => none
  | n + 1, t =>
    let t := t % 2 ^ 24
    if t = 0 then s.freshTag n 1
    else if s.bitPoisoned t then some (t, true)
    else if s.revokedHome t then s.freshTag n (t + 1) else some (t, false)

/-- The parts of a block at a virtual address of the partition in hand by lines: where each lies and its length; a part that cannot be reached
is left out. -/
def State.blockParts (s : State) (va n : Nat) : State × List (Loc × Nat) :=
  (unitsOf 128 va n).foldl (fun (s, ps) u =>
    let lo := max u va
    let hi := min (u + 128) (va + n)
    match s.translate .distributor s.partNo lo .read with
    | .ok (s, l) => (s, ps ++ [(l, hi - lo)])
    | .error (s, _) => (s, ps)) (s, [])

/-- Zeroes the parts of a block at the homes of their lines (R191, R265); a line that is replaced whole is no longer poisoned (R413). -/
def State.zeroParts (s : State) (ps : List (Loc × Nat)) : State :=
  ps.foldl (fun s (l, n) =>
    let s := (((s.homeStore (some s.hand.core) none (lineKey l)).sliceDirty (lineKey l)).writeAt l n 0)
    s.setPhys l.dev ((s.phys l.dev).cleanse l.pa n)) s

/-- The block of an `alloc` is free to be zeroed: its pages are placed, and every copy of its lines is gone, or the instruction waits (R385,
R391). A poisoned line of which it is only a part faults POISON (R413). -/
def State.blockTurn (s : State) (va n : Nat) : Res (State × List (Loc × Nat)) := do
  let (t, _) := s.blockParts va n
  let s ← s.homeTurn (s.blockers t)
  let (s, ps) := s.blockParts va n
  s.need (!ps.any fun x => (s.phys x.1.dev).poisoned true x.1.pa x.2) cPOISON (BitVec.ofNat 64 va) 1
  let s ← s.homeTurn (ps.map fun x => lineKey x.1)
  return (s, ps)

/-- A request for a slab class found empty (R191, R371): the lines of the ring are made ready first. -/
def State.classEmpty (s : State) (p j : Nat) : Res State :=
  match if s.refillDue p 3 j then s.ringReady none p else (s, none) with
  | (s, some k) => .error (.wait s (.host (keyLine k)))
  | (s, none) => .ok (s.askRefill p 3 j)

/-- `alloc` (R191, R371). When the class has a block and no tag is left, the result is null and the block stays (log entry 96). -/
def execAlloc (g : Guard) (d : BitVec 4) (a : BitVec 5) (s : State) : Out :=
  run true false g s fun s =>
    let n := (s.S a).toNat
    let p := s.partNo
    match slabClass n with
    | none => .ok (s.setA d 0)
    | some j =>
      match (smapGet? (s.pst p).slabs j).getD [], s.freshTag (2 ^ 24) (s.pst p).nextTag with
      | va :: rest, some (t, false) => do
        let (s, ps) ← s.blockTurn va (16 * 2 ^ j)
        let s := s.setPst p { s.pst p with slabs := smapSet (s.pst p).slabs j rest, nextTag := t + 1 }
        let s := (s.wasFilled p 3 j).zeroParts ps
        return s.setA d (mkCap t (permREAD ||| permWRITE ||| permGATH ||| permSUBS ||| permMEDIT) n va)
      | _ :: _, some (_, true) => s.fault cPOISON 0 0
      | [], _ => do
        let s ← s.classEmpty p j
        return s.setA d 0
      | _, none => .ok (s.setA d 0)

/-- `free` (R192, R265): the tag's bit is set indivisibly at the home of the bitmap, once the revocation caches have dropped the line and drained
what they checked with it (R388): the bit is seen by others when no access with the tag is outstanding any more (R322). A poisoned line
faults POISON (R413). -/
def execFree (g : Guard) (a : BitVec 4) (s : State) : Out :=
  run true false g s fun s => do
    let c := s.A a
    s.need (c != 0) cCAPNULL 0 (capInfo a)
    s.need (!capSeal c && capPerm c &&& permWRITE == permWRITE && capTag c != 0) cCAPPERM (capAddr c) (capInfo a)
    match s.partEntry s.partNo with
    | none => return s
    | some e =>
      let l : Loc := ⟨0, e.bitmap + capTag c / 8⟩
      s.need (!s.bitPoisoned (capTag c)) cPOISON (capAddr c) 1
      let s ← s.homeTurn [lineKey l]
      s.need (!s.revokedHome (capTag c)) cCAPREVOKED (capAddr c) (capInfo a)
      let s := s.modMe fun x => { x with freed := setInsert (if s.freesDone s.hand.core then [] else x.freed) (capTag c) }
      return ((s.homeStore (some s.hand.core) none (lineKey l)).sliceDirty (lineKey l)).writeAt l 1 (s.readAt l 1 ||| 2 ^ (capTag c % 8))

/-! ### Fences (R193, R220, R417) -/

/-- One more release of the core in hand: updates of different entries do not pass it (R320). -/
def State.nextEpoch (s : State) : State := s.modMe fun c => { c with epoch := c.epoch + 1 }

/-- What a fence does once it completes: `.rel`, `.ar` and `.sc` order updates of different entries (R320), `.desc` the later fetches
(R194). -/
def State.fenced (s : State) (kind : BitVec 3) : State :=
  if kind = 1 || kind = 2 || kind = 3 then s.nextEpoch else if kind = 5 then s.dropFetched else s

/-- `fence` (R193): closes the flits; it waits until what the context queued has executed, and every kind but `.acq` until the core's
stores are globally performed: their bytes, in whatever cache they are now, are in the mirror (R417). -/
def execFence (g : Guard) (kind _scope : BitVec 3) (s : State) : Out :=
  run true false g s fun s => do
    let s := s.closeFlits s.hand.core
    s.queueTurn
    if kind = 0 then return s
    else
      let s := s.mirrorAll
      s.await s.storesPerformed .performed
      return s.fenced kind

end Sys2Proof.Machine
end

