-- ==== Sys2Proof/Machine/StrandInstr.lean ====
section
/-! DEFINITION. Strand instructions (R17, R195, R196, R235). -/

namespace Sys2Proof.Machine

/-- A strand from the four doublewords of its descriptor, none when a reserved bit is set or FMT is invalid (R195). -/
def strandOf (l : List Word) : Option Strand :=
  let w0 := l.getD 0 0
  let w1 := l.getD 1 0
  let w2 := l.getD 2 0
  let w3 := l.getD 3 0
  if w2.extractLsb' 8 24 != 0 || w2.extractLsb' 1 3 != 0 || w3 != 0 || 7 ≤ (w2.extractLsb' 4 4).toNat then none
  else some ⟨w0, w1.setWidth 32, w1.extractLsb' 32 32, w2.extractLsb' 32 32, w2.extractLsb' 4 4, w2.getLsbD 0, false, []⟩

/-- `sopen` (R196). -/
def execSopen (g : Guard) (h : BitVec 4) (a : BitVec 5) (s : State) : Out :=
  run false false g s fun s => do
    let l ← s.localWords (s.S a) 4 8
    match strandOf l with
    | none => s.illegal
    | some x => return s.setH h (some x)

/-- An open strand, or ILLEGAL (R17). -/
def State.openStrand (s : State) (h : BitVec 4) : Res Strand :=
  match s.H h with
  | some x => .ok x
  | none => s.illegal

/-- `sadv` (R196): by s_b unsigned, by 1 when b names s0. -/
def execSadv (g : Guard) (h : BitVec 4) (b : BitVec 5) (s : State) : Out :=
  run false false g s fun s => do
    let x ← s.openStrand h
    let k := if b = 0 then 1 else (s.S b).toNat
    return s.setH h (some { x with pos := BitVec.ofNat 32 (min (x.pos.toNat + k) x.fin.toNat) })

/-- `stest` (R196). -/
def execStest (g : Guard) (d : BitVec 3) (h : BitVec 4) (s : State) : Out :=
  run false false g s fun s => do
    let x ← s.openStrand h
    return s.setP d (x.fin.toNat ≤ x.pos.toNat)

/-- `sget` (R196): as `ld` for a local strand, as `ldg` otherwise, from the list for a ring. A local element is read through the window that
its own address names (log entry 97). -/
def execSget (g : Guard) (d : BitVec 5) (h : BitVec 4) (s : State) : Out :=
  run false false g s fun s => do
    let x ← s.openStrand h
    if x.fin.toNat ≤ x.pos.toNat then return s.setS d 0
    else if x.ring then return s.setS d ((x.list.getD x.pos.toNat 0).setWidth 64)
    else
      let a := x.elemAddr x.pos.toNat
      let (n, sx) := strandSize x.fmt
      if x.loc then
        let v ← s.localLoad a n false
        let w := a.toNat / 0x20000 % 8
        return s.setS d (if w == 0 || w == 5 then extend n sx v else BitVec.ofNat 64 v)
      else
        let (s, ps) ← s.niAccess a n 1 false .read .plain
        let v := s.readParts ps
        return s.postReply a.toNat n 0 (.s d) ((if converts ps then BitVec.ofNat 64 v else extend n sx v).setWidth 128) 0

/-- The checks of every element of `sgetv` at issue. -/
def State.strandCheck (s : State) (x : Strand) : Nat → Res Unit
  | 0 => .ok ()
  | n + 1 => do
    s.strandCheck x n
    let a := x.elemAddr (x.pos.toNat + n)
    let m := (strandSize x.fmt).1
    let (w, off) ← s.lift (s.localCheck a m m false)
    s.needClean (s.winPoison false s.hand.core w off m) false w off m a 0

/-- `sgetv` (R196). -/
def execSgetv (g : Guard) (d : BitVec 5) (h : BitVec 4) (b : BitVec 5) (s : State) : Out :=
  run false false g s fun s => do
    let x ← s.openStrand h
    s.legal (x.ring || (x.loc && x.fmt != 3))
    if !x.ring then s.strandCheck x x.count
    s.enqueue (.sgetv d x ((s.S b).setWidth 4))

/-- `sclose` (R196). -/
def execSclose (g : Guard) (h : BitVec 4) (s : State) : Out :=
  run false false g s fun s => do
    let _ ← s.openStrand h
    return s.setH h none

end Sys2Proof.Machine
end

