-- ==== Sys2Proof/Machine/Sync.lean ====
section
/-! DEFINITION. Barrier objects and swatch reductions (R210 to R212, R223 to R225, R298). -/

namespace Sys2Proof.Machine

/-- The fields of a barrier object (R210). -/
structure Bar where
  pending : Nat
  arrived : Nat
  count   : Nat
  phase   : Nat
  broken  : Bool
  expsum  : Nat
  deriving DecidableEq, Repr

/-- The object in 32 bytes, none when a reserved field is not zero. -/
def barParse (v : Nat) : Option Bar :=
  let w0 := v % 2 ^ 64
  let w1 := v / 2 ^ 64 % 2 ^ 64
  if w0 / 2 ^ 56 != 0 || w1 / 2 ^ 26 % 2 ^ 6 != 0 || v / 2 ^ 128 != 0 then none
  else some ⟨w0 / 2 ^ 32 % 2 ^ 24, w0 / 2 ^ 16 % 2 ^ 16, w0 % 2 ^ 16, w1 / 2 ^ 32, w1 / 2 ^ 25 % 2 == 1, w1 % 2 ^ 25⟩

/-- The 32 bytes of an object. -/
def Bar.pack (b : Bar) : Nat :=
  b.pending * 2 ^ 32 + b.arrived * 2 ^ 16 + b.count
    + (b.phase * 2 ^ 32 + (if b.broken then 2 ^ 25 else 0) + b.expsum) * 2 ^ 64

/-- BROKEN in the 32 bytes. -/
def barBroken (v : Nat) : Bool := v / 2 ^ 89 % 2 == 1

/-- PHASE in the 32 bytes. -/
def barPhase (v : Nat) : Nat := v / 2 ^ 96 % 2 ^ 32

/-- An operation on the object; a reserved field that is not zero only sets BROKEN (R210). -/
def barUpdate (f : Bar → Bar) (v : Nat) : Nat :=
  match barParse v with
  | some b => (f b).pack
  | none => if barBroken v then v else v + 2 ^ 89

/-- Check (R211). -/
def Bar.check (b : Bar) : Bar :=
  if b.arrived = b.count && b.pending = 0 then { b with phase := (b.phase + 1) % 2 ^ 32, arrived := 0, expsum := 0 } else b

/-- `barv` at the bank ALU (R211). -/
def Bar.arrive (b : Bar) : Bar :=
  (if b.arrived = b.count then { b with broken := true } else { b with arrived := (b.arrived + 1) % 2 ^ 16 }).check

/-- `bexp` at the bank ALU (R211). -/
def Bar.expect (n : Nat) (b : Bar) : Bar :=
  if 0xFFFFFF < n || 0xFFFFFF < b.expsum + n then { b with broken := true }
  else { b with expsum := b.expsum + n, pending := (b.pending + n) % 2 ^ 24 }

/-- A subtraction of delivered bytes (R209), followed by Check. -/
def Bar.subtract (n : Nat) (broken : Bool) (b : Bar) : Bar :=
  { b with pending := (b.pending + 2 ^ 24 - n % 2 ^ 24) % 2 ^ 24, broken := b.broken || broken }.check

/-- Changes an object of 32 bytes at s_a at its bank ALU (R265), under the checks of a write (R211); answers the old contents. -/
def State.barOp (s : State) (a : BitVec 5) (f : Nat → Nat) : Res (State × Nat) := s.niUpdate (s.S a) 32 32 .bank fun v => some (f v)

/-- `bnew` (R211): the count is checked before the address. -/
def execBnew (g : Guard) (a b : BitVec 5) (s : State) : Out :=
  run true false g s fun s => do
    let n := (s.S b).toNat
    s.legal (n != 0 && n ≤ 65535)
    let (s, ps) ← s.niAccess (s.S a) 32 32 true .write .bank
    return (s.writeParts ps n).1

/-- Waits until what the context queued has executed, every earlier access of it is globally performed, its bytes in the mirror, and every
published write applied, in whatever core's region (R212, R317, R417). -/
def State.released (s : State) : Res State := do
  let s := s.closeFlits s.hand.core
  s.queueTurn
  let s := s.mirrorAll
  s.await (s.storesPerformed && s.updatesDone s.hand.core) .released
  return s

/-- `barv` (R211, R212). -/
def execBarv (g : Guard) (d a : BitVec 5) (s : State) : Out :=
  run true false g s fun s => do
    let s ← s.released
    let (s, v) ← s.barOp a (barUpdate Bar.arrive)
    return s.setS d (BitVec.ofNat 64 (barPhase v))

/-- `bexp` (R211). -/
def execBexp (g : Guard) (a b : BitVec 5) (s : State) : Out :=
  run true false g s fun s => do
    let n := (s.S b).toNat
    let (s, _) ← s.barOp a (barUpdate (Bar.expect n))
    return s

/-- `bwait` (R211). -/
def execBwait (g : Guard) (d : BitVec 3) (a b : BitVec 5) (s : State) : Out :=
  run true false g s fun s => do
    let ph := (s.S b).setWidth 32
    let (s, ps) ← s.niAccess (s.S a) 32 32 true .update .bank
    let v := s.readParts ps
    let v' := barUpdate id v
    let s := if v' = v then s else ((s.updated ps .bank).writeParts ps v').1
    let l := (ps.map (·.loc)).headD ⟨0, 0⟩
    s.await (barPhase v' != ph.toNat || barBroken v') (.barrier l.dev l.pa ph)
    return s.setP d (!barBroken v')

/-! ### Swatch reductions -/

/-- Whether a header of 64 bytes has its reserved fields zero and a valid TYPE and OP (R223). -/
def swOk (v : Nat) : Bool :=
  let w0 := v % 2 ^ 64
  w0 / 2 ^ 48 == 0 && w0 / 2 ^ 10 % 2 ^ 22 == 0 && w0 / 2 ^ 8 % 4 != 3 && w0 / 2 ^ 6 % 4 == 0 && w0 / 16 % 4 != 3 && w0 / 4 % 4 == 0
    && v / 2 ^ 81 % 2 ^ 47 == 0 && v / 2 ^ 198 % 2 ^ 58 == 0 && v / 2 ^ 256 == 0

def swType (v : Nat) : Nat := v / 2 ^ 8 % 4
def swOp (v : Nat) : Nat := v / 16 % 4
def swSM1 (v : Nat) : Nat := v / 2 ^ 32 % 2 ^ 16
def swDone (v : Nat) : Bool := v % 2 == 1
def swErr (v : Nat) : Bool := v / 2 % 2 == 1
def swFilled (v : Nat) : Nat := v / 2 ^ 64 % 2 ^ 17
def swResult (v : Nat) : Nat := v / 2 ^ 128 % 2 ^ 64
def swFlags (v : Nat) : FFlags := BitVec.ofNat 6 (v / 2 ^ 192)

/-- A header with its bank-ALU fields replaced. -/
def swPack (v : Nat) (done err : Bool) (filled result : Nat) (fl : FFlags) : Nat :=
  v % 2 ^ 64 / 4 * 4 + (if err then 2 else 0) + (if done then 1 else 0)
    + v / 2 ^ 81 % 2 ^ 47 * 2 ^ 81 + filled % 2 ^ 17 * 2 ^ 64 + result % 2 ^ 64 * 2 ^ 128 + fl.toNat * 2 ^ 192
    + v / 2 ^ 198 * 2 ^ 198

/-- The operation of a combine (R224): type f32, f64, i64; op add, min, max. -/
def swCombine (ty op : Nat) (a b : Nat) : Nat × FFlags :=
  match ty with
  | 2 =>
    let x := BitVec.ofNat 64 a
    let y := BitVec.ofNat 64 b
    ((match op with
      | 0 => x + y
      | 1 => if y.slt x then y else x
      | _ => if x.slt y then y else x).toNat, 0)
  | _ =>
    let f := if ty = 0 then f32 else f64
    let x := unpack f a
    let y := unpack f b
    let r := match op with
      | 0 => fpAdd 0 x y
      | 1 => fpMinMax false x y
      | _ => fpMinMax true x y
    formResult f 0 r.1 r.2

/-- A value of the type of an object, a NaN as the canonical one (R52). -/
def swCanon (ty v : Nat) : Nat := if ty = 0 then f32.canon v else if ty = 1 then f64.canon v else v

/-- Where an access of a bank ALU to `n` bytes of an object goes, which takes no fault (R224), with the state after its translation. -/
def State.bankPart (s : State) (va n : Nat) (acc : Acc) : State × Option Part :=
  match if s.physMode then s.translateMy va acc else s.translate .distributor s.partNo va acc with
  | .error (s, _) => (s, none)
  | .ok (s, l) => (s, if (s.dataBad ⟨l, n⟩ acc).isSome then none else some ⟨l, n⟩)

/-- The parts of the slots of an object that its last contribution reads, none for a slot that cannot be read (R224). -/
def State.slotParts (s : State) (va n : Nat) : State × List (Option Part) :=
  (List.range n).foldl (fun (s, l) i =>
    let (s, p) := s.bankPart (va + 64 + 8 * i) 8 .read
    (s, l ++ [p])) (s, [])

/-- Whether an access of a bank ALU to parts must wait: for the end of a cable step of the scratchpad's core (R289), for the core's own
queue (R163, R323), for the host, or until other copies are gone (R391). -/
def State.bankWaits (s : State) (ps : List Part) (acc : Acc) : State × Option Cond :=
  match s.ownBlocked ps acc.writes with
  | some c => (s, some c)
  | none => s.prepare ps acc .bank

/-- Writes bytes of a part at the bank ALU, its lines being ready (R265). -/
def State.bankWrite (s : State) (p : Part) (v : Nat) : State := ((s.updated [p] .bank).writePart p v).1

/-- The value of a finished object: the tree over its slots in order (R224). -/
def State.swFinish (s : State) (h : Nat) (ps : List (Option Part)) : Nat × FFlags :=
  let (r, fl) := treeCombine (swCombine (swType h) (swOp h)) (swCanon (swType h)) 0 (ps.map fun p => (p.map s.readPart).getD 0)
  (if swType h = 0 then r % 2 ^ 32 else r, fl)

/-- A contribution at the bank ALU (R224): header parts, header, base, slot, value. It waits until its slot and its bitmap byte may be
written, and the last one until every slot may be read (R163, R289, R323). The last one is refused when a slot cannot be read (log entry
98). -/
def State.contribute (s : State) (hp : List Part) (h va slot : Nat) (x : Word) : Res State :=
  let put (s : State) (v : Nat) : State := ((s.updated hp .bank).writeParts hp v).1
  let refuse (s : State) : State := put s (swPack h true true (swFilled h) 0 (swFlags h))
  let n := swSM1 h + 1
  if !swOk h || swDone h || n ≤ slot then .ok (refuse s)
  else
    let (s, sp) := s.bankPart (va + 64 + 8 * slot) 8 .write
    let (s, bp) := s.bankPart (va + 64 + 8 * n + slot / 8) 1 .update
    match sp, bp with
    | some sp, some bp =>
      match s.bankWaits [sp, bp] .update with
      | (s, some c) => .error (.wait s c)
      | (s, none) =>
      let old := s.readPart bp
      let filled := (swFilled h + 1) % 2 ^ 17
      let v := if swType h = 0 then x.toNat % 2 ^ 32 else x.toNat
      let write (s : State) : State := (s.bankWrite sp v).bankWrite bp (old + 2 ^ (slot % 8))
      if old / 2 ^ (slot % 8) % 2 = 1 then .ok (refuse s)
      else if filled != n then .ok (put (write s) (swPack h false (swErr h) filled (swResult h) (swFlags h)))
      else
        let (s, all) := s.slotParts va n
        if all.any Option.isNone then .ok (refuse s)
        else match s.bankWaits (all.filterMap id) .read with
          | (s, some c) => .error (.wait s c)
          | (s, none) =>
            let s := write s
            let (r, fl) := s.swFinish h all
            .ok (put s (swPack h true (swErr h) filled r fl))
    | _, _ => .ok (refuse s)

/-- `rsw` (R224): the header is checked as a write at issue; the contribution is made at its bank ALU. -/
def execRsw (g : Guard) (a b c : BitVec 5) (s : State) : Out :=
  run true false g s fun s => do
    let va := s.S a
    let slot := (s.S b).toNat
    let x := s.S c
    let (s, hp) ← s.niAccess va 64 64 true .update .bank
    s.inOneStep (s.contribute hp (s.readParts hp) va.toNat slot x)

/-- `rfin` (R225). -/
def execRfin (g : Guard) (d a : BitVec 5) (c : BitVec 3) (s : State) : Out :=
  run true false g s fun s => do
    let (s, hp) ← s.niAccess (s.S a) 64 64 true .read .plain
    let h := s.readParts hp
    let l := (hp.map (·.loc)).headD ⟨0, 0⟩
    s.await (swDone h) (.done l.dev l.pa)
    return ((s.setS d (BitVec.ofNat 64 (swResult h))).setP c (!swErr h)).orFlags (swFlags h)

end Sys2Proof.Machine
end

