-- ==== Sys2Proof/Machine/Engine.lean ====
section
/-! DEFINITION. Engine commands: the four instructions, the engines' turns, records and stalls (R197 to R209, R268, R279 to R285,
R371). -/

namespace Sys2Proof.Machine

/-! ### The issuer's scratchpad, or its saved image (R208, R366) -/

/-- The partition and the virtual address of a saved unit's image, when the unit is saved. -/
def State.savedImage (s : State) (u : Option Placed) : Option (Nat × Nat) :=
  u.bind fun u => (s.launchAt u.launch).bind fun l => (l.units.find? (·.idx == u.unit)).bind fun x => match x.st with
    | .saved img _ => some (l.part, img)
    | _ => none

/-- Where an address of an image lies in HBM, with the state after its translation under the partition's tables (R292). -/
def State.imgPa (s : State) (p va : Nat) (acc : Acc) : State × Option Nat :=
  match s.translate .distributor p va acc with
  | .ok (s, l) => (s, if l.dev = 0 && l.pa < hbmSize then some l.pa else none)
  | .error (s, _) => (s, none)

/-- Writes `n` bytes of an image within one page; what cannot be written is lost (R292). -/
def State.imgPut (s : State) (p va n v : Nat) : State :=
  match s.imgPa p va .write with
  | (s, some pa) => s.storeHome none ⟨0, pa⟩ n v
  | (s, none) => s

/-- Reads `n` bytes of an image within one page; the bytes of an image that cannot be read are free values (log entry 21). -/
def State.imgGet (s : State) (p va n : Nat) : Nat :=
  match s.imgPa p va .read with
  | (s, some pa) => s.readAt ⟨0, pa⟩ n
  | (_, none) => leBytes ((List.range n).map fun i => Config.freeByte s.fresh (va + i))

/-- Sets bits of a map in an image from bit `i` of the map at `base`. -/
def State.setBits (s : State) (p base i n : Nat) : State :=
  (List.range n).foldl (fun s j =>
    let a := base + (i + j) / 8
    s.imgPut p a 1 (s.imgGet p a 1 ||| 2 ^ ((i + j) % 8))) s

/-- A write that goes to a saved image: data, full bits, and the map of written half-lines (R208, R294, R366). -/
def State.imgWrite (s : State) (p img off n v : Nat) (full : Bool) : State :=
  let s := s.imgPut p (img + off) n v
  let s := if full then s.setBits p (img + 0x20000) (off / 4) (n / 4) else s
  s.setBits p (img + 0x2C900) (off / 64) ((off + n - 1) / 64 + 1 - off / 64)

/-- The poisoned words of a saved unit's scratchpad, by offset (R414). -/
def State.savedPoison (s : State) (launch unit : Nat) : NatSet :=
  (((s.launchAt launch).bind fun l => l.units.find? (·.idx == unit)).map (·.poison)).getD []

/-- A write to a saved scratchpad clears the poison of the words it covers (R414). -/
def State.cleanseSaved (s : State) (launch unit off n : Nat) : State :=
  if (s.savedPoison launch unit).isEmpty then s
  else s.modLaunch launch fun l => { l with units := l.units.map fun u =>
    if u.idx = unit then { u with poison := u.poison.filter fun x => !(off ≤ x && x + 4 ≤ off + n) } else u }

/-- Whether a write of a command into the issuer's scratchpad would leave a poisoned unit partly as it was: in a saved image a line of HBM
(R413, R414). -/
def State.homeBad (s : State) (c : Cmd) (off n : Nat) : Bool :=
  match s.savedImage c.unit with
  | some (p, img) => (s.imgPa p (img + off) .write).2.any fun pa => s.mem.poisoned true pa n
  | none => false

/-- An engine write of whole words into the issuer's scratchpad, setting them full (R203, R205, R206, R208). -/
def State.homeWrite (s : State) (c : Cmd) (off n v : Nat) : State :=
  match s.savedImage c.unit with
  | some (p, img) => (s.imgWrite p img off n v true).cleanseSaved (c.unit.elim 0 (·.launch)) (c.unit.elim 0 (·.unit)) off n
  | none => s.spWrite c.core off n v true true

/-- An engine read of the issuer's scratchpad; none when it is poisoned. -/
def State.homeRead (s : State) (c : Cmd) (off n : Nat) : Option Nat :=
  match s.savedImage c.unit with
  | some (p, img) =>
    if (unitsOf 4 off n).any (s.savedPoison (c.unit.elim 0 (·.launch)) (c.unit.elim 0 (·.unit))).contains
        || (s.imgPa p (img + off) .read).2.any (fun pa => s.mem.poisoned false pa n) then none
    else some (s.imgGet p (img + off) n)
  | none => if s.spPoison false c.core off n then none else some (s.spRead c.core off n)

/-! ### Commands -/

/-- The command with this number. -/
def State.cmd (s : State) (id : Nat) : Option Cmd := s.cmds.find? (·.id == id)

/-- Changes it. -/
def State.setCmd (s : State) (c : Cmd) : State := { s with cmds := s.cmds.map fun x => if x.id == c.id then c else x }

/-- Whether it is a gather or a scatter. -/
def EngKind.gs : EngKind → Bool
  | .gath | .scat => true
  | _ => false

/-- The bytes of a last-level element. -/
def Cmd.z (c : Cmd) : Nat := if c.esz then 8 else 4

/-- What it has to do: bytes or elements. -/
def Cmd.total (c : Cmd) : Nat := if c.kind.gs then c.idx.length else c.bytes

/-- The bytes that count against its barrier (R209). -/
def Cmd.owed (c : Cmd) : Nat := if c.kind.gs then c.idx.length * c.z else c.bytes

/-- A local range named by a descriptor (R198 step 3): window, alignment of start and length, SPLIM. Answers its offset. -/
def State.localRange (s : State) (a : Word) (n align : Nat) : Res Nat := do
  s.need (a.toNat / 0x20000 % 8 == 0) cWINDOW a 0
  s.need (a.toNat % align == 0 && n % align == 0) cALIGN a 0
  let (_, off) ← s.lift (s.localCheck a n align true)
  return off

/-- Fields of the word with TAG and CSLOT (R201, R204). -/
def cslotOf (w : Word) : Word := w &&& 0xFFFFF
def tagOf (w : Word) : BitVec 16 := w.extractLsb' 20 16

/-- Faults WINDOW for an aperture address whose window is not RAW (R198 step 5). -/
def State.rawOnly (s : State) (va : Word) : Res Unit := s.need (!(inAperture va.toNat && vaWindow va.toNat != 0)) cWINDOW va 0

/-- Entries of a tile's queue in use: the core's reserved ones, the shared ones (R199). -/
def State.queueUse (s : State) (core : Nat) : Nat × Nat :=
  ((s.cmds.filter fun c => c.core == core && !c.shared).length, (s.cmds.filter fun c => c.core / 8 == core / 8 && c.shared).length)

/-- Takes a queue entry, or refuses (R199). -/
def State.accept (s : State) (d : BitVec 3) (c : Cmd) : State :=
  let (r, sh) := s.queueUse s.hand.core
  if r < 2 || sh < 16 then
    let c := { c with id := s.nextId, core := s.hand.core, ctx := s.hand.ctx, unit := s.me.unit, part := s.partNo, shared := 2 ≤ r }
    { s with cmds := s.cmds ++ [c], nextId := s.nextId + 1 }.setP d true
  else s.setP d false

/-- A command with nothing filled in. -/
def Cmd.blank (kind : EngKind) : Cmd where
  id := 0
  core := 0
  ctx := 0
  unit := none
  part := 0
  shared := false
  kind := kind
  src := 0
  dst := 0
  srcl := false
  dstl := false
  bytes := 0
  caps := []
  fill := 0
  esz := false
  idx := []
  words := []
  bad := []
  data := 0
  tag := 0
  cslot := 0
  bare := false
  bar := 0
  st := .waiting
  stalledOnce := false
  next := 0
  count := 0
  delivered := 0
  barred := 0
  first := none
  level := 0
  fcode := 0
  endCode := none
  noBar := false
  head := none
  hostWait := none
  linkLost := false

/-- Issue of a copy (R198 to R202). A source in the own scratchpad is read only once what was issued before has written it (R163,
R200). -/
def State.issueCopy (s : State) (fetch : Bool) (d : BitVec 3) (a : BitVec 5) : Res State := do
  let w ← s.localWords (s.S a) 4 16
  let src := w.getD 0 0
  let dst := w.getD 1 0
  let w2 := w.getD 2 0
  let w3 := w.getD 3 0
  let bytes := (w2.extractLsb' 39 25).toNat
  let srcl := w3.getLsbD 61
  let dstl := w3.getLsbD 62
  let l2 := fetch && !dstl
  s.legal (w2.extractLsb' 36 3 == 0 && w3.extractLsb' 57 4 == 0 && bytes ≤ 0x1000000 && !(fetch && srcl) && !(!fetch && dstl))
  if srcl then let _ ← s.localRange src bytes 4
  if dstl then let _ ← s.localRange dst bytes 4
  let cs ← s.localRange (cslotOf w2) 16 16
  let bar := w3.setWidth 57
  if !srcl then s.rawOnly src
  if !dstl then s.rawOnly dst
  if w3.getLsbD 63 then s.rawOnly (bar.setWidth 64)
  s.legal (!(!srcl && inAperture src.toNat) && !(l2 && (dst != 0 || src.toNat % 128 != 0 || bytes % 128 != 0)))
  s.need (srcl || src.toNat % 4 == 0) cALIGN src 0
  s.need (dstl || dst.toNat % 4 == 0) cALIGN dst 0
  s.need (srcl || dstl || bytes % 4 == 0) cALIGN 0 0
  if srcl then s.localTurn false 0 (src.toNat % 0x20000) bytes
  return s.accept d { Cmd.blank (if fetch then .fetch else .send) with
    src := src, dst := dst, srcl := srcl, dstl := dstl, bytes := bytes, tag := tagOf w2, cslot := cs
    bare := w3.getLsbD 63, bar := bar.toNat }

/-- `send` (R197 to R203). -/
def execSend (g : Guard) (d : BitVec 3) (a : BitVec 5) (s : State) : Out := run false false g s fun s => s.issueCopy false d a

/-- `fetch` (R197 to R203). -/
def execFetch (g : Guard) (d : BitVec 3) (a : BitVec 5) (s : State) : Out := run false false g s fun s => s.issueCopy true d a

/-- The capability checks of R198 step 4: null, permissions, revocation; no bound. A poisoned line of the bitmap faults POISON (R413). -/
def State.levelCap (s : State) (c : CapBits) (perm : BitVec 6) : Res Unit := do
  s.lift (capPermits c perm infoMem)
  let s ← s.tagTurn (capTag c)
  s.need (!s.tagPoisoned (capTag c)) cPOISON (capAddr c) 0
  s.need (!(capTag c != 0 && s.revoked (capTag c))) cCAPREVOKED (capAddr c) infoMem

/-- The used levels of a descriptor with their element sizes and permissions (R204). -/
def levelsOf (caps : List CapBits) (depth z : Nat) (last : BitVec 6) : List (CapBits × Nat × BitVec 6) :=
  (List.range depth).map fun j => (caps.getD j 0, if j + 1 = depth then z else 4, permGATH ||| (if j + 1 = depth then last else permREAD))

/-- Issue of a gather or scatter (R198, R199, R204). A poisoned index or data word is no fault of the instruction: its element fails
(R207; log entries 19 and 99). -/
def State.issueGather (s : State) (scat : Bool) (d : BitVec 3) (a : BitVec 5) : Res State := do
  let w ← s.localWords (s.S a) 10 16
  let w7 := w.getD 7 0
  let w8 := w.getD 8 0
  let w9 := w.getD 9 0
  let depth := (w7.extractLsb' 54 2).toNat
  s.legal (depth != 0 && w7.extractLsb' 40 13 == 0 && w8.extractLsb' 36 28 == 0 && w9.extractLsb' 57 6 == 0)
  let n := (w7.extractLsb' 56 8).toNat + 1
  let esz := w7.getLsbD 53
  let z := if esz then 8 else 4
  let io ← s.localRange (w7.extractLsb' 20 20 |>.setWidth 64) (4 * n) 4
  let dof ← s.localRange (w7 &&& 0xFFFFF) (z * n) z
  let cs ← s.localRange (cslotOf w8) 16 16
  let caps := (List.range 3).map fun j => (w.getD (2 * j + 1) 0 ++ w.getD (2 * j) 0 : CapBits)
  let lv := levelsOf caps depth z (if scat then permWRITE else permREAD)
  lv.forM fun x => s.levelCap x.1 x.2.2
  lv.forM fun x => s.need (capBase x.1 % x.2.1 == 0) cALIGN (capAddr x.1) 0
  lv.forM fun x => s.rawOnly (capAddr x.1)
  let s := lv.foldl (fun s x => s.fillRev (capTag x.1)) s
  if w9.getLsbD 63 then s.rawOnly (w9.setWidth 57 |>.setWidth 64)
  s.localTurn false 0 io (4 * n)
  if scat then s.localTurn false 0 dof (z * n)
  return s.accept d { Cmd.blank (if scat then .scat else .gath) with
    caps := lv.map (·.1), fill := w.getD 6 0, esz := esz, data := dof, tag := tagOf w8, cslot := cs
    idx := (List.range n).map fun i => BitVec.ofNat 32 (s.spRead s.hand.core (io + 4 * i) 4)
    words := if scat then (List.range n).map fun i => BitVec.ofNat 64 (s.spRead s.hand.core (dof + z * i) z) else []
    bad := (List.range n).filterMap fun i =>
      if s.spPoison false s.hand.core (io + 4 * i) 4 then some (i, true)
      else if scat && s.spPoison false s.hand.core (dof + z * i) z then some (i, false)
      else none
    bare := w9.getLsbD 63, bar := (w9.setWidth 57).toNat }

/-- `gath` (R197 to R205). -/
def execGath (g : Guard) (d : BitVec 3) (a : BitVec 5) (s : State) : Out := run false false g s fun s => s.issueGather false d a

/-- `scat` (R197 to R205). -/
def execScat (g : Guard) (d : BitVec 3) (a : BitVec 5) (s : State) : Out := run false false g s fun s => s.issueGather true d a

/-! ### Slots (R279 to R281) -/

/-- The weight of a core at the engines: 0 counts as 1. -/
def State.engWeight (s : State) (g : Nat) : Nat := max 1 (s.coreAt g).weight.toNat

/-- The turns a core has had of its weight in this round. -/
def State.served (s : State) (key : Nat) : Nat := (smapGet? s.lastServed key).getD 0

/-- A new round starts when every core in question has had the turns of its weight. -/
def State.roundStart (s : State) (cores : List Nat) (key : Nat → Nat) : State :=
  if cores.any fun g => s.served (key g) < s.engWeight g then s
  else { s with lastServed := cores.foldl (fun m g => smapSet m (key g) 0) s.lastServed }

/-- The core whose turn it is in a weighted round robin (R280). -/
def State.roundPick (s : State) (cores : List Nat) (key : Nat → Nat) : Nat :=
  let s := s.roundStart cores key
  (cores.filter fun g => s.served (key g) < s.engWeight g).headD 0

/-- A core takes a turn. -/
def State.roundTake (s : State) (cores : List Nat) (key : Nat → Nat) (g : Nat) : State :=
  let s := s.roundStart cores key
  { s with lastServed := smapSet s.lastServed (key g) (s.served (key g) + 1) }

/-- The cores of a tile with commands in a given state at an engine. -/
def State.engCores (s : State) (tile : Nat) (gs : Bool) (st : EngSt) : List Nat :=
  ((List.range 8).map (8 * tile + ·)).filter fun g => s.cmds.any fun c => c.kind.gs == gs && c.core == g && c.st == st

/-- The keys of the two round robins of an engine: for its slots, and for the turns of its active commands. -/
def slotKey (gs : Bool) (g : Nat) : Nat := 2 * g + if gs then 1 else 0
def moveKey (gs : Bool) (g : Nat) : Nat := 2 ^ 20 + 2 * g + if gs then 1 else 0

/-- ENGINE_SLOT_FILL (R279, R280): weighted round robin over the cores with waiting commands, then the core's first. -/
def State.fillSlot (s : State) (tile : Nat) (gs : Bool) : State :=
  let cores := s.engCores tile gs .waiting
  if 8 ≤ (s.cmds.filter fun c => c.core / 8 == tile && c.kind.gs == gs && c.st == .active).length || cores.isEmpty then s
  else
    let g := s.roundPick cores (slotKey gs)
    match s.cmds.find? fun c => c.kind.gs == gs && c.core == g && c.st == .waiting with
    | some c => (s.roundTake cores (slotKey gs) g).setCmd { c with st := .active }
    | none => s

/-- ENGINE_SLOT_FILL. -/
def execEngineSlotFill (tile : Nat) (gs : Bool) (s : State) : Out := event (s.fillSlot tile gs)

/-! ### Accesses of a running command -/

/-- Why an access of a command does not proceed: a failure code of R206 with the address of the failing part, a violation, or a wait, with
the line whose half it waits for when that is the host's to give. -/
inductive EngBad where
  | code (n va : Nat) | violation | hold (line : Option Nat)
  deriving DecidableEq, Repr

/-- FCODE of a fault (R206). -/
def fcodeOf (c : Nat) : Nat :=
  if c = cPAGE then 1 else if c = cWPROT then 2 else if c = cPOISON then 3 else if c = cLINKDOWN then 4 else 7

/-- One part of an access of a command, through the cache of its tile's NI and under its partition (R379), and its data checked. -/
def State.engPart (s : State) (c : Cmd) (va len : Nat) (acc : Acc) : Except (State × Bad × Nat) (State × Part) :=
  match s.translate (.tlb (c.core / 8)) c.part va acc with
  | .error (s, b) => .error (s, b, va)
  | .ok (s, l) =>
    match s.dataBadFor c.linkLost ⟨l, len⟩ acc with
    | some b => .error (s, b, va)
    | none => .ok (s, ⟨l, len⟩)

/-- The parts of an access of a command. -/
def State.engParts (s : State) (c : Cmd) (va n : Nat) (acc : Acc) : Except (State × Bad × Nat) (State × List Part) :=
  let n1 := min n (128 - va % 128)
  match s.engPart c va n1 acc with
  | .error x => .error x
  | .ok (s, p) =>
    if n1 = n then .ok (s, [p])
    else match s.engPart c (va + n1) (n - n1) acc with
      | .error x => .error x
      | .ok (s, q) => .ok (s, [p, q])

/-- An access of `n` bytes at `va` by the command, with its core and context in hand (R207, R289, R391, R393, R397). It is made at the home of
its lines, and a write only once it is granted: it is performed when it is made. Reads of replicable pages look up the replica slice first
and are copied into it (R267). What a read is to leave in a slice stays there, a half of a host-homed line too (R202, R393). -/
def State.engAcc (s : State) (c : Cmd) (va n : Nat) (acc : Acc) : Except (State × EngBad) (State × List Part) :=
  if inAperture va && vaWindow va != 0 then .error (s, .code 7 va)
  else match s.engParts c (va % 2 ^ 64) n acc with
    | .error (s, .flt k _, at') => .error (s, .code (fcodeOf k) at')
    | .error (s, .violation, _) => .error (s, .violation)
    | .error (s, .wait _, _) => .error (s, .hold none)
    | .ok (s, ps) =>
      let ror := if acc = .read then s.rorKeys (.tlb (c.core / 8)) c.part va ps else []
      let keep := acc = .read && ((c.kind == .fetch && !c.dstl) || !ror.isEmpty)
      match s.prepareBut (s.replicaHits c.part (c.core / 8) ror) ps acc (if keep then .na else .bank) with
      | (s, some (.host k)) => .error (s, .hold (if hostKey k then some k else none))
      | (s, some _) => .error (s, .hold none)
      | (s, none) =>
        let t : CacheAgent := .tlb (c.core / 8)
        let s := if s.isLocal va then s.fillXlat t c.part (va % 2 ^ 48) (if acc.writes then partKeys ps else []) else s
        .ok (s.replicate c.part (c.core / 8) ror, ps)

/-- A unit saved from a core: its launch and number, the order of its placement, its partition and its image. -/
structure SavedFrom where
  launch : Nat
  unit   : Nat
  placed : Nat
  part   : Nat
  img    : Nat
  deriving DecidableEq, Repr

/-- The units that are saved and have left core `g`. -/
def State.savedFrom (s : State) (g : Nat) : List SavedFrom :=
  s.launches.flatMap fun l => l.units.filterMap fun u => match u.st with
    | .saved img (some h) => if h = g then some ⟨l.id, u.idx, u.placed, l.part, img⟩ else none
    | _ => none

/-- The one of them that was placed last. -/
def lastPlaced (l : List SavedFrom) : Option SavedFrom :=
  l.foldl (fun b x => if b.any fun y => x.placed < y.placed then b else some x) none

/-- The saved unit for which traffic of a unit of launch `own` to a core that it left is meant: one of that launch, unless a unit of that
launch stands there again, else the one placed there last, unless a unit of `own` stands there (R365, R405; log entry 114). -/
def State.meantFor (s : State) (own : Option Nat) (g : Nat) : Option SavedFrom :=
  if own.isSome && (s.coreAt g).unit.map (·.launch) == own then none
  else ((s.savedFrom g).find? fun x => some x.launch == own).orElse fun _ => lastPlaced (s.savedFrom g)

/-- The saved unit into whose image a write of a command through the aperture goes (R365): that of another launch only while its core is vacant
(log entry 114). -/
def State.imageFor (s : State) (c : Cmd) (g : Nat) : Option SavedFrom :=
  (s.meantFor (c.unit.map (·.launch)) g).filter fun x => (s.coreAt g).unit.isNone || some x.launch == c.unit.map (·.launch)

/-- Writes engine data: words of a scratchpad are set full, those of a saved one in its image (R365); a whole line of memory clears its poison
(R203, R205, R414). -/
def State.engPut (s : State) (c : Cmd) (ps : List Part) (v : Nat) : State :=
  (ps.foldl (fun (s, v) p =>
    let x := v % 256 ^ p.len
    let s :=
      if isSpad p.loc.pa && p.loc.dev = 0 then
        let (g, _, off) := spadParts p.loc.pa
        match s.imageFor c g with
        | some i => (s.imgWrite i.part i.img off p.len x true).cleanseSaved i.launch i.unit off p.len
        | none => s.spWrite g off p.len x true true
      else
        let s := if isSpad p.loc.pa then s.writeAt p.loc p.len x else s.store p.loc p.len x
        let m := (s.phys p.loc.dev).cleanse p.loc.pa p.len
        s.setPhys p.loc.dev (if isSpad p.loc.pa then m.setFull p.loc.pa p.len else m)
    (s, v / 256 ^ p.len)) (s, v)).1

/-- The NI of a command's tile, as the agent that makes requests of the service cores (R371). -/
def Cmd.ni (c : Cmd) : CacheAgent := .tlb (c.core / 8)

/-- HEAD of the ring of a partition, when its header is valid. -/
def State.ringHead (s : State) (p : Nat) : Option Nat := ((s.partEntry p).bind s.ringHeader).map (·.1)

/-- Appends the request of a stalled command to the ring (R207, R371): the NI becomes a sharer of the entry's line, or, when the append is
refused, of the header's, and keeps HEAD; with an invalid header the request is declined at once. -/
def State.askFault (s : State) (c : Cmd) : State × Bool :=
  match c.st with
  | .stalled code va lvl wr bar none =>
    let hdr := ((s.partEntry c.part).map (·.ringHdr)).getD 0
    let (s, a, ok) := s.ringAppend (some c.ni) c.part 1 (if wr then 1 else 0) c.core va
    if ok then
      ((s.setCmd { c with st := .stalled code va lvl wr bar a, head := s.ringHead c.part }).shareLine c.ni (lineKey ⟨0, a.getD hdr⟩), false)
    else (s, true)
  | _ => (s, false)

/-- The subtraction of delivered bytes from the barrier, which are performed, their bytes in the mirror (R209, R417): the state, and whether it was made; otherwise what stops it. -/
def State.subtractBar (s : State) (c : Cmd) (n : Nat) (broken : Bool) : Except (State × EngBad) State :=
  if !c.bare || c.noBar || (n = 0 && !broken) then .ok s
  else if c.bar % 32 != 0 then .error (s, .code 7 c.bar)
  else match s.mirrorAll.engAcc c c.bar 32 .update with
    | .error x => .error x
    | .ok (s, ps) => .ok ((s.updated ps .bank).writeParts ps (barUpdate (Bar.subtract n broken) (s.readParts ps))).1

/-- Records a violation of the command's master (R203, R368): the command is not completed. Its core is frozen; a saved unit is on no core,
and its restore waits for the command's record, which never comes (R367). -/
def State.engViolation (s : State) (c : Cmd) : State :=
  let s := if (s.savedImage c.unit).isNone then s.modMe fun x => { x with frozen := true } else s
  ((s.report (.violation c.core)).raiseEvent c.part 0).setCmd { c with st := .frozen }

/-- The command of a translation fault stalls (R207, R281); the second part is true when the request is declined at once. -/
def State.stall (s : State) (c : Cmd) (code va lvl : Nat) (wr bar : Bool) : State × Bool :=
  let c := { c with st := .stalled code va lvl wr bar none, stalledOnce := true }
  (s.setCmd c).askFault c

/-- A command that must try again: with no slot, in its turn for one (R279). -/
def Cmd.held (c : Cmd) : Cmd := { c with st := if c.st == .active then .active else .waiting }

/-- An early end (R207 to R209): what the record will hold, then the subtraction of what was not delivered, with BROKEN. The elements that a
gather or scatter has left count as failed, whatever ended it (log entry 100). -/
def State.endCmd (s : State) (c : Cmd) (code : Nat) : State :=
  let c := if c.endCode.isSome then c
    else if c.kind.gs then
      if c.next < c.total && (match c.first with
          | some f => c.next < f
          | none => true) then { c with fcode := code, endCode := some code, first := some c.next, level := 0 }
      else { c with fcode := code, endCode := some code }
    else { c with fcode := code, endCode := some code, first := if c.next < c.bytes then some c.next else none }
  match s.subtractBar c (c.delivered - c.barred) false with
  | .ok s =>
    let c := { c with barred := c.delivered }
    match s.subtractBar c (c.owed - c.delivered) true with
    | .ok s => s.setCmd { c with st := .finishing }
    | .error (s, .violation) => s.engViolation c
    | .error (s, .hold _) => s.setCmd c.held
    | .error (s, .code n va) =>
      if n = 1 || n = 2 then
        let (s', declined) := s.stall c n va 0 true true
        if declined then s'.setCmd { c with fcode := n, noBar := true, st := .finishing, stalledOnce := true } else s'
      else s.setCmd { c with fcode := n, noBar := true, st := .finishing }
  | .error (s, .violation) => s.engViolation c
  | .error (s, .hold _) => s.setCmd c.held
  | .error (s, .code n va) =>
    if n = 1 || n = 2 then
      let (s', declined) := s.stall c n va 0 true true
      if declined then s'.setCmd { c with fcode := n, noBar := true, st := .finishing, stalledOnce := true } else s'
    else s.setCmd { c with fcode := n, noBar := true, st := .finishing }

/-- Subtracts what has been delivered; a command that has done everything then only owes its record (R209). -/
def State.settle (s : State) (c : Cmd) : State :=
  match s.subtractBar c (c.delivered - c.barred) false with
  | .ok s =>
    let c := { c with barred := c.delivered }
    s.setCmd (if c.total ≤ c.next then { c with st := .finishing } else c)
  | .error (s, .violation) => s.engViolation c
  | .error (s, .hold _) => s.setCmd c
  | .error (s, .code n va) =>
    if n = 1 || n = 2 then
      let (s', declined) := s.stall c n va 0 true true
      if declined then s'.endCmd { c with noBar := true, stalledOnce := true } n else s'
    else s.endCmd { c with noBar := true } n

/-- A command that has had its answer: it waits for no host (R422). -/
def Cmd.answered (c : Cmd) : Cmd := { c with hostWait := none, linkLost := false }

/-- fail(i, j, code) of R205 for the element in turn. -/
def State.failElem (s : State) (c : Cmd) (lvl code : Nat) : State × Cmd :=
  let c := if c.first.isSome then c else { c with first := some c.next, level := lvl, fcode := code }
  let o := c.data + c.z * c.next
  let s := if c.kind = .gath && !s.homeBad c o c.z then s.homeWrite c o c.z (c.fill.toNat % 256 ^ c.z) else s
  (s, { c with next := c.next + 1, delivered := c.delivered + c.z })

/-- An access of a gather or copy that did not proceed: stalls, fails or ends (R207). -/
def State.engFail (s : State) (c : Cmd) (x : EngBad) (lvl : Nat) (wr : Bool) : State :=
  match x with
  | .violation => s.engViolation c
  | .hold k => s.setCmd { c with hostWait := k }
  | .code n va =>
    let c := c.answered
    let decline (s : State) (c : Cmd) : State :=
      if c.kind.gs then
        let (s, c) := s.failElem c lvl n
        s.settle { c with st := .active }
      else s.endCmd c n
    if n = 1 || n = 2 then
      let (s', declined) := s.stall c n va lvl wr false
      if declined then decline s' { c with stalledOnce := true } else s'
    else decline s c

/-- Resolves the levels of an element (R205): the last-level address, or where and why it fails. -/
def State.resolveElem (s : State) (c : Cmd) : List CapBits → Nat → Nat → Nat → Except (State × EngBad × Nat) (State × Nat)
  | [], _, _, _ => .error (s, .code 5 0, 0)
  | cap :: rest, z, lvl, x =>
    let zz := if rest.isEmpty then z else 4
    if capLen cap < x * zz + zz || 2 ^ 57 ≤ capBase cap + x * zz then .error (s, .code 5 0, lvl)
    else if rest.isEmpty then .ok (s, capBase cap + x * zz)
    else match s.engAcc c (capBase cap + 4 * x) 4 .read with
      | .error (s, b) => .error (s, b, lvl)
      | .ok (s, ps) => s.resolveElem c rest z (lvl + 1) (s.readParts ps)

/-- One element (R205, R207): an index that cannot be read fails at level 0, data of a `scat` that cannot be read at the last level, once the
levels are resolved (log entries 19 and 99). -/
def State.elemTurn (s : State) (c : Cmd) : State :=
  if c.bad.contains (c.next, true) then s.engFail c (.code 3 0) 0 false
  else
  match s.resolveElem c c.caps c.z 0 (c.idx.getD c.next 0).toNat with
  | .error (s, b, lvl) => s.engFail c b lvl false
  | .ok (s, va) =>
    let wr := c.kind == .scat
    let lvl := c.caps.length - 1
    let o := c.data + c.z * c.next
    if c.bad.contains (c.next, false) || (!wr && s.homeBad c o c.z) then s.engFail c (.code 3 va) lvl false
    else
    match s.engAcc c va c.z (if wr then .write else .read) with
    | .error (s, b) => s.engFail c b lvl wr
    | .ok (s, ps) =>
      let s := if wr then s.engPut c ps (c.words.getD c.next 0).toNat else s.homeWrite c o c.z (s.readParts ps)
      s.settle { c.answered with next := c.next + 1, count := c.count + 1, delivered := c.delivered + c.z }

/-- Pins a line that a `fetch` brought in, when a live lease covers it (R189, R202, R268): of the pinned lines of the lease in a full set of
reserved ways the least recently used is replaced. -/
def State.pinLine (s : State) (p k : Nat) : State :=
  let x := s.pst p
  let slices := ((s.partEntry p).map sliceList).getD []
  match x.leases.find? fun l => l.lo ≤ k && k < l.hi with
  | none => s
  | some l =>
    let same := l.pinned.filter fun q => q != k && homeSet slices q == homeSet slices k
    let drop := if same.length < l.ways then [] else
      (((s.caches.pinUse.filter same.contains).head?).orElse fun _ => same.head?).toList
    let l' := { l with pinned := (l.pinned.filter fun q => q != k && !drop.contains q) ++ [k] }
    let s := drop.foldl (fun s q => (lineKeys q).foldl State.writeBack s) s
    (s.setPst p { x with leases := x.leases.map fun y => if y.id == l.id then l' else y }).usePin k

/-- One unit of a copy (R203, R280): up to the next 128-byte boundary of the destination. -/
def State.copyTurn (s : State) (c : Cmd) : State :=
  let l2 := c.kind == .fetch && !c.dstl
  let src := c.src.toNat + c.next
  let dst := c.dst.toNat + c.next
  let n := min (c.bytes - c.next) (128 - (if l2 then src else dst) % 128)
  let got : Except (State × EngBad) (State × Nat × Option Part) :=
    if c.srcl then match s.homeRead c (src % 0x20000) n with
      | some v => .ok (s, v, none)
      | none => .error (s, .code 3 src)
    else match s.engAcc c src n .read with
      | .error x => .error x
      | .ok (s, ps) => .ok (s, s.readParts ps, ps.head?)
  match got with
  | .error (s, b) => s.engFail c b 0 false
  | .ok (s, v, p) =>
    let c' := { c.answered with next := c.next + n, delivered := c.delivered + n }
    if l2 then
      match p with
      | some p => (if p.loc.dev = 0 && !isSpad p.loc.pa then s.pinLine c.part (lineKey p.loc) else s).settle c'
      | none => s.settle c'
    else if c.dstl then
      if s.homeBad c (dst % 0x20000) n then s.engFail c (.code 3 dst) 0 true else (s.homeWrite c (dst % 0x20000) n v).settle c'
    else match s.engAcc c dst n .write with
      | .error (s, b) => s.engFail c b 0 true
      | .ok (s, ps) => (s.engPut c ps v).settle c'

/-- One turn of an active command, of its core's share (R280); a quiesced partition's are held (R3, R420). -/
def State.cmdTurn (s : State) (id : Nat) (gs : Bool) : State :=
  match s.cmd id with
  | none => s
  | some c =>
    if c.st != .active || c.kind.gs != gs || (s.pst c.part).quiesced then s
    else
      let s := (s.roundTake (s.engCores (c.core / 8) gs .active) (moveKey gs) c.core).at c.core c.ctx
      match c.endCode with
      | some n => s.endCmd c n
      | none =>
        if c.total ≤ c.next then s.settle c
        else if !c.srcl && !c.dstl && !c.kind.gs then s.copyTurn c
        else if s.coreInCable c.core then s
        else if gs then s.elemTurn c else s.copyTurn c

/-- What the NI of a command makes of a state in one step, when nothing stands against it (R391, R397). -/
def State.engActs (s : State) (id : Nat) (t : State) : State := s.agentActs ((s.cmd id).map Cmd.ni) t

/-- ENGINE_TRANSFER (R203). -/
def execEngineTransfer (cmd : Nat) (s : State) : Out := event (s.engActs cmd (s.cmdTurn cmd false))

/-- GATHER_ELEMENT (R205). -/
def execGatherElement (cmd : Nat) (s : State) : Out := event (s.engActs cmd (s.cmdTurn cmd true))

/-- Word 0 of a completion record (R206). -/
def Cmd.word0 (c : Cmd) : Nat := c.fcode * 2 ^ 24 + c.level * 2 ^ 14 + (if c.stalledOnce then 2 else 0) + 1

/-- Whether the record of a command may be written (R206, R289): every data write and subtraction is globally performed, and its core is in
no cable step. A record that goes to a saved image is a request of the partition, which a quiesce holds (R3, R420). -/
def State.recordDue (s : State) (c : Cmd) : Bool :=
  c.st == .finishing && !(s.coreInCable c.core && (s.savedImage c.unit).isNone)
    && !((s.pst c.part).quiesced && (s.savedImage c.unit).isSome)
    && s.dir.all fun e => e.awaited.isEmpty || !e.writers.contains c.core

/-- COMPLETION_RECORD (R206, R417): words 0 to 2, then word 3, each set full; the queue entry is then free. A record whose place in a saved
image is poisoned is not written (R413). -/
def State.writeRecord (s : State) (id : Nat) : State :=
  match s.cmd id with
  | none => s
  | some c =>
    if !s.recordDue c then s
    else if s.homeBad c c.cslot 16 then { s with cmds := s.cmds.filter (·.id != id) }
    else
      let w1 := (if c.kind.gs then c.count else c.next) % 2 ^ 32
      let w2 := c.first.getD 0xFFFFFFFF
      let s := s.mirrorAll.homeWrite c c.cslot 4 c.word0
      let s := s.homeWrite c (c.cslot + 4) 4 w1
      let s := s.homeWrite c (c.cslot + 8) 4 w2
      let s := s.homeWrite c (c.cslot + 12) 4 c.tag.toNat
      { s with cmds := s.cmds.filter (·.id != id) }

/-- COMPLETION_RECORD. -/
def execCompletionRecord (cmd : Nat) (s : State) : Out := event (s.engActs cmd (s.writeRecord cmd))

/-- A stalled command goes back to wait at the head of its core's commands (R281). -/
def State.resumeCmd (s : State) (c : Cmd) : State :=
  { s with cmds := { c with st := .waiting } :: s.cmds.filter (·.id != c.id) }

/-- A request declined (R207, R209). A command that is ending reports the code of its barrier. -/
def State.declined (s : State) (c : Cmd) (code lvl : Nat) (bar : Bool) : State :=
  if bar then
    if c.endCode.isSome then s.setCmd { c with fcode := code, noBar := true, st := .finishing } else s.endCmd { c with noBar := true } code
  else if c.kind.gs then
    let (s, c) := s.failElem c lvl code
    s.resumeCmd c
  else s.endCmd c code

/-- Whether a decline must wait: for the end of a quiesce, whose requests are held (R3, R420), and, where it writes a FILL into the issuer's
scratchpad, for the end of a cable step (R262, R289). -/
def State.declineHeld (s : State) (c : Cmd) (bar : Bool) : Bool :=
  (s.pst c.part).quiesced || (!bar && c.kind == .gath && s.coreInCable c.core && (s.savedImage c.unit).isNone)

/-- REPLY of the entry of a stalled command; 3 stands for an entry whose line is poisoned (R413). -/
def State.replyOf (s : State) (a : Nat) : Nat :=
  if s.mem.poisoned false a 64 then 3 else s.readAt ⟨0, a + 24⟩ 8 % 4

/-- ENGINE_FAULT_REPLY (R207, R371): the NI, a sharer of the entry's line, reads it anew; REPLY 1 resumes, 2 declines. A poisoned entry ends
the command as poisoned data does (R413). -/
def State.faultReply (s : State) (id : Nat) : State :=
  match s.cmd id with
  | none => s
  | some c =>
    match c.st with
    | .stalled code _ lvl _ bar (some a) =>
      let r := s.replyOf a
      let s := (s.at c.core c.ctx).shareLine c.ni (lineKey ⟨0, a⟩)
      if r = 1 then s.resumeCmd c
      else if 2 ≤ r && !s.declineHeld c bar then s.declined c (if r = 3 then 3 else code) lvl bar
      else s
    | _ => s

/-- ENGINE_FAULT_REPLY. -/
def execEngineFaultReply (cmd : Nat) (s : State) : Out := event (s.engActs cmd (s.faultReply cmd))

/-- The first stalled command of a partition whose append was refused and that tries again: HEAD has changed since, or the header has become
invalid (R371). -/
def State.refusedCmd (s : State) (p : Nat) : Option Cmd :=
  let head := s.ringHead p
  s.cmds.find? fun c => c.part == p && (head.isNone || head != c.head) && match c.st with
    | .stalled _ _ _ _ bar none => !s.declineHeld c bar
    | _ => false

/-- REQUEST_RING_RETRY (R371): when HEAD has changed, each stalled command of the partition whose append was refused tries again; one that is
refused again is counted in DROPS. With a header that has become invalid it is declined. A quiesced partition's requests are held (R420). -/
def State.retryRing (s : State) (p : Nat) : State :=
  if (s.pst p).quiesced || (s.partEntry p).isNone then s
  else match s.refusedCmd p with
  | some c =>
    match c.st with
    | .stalled code _ lvl _ bar none =>
      let (t, declined) := (s.at c.core c.ctx).askFault c
      s.agentActs (some c.ni) (if declined then t.declined c code lvl bar else t)
    | _ => s
  | none => s

/-- REQUEST_RING_RETRY. -/
def execRequestRingRetry (part : Nat) (s : State) : Out := event (s.retryRing part)

end Sys2Proof.Machine
end

