-- ==== Sys2Proof/Machine/Cable.lean ====
section
/-! DEFINITION. Supersteps, the wired barrier, the cable fabric and subscriptions (R213 to R222, R286 to R296, R364, R405). -/

namespace Sys2Proof.Machine

/-! ### The wired barrier (R213, R214) -/

/-- The cores that run units of a launch. -/
def Launch.cores (l : Launch) : List Nat :=
  l.units.filterMap fun u => match u.st with
    | .running g => some g
    | _ => none

/-- Every dirty line goes into the mirror, and the update flits of the core in hand close: what a release by it starts (R220, R417). -/
def State.startRelease (s : State) : State := (s.closeFlits s.hand.core).mirrorAll

/-- `step` and `step.cable` (R213, R288, R347): context 0 arrives and waits for the wired barrier. -/
def State.arrive (s : State) (cable : Bool) : Res State :=
  match s.launchOf s.hand.core with
  | none => s.illegal
  | some l => do
    s.legal (s.hand.ctx == 0 && !l.wave && (!cable || (l.place && l.stepK == .compute)))
    let s := s.startRelease
    let a : Arrival := ⟨s.hand.core, cable, s.hand.pc, s.nextPc, s.nextId⟩
    .error (.wait (s.modLaunch l.id fun l => { l with arrived := l.arrived.filter (·.core != a.core) ++ [a] }) (.wired cable))

/-- `step`. -/
def execStep (g : Guard) (s : State) : Out := run false true g s fun s => s.arrive false

/-- `step.cable`. -/
def execStepCable (g : Guard) (s : State) : Out := run false true g s fun s => s.arrive true

/-- Whether the receiver of an update takes it now: not a scratchpad in a cable step, which holds it (R289), nor an image of a quiesced partition
(R420). -/
def State.takes (s : State) (r : SubRef) : Bool :=
  match r with
  | .core g => !s.coreInCable g
  | .image l _ => !((s.launchAt l).any fun x => (s.pst x.part).quiesced)

/-- What a unit issued before its `step` is done (R214), but for its updates: commands with their subtractions, accesses, queue entries and the
row-array operations they started. A cable value is in its multiplexer once cycles have passed, which a waiting core lets pass. -/
def State.stepDone (s : State) (a : Arrival) : Bool :=
  let c := s.coreAt a.core
  (s.cmds.all fun x => x.core != a.core || x.unit != c.unit || a.mark ≤ x.id)
    && (c.ctxAt 0).replies.isEmpty && (s.at a.core 0).storesPerformed
    && (c.vq.all fun x => a.mark ≤ x.id)
    && (s.rowRuns a.core).all fun op => op.gangs.all fun x => !(x.1 == a.core && x.2.2 < a.mark)

/-- Whether an update is one that a `step` of a launch with cores `gs` waits for: a write of a unit of it, to whatever publisher, or what a core of
it publishes, to whatever subscriber (R214, R286). -/
def stepUpdate (gs : List Nat) (pub : Nat) (f : Flit) : Bool := gs.contains pub || gs.contains f.writer

/-- The updates that a launch's `step` waits for and that are on their way. -/
def State.stepUpdates (s : State) (l : Launch) : List Flit := s.cores.flatMap fun x => x.2.flits.filter (stepUpdate l.cores x.1)

/-- The launch in whose cable step the scratchpad holds an update (R289). -/
def State.holder (s : State) (f : Flit) : Option Nat :=
  match f.sub with
  | .core h => if s.coreInCable h then (s.launchOf h).map (·.id) else none
  | .image .. => none

/-- The launches whose cable steps close together with that of launch `id`: those that hold updates it waits for, and so on (R289, log
entry 87). -/
def State.closing (s : State) (id : Nat) : List Nat :=
  s.launches.foldl (fun ids _ =>
    ids.foldl (fun t i => (((s.launchAt i).map s.stepUpdates).getD []).foldl (fun t f => (s.holder f).elim t (setInsert t)) t) ids) [id]

/-- Whether a core is ready for a cable step: vector queue empty, no global load of a helper outstanding, no operation of its row array waiting
or running (R288), and no command of its unit open, so that only context 0 accesses its scratchpad from then on (R288; log entry 87). -/
def State.cableReady (s : State) (g : Nat) : Bool :=
  let c := s.coreAt g
  c.vq.isEmpty && (s.cmds.all fun x => x.core != g || x.unit != c.unit) && (c.ctxs.all fun x => x.2.replies.isEmpty) && (s.rowRuns g).isNone && (s.row (g / 4)).matched.isNone

/-- Helpers are held, or go on (R16, R215). -/
def Core.quiesce (c : Core) (on : Bool) : Core :=
  { c with ctxs := c.ctxs.map fun (n, x) =>
      (n, if n = 0 || x.st == .free then x
          else if on then { x with st := .quiesced } else if x.st == .quiesced then { x with st := .ready } else x) }

/-- A cause for a context of a core, at the address given; the instruction in hand stays. A frozen core and a unit that is ending take
none. -/
def State.deliverAt (s : State) (g n : Nat) (f : Flt) (epc : Word) : State :=
  if (s.coreAt g).frozen || (s.coreAt g).ending.isSome then s else { (s.at g n).deliver f epc with hand := s.hand }

/-- GANGABORT of a step rule (R214, R217). -/
def stepAbort : Flt := ⟨cGANGABORT, 0, 3⟩

/-- The step that a released `step` leads to (R213). -/
def StepKind.next (k : StepKind) (cable : Bool) : StepKind :=
  match k with
  | .compute => if cable then .cable else .exchange
  | _ => .compute

/-- A core enters or leaves a cable step (R215): its cycles, wire and selection start anew, its helpers are held or released. -/
def Core.setCable (c : Core) (on : Bool) : Core :=
  { c with cable := 0, wires := [], sel := none, loaded := none }.quiesce on

/-- Whether both forms of `step` have been issued (R214). -/
def Launch.formsDiffer (l : Launch) : Bool := l.arrived.any (·.cable) && l.arrived.any (!·.cable)

/-- Whether a step with both forms is aborted now: every arrived context may take its cause (R356). -/
def State.abortDue (s : State) (l : Launch) : Bool := l.formsDiffer && l.arrived.all fun a => (s.at a.core 0).settled

/-- Whether a step can be released (R214, R288, R427): every unit that has not ended has arrived, and what it waits for is done; of its updates
there are left, at the end of a cable step, those that cable steps hold. -/
def State.wiredReady (s : State) (l : Launch) : Bool :=
  !l.arrived.isEmpty
    && (l.units.all fun u => match u.st with
      | .running g => l.arrived.any (·.core == g)
      | .ended => true
      | _ => false)
    && l.arrived.all s.stepDone
    && ((s.stepUpdates l).all fun f => l.stepK == .cable && (s.holder f).isSome)
    && (!l.arrived.any (·.cable) || l.cores.all fun g => s.cableReady g && !s.clockHeld (g / 1152))

/-- A cable step has ended: what hosts and peers asked of its scratchpads comes again, in order (R289). -/
def State.unhold (s : State) : State := { s with agenda := s.agenda ++ s.heldBus, heldBus := [] }

/-! ### The cable step (R215 to R217, R289) -/

/-- Whether a context 0 issues nothing more in this cable step: its core is frozen, a fault is held, the cycles are used up, or it waits for
an instruction in a scratchpad that is not reached before the step ends (R289, R290). -/
def State.cableDone (s : State) (g : Nat) : Bool :=
  (s.coreAt g).frozen || cableCycles ≤ s.cableNext g || match ((s.coreAt g).ctxAt 0).st with
    | .waiting (.held ..) => true
    | .waiting (.fetching k) => isSpad (keyLoc k).pa
    | _ => false

/-- Whether a cable step has come to its last cycle (R217): a context 0 has not issued its closing `step`, and none that has not
issues anything more. -/
def State.cableLate (s : State) (l : Launch) : Bool :=
  let late := l.cores.filter fun g => !l.arrived.any (·.core == g)
  l.stepK == .cable && !late.isEmpty && late.all s.cableDone

/-- CABLE_STEP_TIMEOUT (R217, R289): held faults are delivered, every other context 0 faults GANGABORT, helpers go on, and the step is
a compute step. -/
def State.cableTimeout (s : State) (id : Nat) : State :=
  match s.launchAt id with
  | none => s
  | some l =>
    if !s.cableLate l then s
    else
      let s := (s.modLaunch id fun l => { l with arrived := [], stepK := .compute }).unhold
      let s := l.cores.foldl (fun s g => s.setCore g ((s.coreAt g).setCable false)) s
      l.cores.foldl (fun s g =>
        let x := (s.coreAt g).ctxAt 0
        match x.st with
        | .waiting (.held code a i) => s.deliverAt g 0 ⟨code, a, i⟩ x.pc
        | _ => s.deliverAt g 0 stepAbort x.pc) s

/-- CABLE_STEP_TIMEOUT. -/
def execCableStepTimeout (launch : Nat) (s : State) : Out := event (s.cableTimeout launch)

/-- Runs a cable instruction: ILLEGAL outside a cable step (R216), a check of its own (R99 step 5; log entry 31). -/
def runCable (g : Guard) (s : State) (body : State → Res State) : Out :=
  run false true g s fun t => if t.inCable then body t else s.illegal

/-- `xsend` (R216). -/
def execXsend (g : Guard) (a : BitVec 5) (s : State) : Out :=
  runCable g s fun s => .ok (s.modMe fun c => { c with wires := ⟨c.cable, s.S a⟩ :: c.wires })

/-- Whether a core is in the region of the core in hand. -/
def State.inRegion (s : State) (g : Nat) : Bool :=
  match s.launchOf s.hand.core with
  | some l => g < nCores && l.cores.contains g
  | none => false

/-- `xsel` (R216). -/
def execXsel (g : Guard) (a : BitVec 5) (s : State) : Out :=
  runCable g s fun s =>
    let n := (s.S a).toNat
    .ok (s.modMe fun c => { c with sel := if s.inRegion n then some n else none })

/-- The place of a core's tile in package tile coordinates (R216). -/
def packageXY (g : Nat) : Nat × Nat :=
  let t := g / 8
  (12 * (t / 144 % 2) + t % 12, 12 * (t / 288) + t % 144 / 12)

/-- |a − b|. -/
def absDiff (a b : Nat) : Nat := if a ≤ b then b - a else a - b

/-- The cable delay between two cores (R216). -/
def cableDelay (g h : Nat) : Nat :=
  let (x, y) := packageXY g
  let (u, v) := packageXY h
  2 + absDiff x u + absDiff y v + 3 * ((if x / 12 = u / 12 then 0 else 1) + if y / 12 = v / 12 then 0 else 1)

/-- The latest value sent at or before a cycle (R216). -/
def wireAt (l : List Wire) (cycle : Nat) : Word := ((l.find? fun w => w.cycle ≤ cycle).map (·.value)).getD 0

/-- Whether what core `g` sends up to `cycle` is decided: it is past that cycle or issues nothing more in this step. -/
def State.wireKnown (s : State) (g cycle : Nat) : Bool :=
  cycle < (s.coreAt g).cable || s.cableDone g || match s.launchOf g with
    | some l => l.arrived.any (·.core == g)
    | none => true

/-- Whether the value that `xrecv` of core `g` reads is decided. -/
def State.recvKnown (s : State) (g : Nat) : Bool :=
  match (s.coreAt g).sel with
  | none => true
  | some h => (s.coreAt g).cable < cableDelay h g || s.wireKnown h ((s.coreAt g).cable - cableDelay h g)

/-- `xrecv` (R216). -/
def execXrecv (g : Guard) (d : BitVec 5) (s : State) : Out :=
  runCable g s fun s =>
    match s.me.sel with
    | none => .ok (s.setS d 0)
    | some h =>
      let t := s.me.cable
      let delay := cableDelay h s.hand.core
      if t < delay then .ok (s.setS d 0)
      else do
        s.await (s.wireKnown h (t - delay)) .cable
        return s.setS d (wireAt (s.coreAt h).wires (t - delay))

/-! ### Subscriptions (R218 to R222, R291 to R296) -/

/-- An incoming entry of a core. -/
def Core.incAt (c : Core) (e : Nat) : Incoming := (smapGet? c.inc e).getD ⟨.free, 0, 0, 0, 0, false⟩

/-- Sets it. -/
def Core.setInc (c : Core) (e : Nat) (x : Incoming) : Core := { c with inc := smapSet c.inc e x }

/-- The saved unit for which an entry made on what core `pub` publishes is meant: the entry is suspended and bound to that unit like those made
before the save (R405, R407; log entry 114). -/
def State.lentBy (s : State) (pub : Nat) : Option (Nat × Nat) :=
  (s.meantFor (s.me.unit.map (·.launch)) pub).map fun x => (x.launch, x.unit)

/-- `sub` (R218, R219). The revocation cache keeps the line of the capability's tag (R388). -/
def execSubSubscription (g : Guard) (d : BitVec 4) (a : BitVec 5) (c : BitVec 3) (s : State) : Out :=
  run false false g s fun s => do
    let w ← s.localWords (s.S a) 2 16
    let w0 := w.getD 0 0
    let w1 := w.getD 1 0
    s.legal (w0.extractLsb' 20 44 == 0 && w1.extractLsb' 9 55 == 0 && w1.extractLsb' 4 4 == 0)
    let loc := w0 &&& 0xFFFFF
    s.need (loc.toNat / 0x20000 == 0) cWINDOW loc 0
    s.need (loc.toNat % 64 == 0) cALIGN loc 0
    let cap := s.A d
    let n := capLen cap
    let s ← s.tagTurn (capTag cap)
    let va ← s.lift (s.checkCap cap 0 n (permREAD ||| permSUBS) (capInfo d))
    let ea := BitVec.ofNat 64 va
    s.legal (inAperture va && (va / 2 ^ 48 == 0 || va / 2 ^ 48 == s.device.toNat))
    s.need (vaWindow va == 0) cWINDOW ea 0
    s.need (va % 64 == 0 && n % 64 == 0 && n != 0) cALIGN ea 0
    s.need (n ≤ 0x10000 && va % 0x20000 + n ≤ 0x20000) cSPBOUND ea 0
    s.need (s.localCheck loc n 64 true).isOk cSPBOUND loc 0
    match s.translateMy va .read with
    | .error (s, b) => .error (badStop (s, b, va))
    | .ok (s, l) =>
      s.legal (l.dev == 0 && isSpad l.pa)
      let s := s.fillRev (capTag cap)
      let (pub, _, off) := spadParts l.pa
      s.need (off + n ≤ 0x20000) cSPBOUND ea 0
      let e := (w1.extractLsb' 0 4).toNat
      let susp := s.lentBy pub
      if (s.me.incAt e).st != .free || 16 ≤ (s.coreAt pub).out.length then return s.setP c false
      else
        let s := s.modMe fun x => x.setInc e ⟨.live, pub, off, loc.toNat, n, w1.getLsbD 8⟩
        let p := s.coreAt pub
        return (s.setCore pub { p with out := p.out ++ [⟨.core s.hand.core, e, off, n, susp⟩] }).setP c true

/-- Whether every write that the core in hand issued is made, so that its updates are on their way: nothing queued writes the scratchpad,
nor does an operation of the row array (R163, R221). -/
def State.storesQueued (s : State) : Bool :=
  (s.me.vq.any fun x => (x.touches.map (·.1)).getD false)
    || (s.rowRuns s.hand.core).any fun op => cfgSTORE op.cfg && op.parts.getLsbD (s.hand.core % 4)

/-- `subsync` (R163, R221), a release (R317). -/
def execSubsync (g : Guard) (s : State) : Out :=
  run false false g s fun s => do
    let s := s.startRelease
    s.releaseTurn
    s.await (!s.storesQueued && s.updatesDone s.hand.core) .updates
    return s

/-- Whether updates of an entry are still on their way from core `pub`. -/
def State.updatesTo (s : State) (pub : Nat) (r : SubRef) (e : Nat) : Bool := (s.coreAt pub).flits.any fun f => f.sub == r && f.entry == e

/-- Removes the outgoing entry that feeds an entry, with what it still holds. -/
def State.dropOut (s : State) (pub : Nat) (r : SubRef) (e : Nat) : State :=
  let p := s.coreAt pub
  s.setCore pub { p with out := p.out.filter (fun o => !(o.sub == r && o.entry == e))
                         flits := p.flits.filter fun f => !(f.sub == r && f.entry == e) }

/-- `unsub` (R222). -/
def execUnsub (g : Guard) (a : BitVec 5) (s : State) : Out :=
  run false false g s fun s => do
    let e := ((s.S a).extractLsb' 0 4).toNat
    let x := s.me.incAt e
    if x.st == .free || x.st == .lapsed then return s
    else
      let r : SubRef := .core s.hand.core
      let s := s.closeFlits x.pub
      s.await (!s.updatesTo x.pub r e) (.entryDrained e s.nextPc)
      return (s.dropOut x.pub r e).modMe fun c => { c with inc := smapErase c.inc e }

/-- Changes the core state that is kept for a saved unit. -/
def State.modKept (s : State) (launch unit : Nat) (f : Core → Core) : State :=
  s.modLaunch launch fun l => { l with units := l.units.map fun u => if u.idx = unit then { u with kept := u.kept.map f } else u }

/-- What is kept for a saved unit. -/
def State.keptOf (s : State) (launch unit : Nat) : Option Core :=
  (s.launchAt launch).bind fun l => (l.units.find? (·.idx == unit)).bind (·.kept)

/-- An incoming entry lapses: the event becomes pending (R295, R364). -/
def Core.lapseIn (c : Core) (e : Nat) : Core :=
  if (c.incAt e).st == .free then c
  else { c.setInc e { c.incAt e with st := .lapsed } with lapse := c.lapse ||| BitVec.ofNat 16 (2 ^ e) }

/-- The same at the subscriber. -/
def State.lapseAt (s : State) (r : SubRef) (e : Nat) : State :=
  match r with
  | .core g => s.setCore g ((s.coreAt g).lapseIn e)
  | .image l u => s.modKept l u fun c => c.lapseIn e

/-- The pieces of an update of `bytes` at `off` that are applied: without the bytes of a poisoned word that it covers only in part
(R414). -/
def updatePieces (poison : Nat → Bool) (off : Nat) (bytes : List Byte) : List (Nat × List Byte) :=
  let words := unitsOf 4 off bytes.length
  let kept (w : Nat) : Bool := !(poison w && !(off ≤ w && w + 4 ≤ off + bytes.length))
  if words.all kept then [(off, bytes)]
  else (words.filter kept).map fun w => (max off w, (bytes.drop (max off w - off)).take (w + 4 - max off w))

/-- Applies an update at the subscriber's scratchpad or at its image (R220, R292); an image that cannot be written makes the entry lapse. -/
def State.applyFlit (s : State) (pub : Nat) (f : Flit) : State :=
  match f.sub with
  | .core g =>
    let x := (s.coreAt g).incAt f.entry
    if x.st == .live then
      (updatePieces (fun w => s.mem.poison.contains (spadPa g w)) (x.loc + f.off) f.bytes).foldl
        (fun s b => s.spWrite g b.1 b.2.length (leBytes b.2) x.setfull false) s
    else s
  | .image l u =>
    match s.keptOf l u, s.savedImage (some ⟨l, u, 0⟩) with
    | some c, some (p, img) =>
      let x := c.incAt f.entry
      if x.st != .redirected then s
      else match s.imgPa p (img + x.loc + f.off) .write with
        | (s, some pa) =>
          (updatePieces (s.savedPoison l u).contains (x.loc + f.off) f.bytes).foldl (fun s (o, b) =>
            let pa := pa + (o - (x.loc + f.off))
            let s := (s.storeHome none ⟨0, pa⟩ b.length (leBytes b)).cleanseSaved l u o b.length
            if x.setfull then s.setBits p (img + 0x20000) (o / 4) ((o + b.length - 1) / 4 + 1 - o / 4) else s) s
        | (s, none) => (s.dropOut pub f.sub f.entry).lapseAt f.sub f.entry
    | _, _ => s

/-- The outgoing entry number `entry` of a core. -/
def Core.outAt (c : Core) (entry : Nat) : Option Outgoing := c.out[entry]?

/-- UPDATE_FLIT_CLOSE (R220). -/
def execUpdateFlitClose (core entry : Nat) (s : State) : Out :=
  event <|
    match (s.coreAt core).outAt entry with
    | none => s
    | some o =>
      let c := s.coreAt core
      s.setCore core { c with flits := c.flits.map fun f => if f.sub == o.sub && f.entry == o.entry then { f with closed := true } else f }

/-- Applies at once the updates on their way that `mine` selects, by publisher and in each publisher's order (R220, R292, R293). -/
def State.applyAll (s : State) (mine : Nat → Flit → Bool) : State :=
  (s.cores.filter fun x => x.2.flits.any (mine x.1)).foldl (fun s x =>
    let c := s.coreAt x.1
    (c.flits.filter (mine x.1)).foldl (fun s f => s.applyFlit x.1 f) (s.setCore x.1 { c with flits := c.flits.filter fun f => !mine x.1 f })) s

/-- The step of a launch that is released (R213, R215): its cores leave or enter a cable step. -/
def State.nextStep (s : State) (l : Launch) : State :=
  let cable := l.arrived.any (·.cable)
  let s := s.modLaunch l.id fun x => { x with arrived := [], stepK := l.stepK.next cable, atRelease := true }
  if cable || l.stepK == .cable then l.cores.foldl (fun s g => s.setCore g ((s.coreAt g).setCable cable)) s else s

/-- Context 0 of each unit that has arrived goes on after its `step`. -/
def State.goOn (s : State) (l : Launch) : State :=
  l.arrived.foldl (fun s a => s.modCtx a.core 0 fun c => { c with pc := a.next, st := .ready, issued := c.issued + 1 }) s

/-- The release of launches whose steps end together: the updates that their cable steps held are applied before the next step begins (R286,
R289; log entry 87). -/
def State.releaseSteps (s : State) (ls : List Launch) : State :=
  let t := (ls.foldl State.nextStep s).applyAll fun pub f => ls.any fun l => stepUpdate l.cores pub f
  ls.foldl State.goOn (if ls.any (·.stepK == .cable) then t.unhold else t)

/-- Whether the step of a launch is released now, with those that end together with it. -/
def State.releaseDue (s : State) (l : Launch) : Bool := !l.formsDiffer && (s.closing l.id).all fun i => (s.launchAt i).any s.wiredReady

/-- WIRED_BARRIER_RELEASE (R214): different forms abort the step, else every context 0 goes on in the same cycle. -/
def State.wiredRelease (s : State) (id : Nat) : State :=
  match s.launchAt id with
  | none => s
  | some l =>
    if l.formsDiffer then
      if s.abortDue l then
        l.arrived.foldl (fun s a => s.deliverAt a.core 0 stepAbort a.pc) (s.modLaunch id fun l => { l with arrived := [] })
      else s
    else if s.releaseDue l then s.releaseSteps ((s.closing id).filterMap s.launchAt)
    else s

/-- WIRED_BARRIER_RELEASE. -/
def execWiredBarrierRelease (launch : Nat) (s : State) : Out := event (s.wiredRelease launch)

/-- Whether an update goes next: it is closed, its receiver takes it, and none from before an earlier release fence of its writer is on its
way, to whatever entry of the publisher (R220, R289, R320). -/
def State.flitDue (s : State) (c : Core) (f : Flit) : Bool :=
  f.closed && s.takes f.sub && c.flits.all fun x => x.writer != f.writer || f.epoch ≤ x.epoch

/-- The first update of an entry is applied when it may be, in the publisher's order (R220). -/
def State.applyUpdate (s : State) (core entry : Nat) : State :=
  let c := s.coreAt core
  match c.outAt entry with
  | none => s
  | some o =>
    match c.flits.find? fun f => f.sub == o.sub && f.entry == o.entry with
    | some f =>
      if s.flitDue c f then (s.setCore core { c with flits := c.flits.erase f }).applyFlit core f else s
    | none => s

/-- SUBSCRIPTION_UPDATE_APPLY. -/
def execSubscriptionUpdateApply (core entry : Nat) (s : State) : Out := event (s.agentActs none (s.applyUpdate core entry))

/-- Whether a core has updates of core `g` on their way: what `g` publishes, or what it has written into another's region. -/
def State.carries (g : Nat) (x : Nat × Core) : Bool := x.1 == g || x.2.flits.any fun f => f.writer == g

/-- Whether every update that core `g` has on its way can be applied now: none goes to a scratchpad in a cable step (R289). -/
def State.flushable (s : State) (g : Nat) : Bool := (s.cores.filter (State.carries g)).all fun x => x.2.flits.all fun f => s.takes f.sub

/-- Applies every update that core `g` has on its way, with those that go along the same entries (R292, R295); of a lost stack what a cable
step would hold is lost (R420). -/
def State.flush (s : State) (g : Nat) : State :=
  let t := s.applyAll fun pub f => State.carries g (pub, s.coreAt pub) && s.takes f.sub
  (s.cores.filter (State.carries g)).foldl (fun t x => t.setCore x.1 { t.coreAt x.1 with flits := [] }) t

/-- Applies every update that core `pub` has on its way to one subscriber (R292, R293). -/
def State.flushTo (s : State) (pub : Nat) (r : SubRef) : State := s.applyAll fun q f => q == pub && f.sub == r

/-- The subscriptions of a core whose unit ends (R295): its incoming entries become free and their outgoing entries go; what it
published is applied, and the entries it fed lapse. Entries suspended for a saved unit stay (R405). -/
def State.endSubs (s : State) (g : Nat) : State :=
  let s := (s.coreAt g).inc.foldl (fun s (e, x) => s.dropOut x.pub (.core g) e) s
  let s := s.setCore g { s.coreAt g with inc := [], lapse := 0 }
  let s := s.flush g
  let gone := (s.coreAt g).out.filter (·.susp.isNone)
  let s := s.setCore g { s.coreAt g with out := (s.coreAt g).out.filter (·.susp.isSome) }
  gone.foldl (fun s o => s.lapseAt o.sub o.entry) s

/-- The same for a saved unit. -/
def State.endKeptSubs (s : State) (launch unit : Nat) (bound : Option Nat) : State :=
  let s := match s.keptOf launch unit with
    | some c => c.inc.foldl (fun s (e, x) => s.dropOut x.pub (.image launch unit) e) s
    | none => s
  match bound with
  | none => s
  | some g =>
    let s := s.flush g
    let mine (o : Outgoing) : Bool := o.susp == some (launch, unit)
    let gone := (s.coreAt g).out.filter mine
    let s := s.setCore g { s.coreAt g with out := (s.coreAt g).out.filter fun o => !mine o }
    gone.foldl (fun s o => s.lapseAt o.sub o.entry) s

/-- Whether context 0 of a core stands at an instruction boundary: it is ready, or waits before an instruction that has not issued
(R12, R364). -/
def Context.atBoundary (c : Context) : Bool :=
  match c.st with
  | .ready => true
  | .waiting x => match x with
    | .wordFull _ | .queueRoom | .maskWritten _ | .register .. | .scratch ..
    | .fetching _ => true
    | _ => false
  | _ => false

/-- Whether a pending SUBLAPSE comes before the next instruction of context 0 (R364): the context stands at a boundary, with no
instruction in hand, in user mode and in no upcall. -/
def State.lapseNext (s : State) (core : Nat) : Bool :=
  let c := s.coreAt core
  let x := c.ctxAt 0
  c.lapse != 0 && !c.frozen && c.ending.isNone && !s.stopping core && x.atBoundary && !x.inHand && !x.sys && !x.uframe.getLsbD 0
    && !s.coreInCable core

/-- Whether it can be delivered now: everything issued before has taken its full effect (R356). -/
def State.lapseDue (s : State) (core : Nat) : Bool := s.lapseNext core && (s.at core 0).settled

/-- Delivers a pending SUBLAPSE to context 0 before its next instruction, when it may; the entries named become free (R364). -/
def State.takeLapse (s : State) (core : Nat) : State :=
  if s.lapseDue core then
    let c := s.coreAt core
    let mask := c.lapse
    let s := s.setCore core { c with lapse := 0, inc := c.inc.filter fun e => !mask.getLsbD e.1 }
    s.deliverAt core 0 ⟨cSUBLAPSE, 0, mask.setWidth 64⟩ (c.ctxAt 0).pc
  else s

/-- SUBLAPSE (R364). -/
def execSublapse (core : Nat) (s : State) : Out := event (s.takeLapse core)

end Sys2Proof.Machine
end

