-- ==== Sys2Proof/Machine/System.lean ====
section
/-! DEFINITION. System instructions: traps and returns, control registers, `sleep` and `wake`, `launch`, `cancel`, counters, and the
events of waits and of fetch and decoding (R12, R19 to R27, R99, R109, R253 to R260, R344, R345, R353, R362, R363, R370). -/

namespace Sys2Proof.Machine

/-! ### Traps and returns -/

/-- `trap` (R253): EPC is the address of the next instruction. -/
def execTrap (g : Guard) (a : BitVec 5) (s : State) : Out :=
  run true false g s fun s => .error (.trap s ⟨cTRAP, 0, s.S a⟩ s.nextPc)

/-- `eret` (R254, R359, R370). -/
def execEret (s : State) : Out :=
  runPriv true false .always s fun s => do
    let e := s.my.epc
    s.need (!e.getLsbD 0) cALIGN e 0
    return (s.modMy fun c => { c with pc := e, sys := c.ecause.getLsbD 8 }).modMe fun c => { c with inHandler := false }

/-- The strand whose image stands in four doublewords of a frame, with its list (R362); none when it is damaged (R363). -/
def strandRestore (l lst : List Word) : Option (Option Strand) :=
  let w1 := l.getD 1 0
  let w2 := l.getD 2 0
  let w3 := l.getD 3 0
  let ring := w3.getLsbD 1
  let fin := w1.extractLsb' 32 32
  if w2.extractLsb' 8 24 != 0 || w2.extractLsb' 1 3 != 0 || 7 ≤ (w2.extractLsb' 4 4).toNat || w3.extractLsb' 2 62 != 0
      || (ring && 64 < fin.toNat) then none
  else if !w3.getLsbD 0 then some none
  else
    let hs := lst.flatMap fun w => [w.setWidth 32, w.extractLsb' 32 32]
    some (some ⟨l.getD 0 0, w1.setWidth 32, fin, w2.extractLsb' 32 32, w2.extractLsb' 4 4, w2.getLsbD 0, ring,
      if ring then hs.take fin.toNat else []⟩)

/-- The strands of a frame, in order, when none is damaged. -/
def frameStrands (f : List Word) : Option (List (Option Strand)) :=
  let l := (List.range 16).map fun n => strandRestore ((f.drop (68 + 4 * n)).take 4) ((f.drop (132 + 32 * n)).take 32)
  if l.all Option.isSome then some (l.map fun x => x.getD none) else none

/-- A register file from a list. -/
def vecOf {α : Type} (n : Nat) (d : α) (l : List α) : Vector α n := Vector.ofFn fun i => l.getD i.val d

/-- The context with the registers of a frame (R362, R363). -/
def Context.ofFrame (c : Context) (f : List Word) (hs : List (Option Strand)) : Context :=
  { c with
    fflags := (f.getD 4 0).setWidth 6
    p := vecOf 8 true ((List.range 8).map fun i => i == 0 || (f.getD 5 0).getLsbD i)
    s := vecOf 32 0 ((List.range 32).map fun i => if i = 0 then 0 else f.getD (5 + i) 0)
    a := vecOf 16 0 ((List.range 16).map fun i => if i = 0 then 0 else f.getD (37 + 2 * i) 0 ++ f.getD (36 + 2 * i) 0)
    h := vecOf 16 none hs
    pc := f.getD 0 0 }

/-- `uret` (R254, R363): it resumes in user mode. -/
def execUret (s : State) : Out :=
  run false false .always s fun s => do
    s.legal (s.my.uframe.getLsbD 0)
    s.legal s.frameOk
    let a := s.my.frameAddr
    let off := a.toNat % 0x20000
    s.localTurn false 0 off frameSize
    s.need (!s.spPoison false s.hand.core off frameSize) cPOISON a 0
    let f := s.spReadWords s.hand.core off (frameSize / 8)
    s.legal (!(f.getD 0 0).getLsbD 0)
    match frameStrands f with
    | none => s.illegal
    | some hs => return s.modMy fun c => { c.ofFrame f hs with uframe := c.uframe &&& (BitVec.allOnes 64 <<< 1), sys := false }

/-! ### Control registers (R19) -/

/-- Whether a core has a control register (R19, R370). -/
def crKnown (avlyn : Bool) (cr : BitVec 8) : Bool :=
  let n := cr.toNat
  if avlyn then n == 5 || (8 ≤ n && n ≤ 12) || (16 ≤ n && n ≤ 18) || n == 20
  else n ≤ 6 || (8 ≤ n && n ≤ 14) || (16 ≤ n && n ≤ 19)

/-- A register that `mtc` may not write. -/
def crReadOnly (cr : BitVec 8) : Bool :=
  let n := cr.toNat
  n == 6 || n == 16 || n == 17 || n == 18

/-- A register whose access faults PRIV in user mode. -/
def crSystem (cr : BitVec 8) (write : Bool) : Bool :=
  let n := cr.toNat
  (8 ≤ n && n ≤ 12) || n == 19 || n == 20 || (n == 2 && write)

/-- Whether an entry of the queue is a matrix instruction (R164). -/
def VOp.isMatrix : VOp → Bool
  | .gang .. | .mldb .. | .mstc .. | .mzc | .ecfg .. | .tsave .. | .trest .. => true
  | _ => false

/-- Whether the row array runs an operation with this core among its participants. -/
def State.arrayBusy (s : State) (g : Nat) : Bool :=
  match (s.row (g / 4)).running with
  | some op => op.lead == g || op.parts.getLsbD (g % 4)
  | none => false

/-- Whether an access to a control register must wait (R14, R38, R43, R164, R370). -/
def State.crWaits (s : State) (cr : BitVec 8) (write : Bool) : Bool :=
  match cr.toNat with
  | 4 => !write && s.tablePending s.hand.core
  | 5 => !s.queueQuiet s.hand.core s.hand.ctx
  | 6 => s.me.vq.any (fun x => x.op.isMatrix)
  | 20 => write && !s.storesPerformed
  | _ => false

/-- The value of a control register (R19 to R27, R37, R42, R47, R164, R358, R370). -/
def State.crRead (s : State) (cr : BitVec 8) : Word :=
  let c := s.me
  let x := s.my
  match cr.toNat with
  | 0 => c.shape.setWidth 64
  | 1 => (BitVec.ofBool c.zero).setWidth 64
  | 2 => c.weight.setWidth 64
  | 3 => c.scale
  | 4 => 0#60 ++ (BitVec.ofBool c.nmono1 ++ BitVec.ofBool c.nmono0 ++ 0#1 ++ BitVec.ofBool c.half)
  | 5 => x.fflags.setWidth 64
  | 6 => c.cfg
  | 8 => x.epc
  | 9 => x.ecause
  | 10 => x.eaddr
  | 11 => x.einfo
  | 12 => c.tvec
  | 13 => x.uvec
  | 14 => x.uframe
  | 16 => BitVec.ofNat 64 (s.hand.core * 65536 + (if s.inSys then 256 else 0) + s.hand.ctx)
  | 17 => BitVec.ofNat 64 (s.device.toNat * 65536 + s.partNo)
  | 18 => s.time
  | 19 => 0#14 ++ c.sphi ++ 0#14 ++ c.splo
  | 20 => c.svcpart
  | _ => 0

/-- Bits [56:1]. -/
def vaField (v : Word) : Word := v &&& 0x01FFFFFFFFFFFFFE

/-- Writes a control register; reserved and read-only fields keep their values (R255). -/
def State.crWrite (s : State) (cr : BitVec 8) (v : Word) : State :=
  match cr.toNat with
  | 0 => s.modMe fun c => { c with shape := v.setWidth 8 }
  | 1 => s.modMe fun c => { c with zero := v.getLsbD 0 }
  | 2 => s.modMe fun c => { c with weight := v.setWidth 4 }
  | 3 => s.modMe fun c => { c with scale := v }
  | 4 => s.modMe fun c => { c with half := v.getLsbD 0 }
  | 5 => s.modMy fun c => { c with fflags := v.setWidth 6 }
  | 8 => s.modMy fun c => { c with epc := v }
  | 9 => s.modMy fun c => { c with ecause := v &&& 0x1FF }
  | 10 => s.modMy fun c => { c with eaddr := v }
  | 11 => s.modMy fun c => { c with einfo := v }
  | 12 => s.modMe fun c => { c with tvec := vaField v }
  | 13 => s.modMy fun c => { c with uvec := vaField v }
  | 14 => s.modMy fun c => { c with uframe := v &&& 0xFFFC1 }
  | 19 => s.modMe fun c => { c with splo := v.setWidth 18, sphi := v.extractLsb' 32 18 }
  | 20 => s.modMe fun c => { c with svcpart := v &&& 0x10F }
  | _ => s

/-- Runs `mfc` or `mtc`: a register the core lacks, or `mtc` to a read-only one, is ILLEGAL at decoding, then PRIV, then the guard
(R99, R255). -/
def runCr (g : Guard) (cr : BitVec 8) (write : Bool) (s : State) (body : State → Res State) : Out :=
  if !crKnown s.isAvlyn cr || (write && crReadOnly cr) then finish s.illegal
  else if crSystem cr write then runPriv true false g s body else run true false g s body

/-- `mfc` (R255). -/
def execMfc (g : Guard) (d : BitVec 5) (cr : BitVec 8) (s : State) : Out :=
  runCr g cr false s fun s => do
    s.await (!s.crWaits cr false) (.register cr false)
    return s.setS d (s.crRead cr)

/-- `mtc` (R255). -/
def execMtc (g : Guard) (d : BitVec 5) (cr : BitVec 8) (s : State) : Out :=
  runCr g cr true s fun s => do
    s.await (!s.crWaits cr true) (.register cr true)
    return s.crWrite cr (s.S d)

/-! ### `sleep` and `wake` -/

/-- The watched word of a `sleep`: its physical address, none when s_a is all ones (R256); an Avlyn core has no scratchpad (R370). -/
def State.watched (s : State) (x : Word) : Res (Option Nat) :=
  if x = BitVec.allOnes 64 then .ok none
  else do
    s.legal (!s.isAvlyn)
    let off ← s.syncWord x
    s.needClean (s.spPoison false s.hand.core off 4) false 0 off 4 x 0
    return some (spadPa s.hand.core off)

/-- Whether the watched word is full. -/
def State.wordIsFull (s : State) (w : Option Nat) : Bool :=
  match w with
  | some pa => s.isFull pa
  | none => false

/-- Whether TIME has reached a deadline; 0 means none. -/
def State.deadlinePassed (s : State) (d : Word) : Bool := d != 0 && d.toNat ≤ s.time.toNat

/-- `sleep` (R256). -/
def execSleep (g : Guard) (d : BitVec 3) (a b : BitVec 5) (s : State) : Out :=
  run true false g s fun s => do
    let w ← s.watched (s.S a)
    s.await (s.wordIsFull w || s.deadlinePassed (s.S b) || s.my.wake) (.sleep w (s.S b))
    return (s.modMy fun c => { c with wake := false }).setP d (s.wordIsFull w)

/-- A release at device scope: the instruction waits until what the context queued has executed, dirty lines are mirrored, and it waits
until its stores are globally performed (R193, R257, R258, R417). -/
def State.releaseNow (s : State) : Res State := do
  s.queueTurn
  let s := s.mirrorAll
  s.await s.storesPerformed .performed
  return s

/-- Whether a core belongs to the partition in hand; Avlyn cores count as inside every partition (R257). -/
def State.inPartition (s : State) (g : Nat) : Bool :=
  s.isAvlyn || nCores ≤ g || match s.partEntry s.partNo with
    | some e => e.tiles.contains (g / 8)
    | none => false

/-- `wake` (R257). A core of another partition makes it a violation, whatever context is named (log entries 35 and 103). -/
def execWake (g : Guard) (a : BitVec 5) (s : State) : Out :=
  run true false g s fun s => do
    let t := ((s.S a).extractLsb' 16 13).toNat
    let n := ((s.S a).extractLsb' 0 4).toNat
    if nCores + 32 ≤ t then return s
    else if !s.inPartition t then .error (.freeze s)
    else
      let s ← s.releaseNow
      return if 10 < n || (nCores ≤ t && n != 0) then s else s.wakeCtx t n

/-! ### `launch` and `cancel` -/

/-- The physical address of a launch-queue header (R258, R344), with the state in which its page is placed: none when the partition gives no base
or it cannot be reached. -/
def State.queueAt (s : State) (p prio : Nat) : State × Option Nat :=
  match (s.partEntry p).bind (·.queueBase) with
  | none => (s, none)
  | some b => match s.translate .distributor p (b + 128 * prio) .write with
    | .ok (s, l) => (s, if l.dev = 0 && l.pa < hbmSize && !s.mem.poisoned false l.pa 32 then some l.pa else none)
    | .error (s, _) => (s, none)

/-- The physical address alone. -/
def State.queueHeader (s : State) (p prio : Nat) : Option Nat := (s.queueAt p prio).2

/-- `launch` (R258, R345): the priority is checked before the address; the header's line and the entry's are free of other copies first (R391). The load check of the record is of its first 64 bytes (log entry 104). -/
def execLaunch (g : Guard) (d : BitVec 3) (a b : BitVec 5) (s : State) : Out :=
  run true false g s fun s => do
    let prio := (s.S b).toNat
    let va := s.S a
    s.legal (prio < 24 && !s.physMode)
    s.lift (s.niForm va 1 64 false .read)
    match s.niPart va.toNat 64 .read with
    | .error x => .error (badStop x)
    | .ok (s, _) =>
      let s ← s.releaseNow
      let (t, h) := s.queueAt s.partNo prio
      let _ ← s.homeTurn (s.blockers t)
      let s := t
      match h with
      | none => return ((s.report (.drop s.partNo)).raiseEvent s.partNo 3).setP d false
      | some hdr =>
        match s.prepare [⟨⟨0, hdr⟩, 8⟩] .write .bank with
        | (s, some c) => .error (.wait s c)
        | (s, none) =>
          let (s, ok) := s.appendEntry s.partNo hdr va.toNat
          return s.setP d ok

/-- APPEND (R345): a store of `size` bytes to APPEND of queue `prio`, executed at the bank ALU. -/
def execAppend (part prio size : Nat) (value : BitVec 64) (s : State) : Out :=
  event <|
    match s.queueAt part prio with
    | (_, none) => s
    | (t, some hdr) => s.actsOnce none (.append part prio size value)
        (if size = 8 then (t.appendEntry part hdr value.toNat).1 else t.dropAppend part hdr)

/-- `cancel` (R259, R353): the OR is made at the counter's bank ALU; the distributor then learns of it. An address in a window other than RAW
names no counter (log entry 107). -/
def execCancel (g : Guard) (a : BitVec 5) (s : State) : Out :=
  run true false g s fun s => do
    let va := s.S a
    s.legal (!s.physMode)
    let (s, ps) ← s.niAccess va 8 8 false .read .byp
    let l := (ps.map (·.loc)).headD ⟨0, 0⟩
    let w : Part := ⟨⟨l.dev, l.pa + 8⟩, 8⟩
    let x := s.readPart w
    if va.toNat % 32 != 0 || (isSpad l.pa && (spadParts l.pa).2.1 != 0) || x % 2 = 1 then return s
    else match s.bankWaits [w] .update with
      | (s, some c) => .error (.wait s c)
      | (s, none) =>
        let s := { s with agenda := s.agenda ++ [.cancellation s.partNo va.toNat] }
        return if x / 4 % 2 = 1 then s else s.bankWrite w (x + 4)

/-- `rdcnt` (R260). -/
def execRdcnt (g : Guard) (d : BitVec 5) (n : BitVec 2) (s : State) : Out :=
  run true false g s fun s =>
    .ok (s.setS d (match n.toNat with
      | 0 => s.me.cycles
      | 1 => s.my.issued
      | 2 => s.my.waited
      | _ => s.me.vqbusy))

/-! ### Events of the contexts -/

/-- LOAD_REPLY (R12): the oldest reply of a context arrives and is written. -/
def execLoadReply (core ctx : Nat) (s : State) : Out :=
  event <|
    match ((s.coreAt core).ctxAt ctx).replies with
    | [] => s
    | r :: rest => s.modCtx core ctx fun c => { c with
        replies := rest
        fflags := c.fflags ||| r.flags
        s := match r.dest with
          | .s d => if d = 0 then c.s else c.s.set d.toNat (r.value.setWidth 64) d.isLt
          | _ => c.s
        a := match r.dest with
          | .a d => if d = 0 then c.a else c.a.set d.toNat r.value d.isLt
          | _ => c.a }

/-- Whether an access that waited for a line can be tried again: no half of it is asked for or being recalled, no acknowledgement of it is
awaited and no store that a walk lets go first insists, or the host no longer answers; for a scratchpad, its cable step has ended (R289,
R384, R385, R393, R397). -/
def State.lineReady (s : State) (g k : Nat) : Bool :=
  let pa := (keyLoc k).pa
  if isSpad pa then (keyLoc k).dev != 0 || !s.coreInCable (spadParts pa).1
  else
    let b := s.bridgeAt k
    (s.lds.any fun x => x.2.down || x.2.frozen)
      || (b.req0.isNone && b.req1.isNone && ((s.heldAt k).all fun x => !x.bi0 && !x.bi1) && !s.claimed g k)

/-- Whether a waiting context of core `g` may try its instruction again (R12). The waits that an event ends, `gang`, `step`, `retire`
and a held fault, answer false. -/
def State.condMet (s : State) (g n : Nat) (c : Cond) : Bool :=
  let k := s.coreAt g
  let t := s.at g n
  match c with
  | .wordFull pa => s.isFull pa || s.mem.poison.contains pa
  | .helpers m => s.helpersDone g m
  | .barrier dev pa ph =>
    let v := barUpdate id (s.readAt ⟨dev, pa⟩ 32)
    barPhase v != ph.toNat || barBroken v
  | .done dev pa => swDone (s.readAt ⟨dev, pa⟩ 64)
  | .sleep w d => s.wordIsFull w || s.deadlinePassed d || (k.ctxAt n).wake
  | .queueRoom => k.vq.length < 8
  | .maskWritten r => k.vq.all fun x => x.op.maskDest != r
  | .register cr write => !t.crWaits cr write
  | .gang | .wired _ | .retire | .held .. => false
  | .queued => s.queueQuiet g n
  | .performed => t.storesPerformed
  | .released => t.storesPerformed && s.updatesDone g
  | .updates => !t.storesQueued && s.updatesDone g
  | .entryDrained e _ => !s.updatesTo (k.incAt e).pub (.core g) e
  | .scratch write w off size => !s.accessBlocked g write w off size
  | .cable => s.recvKnown g
  | .host line | .fetching line => s.lineReady g line
  | .earlier => t.settled
  | .replies => (k.ctxAt n).replies.isEmpty
  | .grant line => !s.awaits line

/-- Whether the instruction that caused a wait has been issued: no event comes between the wait and the instruction's end (R12, R364). -/
def Cond.issued : Cond → Bool
  | .helpers _ | .barrier .. | .done .. | .sleep .. | .earlier | .grant _ | .queued | .performed | .released | .updates
  | .entryDrained .. | .replies | .host _ => true
  | _ => false

/-- A waiting context becomes ready. -/
def State.becomeReady (s : State) (core ctx : Nat) (ok : Cond → Bool) : State :=
  match ((s.coreAt core).ctxAt ctx).st with
  | .waiting c => if ok c then s.modCtx core ctx fun x => { x with st := .ready, inHand := c.issued } else s
  | _ => s

/-- WAIT_CONDITION_MET (R12). -/
def execWaitConditionMet (core ctx : Nat) (s : State) : Out := event (s.becomeReady core ctx (s.condMet core ctx))

/-- SLEEP_DEADLINE (R256). -/
def execSleepDeadline (core ctx : Nat) (s : State) : Out :=
  event (s.becomeReady core ctx fun c => match c with
    | .sleep _ d => s.deadlinePassed d
    | _ => false)

/-- ILLEGAL_ENCODING (R99, R109): the context in hand faults at its pc. -/
def execIllegalEncoding (hw : BitVec 16) (s : State) : Out := finish (s.fault cILLEGAL 0 (hw.setWidth 64))

/-- EINFO of a failed instruction fetch (R357). -/
def fetchInfo (cause : BitVec 8) (hw : BitVec 16) : Word :=
  if cause.toNat = cPAGE then 2 else if cause.toNat = cILLEGAL then hw.setWidth 64 else 0

/-- INSTRUCTION_FETCH_FAULT (R99, R101): EADDR is the halfword that could not be fetched. -/
def execInstructionFetchFault (cause : BitVec 8) (addr : BitVec 64) (s : State) : Out :=
  finish (s.fault cause.toNat addr (fetchInfo cause s.hand.hw))

end Sys2Proof.Machine
end

