-- ==== Sys2Proof/Machine/Mesh.lean ====
section
/-! DEFINITION. Meshes: the control block and its snapshot, handles, records, fields, rounds and spawn lists, and the instructions that
read a mesh (R59 to R67, R226 to R236, R241). -/

namespace Sys2Proof.Machine

/-! ### The control block (R62, R66) -/

/-- Fields of the snapshot of a control block. -/
def mcbRound (m : Bytes) : Nat := bytesRead m 0 8 / 2 ^ 56
def mcbCoord (m : Bytes) : Nat := bytesRead m 0 8 / 2 ^ 16 % 16
def mcbOrient (m : Bytes) : Bool := bytesRead m 0 8 / 2 ^ 8 % 2 == 1
def mcbDim (m : Bytes) : Nat := bytesRead m 0 8 % 4
def mcbPool (m : Bytes) : CapBits := BitVec.ofNat 128 (bytesRead m 0x10 16)
def mcbFarea (m : Bytes) : CapBits := BitVec.ofNat 128 (bytesRead m 0x20 16)
def mcbCap (m : Bytes) (k : Nat) : Nat := bytesRead m (0x30 + 16 * k) 8 / 2 ^ 40
def mcbRecoff (m : Bytes) (k : Nat) : Nat := bytesRead m (0x30 + 16 * k) 8 % 2 ^ 40
def mcbNext (m : Bytes) (k : Nat) : Nat := bytesRead m (0x38 + 16 * k) 8 / 2 ^ 40
def mcbStoff (m : Bytes) (k : Nat) : Nat := bytesRead m (0x38 + 16 * k) 8 % 2 ^ 40
def mcbField (m : Bytes) (f : Nat) : Nat := bytesRead m (0x70 + 8 * f) 8

/-- Fields of a field table entry (R66). -/
def fldValid (e : Nat) : Bool := e % 2 == 1
def fldRule (e : Nat) : Nat := e / 2 ^ 15 % 8
def fldFmt (e : Nat) : Nat := e / 2 ^ 18 % 16
def fldKind (e : Nat) : Nat := e / 2 ^ 22 % 4
def fldOff (e : Nat) : Nat := e / 2 ^ 24

/-- Bytes of an element, of a component, and the number of components of a field format. -/
def fmtSize (f : Nat) : Nat := [4, 8, 12, 16, 8, 2, 2, 4].getD f 4
def fmtComp (f : Nat) : Nat := [4, 4, 4, 4, 8, 2, 2, 4].getD f 4
def fmtCount (f : Nat) : Nat := [1, 2, 3, 4, 1, 1, 1, 1].getD f 1

/-- Bytes of a record of each kind (R63). -/
def recSize (k : Nat) : Nat := if k < 2 then 16 else 48

/-- The kinds of a dimension. -/
def meshKinds (m : Bytes) : List Nat := if mcbDim m = 3 then [0, 1, 2, 3] else [0, 1, 2]

/-- The checks on a field table entry (R66); one of the cell kind passes in dimension 2 as well (log entry 80). -/
def fldOk (m : Bytes) (e : Nat) : Bool :=
  !fldValid e ||
    (e / 2 % 2 ^ 14 == 0 && fldFmt e < 8 && fldRule e < 5 && !((fldRule e == 2 || fldRule e == 3) && (fldKind e != 0 || fldFmt e == 7))
      && !(fldRule e == 4 && fldKind e == 0) && fldOff e % fmtSize (fldFmt e) == 0
      && fldOff e + mcbCap m (fldKind e) * fmtSize (fldFmt e) ≤ capLen (mcbFarea m))

/-- The checks of `mopen` and `mrefresh` (R62, R66). -/
def mcbOk (m : Bytes) : Bool :=
  let w0 := bytesRead m 0 8
  let co := mcbField m (mcbCoord m)
  w0 / 2 ^ 20 % 2 ^ 36 == 0 && w0 / 2 ^ 9 % 2 ^ 7 == 0 && w0 / 4 % 2 ^ 6 == 0 && 2 ≤ mcbDim m && bytesRead m 0xF0 16 == 0
    && (mcbDim m == 3 || mcbCap m 3 == 0)
    && ([0, 1, 2, 3].all fun k => mcbRecoff m k % 16 == 0 && mcbStoff m k % 8 == 0 && mcbNext m k ≤ mcbCap m k
      && mcbRecoff m k + mcbCap m k * recSize k ≤ capLen (mcbPool m) && mcbStoff m k + 9 * mcbCap m k ≤ capLen (mcbPool m))
    && (!mcbOrient m || (fldValid co && fldKind co == 0 && fldFmt co == mcbDim m - 1))
    && (List.range 16).all fun f => fldOk m (mcbField m f)

/-- Bytes of a number, as a sparse store from address 0. -/
def bytesOf (n v : Nat) : Bytes := bytesWrite [] 0 n v

/-- The slot `m` of the core in hand. -/
def State.slot (s : State) (m : BitVec 2) : Option Slot := s.me.m.get m.toFin

/-- Sets it. -/
def State.setSlot (s : State) (m : BitVec 2) (x : Slot) : State := s.modMe fun c => { c with m := c.m.set m.toNat (some x) m.isLt }

/-- CheckCap of a dereference by a mesh instruction (R63, R228): the address. The revocation cache keeps the line of the tag (R388). -/
def State.meshVa (s : State) (cap : CapBits) (off n : Nat) (perm : BitVec 6) (info : Word) : Res (State × Nat) := do
  let s ← s.tagTurn (capTag cap)
  let va ← s.lift (s.checkCap cap off n perm info)
  return (s.fillRev (capTag cap), va)

/-- Reads and checks a control block through a capability, and binds the slot (R229). -/
def State.bindSlot (s : State) (m : BitVec 2) (cap : CapBits) (info : Word) : Res State := do
  let (s, va) ← s.meshVa cap 0 256 permREAD info
  s.need (va % 64 == 0) cALIGN (BitVec.ofNat 64 va) 0
  let (s, x) ← s.niRead (BitVec.ofNat 64 va) 128 1 false .plain
  let (s, y) ← s.niRead (BitVec.ofNat 64 (va + 128)) 128 1 false .plain
  let b := bytesOf 256 (x + y * 256 ^ 128)
  s.need (mcbOk b) cMESHFMT 0 0
  return s.setSlot m ⟨b, cap⟩

/-- `mopen` (R229). -/
def execMopen (g : Guard) (m : BitVec 2) (a : BitVec 4) (s : State) : Out :=
  run false false g s fun s => s.bindSlot m (s.A a) (capInfo a)

/-- `mrefresh` (R229). -/
def execMrefresh (g : Guard) (m : BitVec 2) (s : State) : Out :=
  run false false g s fun s =>
    match s.slot m with
    | none => s.fault cMESHFMT 0 0
    | some x => s.bindSlot m x.cap infoMem

/-! ### A mesh instruction's work: reads of memory with the words it is about to write laid over them -/

/-- The state, the snapshot, the pending record words (by offset in POOL), the pending field components (by offset in FAREA, with size),
the flags of interpolation, and the elements that the operation writes, creates and retires, as kind × 2^24 + index. -/
structure MW where
  s    : State
  m    : Bytes
  recs : List (Nat × W32)
  flds : List (Nat × Nat × Nat)
  fl   : FFlags
  wrote : NatSet
  made : NatSet
  gone : NatSet
  deriving DecidableEq, Repr

/-- Work that may stop the instruction. -/
abbrev MM (α : Type) := StateT MW (Except Stop) α

/-- The work ends in a fault without an address. -/
def mmFault {α : Type} (code : Nat) : MM α := fun w => w.s.fault code 0 0

/-- Faults unless the condition holds. -/
def mmNeed (c : Bool) (code : Nat) : MM Unit := if c then pure () else mmFault code

/-- An access to memory. -/
def mmMem {α : Type} (f : State → Res (State × α)) : MM α := fun w => do
  let (s, x) ← f w.s
  return (x, { w with s := s })

/-- Reads `n` bytes at an offset of a capability of the snapshot (R63, R228). -/
def mmRead (cap : CapBits) (off n : Nat) : MM Nat := mmMem fun s => do
  let (s, va) ← s.meshVa cap off n permREAD infoMem
  s.niRead (BitVec.ofNat 64 va) n 1 false .plain

/-- The checks of a write, without the write (R63, R228): the parts it will write, which are owned from then on. -/
def mmCheckWrite (acc : Acc) (h : Hint) (cap : CapBits) (off n : Nat) (perm : BitVec 6) : MM (List Part) := mmMem fun s => do
  let (s, va) ← s.meshVa cap off n perm infoMem
  s.niReach (BitVec.ofNat 64 va) n 1 false acc .update h

/-- Checks a list of writes (capability, offset, size, value): the parts of each with its value. -/
def mmCheckAll (h : Hint) (perm : BitVec 6) (l : List (CapBits × Nat × Nat × Nat)) : MM (List (List Part × Nat)) :=
  l.mapM fun (c, o, n, v) => do
    let p ← mmCheckWrite .write h c o n perm
    return (p, v)

/-- A write of parts whose checks have passed. -/
def State.meshPut (s : State) (h : Hint) (p : List Part) (v : Nat) : State := ((s.updated p h).writeParts p v).1

/-- Makes writes whose checks have passed. -/
def mmPutAll (h : Hint) (ps : List (List Part × Nat)) : MM Unit :=
  modify fun w => { w with s := ps.foldl (fun s (p, v) => s.meshPut h p v) w.s }

/-- Checks a list of writes, then makes them all. -/
def mmWriteAll (h : Hint) (perm : BitVec 6) (l : List (CapBits × Nat × Nat × Nat)) : MM Unit := do
  let ps ← mmCheckAll h perm l
  mmPutAll h ps

/-- Permissions of writes by topology instructions, and by `mround` and `mreserve` (R63, R228). -/
def permTopo : BitVec 6 := permREAD ||| permWRITE ||| permMEDIT
def permRound : BitVec 6 := permWRITE ||| permMEDIT

/-- The snapshot. -/
def mmM : MM Bytes := fun w => .ok (w.m, w)

/-! ### Handles and records (R59 to R64) -/

def hNONE : W32 := 0xFFFFFFFF
def hKind (h : W32) : Nat := h.toNat / 2 ^ 30
def hGen (h : W32) : Nat := h.toNat / 2 ^ 24 % 64
def hIdx (h : W32) : Nat := h.toNat % 2 ^ 24
/-- A handle from its fields. -/
def mkHandle (k gen i : Nat) : W32 := BitVec.ofNat 32 (k * 2 ^ 30 + gen % 64 * 2 ^ 24 + i)
/-- Whether two slots name one element. -/
def hSame (x y : W32) : Bool := x != hNONE && y != hNONE && hIdx x == hIdx y

/-- The offset of an element's generation byte, marker, and record word (R63). -/
def genOff (m : Bytes) (k i : Nat) : Nat := mcbStoff m k + 8 * mcbCap m k + i
def markOff (m : Bytes) (k i : Nat) : Nat := mcbStoff m k + 8 * i
def wordOff (m : Bytes) (k i w : Nat) : Nat := mcbRecoff m k + recSize k * i + 4 * w

/-- The generation byte of an element. -/
def genByte (k i : Nat) : MM Nat := do
  let m ← mmM
  mmRead (mcbPool m) (genOff m k i) 1

/-- Resolve (R60): whether a handle is live for kind `k`. -/
def resolve (h : W32) (k : Nat) : MM Bool := do
  let m ← mmM
  if h = hNONE then return false
  mmNeed (hKind h == k) cMESHFMT
  if mcbCap m k ≤ hIdx h then return false
  let g ← genByte k (hIdx h)
  mmNeed (g % 4 != 3) cMESHFMT
  return g / 4 == hGen h && g % 4 == 1

/-- A record word as it will stand. -/
def recWord (k i w : Nat) : MM W32 := fun x =>
  let o := wordOff x.m k i w
  match x.recs.find? (·.1 == o) with
  | some e => .ok (e.2, x)
  | none => (do
      let v ← mmRead (mcbPool x.m) o 4
      return BitVec.ofNat 32 v : MM W32) x

/-- Consecutive words of a record. -/
def recWords (k i first n : Nat) : MM (List W32) := (List.range n).mapM fun j => recWord k i (first + j)

/-- A slot that names a vertex of an edge, without the flags (R64). -/
def clearFlags (h : W32) : W32 := if h = hNONE then h else h &&& 0x3FFFFFFF

/-- The two vertices of an edge. -/
def edgeVerts (i : Nat) : MM (List W32) := do
  let l ← recWords 1 i 0 2
  return l.map clearFlags

/-- The vertices of a face or cell. -/
def vertsOf (k i : Nat) : MM (List W32) := if k = 3 then recWords 3 i 0 4 else recWords 2 i 0 3

/-- The edges of a face. -/
def faceEdges (i : Nat) : MM (List W32) := recWords 2 i 3 3

/-- The faces on either side of an edge in dimension 2. -/
def edgeFaces (i : Nat) : MM (List W32) := recWords 1 i 2 2

/-- The neighbours of a face in dimension 2, or of a cell. -/
def nbrsOf (k i : Nat) : MM (List W32) := if k = 3 then recWords 3 i 8 4 else recWords 2 i 6 3

/-- The cells on either side of a face in dimension 3. -/
def faceCells (i : Nat) : MM (List W32) := recWords 2 i 6 2

/-- The faces of a cell. -/
def cellFaces (i : Nat) : MM (List W32) := recWords 3 i 4 4

/-- The position at which a list names an element. -/
def posOf (l : List W32) (h : W32) : Option Nat := l.findIdx? (hSame h)

/-- The position, or NONMANIFOLD: the records are not consistent (R243). -/
def posIn (l : List W32) (h : W32) : MM Nat :=
  match posOf l h with
  | some p => pure p
  | none => mmFault cNONMANIFOLD

/-- The slot at a position. -/
def atPos (l : List W32) (p : Nat) : W32 := l.getD p hNONE

/-- A slot that must name an element (R243). -/
def named (h : W32) : MM Nat := if h = hNONE then mmFault cNONMANIFOLD else pure (hIdx h)

/-! ### Stars and rings (R235, R241, R244) -/

/-- Adds what is not yet in a list of handles. -/
def addHandle (l : List W32) (h : W32) : List W32 := if h = hNONE || l.any (hSame h) then l else l ++ [h]

/-- The vertex star walk, first-in first-out (R235): fuel, kind walked (2 or 3), vertex, limit on the elements visited, queue, seen.
Answers the elements visited in order. -/
def starWalk (k : Nat) (v : W32) (limit : Nat) : Nat → List W32 → List W32 → MM (List W32)
  | 0, _, seen => pure seen
  | n + 1, q, seen =>
    match q with
    | [] => pure seen
    | x :: rest => do
      if limit < seen.length then return seen
      let vs ← vertsOf k (hIdx x)
      let ns ← nbrsOf k (hIdx x)
      let new := ((List.range vs.length).filter fun i => !hSame (atPos vs i) v).map (atPos ns)
      let add := new.foldl (fun l h => if h = hNONE || seen.any (hSame h) then l else addHandle l h) []
      starWalk k v limit n (rest ++ add) (seen ++ add)

/-- A star: its edges, faces, cells in walk order (R235, R244). -/
structure Star where
  edges : List W32
  faces : List W32
  cells : List W32
  deriving DecidableEq, Repr

/-- The edges of face `f` that contain `v`, in slot order. -/
def edgesAt (f v : W32) : MM (List W32) := do
  let vs ← vertsOf 2 (hIdx f)
  let es ← faceEdges (hIdx f)
  return ((List.range 3).filter fun i => !hSame (atPos vs i) v).map (atPos es)

/-- The star of vertex `v` (R235). A walk of more than `limit` elements is cut there. -/
def starOf (v : W32) (limit : Nat) : MM Star := do
  let m ← mmM
  let d3 := mcbDim m == 3
  let anchor ← recWord 0 (hIdx v) 0
  if anchor = hNONE then return ⟨[], [], []⟩
  let f0 ← recWord 1 (hIdx anchor) 2
  let f1 ← if d3 then pure hNONE else recWord 1 (hIdx anchor) 3
  let start := if f0 = hNONE then f1 else f0
  if start = hNONE then return ⟨[anchor], [], []⟩
  let k := if d3 then 3 else 2
  let els ← starWalk k v limit (mcbCap m k + 1) [start] [start]
  if d3 then
    let faces ← els.foldlM (fun l c => do
      let vs ← vertsOf 3 (hIdx c)
      let fs ← cellFaces (hIdx c)
      return (((List.range 4).filter fun i => !hSame (atPos vs i) v).map (atPos fs)).foldl addHandle l) []
    let edges ← faces.foldlM (fun l f => do
      let es ← edgesAt f v
      return es.foldl addHandle l) []
    return ⟨edges, faces, els⟩
  else
    let edges ← els.foldlM (fun l f => do
      let es ← edgesAt f v
      return es.foldl addHandle l) []
    return ⟨edges, els, []⟩

/-- The other end of an edge from `v`. -/
def otherEnd (e v : W32) : MM W32 := do
  let l ← edgeVerts (hIdx e)
  return if hSame (atPos l 0) v then atPos l 1 else atPos l 0

/-- A ring in dimension 3 (R241): its faces and cells in order, and whether it is closed. -/
structure Ring where
  faces  : List W32
  cells  : List W32
  closed : Bool
  deriving DecidableEq, Repr

/-- The walk around an edge from a cell entered through a face: fuel, first cell, edge ends, cell, face, what is listed. Stops at the
first cell or at NONE. -/
def ringWalk (x0 y0 a b : W32) : Nat → W32 → W32 → List W32 → List W32 → MM Ring
  | 0, _, _, fs, cs => pure ⟨fs, cs, false⟩
  | n + 1, c, y, fs, cs =>
    if c = hNONE then pure ⟨fs, cs, false⟩
    else if hSame c x0 then pure ⟨fs, cs, true⟩
    else do
      let vs ← vertsOf 3 (hIdx c)
      let gs ← cellFaces (hIdx c)
      let ns ← nbrsOf 3 (hIdx c)
      let out := (List.range 4).filter fun i => !hSame (atPos vs i) a && !hSame (atPos vs i) b && !hSame (atPos gs i) y
      match out with
      | [i] =>
        let z := atPos gs i
        ringWalk x0 y0 a b n (atPos ns i) z (if hSame z y0 then fs else fs ++ [z]) (cs ++ [c])
      | _ => mmFault cNONMANIFOLD

/-- The ring of an edge in dimension 3 (R241); empty when its anchor cell is NONE. -/
def ringOf (e : W32) : MM Ring := do
  let m ← mmM
  let ab ← edgeVerts (hIdx e)
  let a := atPos ab 0
  let b := atPos ab 1
  let x0 ← recWord 1 (hIdx e) 2
  if x0 = hNONE then return ⟨[], [], false⟩
  let vs ← vertsOf 3 (hIdx x0)
  let fs ← cellFaces (hIdx x0)
  let ns ← nbrsOf 3 (hIdx x0)
  match (List.range 4).filter fun i => !hSame (atPos vs i) a && !hSame (atPos vs i) b with
  | [i, j] =>
    let y0 := atPos fs j
    let y1 := atPos fs i
    let fuel := mcbCap m 3 + 1
    let r ← ringWalk x0 y0 a b fuel (atPos ns i) y1 [y0, y1] [x0]
    if r.closed then return r
    else ringWalk x0 hNONE a b fuel (atPos ns j) y0 r.faces r.cells
  | _ => mmFault cNONMANIFOLD

/-! ### Outcomes -/

/-- Runs mesh work for an instruction: an unbound slot faults MESHFMT (R17); the snapshot that the work leaves goes to the slot. -/
def State.meshRun {α : Type} (s : State) (m : BitVec 2) (f : MM α) : Res (State × α) :=
  match s.slot m with
  | none => s.fault cMESHFMT 0 0
  | some x => do
    let (r, w) ← f.run ⟨s, x.mcb, [], [], 0, [], [], []⟩
    return (if w.m = x.mcb then w.s else w.s.setSlot m { x with mcb := w.m }, r)

/-- Writes the outcome to the predicate of the guard (R227). -/
def State.outcome (s : State) (g : Guard) (ok : Bool) : State := s.setP g.p ok

/-- A handle operand (R226). -/
def State.handle (s : State) (r : BitVec 5) : W32 := (s.S r).setWidth 32

/-! ### Rounds and spawn blocks (R230 to R232) -/

/-- The marker writes of the wrap of `mround`. -/
def clearMarkers (m : Bytes) (next : Nat → Nat) : List (CapBits × Nat × Nat × Nat) :=
  (meshKinds m).flatMap fun k => (List.range (next k)).map fun i => (mcbPool m, markOff m k i, 8, 0)

/-- Writes a byte at an offset into the first of the parts of an access. -/
def State.putByte (s : State) (ps : List Part) (o v : Nat) : State :=
  match ps with
  | p :: _ => (s.writeParts [⟨⟨p.loc.dev, p.loc.pa + o⟩, 1⟩] v).1
  | [] => s

/-- `mround` (R230), at the home of the first line of the control block, which it reads and writes. -/
def execMround (g : Guard) (d : BitVec 5) (m : BitVec 2) (s : State) : Out :=
  run false false g s fun s =>
    match s.slot m with
    | none => s.fault cMESHFMT 0 0
    | some x => do
      let (s, va) ← s.meshVa x.cap 0 8 permRound infoMem
      let (s, ps) ← s.niAccess (BitVec.ofNat 64 va) 128 1 true .update .bank
      let mem := bytesOf 128 (s.readParts ps)
      let old := mcbRound mem
      let r := if old = 255 then 1 else old + 1
      let (s, _) ← s.meshRun m (if old = 255 then mmWriteAll .bank permRound (clearMarkers x.mcb (mcbNext mem)) else pure ())
      let s := (s.updated ps .bank).putByte ps 7 r
      let b := (meshKinds x.mcb).foldl (fun b k => bytesWrite b (0x3D + 16 * k) 3 (mcbNext mem k)) (bytesWrite x.mcb 7 1 r)
      return (s.setSlot m { x with mcb := b }).setS d (BitVec.ofNat 64 r)

/-- The quotas of R231. -/
def quota (dim k : Nat) : Nat := if dim = 3 then [1, 10, 17, 8].getD k 0 else [1, 3, 2, 0].getD k 0

/-- The offset in POOL of a spawn entry (R231). -/
def spawnOff (m : Bytes) (k q : Nat) : Nat := 4 * ((mcbStoff m k + 9 * mcbCap m k + 3) / 4) + 4 * q

/-- Generation bytes of the indices below NEXT. -/
def genBytes (k : Nat) : MM (List Nat) := do
  let m ← mmM
  (List.range (mcbNext m k)).mapM (genByte k)

/-- The writes of `mreserve` for one kind, and the new NEXT: generation bytes below NEXT, number wanted. -/
def reserveKind (m : Bytes) (k : Nat) (gs : List Nat) (want : Nat) : MM (List (CapBits × Nat × Nat × Nat) × Nat) := do
  let pool := mcbPool m
  let st (i : Nat) : Nat := if i < gs.length then gs.getD i 0 % 4 else 0
  let taken := ((List.range (gs.length + want)).filter fun i => st i == 0 || st i == 2).take want
  let back := (List.range gs.length).filter fun i => st i == 2
  let gen ← taken.mapM fun i => if i < gs.length then pure (gs.getD i 0) else genByte k i
  let w1 := back.map fun i => (pool, genOff m k i, 1, gs.getD i 0 / 4 * 4)
  let w2 := (List.range taken.length).map fun q => (pool, genOff m k (taken.getD q 0), 1, gen.getD q 0 / 4 * 4 + 2)
  let w3 := (List.range taken.length).map fun q => (pool, spawnOff m k q, 4, mcbRound m * 2 ^ 24 + taken.getD q 0)
  return (w1 ++ w2 ++ w3, max (mcbNext m k) (taken.getLastD 0 + if taken.isEmpty then 0 else 1))

/-- Reserve (R232) through a slot with capability `cap`: whether the indices sufficed. -/
def reserve (cap : CapBits) (n : Nat) : MM Bool := do
  let m ← mmM
  mmNeed (mcbRound m != 0 && n ≤ 0xFFFFFF) cMESHFMT
  let gs ← (meshKinds m).mapM genBytes
  let free (k : Nat) : Nat := ((gs.getD k []).filter fun g => g % 4 == 0 || g % 4 == 2).length + (mcbCap m k - mcbNext m k)
  if (meshKinds m).any fun k => free k < n * quota (mcbDim m) k then return false
  let r ← (meshKinds m).mapM fun k => reserveKind m k (gs.getD k []) (n * quota (mcbDim m) k)
  let nexts := (meshKinds m).map fun k => (cap, 0x3D + 16 * k, 3, (r.getD k ([], 0)).2)
  mmWriteAll .bank permRound (r.flatMap (·.1) ++ nexts)
  modify fun w => { w with m := (meshKinds m).foldl (fun b k => bytesWrite b (0x3D + 16 * k) 3 (r.getD k ([], 0)).2) w.m }
  return true

/-- `mreserve` (R232). -/
def execMreserve (g : Guard) (d : BitVec 5) (m : BitVec 2) (b : BitVec 5) (s : State) : Out :=
  run false false g s fun s => do
    let (s, ok) ← s.meshRun m (reserve (((s.slot m).map (·.cap)).getD 0) (s.S b).toNat)
    return s.setS d (if ok then 1 else 0)

/-! ### Reading records and fields (R233, R234, R236) -/

/-- Writes consecutive scalar registers from `d`. -/
def State.setSeq (s : State) (d : Nat) : List Word → State
  | [] => s
  | x :: t => (s.setS (BitVec.ofNat 5 d) x).setSeq (d + 1) t

/-- The kind of a handle must exist in the mesh's dimension (R63). -/
def needKind (k : Nat) : MM Unit := do
  let m ← mmM
  mmNeed (k != 3 || mcbDim m == 3) cMESHFMT

/-- The words that `mget` reads, none for a stale handle. -/
def getWords (raw : Bool) (first cnt : Nat) (h : W32) : MM (Option (List W32)) := do
  if h = hNONE then return none
  let k := hKind h
  needKind k
  mmNeed (first + cnt ≤ recSize k / 4) cMESHFMT
  if ← resolve h k then
    let l ← recWords k (hIdx h) first cnt
    return some ((List.range cnt).map fun j => if k = 1 && !raw && first + j < 2 then clearFlags (l.getD j 0) else l.getD j 0)
  else return none

/-- `mget` (R233): cnt is count − 1. -/
def execMget (g : Guard) (raw : Bool) (first : BitVec 4) (cnt : BitVec 3) (d : BitVec 5) (m : BitVec 2) (b : BitVec 5) (s : State) : Out :=
  if 31 < d.toNat + cnt.toNat then finish s.illegal
  else
    run false false g s fun s => do
      let n := cnt.toNat + 1
      let (s, r) ← s.meshRun m (getWords raw first.toNat n (s.handle b))
      match r with
      | some l => return (s.setSeq d.toNat (l.map fun x => x.setWidth 64)).outcome g true
      | none => return (s.setSeq d.toNat (List.replicate n 0xFFFFFFFF)).outcome g false

/-- The checks of `mfld` and `mfst` on a field and component (R63, R234): the entry. -/
def fieldFor (fid comp : Nat) (h : W32) : MM Nat := do
  let m ← mmM
  let e := mcbField m fid
  mmNeed (fldValid e && (h == hNONE || fldKind e == hKind h) && comp < fmtCount (fldFmt e)) cMESHFMT
  needKind (fldKind e)
  return e

/-- The offset in FAREA of a component. -/
def compOff (e i comp : Nat) : Nat := fldOff e + i * fmtSize (fldFmt e) + comp * fmtComp (fldFmt e)

/-- A component as `mfld` places it. -/
def compWord (fmt v : Nat) : Word :=
  match fmt with
  | 5 => BitVec.ofNat 64 (widen h16 f32 v)
  | 6 => BitVec.ofNat 64 (widen b16 f32 v)
  | 7 => (BitVec.ofNat 32 v).signExtend 64
  | _ => BitVec.ofNat 64 v

/-- The component that `mfld` reads, none for a stale handle. -/
def getField (fid comp : Nat) (h : W32) : MM (Option Word) := do
  let e ← fieldFor fid comp h
  let m ← mmM
  if ← resolve h (fldKind e) then
    let v ← mmRead (mcbFarea m) (compOff e (hIdx h) comp) (fmtComp (fldFmt e))
    return some (compWord (fldFmt e) v)
  else return none

/-- `mfld` (R234). -/
def execMfld (g : Guard) (fid : BitVec 4) (comp : BitVec 3) (d : BitVec 5) (m : BitVec 2) (b : BitVec 5) (s : State) : Out :=
  run false false g s fun s => do
    let (s, r) ← s.meshRun m (getField fid.toNat comp.toNat (s.handle b))
    return (s.setS d (r.getD 0)).outcome g r.isSome

/-- The bits that `mfst` stores, with flags. -/
def compBits (fmt : Nat) (x : Word) : Nat × FFlags :=
  let u := unpack f32 (x.toNat % 2 ^ 32)
  match fmt with
  | 4 => (x.toNat, 0)
  | 5 => formResult h16 0 u.exact (snan [u])
  | 6 => formResult b16 0 u.exact (snan [u])
  | _ => (x.toNat % 2 ^ 32, 0)

/-- Writes a component; answers whether the handle was live, and the flags. -/
def putField (fid comp : Nat) (h : W32) (x : Word) : MM (Bool × FFlags) := do
  let e ← fieldFor fid comp h
  let m ← mmM
  if ← resolve h (fldKind e) then
    let (v, fl) := compBits (fldFmt e) x
    mmWriteAll .plain permWRITE [(mcbFarea m, compOff e (hIdx h) comp, fmtComp (fldFmt e), v)]
    return (true, fl)
  else return (false, 0)

/-- `mfst` (R234). -/
def execMfst (g : Guard) (fid : BitVec 4) (comp : BitVec 3) (d : BitVec 5) (m : BitVec 2) (b : BitVec 5) (s : State) : Out :=
  run false false g s fun s => do
    let (s, ok, fl) ← s.meshRun m (putField fid.toNat comp.toNat (s.handle b) (s.S d))
    return (s.orFlags fl).outcome g ok

/-- The limit of an open list. -/
def listLimit : Nat := 64

/-- The list of `mstar` (R235), none for a stale handle. -/
def starList (kind : Nat) (h : W32) : MM (Option (List W32)) := do
  let m ← mmM
  let d3 := mcbDim m == 3
  mmNeed (kind ≤ 4 && (kind != 2 || d3)) cMESHFMT
  if h = hNONE then return none
  let k := hKind h
  needKind k
  mmNeed (match kind with
    | 0 | 3 => k == 0
    | 1 | 2 => k ≤ 1
    | _ => 2 ≤ k) cMESHFMT
  if ← resolve h k then
    let full := mcbCap m (if d3 then 3 else 2)
    match kind, k with
    | 0, _ => return some (← starOf h full).edges
    | 3, _ => do
      let st ← starOf h full
      let l ← st.edges.mapM fun e => otherEnd e h
      return some l
    | 1, 0 => return some (← starOf h full).faces
    | 2, 0 => return some (← starOf h full).cells
    | 1, _ =>
      if d3 then return some (← ringOf h).faces
      else
        let l ← edgeFaces (hIdx h)
        return some (l.filter (· != hNONE))
    | 2, _ => return some (← ringOf h).cells
    | _, _ =>
      let l ← if k = 2 && d3 then faceCells (hIdx h) else nbrsOf k (hIdx h)
      return some (l.filter (· != hNONE))
  else return none

/-- `mstar` (R235). The stride of a ring strand is stated nowhere; the model holds 0 (log entry 22). -/
def execMstar (g : Guard) (kind : BitVec 3) (h : BitVec 4) (m : BitVec 2) (b : BitVec 5) (s : State) : Out :=
  run false false g s fun s => do
    let (s, r) ← s.meshRun m (starList kind.toNat (s.handle b))
    let l := (r.getD []).take listLimit
    let x : Strand := ⟨0, 0, BitVec.ofNat 32 l.length, 0, 2, false, true, l⟩
    return (s.setH h (some x)).outcome g (r.isSome && (r.getD []).length ≤ listLimit)

/-- The edge joining two vertices, sought in the `.edges` list of the first (R236); `limit` cuts the list. -/
def findEdge (v u : W32) (limit : Option Nat) : MM W32 := do
  let m ← mmM
  let st ← starOf v (mcbCap m (if mcbDim m = 3 then 3 else 2))
  let l := match limit with
    | some n => st.edges.take n
    | none => st.edges
  l.foldlM (fun r e => do
    if r != hNONE then return r
    let o ← otherEnd e v
    return if hSame o u then e else r) hNONE

/-- The edge that `medge` finds, or NONE. A stale first handle gives NONE before the second is looked at (log entry 105). -/
def medgeOf (v u : W32) : MM W32 := do
  if !(← resolve v 0) then return hNONE
  if !(← resolve u 0) then return hNONE
  findEdge v u (some listLimit)

/-- `medge` (R236). -/
def execMedge (g : Guard) (d : BitVec 5) (m : BitVec 2) (b : BitVec 5) (c : BitVec 5) (s : State) : Out :=
  run false false g s fun s => do
    let (s, h) ← s.meshRun m (medgeOf (s.handle b) (s.handle c))
    return (s.setS d (h.setWidth 64)).outcome g (h != hNONE)

/-- `mvalid` (R236). -/
def execMvalid (g : Guard) (d : BitVec 3) (m : BitVec 2) (b : BitVec 5) (s : State) : Out :=
  run false false g s fun s => do
    let h := s.handle b
    let (s, ok) ← s.meshRun m (resolve h (hKind h))
    return s.setP d ok

end Sys2Proof.Machine
end

