-- ==== Sys2Proof/Machine/Topology.lean ====
section
/-! DEFINITION. The topology instructions: claim sets, the build and check of commits, interpolation, and the forms (R67, R237 to
R252, R299 to R312). -/

namespace Sys2Proof.Machine

/-! ### Building records -/

/-- An element as one number, in (kind, index) order. -/
def elKey (k i : Nat) : Nat := k * 2 ^ 24 + i

/-- Notes that the record of an element is written. -/
def mmWrote (k i : Nat) : MM Unit := modify fun w => { w with wrote := setInsert w.wrote (elKey k i) }

/-- Sets a record word. -/
def putWord (k i w : Nat) (v : W32) : MM Unit := do
  mmWrote k i
  modify fun x =>
    let o := wordOff x.m k i w
    { x with recs := (o, v) :: x.recs.filter (·.1 != o) }

/-- Whether the operation has created an element. -/
def isMade (k i : Nat) : MM Bool := fun w => .ok (w.made.contains (elKey k i), w)

/-- Rewrites a slot: left bit for bit when it keeps naming the same element (R239); a new record is written in full. -/
def putSlot (k i w : Nat) (h : W32) : MM Unit := do
  let old ← recWord k i w
  let new ← isMade k i
  if hSame old h && !new then mmWrote k i else putWord k i w h

/-- Rewrites a vertex slot of an edge, with its flags kept (R239). -/
def putEdgeVert (i n : Nat) (h : W32) : MM Unit := do
  let old ← recWord 1 i n
  if hSame (clearFlags old) h then mmWrote 1 i else putWord 1 i n ((h &&& 0x3FFFFFFF) ||| (old &&& 0xC0000000))

/-- Writes words of a record from word `w`. -/
def putWords (k i w : Nat) : List W32 → MM Unit
  | [] => pure ()
  | v :: t => do
    putWord k i w v
    putWords k i (w + 1) t

/-- Rewrites slots of a record from word `w`. -/
def putSlots (k i w : Nat) : List W32 → MM Unit
  | [] => pure ()
  | v :: t => do
    putSlot k i w v
    putSlots k i (w + 1) t

/-- The slots of a record that name neighbours or sides: first word and number (R64). -/
def linkSlots (d3 : Bool) (k : Nat) : Nat × Nat :=
  match k with
  | 1 => (2, if d3 then 1 else 2)
  | 2 => (6, if d3 then 2 else 3)
  | _ => (8, 4)

/-- Whether the mesh has dimension 3. -/
def mmD3 : MM Bool := do
  let m ← mmM
  return mcbDim m == 3

/-- The slot of element `x` (kind `k`) that names `old` among its neighbours or sides now names `new`; NONE has none (R243). -/
def relink (k : Nat) (x old new : W32) : MM Unit := do
  if x = hNONE then return ()
  let d3 ← mmD3
  let (w, n) := linkSlots d3 k
  let l ← recWords k (hIdx x) w n
  let p ← posIn l old
  putSlot k (hIdx x) (w + p) new

/-- The current handle of a live element. -/
def curHandle (k i : Nat) : MM W32 := do
  let g ← genByte k i
  return mkHandle k (g / 4) i

/-- A new element of kind `k` at spawn entry `q` (R231, R239): its handle. Its record starts as zeros, USER of a vertex or an edge among them
(log entry 102). -/
def spawn (k q : Nat) : MM W32 := do
  let m ← mmM
  let e ← mmRead (mcbPool m) (spawnOff m k q) 4
  let i := e % 2 ^ 24
  mmNeed (e / 2 ^ 24 == mcbRound m && i < mcbCap m k) cMESHFMT
  let g ← genByte k i
  mmNeed (g % 4 == 2) cMESHFMT
  putWords k i 0 (List.replicate (recSize k / 4) 0)
  modify fun w => { w with made := setInsert w.made (elKey k i) }
  return mkHandle k (g / 4) i

/-- An element is retired. -/
def retireEl (k : Nat) (h : W32) : MM Unit := modify fun w => { w with gone := setInsert w.gone (elKey k (hIdx h)) }

/-- Whether an element is retired by the operation. -/
def isGone (k : Nat) (h : W32) : MM Bool := fun w => .ok (w.gone.contains (elKey k (hIdx h)), w)

/-! ### Fields (R67) -/

/-- The compute format and the field format of a floating-point field. -/
def fieldFmt (fmt : Nat) : Fmt := if fmt = 4 then f64 else if fmt = 5 then h16 else if fmt = 6 then b16 else f32
def computeFmt (fmt : Nat) : Fmt := if fmt = 4 then f64 else f32

/-- A component as it will stand. -/
def fieldComp (e i c : Nat) : MM Nat := fun w =>
  let o := compOff e i c
  match w.flds.find? (·.1 == o) with
  | some x => .ok (x.2.2, w)
  | none => mmRead (mcbFarea w.m) o (fmtComp (fldFmt e)) w

/-- Sets a component. -/
def putComp (e i c v : Nat) : MM Unit := modify fun w =>
  let o := compOff e i c
  { w with flds := (o, fmtComp (fldFmt e), v) :: w.flds.filter (·.1 != o) }

/-- Raises flags of interpolation. -/
def raise (f : FFlags) : MM Unit := modify fun w => { w with fl := w.fl ||| f }

/-- Rounds a result into a format, as bits, raising its flags. -/
def rnd (f : Fmt) (r : Exact × FFlags) : MM Nat := do
  let (b, fl) := formResult f 0 r.1 r.2
  raise fl
  return b

/-- How the vertex fields of a new vertex, or of the survivor of a collapse, are made. -/
inductive Interp where
  | split (t : Nat) (a b : Nat)
  | refine (ws : List Nat) (vs : List Nat)
  deriving DecidableEq, Repr

/-- 0.5 × fa + 0.5 × fb, computed exactly (R67). -/
def meanOf (a b : FVal) : Exact × FFlags :=
  let (x, fl) := fpAdd 0 a b
  (x.scale (-1), fl)

/-- The refine sum with weights (values of the compute format), after the first term: weights, operands, accumulator. -/
def refineSum (cf ff : Fmt) : List FVal → List FVal → Nat → MM Nat
  | [w], [f], acc => rnd ff (fpFma 0 w f (unpack cf acc))
  | w :: ws, f :: fs, acc => do
    let acc ← rnd cf (fpFma 0 w f (unpack cf acc))
    refineSum cf ff ws fs acc
  | _, _, acc => pure acc

/-- 1 / n in the compute format; its rounding raises no flag (R67). -/
def oneOver (f : Fmt) (n : Nat) : FVal := unpack f (roundExact f 0 (.rat false 1 n)).1

/-- One component of a vertex field by rule LINEAR (mean = false) or MEAN (R67). -/
def interpComp (e c : Nat) (mean : Bool) : Interp → MM Nat
  | .split t a b => do
    let ff := fieldFmt (fldFmt e)
    let cf := computeFmt (fldFmt e)
    let fa := unpack ff (← fieldComp e a c)
    let fb := unpack ff (← fieldComp e b c)
    if mean then rnd ff (meanOf fa fb)
    else
      let d ← rnd cf (fpSub 0 fb fa)
      rnd ff (fpFma 0 (unpack f32 t) (unpack cf d) fa)
  | .refine ws vs => do
    let ff := fieldFmt (fldFmt e)
    let cf := computeFmt (fldFmt e)
    let fs ← vs.mapM fun v => do
      let x ← fieldComp e v c
      return unpack ff x
    let n := vs.length
    let w := if mean then List.replicate n (oneOver cf n) else ws.map (unpack f32)
    match w, fs with
    | w0 :: wr, f0 :: fr => do
      let acc ← rnd cf (fpMul w0 f0)
      refineSum cf ff wr fr acc
    | _, _ => return 0

/-- The valid fields of kind `k`. -/
def fieldsOf (m : Bytes) (k : Nat) : List Nat := ((List.range 16).map (mcbField m)).filter fun e => fldValid e && fldKind e == k

/-- Writes every field of a new element: vertex fields by `ip`, INHERIT from the parent, else NONE's value (R67, R239). -/
def newFields (k i : Nat) (ip : Option Interp) (parent : Option Nat) : MM Unit := do
  let m ← mmM
  (fieldsOf m k).forM fun e => (List.range (fmtCount (fldFmt e))).forM fun c => do
    let v ← match fldRule e, ip, parent with
      | 2, some p, _ => interpComp e c false p
      | 3, some p, _ => interpComp e c true p
      | 4, _, some q => fieldComp e q c
      | _, _, _ => pure 0
    putComp e i c v

/-! ### Forms of the operations -/

/-- The operations (R245). -/
inductive TopoOp where
  | split (t : Nat) | coll (v1 : Bool) | flip | refine (ws : List Nat)
  deriving DecidableEq, Repr

/-- The forms (R237). -/
inductive TopoForm where
  | plain | claim | commit
  deriving DecidableEq, Repr

/-- A claim set in ascending (kind, index) order, and whether the operation is refused. -/
abbrev Claims := NatSet × Bool

/-- Adds handles of kind `k`. -/
def claimAll (k : Nat) (l : List W32) (s : NatSet) : NatSet := l.foldl (fun s h => if h = hNONE then s else setInsert s (elKey k (hIdx h))) s

/-- Adds a star with its vertex. -/
def claimStar (v : W32) (st : Star) (s : NatSet) : NatSet :=
  claimAll 3 st.cells (claimAll 2 st.faces (claimAll 1 st.edges (claimAll 0 [v] s)))

/-- The limit of a star in a claim set (R244). -/
def starLimit : Nat := 64

/-- Whether a star exceeds it. -/
def Star.large (d3 : Bool) (st : Star) : Bool := starLimit < (if d3 then st.cells else st.faces).length

/-- FIXED of an edge, a face, a vertex (R64). -/
def edgeFixed (h : W32) : MM Bool := do
  let w ← recWord 1 (hIdx h) 0
  return w != hNONE && w.getLsbD 31
def faceFixed (h : W32) : MM Bool := do
  if h = hNONE then return false
  let d3 ← mmD3
  let w ← recWord 2 (hIdx h) (if d3 then 8 else 9)
  return w.getLsbD 0
def vertFixed (h : W32) : MM Bool := do
  let w ← recWord 0 (hIdx h) 1
  return w.getLsbD 0

/-- Whether a check holds of some handle of a list. -/
def anyM' (l : List W32) (f : W32 → MM Bool) : MM Bool := l.foldlM (fun b h => do
  let x ← f h
  return b || x) false

/-- The faces around an edge: the sides in dimension 2 that are not NONE, the ring faces in dimension 3; with the ring cells. -/
def around (e : W32) : MM Ring := do
  if ← mmD3 then ringOf e
  else
    let l ← edgeFaces (hIdx e)
    return ⟨l.filter (· != hNONE), [], true⟩

/-- The edge of face `f` that joins the two vertices other than `v`. -/
def edgeOpposite (f v : W32) : MM W32 := do
  let vs ← vertsOf 2 (← named f)
  let es ← faceEdges (hIdx f)
  let p ← posIn vs v
  return atPos es p

/-- The face of cell `x` without vertex `v`, and the cell across it. -/
def cellOpposite (x v : W32) : MM (W32 × W32) := do
  let vs ← vertsOf 3 (← named x)
  let fs ← cellFaces (hIdx x)
  let ns ← nbrsOf 3 (hIdx x)
  let p ← posIn vs v
  return (atPos fs p, atPos ns p)

/-- The third vertex of a face on the edge (a, b). -/
def thirdVertex (f a b : W32) : MM W32 := do
  let vs ← vertsOf 2 (← named f)
  match vs.filter fun v => !hSame v a && !hSame v b with
  | [c] => return c
  | _ => mmFault cNONMANIFOLD

/-- Every edge of a cell, through its faces. -/
def cellEdges (x : W32) : MM (List W32) := do
  let fs ← cellFaces (← named x)
  fs.foldlM (fun l f => do
    let es ← faceEdges (← named f)
    return es.foldl addHandle l) []

/-- The edges of several cells. -/
def edgesOfCells (l : List W32) : MM (List W32) := l.foldlM (fun acc x => do
  let es ← cellEdges x
  return es.foldl addHandle acc) []

/-! ### Split (R245, R247) -/

/-- The claim set of `msplit`. In dimension 3 an edge whose anchor cell is NONE faults NONMANIFOLD here already (log entry 101). -/
def splitClaims (e : W32) : MM Claims := do
  let d3 ← mmD3
  let ab ← edgeVerts (hIdx e)
  let a := atPos ab 0
  let b := atPos ab 1
  let r ← around e
  if d3 && r.cells.isEmpty then mmFault cNONMANIFOLD
  let s := claimAll 0 [a, b] (claimAll 1 [e] (claimAll 2 r.faces (claimAll 3 r.cells [])))
  let s ← r.faces.foldlM (fun s f => do
    let c ← thirdVertex f a b
    let eb ← edgeOpposite f a
    let s := claimAll 0 [c] (claimAll 1 [eb] s)
    if d3 then return s
    else
      let ns ← nbrsOf 2 (hIdx f)
      let vs ← vertsOf 2 (hIdx f)
      let p ← posIn vs a
      return claimAll 2 [atPos ns p] s) s
  let s ← r.cells.foldlM (fun s x => do
    let (f, y) ← cellOpposite x a
    return claimAll 2 [f] (claimAll 3 [y] s)) s
  return (s, d3 && 8 < r.cells.length)

/-- The b-part that stands for a face or cell, or NONE. -/
def partOf (olds news : List W32) (h : W32) : W32 :=
  match posOf olds h with
  | some j => atPos news j
  | none => hNONE

/-- Copies FATTR and USER of a face. -/
def copyAttr (d3 : Bool) (src dst : W32) : MM Unit := do
  let w := if d3 then 8 else 9
  let l ← recWords 2 (hIdx src) w (12 - w)
  putWords 2 (hIdx dst) w l

/-- The commit of `msplit` (R247): spawn slot `j`; the result handle. -/
def splitCommit (t : Nat) (e : W32) (j : Nat) : MM W32 := do
  let m ← mmM
  let d3 ← mmD3
  let q (k : Nat) : Nat := j * quota (mcbDim m) k
  let ab ← edgeVerts (hIdx e)
  let a := atPos ab 0
  let b := atPos ab 1
  let r ← around e
  let fs2 ← if d3 then pure [] else edgeFaces (hIdx e)
  let sides := if d3 then List.range r.faces.length else (List.range 2).filter fun s => atPos fs2 s != hNONE
  let w ← spawn 0 (q 0)
  let e1 ← spawn 1 (q 1)
  let gs ← sides.mapM fun s => spawn 1 (q 1 + 1 + s)
  let bs ← sides.mapM fun s => spawn 2 (q 2 + s)
  let cs ← (List.range r.cells.length).mapM fun c => spawn 3 (q 3 + c)
  let is ← (List.range r.cells.length).mapM fun c => spawn 2 (q 2 + 9 + c)
  newFields 0 (hIdx w) (some (.split t (hIdx a) (hIdx b))) none
  -- faces
  (List.range r.faces.length).forM fun n => do
    let f := atPos r.faces n
    let gp := atPos bs n
    let g := atPos gs n
    let vs ← vertsOf 2 (hIdx f)
    let es ← faceEdges (hIdx f)
    let al ← posIn vs a
    let be ← posIn vs b
    let i ← posIn es e
    mmNeed (al + be + i == 3 && al != be && i != al && i != be) cNONMANIFOLD
    let c := atPos vs i
    let eb := atPos es al
    putSlot 2 (hIdx f) be w
    putSlot 2 (hIdx f) (3 + al) g
    putWords 2 (hIdx gp) 0 (vs.set al w)
    putWords 2 (hIdx gp) 3 (((es.set i e1).set al eb).set be g)
    copyAttr d3 f gp
    newFields 2 (hIdx gp) none (some (hIdx f))
    putWords 1 (hIdx g) 0 [w, c]
    newFields 1 (hIdx g) none none
    if d3 then
      let cc ← faceCells (hIdx f)
      putWords 2 (hIdx gp) 6 (cc.map (partOf r.cells cs))
      putWord 1 (hIdx g) 2 hNONE
    else
      let ns ← nbrsOf 2 (hIdx f)
      let x := atPos ns al
      relink 1 eb f gp
      putWords 1 (hIdx g) 2 [f, gp]
      putSlot 2 (hIdx f) (6 + al) gp
      let other := atPos bs (1 - n)
      putWords 2 (hIdx gp) 6 (((ns.set i other).set al x).set be f)
      relink 2 x f gp
  -- cells
  (List.range r.cells.length).forM fun n => do
    let x := atPos r.cells n
    let xb := atPos cs n
    let y := atPos is n
    let vs ← vertsOf 3 (hIdx x)
    let fs ← cellFaces (hIdx x)
    let ns ← nbrsOf 3 (hIdx x)
    let al ← posIn vs a
    let be ← posIn vs b
    let fa := atPos fs al
    let na := atPos ns al
    mmNeed ((List.range 4).all fun k => k == al || k == be || (posOf r.faces (atPos fs k)).isSome) cNONMANIFOLD
    putWords 3 (hIdx xb) 0 (vs.set al w)
    putWords 3 (hIdx xb) 4 ((List.range 4).map fun k => if k = al then fa else if k = be then y else partOf r.faces bs (atPos fs k))
    putWords 3 (hIdx xb) 8 ((List.range 4).map fun k => if k = al then na else if k = be then x else partOf r.cells cs (atPos ns k))
    relink 2 fa x xb
    relink 3 na x xb
    putSlot 3 (hIdx x) be w
    putSlot 3 (hIdx x) (4 + al) y
    putSlot 3 (hIdx x) (8 + al) xb
    let iv := (vs.set be w).eraseIdx al
    putWords 2 (hIdx y) 0 iv
    -- its edges: opposite w the old edge of the two other vertices, else the new edge of the ring face with the third vertex
    let old ← edgeOpposite fa b
    let ie ← (List.range 3).mapM fun p => do
      if hSame (atPos iv p) w then return old
      else
        let u := (iv.eraseIdx p).filter fun h => !hSame h w
        (List.range r.faces.length).foldlM (fun g f => do
          let c ← recWord 1 (hIdx (atPos gs f)) 1
          return if hSame c (atPos u 0) then atPos gs f else g) hNONE
    putWords 2 (hIdx y) 3 ie
    putWords 2 (hIdx y) 6 (if al % 2 = 0 then [x, xb] else [xb, x])
    newFields 2 (hIdx y) none none
    newFields 3 (hIdx xb) none (some (hIdx x))
  -- edges and vertex
  let ew ← recWords 1 (hIdx e) 0 4
  putWords 1 (hIdx e1) 0 [w ||| (atPos ew 0 &&& 0xC0000000), b]
  putEdgeVert (hIdx e) 1 w
  if d3 then putWord 1 (hIdx e1) 2 hNONE
  else putWords 1 (hIdx e1) 2 ((List.range 2).map fun s => match sides.findIdx? (· == s) with
    | some n => atPos bs n
    | none => hNONE)
  newFields 1 (hIdx e1) none (some (hIdx e))
  putWords 0 (hIdx w) 0 [e1, 0, 0, 0]
  return w

/-! ### Collapse (R243, R245, R248) -/

/-- The survivor and the removed vertex. -/
def collEnds (e : W32) (v1 : Bool) : MM (W32 × W32) := do
  let ab ← edgeVerts (hIdx e)
  return if v1 then (atPos ab 1, atPos ab 0) else (atPos ab 0, atPos ab 1)

/-- The vertices joined to `v`, through the edges of its star. -/
def joined (v : W32) (st : Star) : MM (List W32) := st.edges.mapM fun e => otherEnd e v

/-- The claim set of `mcoll`. -/
def collClaims (e : W32) (v1 : Bool) : MM Claims := do
  let d3 ← mmD3
  let (a, b) ← collEnds e v1
  let sb ← starOf b starLimit
  let sa ← starOf a starLimit
  let fixed ← edgeFixed e
  let bfixed ← vertFixed b
  if fixed || bfixed || sa.large d3 || sb.large d3 then return ([], true)
  let na ← joined a sa
  let nb ← joined b sb
  let s := claimStar b sb (claimStar a sa (claimAll 1 [e] (claimAll 0 (na ++ nb) [])))
  let r ← around e
  let s ← r.faces.foldlM (fun s f => do
    let tw ← edgeOpposite f b
    let s := claimAll 1 [tw] s
    if d3 then return s
    else
      let vs ← vertsOf 2 (hIdx f)
      let ns ← nbrsOf 2 (hIdx f)
      let p ← posIn vs b
      return claimAll 2 [atPos ns p] s) s
  let s ← r.cells.foldlM (fun s x => do
    let (f, y) ← cellOpposite x b
    return claimAll 2 [f] (claimAll 3 [y] s)) s
  return (s, false)

/-- Whether every handle of one list is named by another. -/
def allIn (l k : List W32) : Bool := l.all fun x => k.any (hSame x)

/-- The link condition in dimension 3 for pairs (R243). -/
def linkPairs (a b : W32) (sa sb : Star) (cells : List W32) : MM Bool := do
  let pair (v : W32) (f : W32) : MM (List W32) := do
    let vs ← vertsOf 2 (hIdx f)
    return vs.filter fun x => !hSame x v
  let pa ← sa.faces.mapM (pair a)
  let pb ← sb.faces.mapM (pair b)
  let cs ← cells.mapM fun c => vertsOf 3 (hIdx c)
  let inner (v : W32) (p : List W32) : Bool := p.any (hSame v)
  return (pa.filter fun p => !inner b p).all fun p => (pb.filter fun q => !inner a q).all fun q =>
    !(allIn p q && allIn q p) || cs.any fun c => allIn p c

/-- Whether some edge (dimension 2) or face (dimension 3) of a list has NONE in its slot 1 (R243). -/
def openSide (d3 : Bool) (l : List W32) : MM Bool := anyM' l fun h => do
  let w ← recWord (if d3 then 2 else 1) (hIdx h) (if d3 then 7 else 3)
  return w == hNONE

/-- The twin of a retired element, or the handle itself. -/
def twinOf (tw : List (W32 × W32)) (h : W32) : W32 := ((tw.find? fun x => hSame x.1 h).map (·.2)).getD h

/-- Renames slots of a record: vertex b to a, retired edges or faces to their twins (R248). -/
def renameRec (a b : W32) (tw : List (W32 × W32)) (k i : Nat) : MM Unit := do
  match k with
  | 1 =>
    let vs ← edgeVerts i
    match posOf vs b with
    | some p => putEdgeVert i p a
    | none => pure ()
  | _ =>
    let n := if k = 3 then 4 else 3
    let vs ← vertsOf k i
    match posOf vs b with
    | some p => putSlot k i p a
    | none => pure ()
    let ss ← recWords k i n n
    (List.range n).forM fun j => if twinOf tw (atPos ss j) = atPos ss j then pure () else putSlot k i (n + j) (twinOf tw (atPos ss j))

/-- A retired face holds `e` where the edge of its other two vertices stands (R243). -/
def holdsEdge (e a b f : W32) : MM Unit := do
  let vs ← vertsOf 2 (hIdx f)
  let es ← faceEdges (hIdx f)
  let al ← posIn vs a
  let be ← posIn vs b
  let i ← posIn es e
  mmNeed (al + be + i == 3 && al != be && i != al && i != be) cNONMANIFOLD

/-- A retired cell holds, opposite each end of the edge, the face of its other vertices (R243). -/
def holdsFaces (ends : List W32) (x : W32) : MM Unit := do
  let vs ← vertsOf 3 (hIdx x)
  ends.forM fun v => do
    let (f, _) ← cellOpposite x v
    let fv ← vertsOf 2 (hIdx f)
    mmNeed (allIn fv (vs.filter fun u => !hSame u v)) cNONMANIFOLD

/-- The commit of `mcoll` (R248): the survivor, and the faces or cells around it when its coordinates change. In dimension 2 a face that is
renamed may not become a second face on the same vertices (R243). -/
def collCommit (e : W32) (v1 : Bool) : MM (W32 × List W32 × List W32) := do
  let m ← mmM
  let d3 ← mmD3
  let (a, b) ← collEnds e v1
  let sb ← starOf b starLimit
  let sa ← starOf a starLimit
  let na ← joined a sa
  let nb ← joined b sb
  let r ← around e
  let thirds ← r.faces.mapM fun f => thirdVertex f a b
  let both := na.filter fun x => nb.any (hSame x)
  let pairs ← if d3 then linkPairs a b sa sb r.cells else pure true
  let bOpen ← openSide d3 (if d3 then sb.faces else sb.edges)
  let eOpen ← openSide d3 (if d3 then r.faces else [e])
  let inner (l : List W32) : List W32 := l.filter fun f => !r.faces.any (hSame f)
  let twice ← if d3 then pure false else anyM' (inner sb.faces) fun f => do
    let vs ← vertsOf 2 (hIdx f)
    anyM' (inner sa.faces) fun q => do
      let us ← vertsOf 2 (hIdx q)
      return allIn (vs.filter fun v => !hSame v b) us
  mmNeed (allIn both thirds && pairs && (!bOpen || eOpen) && !twice) cNONMANIFOLD
  r.faces.forM (holdsEdge e a b)
  r.cells.forM (holdsFaces [a, b])
  let oldEdges ← edgesOfCells r.cells
  let te ← r.faces.mapM fun f => do
    let x ← edgeOpposite f a
    let y ← edgeOpposite f b
    return (x, y)
  let tf ← r.cells.mapM fun c => do
    let x ← cellOpposite c a
    let y ← cellOpposite c b
    return (x.1, y.1)
  retireEl 0 b
  retireEl 1 e
  r.faces.forM (retireEl 2)
  r.cells.forM (retireEl 3)
  te.forM fun x => retireEl 1 x.1
  tf.forM fun x => retireEl 2 x.1
  if d3 then
    r.cells.forM fun x => do
      let (_, q) ← cellOpposite x a
      let (fa, p) ← cellOpposite x b
      relink 3 p x q
      relink 3 q x p
      relink 2 fa x q
  else
    r.faces.forM fun f => do
      let vs ← vertsOf 2 (hIdx f)
      let ns ← nbrsOf 2 (hIdx f)
      let pb := atPos ns (← posIn vs a)
      let pa := atPos ns (← posIn vs b)
      let tw ← edgeOpposite f b
      relink 2 pa f pb
      relink 2 pb f pa
      relink 1 tw f pb
  let keep (k : Nat) (l : List W32) : MM (List W32) := l.filterM fun h => do
    let g ← isGone k h
    return !g
  let es ← keep 1 sb.edges
  let fs ← keep 2 sb.faces
  let cs ← keep 3 sb.cells
  es.forM fun h => renameRec a b te 1 (hIdx h)
  fs.forM fun h => renameRec a b te 2 (hIdx h)
  cs.forM fun h => renameRec a b tf 3 (hIdx h)
  (na ++ nb).forM fun v => do
    let g ← isGone 0 v
    let h ← recWord 0 (hIdx v) 0
    if !g && h != hNONE && twinOf te h != h then putSlot 0 (hIdx v) 0 (twinOf te h)
  mmWrote 0 (hIdx a)
  (fieldsOf m 0).forM fun f => if fldRule f = 3 then
      (List.range (fmtCount (fldFmt f))).forM fun c => do
        let v ← interpComp f c true (.split 0 (hIdx a) (hIdx b))
        putComp f (hIdx a) c v
    else pure ()
  let moved := fldValid (mcbField m (mcbCoord m)) && fldRule (mcbField m (mcbCoord m)) == 3
  let near ← keep (if d3 then 3 else 2) (if d3 then sa.cells else sa.faces)
  return (a, if moved then near else [], oldEdges)

/-! ### Flips (R249 to R251) -/

/-- The quantities of R249. -/
structure FlipGeo where
  f0 : W32
  f1 : W32
  a  : W32
  b  : W32
  c0 : W32
  c1 : W32
  ea0 : W32
  eb0 : W32
  ea1 : W32
  eb1 : W32
  na0 : W32
  nb0 : W32
  na1 : W32
  nb1 : W32
  cyclic : Bool
  deriving DecidableEq, Repr

/-- Reads them for edge `e` between two faces. -/
def flipGeo (e f0 f1 : W32) : MM FlipGeo := do
  let v0 ← vertsOf 2 (hIdx f0)
  let e0 ← faceEdges (hIdx f0)
  let n0 ← nbrsOf 2 (hIdx f0)
  let v1 ← vertsOf 2 (hIdx f1)
  let e1 ← faceEdges (hIdx f1)
  let n1 ← nbrsOf 2 (hIdx f1)
  let i ← posIn e0 e
  let j ← posIn e1 e
  let a := atPos v0 ((i + 1) % 3)
  let b := atPos v0 ((i + 2) % 3)
  let pa ← posIn v1 a
  let pb ← posIn v1 b
  return ⟨f0, f1, a, b, atPos v0 i, atPos v1 j, atPos e0 ((i + 2) % 3), atPos e0 ((i + 1) % 3), atPos e1 pb, atPos e1 pa,
    atPos n0 ((i + 2) % 3), atPos n0 ((i + 1) % 3), atPos n1 pb, atPos n1 pa, pa == (pb + 1) % 3 && j == (pb + 2) % 3⟩

/-- The lower-indexed of two vertices. -/
def lower (x y : W32) : W32 := if hIdx x ≤ hIdx y then x else y

/-- The claim set of a flip in dimension 2 (R249). -/
def flip2Claims (e : W32) : MM Claims := do
  let fs ← edgeFaces (hIdx e)
  if fs.any (· == hNONE) then return ([], true)
  let g ← flipGeo e (atPos fs 0) (atPos fs 1)
  let st ← starOf (lower g.c0 g.c1) starLimit
  let fixE ← anyM' [e, g.ea1, g.eb0] edgeFixed
  let fixF ← anyM' [g.f0, g.f1, g.na1, g.nb0] faceFixed
  let s := claimAll 1 [e, g.ea1, g.eb0, g.ea0, g.eb1] (claimAll 2 [g.f0, g.f1, g.na1, g.nb0] (claimAll 0 [g.a, g.b, g.c0, g.c1] []))
  return (claimStar (lower g.c0 g.c1) st s, fixE || fixF || st.large false)

/-- The commit of a flip in dimension 2 (R249). -/
def flip2Commit (e : W32) : MM W32 := do
  let fs ← edgeFaces (hIdx e)
  mmNeed (!fs.any (· == hNONE)) cNONMANIFOLD
  let g ← flipGeo e (atPos fs 0) (atPos fs 1)
  mmNeed (g.cyclic && !hSame g.c0 g.c1) cNONMANIFOLD
  let dup ← findEdge (lower g.c0 g.c1) (if hIdx g.c0 ≤ hIdx g.c1 then g.c1 else g.c0) none
  mmNeed (dup == hNONE) cNONMANIFOLD
  putSlots 2 (hIdx g.f0) 0 [g.a, g.c1, g.c0, e, g.ea0, g.ea1, g.f1, g.na0, g.na1]
  putSlots 2 (hIdx g.f1) 0 [g.b, g.c0, g.c1, e, g.eb1, g.eb0, g.f0, g.nb1, g.nb0]
  putEdgeVert (hIdx e) 0 g.c0
  putEdgeVert (hIdx e) 1 g.c1
  relink 1 g.ea1 g.f1 g.f0
  relink 2 g.na1 g.f1 g.f0
  relink 1 g.eb0 g.f0 g.f1
  relink 2 g.nb0 g.f0 g.f1
  return e

/-- The vertex of a cell that a face does not hold. -/
def apexOf (x : W32) (vs : List W32) : MM W32 := do
  let l ← vertsOf 3 (← named x)
  match l.filter fun v => !vs.any (hSame v) with
  | [v] => return v
  | _ => mmFault cNONMANIFOLD

/-- The claim set of a 2–3 flip (R250). -/
def flip23Claims (y : W32) : MM Claims := do
  let cc ← faceCells (hIdx y)
  if cc.any (· == hNONE) then return ([], true)
  let x0 := atPos cc 0
  let x1 := atPos cc 1
  let vs ← vertsOf 2 (hIdx y)
  let s0 ← apexOf x0 vs
  let s1 ← apexOf x1 vs
  let as ← vs.mapM (cellOpposite x0)
  let bs ← vs.mapM (cellOpposite x1)
  let es ← edgesOfCells [x0, x1]
  let st ← starOf (lower s0 s1) starLimit
  let faces := y :: (as ++ bs).map (·.1)
  let fixE ← anyM' es edgeFixed
  let fixF ← anyM' faces faceFixed
  let s := claimAll 1 es (claimAll 2 faces (claimAll 3 (x0 :: x1 :: (as ++ bs).map (·.2)) []))
  return (claimStar (lower s0 s1) st s, fixE || fixF || st.large true)

/-- The commit of a 2–3 flip (R250): the new edge, and the edges of the old cells. -/
def flip23Commit (y : W32) (j : Nat) : MM (W32 × List W32) := do
  let cc ← faceCells (hIdx y)
  let x0 := atPos cc 0
  let x1 := atPos cc 1
  let vs ← vertsOf 2 (hIdx y)
  let s0 ← apexOf x0 vs
  let s1 ← apexOf x1 vs
  let as ← vs.mapM (cellOpposite x0)
  let bs ← vs.mapM (cellOpposite x1)
  let es ← edgesOfCells [x0, x1]
  let dup ← findEdge (lower s0 s1) (if hIdx s0 ≤ hIdx s1 then s1 else s0) none
  mmNeed (dup == hNONE && !hSame s0 s1) cNONMANIFOLD
  let y0 ← cellOpposite x0 s0
  let y1 ← cellOpposite x1 s1
  mmNeed (hSame y0.1 y && hSame y0.2 x1 && hSame y1.1 y && hSame y1.2 x0) cNONMANIFOLD
  let third (k : Nat) : Nat := (k + 2) % 3
  let spoke (l : List (W32 × W32)) (k : Nat) : MM W32 := edgeOpposite ((l.getD ((k + 1) % 3) (hNONE, hNONE)).1) (atPos vs (third k))
  let e0 ← (List.range 3).mapM (spoke as)
  let e1 ← (List.range 3).mapM (spoke bs)
  let t2 ← spawn 3 (j * quota 3 3)
  let e ← spawn 1 (j * quota 3 1)
  let i1 ← spawn 2 (j * quota 3 2)
  let i2 ← spawn 2 (j * quota 3 2 + 1)
  let ts := [x0, x1, t2]
  let is := [y, i1, i2]
  let a (k : Nat) : W32 × W32 := as.getD k (hNONE, hNONE)
  let b (k : Nat) : W32 × W32 := bs.getD k (hNONE, hNONE)
  [i1, i2].forM fun i => do
    copyAttr true y i
    newFields 2 (hIdx i) none (some (hIdx y))
  newFields 3 (hIdx t2) none (some (hIdx x0))
  newFields 1 (hIdx e) none none
  (List.range 3).forM fun k => do
    let t := atPos ts k
    putSlots 3 (hIdx t) 0 (vs.set k s0 ++ [s1]
      ++ (List.range 3).map (fun j => if j = k then (b k).1 else atPos is (3 - j - k)) ++ [(a k).1]
      ++ (List.range 3).map (fun j => if j = k then (b k).2 else atPos ts j) ++ [(a k).2])
    putSlots 2 (hIdx (atPos is k)) 0 [s0, s1, atPos vs k, atPos e1 k, atPos e0 k, e, atPos ts ((k + 1) % 3), atPos ts ((k + 2) % 3)]
    relink 2 (a k).1 x0 t
    relink 3 (a k).2 x0 t
    relink 2 (b k).1 x1 t
    relink 3 (b k).2 x1 t
  putWords 1 (hIdx e) 0 [s0, s1, hNONE]
  return (e, es)

/-- Whether (s0, q, r, s1) is an even permutation of the vertices of a cell. -/
def evenPerm (vs : List W32) (l : List W32) : Bool :=
  let p := l.map fun h => (posOf vs h).getD 0
  let inv := (List.range 4).foldl (fun n i => (List.range i).foldl (fun n j => if p.getD i 0 < p.getD j 0 then n + 1 else n) n) 0
  inv % 2 == 0

/-- The quantities of R251: s0, s1, p, q, r, the cells T_k, the faces I_k, and A_k, B_k with the cells across them. -/
structure Flip32 where
  s0 : W32
  s1 : W32
  p  : W32
  q  : W32
  r  : W32
  ts : List W32
  is : List W32
  as : List (W32 × W32)
  bs : List (W32 × W32)
  deriving DecidableEq, Repr

/-- The cell of a list that holds two vertices. -/
def cellWith (l : List W32) (u v : W32) : MM W32 := do
  let r ← l.filterM fun c => do
    let vs ← vertsOf 3 (hIdx c)
    return vs.any (hSame u) && vs.any (hSame v)
  match r with
  | [c] => return c
  | _ => mmFault cNONMANIFOLD

/-- Reads them from a closed ring of three cells. -/
def flip32Geo (e : W32) (g : Ring) : MM Flip32 := do
  let ab ← edgeVerts (hIdx e)
  let s0 := atPos ab 0
  let s1 := atPos ab 1
  let t0 := atPos g.cells 0
  let v0 ← vertsOf 3 (hIdx t0)
  match v0.filter fun v => !hSame v s0 && !hSame v s1 with
  | [x, y] => do
    let (q, r) := if evenPerm v0 [s0, x, y, s1] then (x, y) else (y, x)
    let p ← apexOf (atPos g.cells 1) [s0, s1, q, r]
    let t1 ← cellWith (g.cells.drop 1) r p
    let t2 ← cellWith (g.cells.drop 1) p q
    let ts := [t0, t1, t2]
    let thirds ← g.faces.mapM fun f => do
      let c ← thirdVertex f s0 s1
      return (f, c)
    let face (v : W32) : MM W32 := match thirds.find? fun x => hSame x.2 v with
      | some x => pure x.1
      | none => mmFault cNONMANIFOLD
    let is ← [p, q, r].mapM face
    let as ← ts.mapM fun t => cellOpposite t s1
    let bs ← ts.mapM fun t => cellOpposite t s0
    return ⟨s0, s1, p, q, r, ts, is, as, bs⟩
  | _ => mmFault cNONMANIFOLD

/-- The claim set of a 3–2 flip (R251), with the ring faces that it reads (R238). -/
def flip32Claims (e : W32) : MM Claims := do
  let g ← ringOf e
  if !g.closed || g.cells.length != 3 then return ([], true)
  let x ← flip32Geo e g
  let es ← edgesOfCells x.ts
  let st ← starOf x.p starLimit
  let faces := x.is ++ (x.as ++ x.bs).map (·.1)
  let fixE ← anyM' es edgeFixed
  let fixF ← anyM' faces faceFixed
  let s := claimAll 1 (e :: es) (claimAll 2 faces (claimAll 3 (x.ts ++ (x.as ++ x.bs).map (·.2)) []))
  return (claimStar x.p st s, fixE || fixF || st.large true)

/-- The commit of a 3–2 flip (R251): the face Y, and the edges of the old cells. -/
def flip32Commit (e : W32) : MM (W32 × List W32) := do
  let g ← ringOf e
  mmNeed (g.closed && g.cells.length == 3) cNONMANIFOLD
  let x ← flip32Geo e g
  let es ← edgesOfCells x.ts
  let m ← mmM
  let st ← starOf x.p (mcbCap m 3)
  let dup ← anyM' st.faces fun f => do
    let vs ← vertsOf 2 (hIdx f)
    return allIn [x.q, x.r] vs
  mmNeed (!dup) cNONMANIFOLD
  let x0 := atPos x.ts 0
  let x1 := atPos x.ts 1
  let y := atPos x.is 0
  let a (k : Nat) : W32 × W32 := x.as.getD k (hNONE, hNONE)
  let b (k : Nat) : W32 × W32 := x.bs.getD k (hNONE, hNONE)
  let ye ← (List.range 3).mapM fun k => edgeOpposite (a k).1 x.s0
  retireEl 1 e
  retireEl 3 (atPos x.ts 2)
  retireEl 2 (atPos x.is 1)
  retireEl 2 (atPos x.is 2)
  putSlots 3 (hIdx x0) 0 [x.q, x.p, x.r, x.s0, (a 1).1, (a 0).1, (a 2).1, y, (a 1).2, (a 0).2, (a 2).2, x1]
  putSlots 3 (hIdx x1) 0 [x.p, x.q, x.r, x.s1, (b 0).1, (b 1).1, (b 2).1, y, (b 0).2, (b 1).2, (b 2).2, x0]
  putSlots 2 (hIdx y) 0 ([x.p, x.q, x.r] ++ ye ++ [x0, x1])
  (List.range 3).forM fun k => do
    let t := atPos x.ts k
    relink 2 (a k).1 t x0
    relink 3 (a k).2 t x0
    relink 2 (b k).1 t x1
    relink 3 (b k).2 t x1
  return (y, es)

/-! ### Refinement (R245, R252) -/

/-- The claim set of `mrefine`. -/
def refineClaims (x : W32) : MM Claims := do
  let d3 ← mmD3
  let k := if d3 then 3 else 2
  let vs ← vertsOf k (hIdx x)
  let ss ← if d3 then cellFaces (hIdx x) else faceEdges (hIdx x)
  let ns ← nbrsOf k (hIdx x)
  return (claimAll k (x :: ns.drop 1) (claimAll (k - 1) ss (claimAll 0 vs [])), false)

/-- The commit of `mrefine` in dimension 2. -/
def refine2Commit (ws : List Nat) (f : W32) (j : Nat) : MM W32 := do
  let vs ← vertsOf 2 (hIdx f)
  let es ← faceEdges (hIdx f)
  let ns ← nbrsOf 2 (hIdx f)
  let w ← spawn 0 (j * quota 2 0)
  let gs ← (List.range 3).mapM fun m => spawn 1 (j * quota 2 1 + m)
  let f1 ← spawn 2 (j * quota 2 2)
  let f2 ← spawn 2 (j * quota 2 2 + 1)
  let sub := [f, f1, f2]
  newFields 0 (hIdx w) (some (.refine ws (vs.map hIdx))) none
  [f1, f2].forM fun h => do
    copyAttr false f h
    newFields 2 (hIdx h) none (some (hIdx f))
  (List.range 3).forM fun m => do
    let h := atPos sub m
    putSlots 2 (hIdx h) 0 (vs.set m w
      ++ (List.range 3).map (fun k => if k = m then atPos es m else atPos gs (3 - m - k))
      ++ (List.range 3).map (fun k => if k = m then atPos ns m else atPos sub k))
    let others := (List.range 3).filter (· != m)
    putWords 1 (hIdx (atPos gs m)) 0 ([w, atPos vs m] ++ others.map (atPos sub))
    newFields 1 (hIdx (atPos gs m)) none none
    if m = 0 then pure ()
    else
      relink 1 (atPos es m) f h
      relink 2 (atPos ns m) f h
  putWords 0 (hIdx w) 0 [atPos gs 0, 0, 0, 0]
  return w

/-- The pairs of R246, in the order of their spawn offsets. -/
def refinePairs : List (Nat × Nat) := [(0, 1), (0, 2), (0, 3), (1, 2), (1, 3), (2, 3)]

/-- The commit of `mrefine` in dimension 3: the new vertex and the edges of the old cell. -/
def refine3Commit (ws : List Nat) (x : W32) (j : Nat) : MM (W32 × List W32) := do
  let vs ← vertsOf 3 (hIdx x)
  let fs ← cellFaces (hIdx x)
  let ns ← nbrsOf 3 (hIdx x)
  let es ← edgesOfCells [x]
  let w ← spawn 0 (j * quota 3 0)
  let gs ← (List.range 4).mapM fun m => spawn 1 (j * quota 3 1 + m)
  let hs ← (List.range 6).mapM fun m => spawn 2 (j * quota 3 2 + m)
  let cs ← (List.range 3).mapM fun m => spawn 3 (j * quota 3 3 + m)
  let sub := x :: cs
  let hOf (a b : Nat) : W32 := atPos hs ((refinePairs.findIdx? (· == (min a b, max a b))).getD 0)
  newFields 0 (hIdx w) (some (.refine ws (vs.map hIdx))) none
  cs.forM fun h => newFields 3 (hIdx h) none (some (hIdx x))
  (List.range 6).forM fun n => do
    let (a, b) := refinePairs.getD n (0, 0)
    let h := atPos hs n
    let iv := (vs.set a w).eraseIdx b
    let old ← edgeOpposite (atPos fs a) (atPos vs b)
    let ie := (List.range 3).map fun p =>
      if hSame (atPos iv p) w then old
      else
        let u := (iv.eraseIdx p).filter fun v => !hSame v w
        atPos gs ((posOf vs (atPos u 0)).getD 0)
    putWords 2 (hIdx h) 0 (iv ++ ie ++ (if b % 2 = 0 then [atPos sub a, atPos sub b] else [atPos sub b, atPos sub a]))
    newFields 2 (hIdx h) none none
  (List.range 4).forM fun m => do
    let c := atPos sub m
    putSlots 3 (hIdx c) 0 (vs.set m w
      ++ (List.range 4).map (fun k => if k = m then atPos fs m else hOf m k)
      ++ (List.range 4).map (fun k => if k = m then atPos ns m else atPos sub k))
    putWords 1 (hIdx (atPos gs m)) 0 [w, atPos vs m, hNONE]
    newFields 1 (hIdx (atPos gs m)) none none
    if m = 0 then pure ()
    else
      relink 2 (atPos fs m) x c
      relink 3 (atPos ns m) x c
  putWords 0 (hIdx w) 0 [atPos gs 0, 0, 0, 0]
  return (w, es)

/-! ### Repair, normalisation, orientation (R240, R242) -/

/-- The indices of kind `k` that the commit writes or creates and does not retire, ascending. -/
def touched (k : Nat) : MM (List Nat) := fun w =>
  .ok ((((w.made.foldl setInsert w.wrote).filter fun e => e / 2 ^ 24 == k && !w.gone.contains e).map (· % 2 ^ 24)), w)

/-- Whether cell `c` holds both ends of an edge. -/
def cellHas (c : Nat) (ab : List W32) : MM Bool := do
  let vs ← vertsOf 3 c
  return allIn ab vs

/-- The first index of a list that passes a test. -/
def firstM (l : List Nat) (f : Nat → MM Bool) : MM (Option Nat) := l.foldlM (fun r i => do
  if r.isSome then return r
  let x ← f i
  return if x then some i else none) none

/-- The anchor cells of edges in dimension 3 (R240): those of the old cells, and the new ones. -/
def repairEdges (old : List W32) : MM Unit := do
  let cells ← touched 3
  let new ← touched 1
  let l := old.foldl (fun s h => setInsert s (hIdx h)) new
  l.forM fun i => do
    let gone ← isGone 1 (mkHandle 1 0 i)
    if gone then return ()
    let ab ← edgeVerts i
    let x ← recWord 1 i 2
    let bad ← if x = hNONE then pure true
      else do
        let g ← isGone 3 x
        let h ← cellHas (hIdx x) ab
        pure (g || !h)
    if bad then
      match ← firstM cells fun c => cellHas c ab with
      | some c => do
        let h ← curHandle 3 c
        putWord 1 i 2 h
      | none => mmFault cNONMANIFOLD

/-- The anchors of vertices (R240). -/
def repairVerts : MM Unit := do
  let edges ← touched 1
  let own ← touched 0
  let ends ← edges.mapM edgeVerts
  let l := ends.flatten.foldl (fun s h => setInsert s (hIdx h)) own
  l.forM fun v => do
    let hv := mkHandle 0 0 v
    let gone ← isGone 0 hv
    if gone then return ()
    let on (e : Nat) : MM Bool := do
      let ab ← edgeVerts e
      return ab.any (hSame hv)
    let x ← recWord 0 v 0
    let bad ← if x = hNONE then pure true
      else do
        let g ← isGone 1 x
        let h ← on (hIdx x)
        pure (g || !h)
    if bad then
      match ← firstM edges on with
      | some e => do
        let h ← curHandle 1 e
        putWord 0 v 0 h
      | none => mmFault cNONMANIFOLD

/-- Records with NONE in slot 0 and a handle in slot 1 are normalised (R240). -/
def normalise : MM Unit := do
  if ← mmD3 then
    let l ← touched 2
    l.forM fun f => do
      let cc ← faceCells f
      if atPos cc 0 = hNONE && atPos cc 1 != hNONE then
        let w ← recWords 2 f 0 6
        putWords 2 f 0 [atPos w 0, atPos w 2, atPos w 1, atPos w 3, atPos w 5, atPos w 4, atPos cc 1, hNONE]
  else
    let l ← touched 1
    l.forM fun e => do
      let ff ← edgeFaces e
      if atPos ff 0 = hNONE && atPos ff 1 != hNONE then putWords 1 e 2 [atPos ff 1, hNONE]

/-- One operation of R242, rounded to f64, as bits. -/
def r64 (r : Exact × FFlags) : FVal := unpack f64 (formResult f64 0 r.1 r.2).1

/-- The coordinates of a vertex (R242). -/
def coordsOf (v : W32) : MM (List FVal) := do
  let m ← mmM
  let e := mcbField m (mcbCoord m)
  (List.range (mcbDim m)).mapM fun c => do
    let b ← fieldComp e (hIdx v) c
    return unpack f32 b

/-- Componentwise difference, rounded. -/
def vecSub (p q : List FVal) : List FVal := List.zipWith (fun x y => r64 (fpSub 0 x y)) p q

/-- a × b − c × d with each operation rounded. -/
def det2 (a b c d : FVal) : FVal := r64 (fpSub 0 (r64 (fpMul a b)) (r64 (fpMul c d)))

/-- Component `i`. -/
def comp (l : List FVal) (i : Nat) : FVal := l.getD i (.fin false 0 0)

/-- Orient2 and Orient3 (R242). -/
def orient (pts : List (List FVal)) : FVal :=
  let p (i : Nat) : List FVal := pts.getD i []
  let u := vecSub (p 1) (p 0)
  let v := vecSub (p 2) (p 0)
  if pts.length = 3 then det2 (comp u 0) (comp v 1) (comp u 1) (comp v 0)
  else
    let w := vecSub (p 3) (p 0)
    let x := r64 (fpMul (comp u 0) (det2 (comp v 1) (comp w 2) (comp v 2) (comp w 1)))
    let y := r64 (fpMul (comp u 1) (det2 (comp v 0) (comp w 2) (comp v 2) (comp w 0)))
    let z := r64 (fpMul (comp u 2) (det2 (comp v 0) (comp w 1) (comp v 1) (comp w 0)))
    r64 (fpAdd 0 (r64 (fpSub 0 x y)) z)

/-- Whether a value is greater than +0. -/
def positive (x : FVal) : Bool := fpLess (.fin false 0 0) x

/-- The orientation check (R242). -/
def checkOrient (extra : List W32) : MM Unit := do
  let m ← mmM
  if mcbOrient m then
    let k := if mcbDim m = 3 then 3 else 2
    let l ← touched k
    (extra.foldl (fun s h => setInsert s (hIdx h)) l).forM fun i => do
      let vs ← vertsOf k i
      let pts ← vs.mapM coordsOf
      mmNeed (positive (orient pts)) cINVERT

/-! ### The forms (R237, R238) -/

/-- The claim set of an operation (R245). -/
def claimsOf (op : TopoOp) (h : W32) : MM Claims := do
  match op with
  | .split _ => splitClaims h
  | .coll v1 => collClaims h v1
  | .flip => if ← mmD3 then (if hKind h = 1 then flip32Claims h else flip23Claims h) else flip2Claims h
  | .refine _ => refineClaims h

/-- The edges of the cavity of an operation, which its commit rewrites (R245, R249 to R251), as they stand before it. -/
def cavityEdges (op : TopoOp) (h : W32) : MM (List W32) := do
  let d3 ← mmD3
  match op with
  | .split _ => do
    let ab ← edgeVerts (hIdx h)
    let r ← around h
    let es ← r.faces.mapM fun f => edgeOpposite f (atPos ab 0)
    return h :: es
  | .coll v1 => do
    let (_, b) ← collEnds h v1
    let sb ← starOf b starLimit
    let r ← around h
    let ts ← r.faces.mapM fun f => edgeOpposite f b
    return sb.edges ++ ts
  | .flip =>
    if !d3 then do
      let fs ← edgeFaces (hIdx h)
      let g ← flipGeo h (atPos fs 0) (atPos fs 1)
      return [h, g.ea1, g.eb0]
    else if hKind h = 1 then do
      let r ← ringOf h
      edgesOfCells r.cells
    else do
      let cs ← faceCells (hIdx h)
      edgesOfCells cs
  | .refine _ =>
    if d3 then return []
    else do
      let es ← faceEdges (hIdx h)
      return es.drop 1

/-- Builds the commit of an operation: the result handle, further elements whose coordinates change, edges of old cells. -/
def buildOf (op : TopoOp) (h : W32) (j : Nat) : MM (W32 × List W32 × List W32) := do
  let d3 ← mmD3
  match op with
  | .split t => do
    let r ← around h
    let es ← edgesOfCells r.cells
    let w ← splitCommit t h j
    return (w, [], es)
  | .coll v1 => collCommit h v1
  | .flip =>
    if !d3 then do
      let e ← flip2Commit h
      return (e, [], [])
    else do
      let (r, es) ← if hKind h = 1 then flip32Commit h else flip23Commit h j
      return (r, [], es)
  | .refine ws =>
    if d3 then do
      let (w, es) ← refine3Commit ws h j
      return (w, [], es)
    else do
      let w ← refine2Commit ws h j
      return (w, [], [])

/-- The generation bytes that a commit writes (R239). -/
def genWrites : MM (List (CapBits × Nat × Nat × Nat)) := do
  let w ← get
  let of (live : Bool) (e : Nat) : MM (CapBits × Nat × Nat × Nat) := do
    let k := e / 2 ^ 24
    let i := e % 2 ^ 24
    let g ← genByte k i
    return (mcbPool w.m, genOff w.m k i, 1, if live then g / 4 * 4 + 1 else (g / 4 + 1) % 64 * 4)
  let x ← w.made.mapM (of true)
  let y ← w.gone.mapM (of false)
  return x ++ y

/-- Builds, checks and writes a commit (R239, R240, R242). Its lines are granted before the first write, so that its stores, whose bytes the
mirror then holds, are globally performed before the instruction completes (R239, R301, R417). -/
def commitOf (op : TopoOp) (h : W32) (j : Nat) : MM W32 := do
  let cavity ← cavityEdges op h
  let (r, moved, old) ← buildOf op h j
  cavity.forM fun e => do
    let gone ← isGone 1 e
    if gone then pure () else mmWrote 1 (hIdx e)
  if ← mmD3 then repairEdges old
  repairVerts
  normalise
  checkOrient moved
  let g ← genWrites
  let w ← get
  let ps ← mmCheckAll .plain permTopo
    (w.recs.map (fun (o, v) => (mcbPool w.m, o, 4, v.toNat)) ++ w.flds.map (fun (o, n, v) => (mcbFarea w.m, o, n, v)) ++ g)
  mmPutAll .plain ps
  modify fun w => { w with s := w.s.mirrorAll }
  return r

/-- The marker of an element named by its number. -/
def markerOf (m : Bytes) (e : Nat) : Nat := markOff m (e / 2 ^ 24) (e % 2 ^ 24)

/-- Claims every element at the home of its marker (R65, R238): whether a marker of this round held another key. -/
def claimAllMarkers (s : NatSet) (key : Nat) : MM Bool := do
  let m ← mmM
  let r := mcbRound m
  let ps ← s.mapM fun e => mmCheckWrite .update .bank (mcbPool m) (markerOf m e) 8 permTopo
  (s.zip ps).foldlM (fun clash (_, p) => do
    let old := (← get).s.readParts p
    match claimMin r key old with
    | some v => modify fun w => { w with s := w.s.meshPut .bank p v }
    | none => pure ()
    return clash || (old / 2 ^ 56 == r && old % 2 ^ 56 != key)) false

/-- Whether every marker holds the key (R238). -/
def holdsAll (s : NatSet) (key : Nat) : MM Bool := do
  let m ← mmM
  s.foldlM (fun ok e => do
    let v ← mmRead (mcbPool m) (markerOf m e) 8
    return ok && v == mcbRound m * 2 ^ 56 + key) true

/-- The kind that an operation expects of its target (R245): in dimension 3 a flip takes an edge or a face. -/
def targetKind (op : TopoOp) (d3 : Bool) (h : W32) : Nat :=
  match op with
  | .flip => if d3 && hKind h == 2 then 2 else 1
  | .refine _ => if d3 then 3 else 2
  | _ => 1

/-- The steps of R238: status and result handle. -/
def topoWork (form : TopoForm) (op : TopoOp) (h : W32) (kw : Word) : MM (Nat × W32) := do
  let m ← mmM
  let key := kw.toNat % 2 ^ 32 * 2 ^ 24 + hIdx h
  let live ← resolve h (targetKind op (mcbDim m == 3) h)
  if !live then return (2, 0)
  let (s, refused) ← claimsOf op h
  if refused then return (3, 0)
  match form with
  | .claim => do
    let _ ← claimAllMarkers s key
    return (0, 0)
  | .plain => do
    let clash ← claimAllMarkers s key
    if clash then return (1, 0)
    let r ← commitOf op h (kw.toNat / 2 ^ 32)
    return (0, r)
  | .commit => do
    if ← holdsAll s key then
      let r ← commitOf op h (kw.toNat / 2 ^ 32)
      return (0, r)
    else return (1, 0)

/-- Runs a topology instruction (R237, R238): the key word and the round, the parameter, then the steps. -/
def runTopo (form : TopoForm) (g : Guard) (m : BitVec 2) (d a c : BitVec 5) (s : State) (param : State → Res TopoOp) : Out :=
  run false false g s fun s =>
    match s.slot m with
    | none => s.fault cMESHFMT 0 0
    | some x => do
      let kw := s.S c
      s.need (kw.toNat < 2 ^ 56 && mcbRound x.mcb != 0) cMESHFMT 0 0
      let op ← param s
      let work : MM ((Nat × W32) × FFlags) := do
        let r ← topoWork form op (s.handle a) kw
        let w ← get
        return (r, w.fl)
      let (s, (st, h), fl) ← s.meshRun m work
      return ((s.orFlags fl).setS d (h ++ BitVec.ofNat 32 st)).outcome g (st == 0)

/-- The t of `msplit` (R245): 0 < t < 1. -/
def splitParam (b : BitVec 5) (s : State) : Res TopoOp := do
  let t := (s.S b).toNat % 2 ^ 32
  let x := unpack f32 t
  s.need (positive x && fpLess x (unpack f32 f32.one)) cMESHFMT 0 0
  return .split t

/-- The weights of `mrefine` (R245). -/
def refineParam (m : BitVec 2) (b : BitVec 5) (s : State) : Res TopoOp := do
  let n := match s.slot m with
    | some x => if mcbDim x.mcb = 3 then 4 else 3
    | none => 3
  let x := s.S b
  let (w, off) ← s.lift (s.localCheck x (4 * n) 4 true)
  s.localTurn false w off (4 * n)
  s.need (!s.winPoison false s.hand.core w off (4 * n)) cPOISON x 0
  let ws := (List.range n).map fun j => s.spRead s.hand.core (off + 4 * j) 4
  s.need (ws.all fun v => positive (unpack f32 v) && v < f32.inf) cMESHFMT 0 0
  return .refine ws

/-- `msplit` (R238, R247). -/
def execMsplit (g : Guard) (m : BitVec 2) (d : BitVec 5) (a : BitVec 5) (b : BitVec 5) (c : BitVec 5) (s : State) : Out :=
  runTopo .plain g m d a c s (splitParam b)
/-- `msplit.c` (R238). -/
def execMsplitC (g : Guard) (m : BitVec 2) (d : BitVec 5) (a : BitVec 5) (b : BitVec 5) (c : BitVec 5) (s : State) : Out :=
  runTopo .claim g m d a c s (splitParam b)
/-- `msplit.x` (R238, R247). -/
def execMsplitX (g : Guard) (m : BitVec 2) (d : BitVec 5) (a : BitVec 5) (b : BitVec 5) (c : BitVec 5) (s : State) : Out :=
  runTopo .commit g m d a c s (splitParam b)
/-- `mcoll` (R238, R248). -/
def execMcoll (g : Guard) (m : BitVec 2) (v1 : Bool) (d : BitVec 5) (a : BitVec 5) (c : BitVec 5) (s : State) : Out :=
  runTopo .plain g m d a c s fun _ => .ok (.coll v1)
/-- `mcoll.c` (R238). -/
def execMcollC (g : Guard) (m : BitVec 2) (v1 : Bool) (d : BitVec 5) (a : BitVec 5) (c : BitVec 5) (s : State) : Out :=
  runTopo .claim g m d a c s fun _ => .ok (.coll v1)
/-- `mcoll.x` (R238, R248). -/
def execMcollX (g : Guard) (m : BitVec 2) (v1 : Bool) (d : BitVec 5) (a : BitVec 5) (c : BitVec 5) (s : State) : Out :=
  runTopo .commit g m d a c s fun _ => .ok (.coll v1)
/-- `mflip` (R238, R249 to R251). -/
def execMflip (g : Guard) (m : BitVec 2) (d : BitVec 5) (a : BitVec 5) (c : BitVec 5) (s : State) : Out :=
  runTopo .plain g m d a c s fun _ => .ok .flip
/-- `mflip.c` (R238). -/
def execMflipC (g : Guard) (m : BitVec 2) (d : BitVec 5) (a : BitVec 5) (c : BitVec 5) (s : State) : Out :=
  runTopo .claim g m d a c s fun _ => .ok .flip
/-- `mflip.x` (R238, R249 to R251). -/
def execMflipX (g : Guard) (m : BitVec 2) (d : BitVec 5) (a : BitVec 5) (c : BitVec 5) (s : State) : Out :=
  runTopo .commit g m d a c s fun _ => .ok .flip
/-- `mrefine` (R238, R252). -/
def execMrefine (g : Guard) (m : BitVec 2) (d : BitVec 5) (a : BitVec 5) (b : BitVec 5) (c : BitVec 5) (s : State) : Out :=
  runTopo .plain g m d a c s (refineParam m b)
/-- `mrefine.c` (R238). -/
def execMrefineC (g : Guard) (m : BitVec 2) (d : BitVec 5) (a : BitVec 5) (b : BitVec 5) (c : BitVec 5) (s : State) : Out :=
  runTopo .claim g m d a c s (refineParam m b)
/-- `mrefine.x` (R238, R252). -/
def execMrefineX (g : Guard) (m : BitVec 2) (d : BitVec 5) (a : BitVec 5) (b : BitVec 5) (c : BitVec 5) (s : State) : Out :=
  runTopo .commit g m d a c s (refineParam m b)

end Sys2Proof.Machine
end

