-- ==== Sys2Proof/Machine/Launch.lean ====
section
/-! DEFINITION. The launch distributor: completion counters and Report, launch records and queues, predecessor tests, cancellation
of launches, and the completion tree (R338 to R346, R349, R353). -/

namespace Sys2Proof.Machine

/-! ### Accesses of the distributor (R340 to R343) -/

/-- The distributor becomes a directory sharer of a line that it reads (R343, R390), but not of one that a store has asked for: it reads that
once the store is made. -/
def State.distShares (s : State) (k : Nat) : State :=
  if (s.dirAt k).any fun e => !e.awaited.isEmpty || !e.claims.isEmpty then s else s.shareLine .distributor k

/-- Whether the distributor is a sharer of a line, but where a store is on its way. -/
def State.distKnows (s : State) (k : Nat) : Bool :=
  s.holds .distributor k || (s.dirAt k).any fun e => !e.awaited.isEmpty || !e.claims.isEmpty

/-- What the distributor makes of a state in one step, when nothing stands against it (R3, R391, R397). -/
def State.distActs (s t : State) : State := s.agentActs (some .distributor) t

/-- Where `n` bytes at `va` stand for the distributor under a partition's tables: none when they do not translate, lie outside the
partition's device memory, or are poisoned. It keeps the translation (R379), and is a sharer of the line it reads (R390). -/
def State.distAt (s : State) (p va n : Nat) (acc : Acc) : State × Option Nat :=
  match s.translate .distributor p va acc with
  | .ok (s, l) =>
    let s := if s.isLocal va then s.fillXlat .distributor p (va % 2 ^ 48) [] else s
    if l.dev = 0 && l.pa < hbmSize && !s.mem.poisoned false l.pa n then
      (if acc = .read then (s.distShares (lineKey l)).usePin (lineKey l) else s, some l.pa)
    else (s, none)
  | .error (s, _) => (s, none)

/-- A write by the distributor at the home: no other copy of the line stays, and a host that holds it is asked to give it up (R3, R391, R397,
R404; log entry 23). -/
def State.distWrite (s : State) (pa n v : Nat) : State := s.storeHome (some .distributor) ⟨0, pa⟩ n v

/-- A report of a counter or record that cannot be reached (R340, R342): event class 3. -/
def State.lostCounter (s : State) (p : Nat) : State := (s.report (.counter p)).raiseEvent p 3

/-! ### Completion counters (R338 to R340) -/

/-- Report (R340), indivisible: `n` counters of the chain may still be reached. -/
def State.reportTo (s : State) (p : Nat) : Nat → Nat → Nat → BitVec 16 → Nat → State
  | 0, _, _, _, _ => s
  | n + 1, va, count, err, fcode =>
    if va % 32 != 0 then s.lostCounter p
    else match s.distAt p va 32 .write with
    | (s, none) => s.lostCounter p
    | (s, some pa) =>
      let w0 := s.readAt ⟨0, pa⟩ 8
      let w1 := s.readAt ⟨0, pa + 8⟩ 8
      let parent := s.readAt ⟨0, pa + 24⟩ 8 % 2 ^ 57
      let done := (w0 / 2 ^ 32 + count) % 2 ^ 32
      let e := BitVec.ofNat 16 (w1 / 2 ^ 40) ||| err
      let f := max (w1 / 2 ^ 56) fcode
      let fin := w1 % 2 = 0 && w0 % 2 ^ 32 ≤ done
      let low := w1 / 4 % 2 * 4 + (if fin then (if e = 0 then 1 else 3) else w1 % 4)
      let s := s.distWrite pa 8 (done * 2 ^ 32 + w0 % 2 ^ 32)
      let s := s.distWrite (pa + 8) 8 (f * 2 ^ 56 + e.toNat * 2 ^ 40 + low)
      let s := s.distWrite (pa + 24) 8 parent
      if fin then
        let s := s.distWrite (pa + 16) 8 s.time.toNat
        if parent = 0 then s else s.reportTo p n parent 1 e f
      else s

/-- Report on a launch's counter: it is at depth 0, and at most three PARENT links follow. -/
def State.reportLaunch (s : State) (p ctr count : Nat) (err : BitVec 16) (fcode : Nat) : State := s.reportTo p 4 ctr count err fcode

/-- The physical addresses of a counter and of the counters on its PARENT chain, as far as they can be reached (R342, R353). -/
def State.chain (s : State) (p : Nat) : Nat → Nat → List Nat
  | 0, _ => []
  | n + 1, va =>
    if va % 32 != 0 then []
    else match s.distAt p va 32 .read with
      | (_, none) => []
      | (_, some pa) =>
        let parent := s.readAt ⟨0, pa + 24⟩ 8 % 2 ^ 57
        pa :: (if parent = 0 then [] else s.chain p n parent)

/-- CANCELLED of the counter at a physical address. -/
def State.ctrCancelled (s : State) (pa : Nat) : Bool := s.readAt ⟨0, pa + 8⟩ 1 / 4 % 2 == 1

/-! ### Launch records (R341, R342) -/

/-- The counter of a launch. -/
def Launch.ctr (l : Launch) : Nat := l.recVA + 32

/-- The unit count U. -/
def Launch.unitCount (l : Launch) : Nat := l.across * l.down * l.percore

/-- The fields of a record, from its bytes as a number; `prio` is that of the queue. -/
def recLaunch (id p prio va v : Nat) : Launch :=
  let f (bit n : Nat) : Nat := v / 2 ^ bit % 2 ^ n
  { id := id
    part := p
    prio := prio
    recVA := va
    entry := f 0 57
    across := f 104 5 + 1
    down := f 96 5 + 1
    percore := f 88 3 + 1
    vsw := BitVec.ofNat 4 (f 76 4)
    helpers := f 72 4
    swm1 := f 112 16
    wave := f 65 1 == 1
    place := f 64 1 == 1
    arg := BitVec.ofNat 128 (f 128 128)
    preds := ((List.range 4).filter fun q => f (512 + 128 * q + 63) 1 == 1).map fun q =>
      (f (512 + 128 * q) 57, BitVec.ofNat 32 (f (576 + 128 * q) 32), f (512 + 128 * q + 62) 1 == 1)
    st := .held
    eligible := none
    aged := false
    cancelled := false
    origin := none
    units := (List.range ((f 104 5 + 1) * (f 96 5 + 1) * (f 88 3 + 1))).map fun i => ⟨i, .pending, none, none, 0, none, []⟩
    stepK := .compute
    arrived := []
    atRelease := false }

/-- Whether a record passes the checks of R342 that need no other memory. -/
def recValid (prio v : Nat) : Bool :=
  let f (bit n : Nat) : Nat := v / 2 ^ bit % 2 ^ n
  let l := recLaunch 0 0 prio 0 v
  f 57 7 == 0 && f 109 3 == 0 && f 101 3 == 0 && f 91 5 == 0 && f 85 3 == 0 && f 66 6 == 0
    && ((List.range 4).all fun q => f (512 + 128 * q + 57) 5 == 0 && f (608 + 128 * q) 32 == 0)
    && l.across ≤ 24 && l.down ≤ 24 && l.helpers ≤ 10 && l.entry % 2 == 0 && f 80 5 == prio
    && (l.preds.all fun q => q.1 % 32 == 0) && !(l.wave && l.place)

/-- A launch that runs no unit (R342): TARGET := 0 and Report(CTR, 0, err, 0); the distributor holds it no more. -/
def State.completeEmpty (s : State) (l : Launch) (err : BitVec 16) : State :=
  let s := { s with launches := s.launches.filter (·.id != l.id) }
  let s := match s.distAt l.part l.ctr 32 .write with
    | (s, some pa) => s.distWrite pa 4 0
    | (s, none) => s
  s.reportLaunch l.part l.ctr 0 err 0

/-! ### Predecessors (R343) -/

/-- What a predecessor test finds. -/
inductive PredTest where
  | eligible | waits | failed | unreadable
  deriving DecidableEq, Repr

/-- The test of one predecessor. -/
def State.predTest (s : State) (p : Nat) (q : Nat × BitVec 32 × Bool) : PredTest :=
  match s.distAt p q.1 32 .read with
  | (_, none) => .unreadable
  | (_, some pa) =>
    let w1 := s.readAt ⟨0, pa + 8⟩ 8
    if q.2.2 && w1 % 4 = 3 then .failed
    else if q.2.1.toNat ≤ s.readAt ⟨0, pa + 4⟩ 4 then .eligible
    else .waits

/-- The test of a launch: an unreadable predecessor decides first, then a failed strict one. -/
def State.testPreds (s : State) (l : Launch) : PredTest :=
  let r := l.preds.map (s.predTest l.part)
  if r.contains .unreadable then .unreadable
  else if r.contains .failed then .failed
  else if r.contains .waits then .waits
  else .eligible

/-- The lines of a launch's counters that the distributor watches: its predecessors', its own and those on its PARENT chain (R343). -/
def State.launchLines (s : State) (l : Launch) : List Nat :=
  ((l.preds.filterMap fun q => (s.distAt l.part q.1 32 .read).2) ++ s.chain l.part 4 l.ctr).map fun pa => lineKey ⟨0, pa⟩

/-- The distributor becomes a directory sharer of these lines (R343, R390). -/
def State.watchLaunch (s : State) (id : Nat) : State :=
  match s.launchAt id with
  | none => s
  | some l => (s.launchLines l).foldl State.distShares s

/-- Whether it is one already, but where a store is on its way. -/
def State.watchesAll (s : State) (l : Launch) : Bool :=
  (s.launchLines l).all s.distKnows

/-- PREDECESSOR_TEST (R343) on a launch that is not yet placed: it may become eligible, and no longer be. -/
def State.testLaunch (s : State) (id : Nat) : State :=
  match s.launchAt id with
  | none => s
  | some l =>
    if l.st != .held then s
    else match s.testPreds l with
      | .eligible => if l.eligible.isSome then s else s.modLaunch id fun l => { l with eligible := some s.time.toNat }
      | .waits => s.modLaunch id fun l => { l with eligible := none, aged := false }
      | .failed => s.completeEmpty l errPREDFAIL
      | .unreadable => (s.lostCounter l.part).completeEmpty l errLAUNCH

/-- Whether a test of a launch has a new result. -/
def State.testDue (s : State) (l : Launch) : Bool :=
  l.st == .held && match s.testPreds l with
    | .eligible => l.eligible.isNone
    | .waits => l.eligible.isSome
    | _ => true

/-- A line that the distributor shares has changed: it tests the launches whose counters stand there, and shares the line anew (R343). -/
def State.distSees (s : State) (k : Nat) : State :=
  (s.launches.filter fun l => (s.launchLines l).contains k).foldl (fun s l => (s.testLaunch l.id).watchLaunch l.id) s

/-- PREDECESSOR_TEST: afterwards the distributor watches the launch's counters (R343). -/
def execPredecessorTest (launch : Nat) (s : State) : Out := event (s.distActs ((s.testLaunch launch).watchLaunch launch))

/-! ### Queues (R344 to R346) -/

/-- The header of queue `prio` when it has an entry: its physical address, HEAD, LOG2SZ and RING. -/
def State.queueFront (s : State) (p prio : Nat) : Option (Nat × Nat × Nat × Nat) :=
  (s.queueHeader p prio).bind fun hdr =>
    let tail := s.readAt ⟨0, hdr + 8⟩ 4
    let head := s.readAt ⟨0, hdr + 12⟩ 4
    let log := s.readAt ⟨0, hdr + 16⟩ 1 % 32
    let ring := s.readAt ⟨0, hdr + 24⟩ 8
    if tail = head || log < 6 || 16 < log || ring % 128 != 0 || 2 ^ 57 ≤ ring then none else some (hdr, head, log, ring)

/-- The highest priority whose queue has an entry, with that queue. -/
def State.topQueue (s : State) (p : Nat) : Option (Nat × Nat × Nat × Nat × Nat) :=
  (List.range 24).findSome? fun i => (s.queueFront p (23 - i)).map fun q => (23 - i, q)

/-- The dequeued launches of a partition that are not yet placed. -/
def State.heldCount (s : State) (p : Nat) : Nat := (s.launches.filter fun l => l.part == p && l.st == .held).length

/-- Whether the distributor can dequeue for a partition (R346); nothing moves in a quiesced one. -/
def State.canDequeue (s : State) (p : Nat) : Bool := !(s.pst p).quiesced && s.heldCount p < 1024 && (s.topQueue p).isSome

/-- The 128 bytes of a record as one number, when they can be read. -/
def State.readRecord (s : State) (p va : Nat) : State × Option Nat :=
  if va % 64 != 0 then (s, none)
  else match s.distAt p va 64 .read with
    | (s, none) => (s, none)
    | (s, some a) => match s.distAt p (va + 64) 64 .read with
      | (s, none) => (s, none)
      | (s, some b) => (s, some (s.readAt ⟨0, a⟩ 64 + 256 ^ 64 * s.readAt ⟨0, b⟩ 64))

/-- The counter of a dequeued record (R342): DONE, TSTAMP and all of 0x08 but CANCELLED become 0, TARGET becomes U. Of a counter that cannot be
written nothing is, and the launch goes on (log entry 125). -/
def State.initCounter (s : State) (l : Launch) : State :=
  match s.distAt l.part l.ctr 32 .write with
  | (s, some pa) =>
    let c := s.readAt ⟨0, pa + 8⟩ 1 / 4 % 2 * 4
    ((s.distWrite pa 8 l.unitCount).distWrite (pa + 8) 8 c).distWrite (pa + 16) 8 0
  | (s, none) => s

/-- LAUNCH_DEQUEUE (R342, R346). -/
def State.dequeue (s : State) (p : Nat) : State :=
  if !s.canDequeue p then s
  else match s.topQueue p with
    | none => s
    | some (prio, hdr, head, log, ring) =>
      let s := s.distWrite (hdr + 12) 4 (head + 1)
      let discard (s : State) : State := s.lostCounter p |>.countDrop (some .distributor) hdr
      match s.distAt p (ring + 8 * (head % 2 ^ log)) 8 .read with
      | (s, none) => discard s
      | (s, some e) =>
        let va := s.readAt ⟨0, e⟩ 8
        match s.readRecord p va with
        | (s, none) => discard s
        | (s, some v) =>
          let l := recLaunch s.nextId p prio va v
          let s := s.distShares (lineKey ⟨0, hdr⟩)
          let s := { s with launches := s.launches ++ [l], nextId := s.nextId + 1 }
          let s := s.initCounter l
          if !recValid prio v then s.completeEmpty l errLAUNCH
          else if (s.chain p 4 l.ctr).any s.ctrCancelled then s.completeEmpty l errCANCEL
          else (s.testLaunch l.id).watchLaunch l.id

/-- The tail lines of a partition's queues, as far as they can be reached (R344). -/
def State.tailLines (s : State) (p : Nat) : List Nat := (List.range 24).filterMap fun i => (s.queueHeader p i).map fun hdr => lineKey ⟨0, hdr⟩

/-- The distributor becomes a directory sharer of each tail line (R3, R390). -/
def State.watchQueues (s : State) (p : Nat) : State := ((s.tailLines p).filter fun k => !s.distKnows k).foldl State.distShares s

/-- Whether it is one already; in a quiesced partition nothing moves. -/
def State.watchesQueues (s : State) (p : Nat) : Bool := (s.pst p).quiesced || (s.tailLines p).all s.distKnows

/-- LAUNCH_DEQUEUE. -/
def execLaunchDequeue (part : Nat) (s : State) : Out := event (s.distActs ((s.watchQueues part).dequeue part))

/-! ### The completion tree (R340) -/

/-- The root of every tree: the distributor. -/
def rootNode : Nat := 576

/-- The tiles that hold units of a launch. -/
def Launch.nodes (l : Launch) : List Nat := l.units.foldl (fun t u => u.tile.elim t (setInsert t)) []

/-- The node that receives the word of tile `t`: lowest x of its row, then lowest y of its stack, then the root. Nodes are listed in
rising order, so the first of a row or stack is its head. -/
def parentNode (nodes : List Nat) (t : Nat) : Nat :=
  let row := (nodes.find? fun u => u / 12 == t / 12).getD t
  if row != t then row
  else
    let head := (nodes.find? fun u => u / 144 == t / 144).getD t
    if head != t then head else rootNode

/-- The units whose words pass through node `t`. -/
def Launch.below (l : Launch) (t : Nat) : Nat :=
  let nodes := l.nodes
  (l.units.filter fun u => match u.tile with
    | none => t == rootNode
    | some v => t == rootNode || v == t || parentNode nodes v == t || parentNode nodes (parentNode nodes v) == t).length

/-- A word enters the tree at a node. -/
def State.treePut (s : State) (w : TreeWord) : State := { s with tree := s.tree ++ [w] }

/-- The words of a launch that stand at a node. -/
def State.treeAt (s : State) (id t : Nat) : List TreeWord := s.tree.filter fun w => w.launch == id && w.tile == t

/-- Whether a node has every word it waits for. -/
def State.nodeReady (s : State) (id t : Nat) : Bool :=
  match s.launchAt id with
  | none => false
  | some l =>
    let ws := s.treeAt id t
    !ws.isEmpty && (l.units.all fun u => u.st != .pending) && (ws.foldl (fun n w => n + w.count) 0) == l.below t

/-- SPANNING_TREE_MESSAGE (R340): the node combines its words and sends one; the root performs Report. -/
def State.treeSend (s : State) (id t : Nat) : State :=
  match s.launchAt id with
  | none => s
  | some l =>
    if !s.nodeReady id t then s
    else
      let ws := s.treeAt id t
      let err := ws.foldl (fun e w => e ||| w.err) 0
      let count := ws.foldl (fun n w => n + w.count) 0
      let fcode := ws.foldl (fun f w => max f w.fcode) 0
      let s := { s with tree := s.tree.filter fun w => !(w.launch == id && w.tile == t) }
      if t = rootNode then
        { s with launches := s.launches.filter (·.id != id) }.reportLaunch l.part l.ctr count err fcode
      else s.treePut ⟨id, parentNode l.nodes t, err, count, fcode⟩

/-- SPANNING_TREE_MESSAGE. -/
def execSpanningTreeMessage (launch tile : Nat) (s : State) : Out := event (s.distActs (s.treeSend launch tile))

/-! ### Cancellation of launches (R353) -/

/-- Cancels one launch: a held one completes under R342; units of a placed one that have not started report through the root. -/
def State.cancelLaunch (s : State) (l : Launch) : State :=
  if l.st = .held then s.completeEmpty l errCANCEL
  else
    let n := (l.units.filter fun u => u.st == .pending).length
    let s := s.modLaunch l.id fun l => { l with
      cancelled := true
      units := l.units.map fun u => if u.st = .pending then { u with st := .ended } else u }
    (List.replicate n ()).foldl (fun s _ => s.treePut ⟨l.id, rootNode, errCANCEL, 1, 0⟩) s

/-- CANCELLATION (R353): the launches under the counter at `ctr`, itself or on the PARENT chain. -/
def State.cancelUnder (s : State) (p ctr : Nat) : State :=
  match s.chain p 1 ctr with
  | pa :: _ =>
    s.launches.foldl (fun s l => if l.part = p && !l.cancelled && (s.chain p 4 l.ctr).contains pa then s.cancelLaunch l else s) s
  | [] => s

/-- CANCELLATION. -/
def execCancellation (part ctr : Nat) (s : State) : Out :=
  event (s.actsOnce (some .distributor) (.cancellation part ctr) (s.cancelUnder part ctr))

/-! ### Age (R349) -/

/-- Whether a launch has waited longer than its partition's age limit. -/
def State.overAge (s : State) (l : Launch) : Bool :=
  !l.aged && l.st == .held && match l.eligible, s.partEntry l.part with
    | some t, some e => decide (e.ageLimit < s.time.toNat - t)
    | _, _ => false

/-- AGE_LIMIT_EXPIRY (R349). -/
def execAgeLimitExpiry (launch : Nat) (s : State) : Out :=
  event <|
    match s.launchAt launch with
    | some l => if s.overAge l then s.modLaunch launch fun l => { l with aged := true } else s
    | none => s

end Sys2Proof.Machine
end

