-- ==== Sys2Proof/Machine/Placement.lean ====
section
/-! DEFINITION. Placement of launches, the start and the end of units, tile power and cancellation of units (R28, R29, R165, R347 to
R351, R353, R360). -/

namespace Sys2Proof.Machine

/-! ### The unit-environment block (R348) -/

/-- The fields of a unit-environment block. -/
structure Env where
  tvec   : Word
  splo   : BitVec 18
  sphi   : BitVec 18
  weight : BitVec 4
  base   : Nat
  slots  : Nat
  size   : Nat
  deriving DecidableEq, Repr

/-- A block from its 64 bytes as a number: none when it is invalid. -/
def envParse (v : Nat) : Option Env :=
  let f (bit n : Nat) : Nat := v / 2 ^ bit % 2 ^ n
  let e : Env := ⟨BitVec.ofNat 64 (f 0 64), BitVec.ofNat 18 (f 64 18), BitVec.ofNat 18 (f 96 18), BitVec.ofNat 4 (f 128 4), f 192 57,
    f 288 32, f 256 32⟩
  if f 57 7 != 0 || f 0 1 != 0 || f 114 14 != 0 || f 82 14 != 0 || f 132 60 != 0 || f 249 7 != 0 || f 320 192 != 0
      || e.base % 4096 != 0 || e.size % 4096 != 0 || 2 ^ 57 ≤ e.base + e.slots * e.size then none
  else some e

/-- The block of a partition, when it is valid. One whose address is not a multiple of 64 or beyond HBM, and a poisoned one, is invalid too (log
entry 123). -/
def State.env (s : State) (p : Nat) : Option Env :=
  (s.partEntry p).bind fun e =>
    if e.envBlock % 64 != 0 || hbmSize < e.envBlock + 64 || s.mem.poisoned false e.envBlock 64 then none
    else envParse (s.readAt ⟨0, e.envBlock⟩ 64)

/-- The distributor reads the block at a placement or restore, and is a sharer of its line (R348, R390). -/
def State.readEnv (s : State) (p : Nat) : State :=
  match s.partEntry p with
  | some e =>
    let k := lineKey ⟨0, e.envBlock⟩
    if s.distKnows k then s else (s.distShares k).usePin k
  | none => s

/-- The stack slots of a partition that its units hold. -/
def State.stacksUsed (s : State) (p : Nat) : List Nat :=
  (s.launches.filter (·.part == p)).flatMap fun l => l.units.filterMap (·.stack)

/-- The lowest `n` free stack slots, as far as there are that many. -/
def State.freeStacks (s : State) (p : Nat) (e : Env) (n : Nat) : List Nat :=
  let used := s.stacksUsed p
  ((List.range (min e.slots (used.length + n))).filter fun j => !used.contains j).take n

/-- The stack capability of slot `j` (R348); null without a stack. -/
def Env.stackCap (e : Env) (j : Option Nat) : CapBits :=
  match j with
  | some j => mkCap 0 (permREAD ||| permWRITE) e.size (e.base + j * e.size)
  | none => 0

/-! ### Start of a unit (R28) -/

/-- Every scratchpad word 0 and every full-empty bit empty (R28). -/
def State.zeroSpad (s : State) (g : Nat) : State :=
  let lo := spadPa g 0
  let out (a : Nat) : Bool := !(lo ≤ a && a < lo + 0x20000)
  { s with mem := ⟨s.mem.bytes.filter fun x => out x.1, s.mem.full.filter out, s.mem.poison.filter out⟩ }

/-- The scratchpad of a core that passes to launch `id` (R28). -/
def State.passCore (s : State) (g id : Nat) : State :=
  let s := if (s.coreAt g).lastHeld = some id then s else s.zeroSpad g
  s.setCore g { s.coreAt g with lastHeld := some id }

/-- The B-operand SRAM of a row that a placement or restore makes held by another launch (R165). -/
def State.passRow (s : State) (row : Nat) : State :=
  match s.rowHeld row with
  | none => s
  | some id =>
    if (s.row row).lastHeld = some id then s
    else
      let lo := sramKey row 0
      let s := { s with sram := s.sram.filter fun x => !(lo ≤ x.1 && x.1 < lo + 0x80000) }
      s.setRow row { s.row row with lastHeld := some id }

/-- Context 0 at the start of a unit (R28). -/
def Launch.startContext (l : Launch) (idx : Nat) (stack : CapBits) : Context :=
  { Context.reset with
    s := (Context.reset.s.set 1 (BitVec.ofNat 64 idx)).set 2 (BitVec.ofNat 64 l.unitCount)
    a := (Context.reset.a.set 1 l.arg).set 15 stack
    pc := BitVec.ofNat 64 l.entry
    st := .ready }

/-- VSHARE.WEIGHT, SPLIM and TVEC of a unit (R348). -/
def Core.setEnv (c : Core) (l : Launch) (e : Env) : Core :=
  { c with weight := if l.vsw = 0 then e.weight else l.vsw, splo := e.splo, sphi := e.sphi, tvec := e.tvec }

/-- A core that holds no unit: what stays is the launch that last held it and the entries suspended for saved units (R405). -/
def Core.vacant (c : Core) : Core :=
  { Core.reset with lastHeld := c.lastHeld, out := c.out, flits := c.flits, laneUse := c.laneUse }

/-- Starts unit `idx` of a launch on core `g`, with its stack slot (R28, R347, R348). -/
def State.startUnit (s : State) (id : Nat) (e : Env) (idx g : Nat) (slot : Option Nat) : State :=
  match s.launchAt id with
  | none => s
  | some l =>
    let s := s.passCore g id
    let c := { (s.coreAt g).vacant with
      ctxs := [(0, l.startContext idx (e.stackCap slot))], part := BitVec.ofNat 4 l.part, unit := some ⟨id, idx, l.helpers⟩ }
    let s := (s.setCore g (c.setEnv l e)).modLaunch id fun l => { l with
      st := .placed
      units := l.units.map fun u =>
        if u.idx = idx then { u with st := .running g, stack := slot, tile := some (g / 8), placed := s.nextId } else u }
    { s with nextId := s.nextId + 1 }.passRow (g / 4)

/-! ### Free cores -/

/-- The power state of a tile. -/
def State.tileAt (s : State) (t : Nat) : Tile := (smapGet? s.tiles t).getD ⟨false, 0⟩

/-- The core of unit `u` of a PLACE launch on the rectangle it left. -/
def Launch.homeCore (l : Launch) (u : Unit1) : Nat := 8 * u.tile.getD 0 + u.idx % l.percore

/-- The cores of the rectangle of a PLACE launch, but for those whose unit has ended. -/
def Launch.rectCores (l : Launch) : List Nat :=
  ((l.units.foldl (fun t u => u.tile.elim t (setInsert t)) []).flatMap fun t => (List.range 8).map (8 * t + ·)).filter fun g =>
    !(l.units.any fun u => u.st == .ended && l.homeCore u == g)

/-- The cores kept from others while a PLACE launch other than number `own` stands on its rectangle: the other cores of its tiles stay
unused (R347). Cores of `extra` count as left. -/
def State.placeCores (s : State) (extra : List Nat) (own : Option Nat) : List Nat :=
  (s.launches.filter fun l => l.place && some l.id != own && l.cores.any fun g => !extra.contains g).flatMap Launch.rectCores

/-- Whether core `g` is free for partition `e`, counting the cores of `extra` as free; those of `placed` are not. -/
def State.coreFree (s : State) (e : Partition) (extra placed : List Nat) (g : Nat) : Bool :=
  e.tiles.contains (g / 8) && g < nCores && !s.removed.contains (g / 1152)
    && ((s.coreAt g).unit.isNone || extra.contains g) && !placed.contains g

/-- The free cores of a tile, in order. -/
def State.freeOn (s : State) (e : Partition) (extra placed : List Nat) (t : Nat) : List Nat :=
  ((List.range 8).map (8 * t + ·)).filter (s.coreFree e extra placed)

/-- The sum of the `k` largest counts. -/
def topSum (k : Nat) (l : List (Nat × List Nat)) : Nat := (sortBy (fun a b => b ≤ a) (l.map fun x => x.2.length)).take k |>.sum

/-- The fewest tiles that give `need` cores, `k` of them, lowest node number first (R350). -/
def pickTiles : Nat → Nat → List (Nat × List Nat) → List (Nat × List Nat)
  | 0, _, _ => []
  | _, _, [] => []
  | k + 1, need, x :: rest =>
    if need ≤ x.2.length + topSum k rest then x :: pickTiles k (need - x.2.length) rest else pickTiles (k + 1) need rest

/-- The least number of tiles that give `need` cores. -/
def tilesNeeded (need : Nat) (l : List (Nat × List Nat)) : Nat :=
  ((List.range (l.length + 1)).find? fun k => need ≤ topSum k l).getD l.length

/-- `need` cores on the fewest tiles. -/
def pickCores (need : Nat) (l : List (Nat × List Nat)) : List Nat := ((pickTiles (tilesNeeded need l) need l).flatMap (·.2)).take need

/-- What the distributor decides to do (R347, R349, R350). -/
inductive Plan where
  | wake (tiles : List Nat)
  | start (launch : Nat) (units : List (Nat × Nat))
  | restore (launch unit core : Nat)
  deriving DecidableEq, Repr

/-- The free cores of a partition by tile; powered ones only, or gated ones only. -/
def State.freeTiles (s : State) (e : Partition) (extra : List Nat) (gated : Bool) : List (Nat × List Nat) :=
  let placed := s.placeCores extra none
  ((sortBy (fun a b => a ≤ b) e.tiles).filter fun t => (s.tileAt t).gated == gated).filterMap fun t =>
    let l := s.freeOn e extra placed t
    if l.isEmpty then none else some (t, l)

/-- The number of free cores. -/
def countCores (l : List (Nat × List Nat)) : Nat := (l.map fun x => x.2.length).sum

/-- The rectangle of tiles with its origin at package coordinates (x0, y0), in order of unit index; none when it leaves the package. -/
def rectangle (x0 y0 across down : Nat) : Option (List Nat) :=
  if 24 < x0 + across || 24 < y0 + down then none
  else some ((List.range down).flatMap fun j => (List.range across).map fun i =>
    let x := x0 + i
    let y := y0 + j
    (2 * (y / 12) + x / 12) * 144 + y % 12 * 12 + x % 12)

/-- Whether the stacks of some tiles run at one frequency point and are to go on to one (R427, R428). -/
def State.oneClock (s : State) (tiles : List Nat) : Bool :=
  let at' (t : Nat) : Nat × Option Nat := ((s.clock (t / 144)).mhz, (s.clock (t / 144)).req)
  tiles.all fun t => at' t == at' (tiles.headD 0)

/-- The free rectangle for a PLACE launch at the lowest (y, x), on stacks at one frequency point (R347, R428). -/
def State.freeRectangle (s : State) (e : Partition) (extra : List Nat) (l : Launch) : Option (List Nat) :=
  let placed := s.placeCores extra none
  let ok (t : Nat) : Bool := (s.freeOn e extra placed t).length == 8
  (List.range 576).findSome? fun o => (rectangle (o % 24) (o / 24) l.across l.down).bind fun ts =>
    if ts.all ok && s.oneClock ts then some ts else none

/-- Units paired with the cores they take. -/
def assign (units cores : List Nat) : List (Nat × Nat) := units.zip cores

/-- The plan for units of a launch that have not started: PLACE, all at once, or as many as fit (R347, R348, R350). -/
def State.planStart (s : State) (e : Partition) (env : Env) (extra : List Nat) (l : Launch) : Option Plan :=
  let units := (l.units.filter fun u => u.st == .pending).map (·.idx)
  let n := units.length
  let room := if env.size = 0 then n else (s.freeStacks l.part env n).length
  if l.place then
    if room < n then none
    else (s.freeRectangle e extra l).map fun ts =>
      let dark := ts.filter fun t => (s.tileAt t).gated
      if dark.isEmpty then .start l.id (assign units (ts.flatMap fun t => (List.range l.percore).map (8 * t + ·))) else .wake dark
  else
    let lit := s.freeTiles e extra false
    let dark := s.freeTiles e extra true
    let want := min n room
    if l.wave then
      let k := min want (countCores lit)
      if k != 0 then some (.start l.id (assign units (pickCores k lit)))
      else if want != 0 && !dark.isEmpty then some (.wake ((pickTiles (tilesNeeded (min want (countCores dark)) dark) (min want (countCores dark)) dark).map (·.1)))
      else none
    else if room < n then none
    else if n ≤ countCores lit then some (.start l.id (assign units (pickCores n lit)))
    else if n ≤ countCores lit + countCores dark then
      let k := n - countCores lit
      some (.wake ((pickTiles (tilesNeeded k dark) k dark).map (·.1)))
    else none

/-- Whether every command of a saved unit has written its record (R367). -/
def State.cmdsGone (s : State) (launch unit : Nat) : Bool :=
  s.cmds.all fun c => match c.unit with
    | some u => !(u.launch == launch && u.unit == unit)
    | none => true

/-- How a saved unit that is not to resume ends: its violation's release, or a cancellation (R353, R368). -/
def Launch.savedEnd (l : Launch) (u : Unit1) : Option (BitVec 16 × Nat) :=
  (u.kept.bind (·.ending)).orElse fun _ => if l.cancelled then some (errCANCEL, 0) else none

/-- The core to which a saved unit is bound: the one that it left, while entries of that core are suspended for it (R405). -/
def State.bound (s : State) (launch unit : Nat) (left : Option Nat) : Option Nat :=
  left.filter fun g => (s.coreAt g).out.any fun o => o.susp == some (launch, unit)

/-- The core on which a saved unit is to resume, when it is not any: that of R405, and for a unit of a launch of several units the core it left,
under whose number the others know it, as long as the partition has it (R406; log entry 126). -/
def State.resumesOn (s : State) (l : Launch) (unit : Nat) (left : Option Nat) : Option Nat :=
  (s.bound l.id unit left).orElse fun _ =>
    if 1 < l.units.length then left.filter fun g => !s.removed.contains (g / 1152) && (s.partEntry l.part).any fun e => e.tiles.contains (g / 8)
    else none

/-- The saved units of a launch that are to resume. -/
def Launch.toResume (l : Launch) : List Unit1 :=
  l.units.filter fun u => (match u.st with
    | .saved .. => true
    | _ => false) && (l.savedEnd u).isNone

/-- The saved units of a launch that are to resume, with the core that each is to resume on. -/
def State.savedUnits (s : State) (l : Launch) : List (Unit1 × Option Nat) :=
  l.toResume.map fun u => (u, match u.st with
    | .saved _ left => s.resumesOn l u.idx left
    | _ => none)

/-- The plan for saved units: a PLACE launch whole on its rectangle, at one frequency point (R428), others one at a time, a bound unit on its own core (R349, R367,
R405). -/
def State.planRestore (s : State) (e : Partition) (extra : List Nat) (l : Launch) : Option Plan :=
  let saved := s.savedUnits l
  let placed := s.placeCores extra (if l.place then some l.id else none)
  if l.place then
    let rect := l.rectCores
    let dark := (rect.foldl (fun t g => setInsert t (g / 8)) []).filter fun t => (s.tileAt t).gated
    if saved.isEmpty || !(rect.all (s.coreFree e extra placed)) || !s.oneClock (rect.map (· / 8)) || !(saved.all fun u => s.cmdsGone l.id u.1.idx) then none
    else if !dark.isEmpty then some (.wake dark)
    else saved.head?.map fun u => .restore l.id u.1.idx (l.homeCore u.1)
  else
    let on (g : Nat) (u : Unit1) : Plan := if (s.tileAt (g / 8)).gated then .wake [g / 8] else .restore l.id u.idx g
    (saved.filter fun u => s.cmdsGone l.id u.1.idx).findSome? fun u => match u.2 with
      | some g => if s.coreFree e extra placed g then some (on g u.1) else none
      | none =>
        match pickCores 1 (s.freeTiles e extra false) ++ pickCores 1 (s.freeTiles e extra true) with
        | g :: _ => some (on g u.1)
        | [] => none

/-- The launches of a partition that wait for cores, in the order they are considered (R349): descending priority, saved ones first,
then the order of dequeue; from the first aged one on, nothing else. -/
def State.candidates (s : State) (p : Nat) : List Launch :=
  let saved (l : Launch) : Bool := !l.cancelled && l.st == .placed && !l.toResume.isEmpty
  let fresh (l : Launch) : Bool := !l.cancelled && l.eligible.isSome && (l.units.any fun u => u.st == .pending)
  let all := sortBy (fun a b => b.prio < a.prio || (b.prio == a.prio && ((saved a && !saved b) || (saved a == saved b && a.id ≤ b.id))))
    (s.launches.filter fun l => l.part == p && (saved l || fresh l))
  match all.find? (fun l => l.aged && l.st == .held) with
  | none => all
  | some a => all.filter (fun l => a.prio < l.prio) ++ [a]

/-- The plan for one waiting launch. -/
def State.planFor (s : State) (e : Partition) (env : Env) (extra : List Nat) (l : Launch) : Option Plan :=
  match s.planRestore e extra l with
  | some x => some x
  | none => if l.units.any fun u => u.st == .pending then s.planStart e env extra l else none

/-- The decision for a partition (R349): nothing when it is quiesced or its environment block is invalid. -/
def State.plan (s : State) (p : Nat) : Option Plan :=
  match s.candidates p with
  | [] => none
  | ls => match s.partEntry p, s.env p with
    | some e, some env => if (s.pst p).quiesced then none else ls.findSome? fun l => s.planFor e env [] l
    | _, _ => none

/-- Carries out a plan: wakes and restores are steps of their own. -/
def State.carryOut (s : State) (p : Nat) (x : Plan) : State :=
  match x with
  | .wake ts => { s with agenda := s.agenda ++ ts.map fun t => .tileWake t }
  | .restore l u g => { s with agenda := s.agenda ++ [.unitRestore l u g] }
  | .start id us =>
    match s.env p with
    | none => s
    | some env =>
      let slots := s.freeStacks p env us.length
      let s := (s.readEnv p).modLaunch id fun l => { l with st := .placed, aged := false }
      ((List.range us.length).zip us).foldl (fun s (i, u, g) => s.startUnit id env u g (if env.size = 0 then none else slots[i]?)) s

/-- Whether a placement finds the environment block newly invalid, or valid again (R348). -/
def State.envNews (s : State) (p : Nat) : Bool := !(s.candidates p).isEmpty && (s.env p).isNone != (s.pst p).envTold

/-- PLACEMENT (R347, R349); an invalid environment block is reported once and places nothing (R348). -/
def execPlacement (part : Nat) (s : State) : Out :=
  event <| s.distActs <|
    match s.plan part with
    | some x => (s.setPst part { s.pst part with envTold := false }).carryOut part x
    | none =>
      if s.envNews part then
        let s := s.setPst part { s.pst part with envTold := (s.env part).isNone }
        if (s.env part).isNone then s.report (.envBlock part) else s
      else s

/-! ### Tile power (R350, R351) -/

/-- Whether a tile holds a unit. -/
def State.tileBusy (s : State) (t : Nat) : Bool := (List.range 8).any fun j => (s.coreAt (8 * t + j)).unit.isSome

/-- Whether a tile is due to be gated: elastic partition, no unit for the idle time. -/
def State.gateDue (s : State) (t : Nat) : Bool :=
  let x := s.tileAt t
  !x.gated && !s.tileBusy t && s.parts.any fun (_, e) => e.valid && !e.fixed && e.tiles.contains t && e.idleTime ≤ s.time.toNat - x.idle

/-- TILE_POWER_GATE (R350): no state that a unit can observe changes. -/
def execTilePowerGate (tile : Nat) (s : State) : Out :=
  event (if s.gateDue tile then { s with tiles := smapSet s.tiles tile ⟨true, (s.tileAt tile).idle⟩ } else s)

/-- TILE_WAKE (R350): the tile has its full idle time before it. -/
def execTileWake (tile : Nat) (s : State) : Out := event { s with tiles := smapSet s.tiles tile ⟨false, s.time.toNat⟩ }

/-- A core is released to the distributor (R365, R29); its tile's idle time starts when no unit is left on it. -/
def State.releaseCore (s : State) (g : Nat) : State :=
  let s := s.setCore g (s.coreAt g).vacant
  if s.tileBusy (g / 8) then s else { s with tiles := smapSet s.tiles (g / 8) ⟨(s.tileAt (g / 8)).gated, s.time.toNat⟩ }

/-! ### End of a unit (R29, R339, R353, R360) -/

/-- Whether every command of the unit on a core has written its record. -/
def State.unitCmdsGone (s : State) (g : Nat) : Bool :=
  match (s.coreAt g).unit with
  | some u => s.cmdsGone u.launch u.unit
  | none => true

/-- Whether the queue of a core is empty and the row array runs nothing for it (R29, R365). A `gang` of a unit that is ending leaves the
queue when it faults (R168). -/
def State.queueDone (s : State) (g : Nat) : Bool := (s.coreAt g).vq.isEmpty && !s.arrayBusy g

/-- The unit of a core has left its row: the `gang`s that wait there fault (R168). -/
def State.leaveRow (s : State) (row : Nat) : State :=
  if (s.gangsOf row).isEmpty && (s.row row).left.isEmpty then s else s.setRow row { s.row row with left := (s.gangsOf row).map (·.1) }

/-- The report of the unit on a core when it can end now: ERR and FCODE (R29, R360). -/
def State.endReady (s : State) (g : Nat) : Option (BitVec 16 × Nat) :=
  let c := s.coreAt g
  let done := s.queueDone g && (s.at g 0).storesPerformed && s.unitCmdsGone g && s.flushable g
  if c.unit.isNone || c.frozen || g ≥ nCores then none
  else match c.ending with
    | some r => if done then some r else none
    | none =>
      if (c.ctxAt 0).st == .waiting .retire && c.helpersFree 0x7FE && done then some (0, 0) else none

/-- Takes the unit off a core with its report (R29, R295, R340), its stores being in the mirror (R360, R417). The `gang`s waiting for it fault (R168). -/
def State.dropUnit (s : State) (g : Nat) (err : BitVec 16) (fcode : Nat) : State :=
  match (s.coreAt g).unit with
  | none => s
  | some u =>
    let s := s.mirrorAll.endSubs g
    let s := (s.releaseCore g).leaveRow (g / 4)
    let tile := (((s.launchAt u.launch).bind fun l => l.units.find? (·.idx == u.unit)).bind (·.tile)).getD (g / 8)
    let s := s.modLaunch u.launch fun l => { l with
      arrived := l.arrived.filter (·.core != g)
      units := l.units.map fun x => if x.idx = u.unit then { x with st := .ended, stack := none } else x }
    s.treePut ⟨u.launch, tile, err, 1, fcode⟩

/-- UNIT_END (R29). -/
def execUnitEnd (core : Nat) (s : State) : Out :=
  event <| s.agentActs none <|
    match s.endReady core with
    | some (err, fcode) => s.dropUnit core err fcode
    | none => s

/-! ### Cancellation of units (R208, R353) -/

/-- FCODE CANCEL of R206. -/
def fcCANCEL : Nat := 6

/-- The commands of a unit end with CANCEL (R208). -/
def State.cancelCmds (s : State) (launch unit : Nat) : State :=
  let mine := (s.cmds.filter fun c => match c.unit with
    | some u => u.launch == launch && u.unit == unit
    | none => false).map (·.id)
  let h := s.hand
  let s := mine.foldl (fun s id => match s.cmd id with
    | some c =>
      match c.st with
      | .finishing | .frozen => s
      | _ => (s.at c.core c.ctx).endCmd c fcCANCEL
    | none => s) s
  { s with hand := h }

/-- Whether a command of a unit has neither ended nor been told to. -/
def State.cmdsOpen (s : State) (launch unit : Nat) : Bool :=
  s.cmds.any fun c => (match c.unit with
    | some u => u.launch == launch && u.unit == unit
    | none => false) && c.endCode.isNone && c.st != .finishing && c.st != .frozen

/-- UNIT_CANCEL (R353, R368): a running unit stops at its boundary and is to end with CANCEL, unless it ends already; its commands end. A
saved one, cancelled or released after a violation, ends once its commands have. A quiesce holds what this writes (R3, R420). -/
def State.cancelUnit (s : State) (launch unit : Nat) : State :=
  match (s.launchAt launch).bind fun l => (l.units.find? (·.idx == unit)).map fun u => (l, u) with
  | none => s
  | some (l, u) =>
    if (s.pst l.part).quiesced then s
    else match u.st with
    | .running g =>
      let c := s.coreAt g
      if !l.cancelled || c.frozen || s.coreInCable g then s
      else
        let s := s.cancelCmds launch unit
        if c.ending.isSome then s else s.endUnit g errCANCEL 0
    | .saved _ left =>
      let b := s.bound launch unit left
      match l.savedEnd u with
      | none => s
      | some (err, fcode) =>
      let s := if l.cancelled then s.cancelCmds launch unit else s
      if s.cmdsGone launch unit && b.all s.flushable then
        let s := s.endKeptSubs launch unit b
        let s := s.modLaunch launch fun l => { l with
          units := l.units.map fun x => if x.idx = unit then { x with st := .ended, stack := none, kept := none, poison := [] } else x }
        s.treePut ⟨launch, u.tile.getD 0, err, 1, fcode⟩
      else s
    | _ => s

/-- Whether UNIT_CANCEL of a unit has something to do (R353, R368). -/
def State.cancelDue (s : State) (l : Launch) (u : Unit1) : Bool :=
  !(s.pst l.part).quiesced && match u.st with
  | .running g =>
    l.cancelled && !(s.coreAt g).frozen && !s.coreInCable g && ((s.coreAt g).ending.isNone || s.cmdsOpen l.id u.idx)
  | .saved _ left =>
    let b := s.bound l.id u.idx left
    (l.savedEnd u).isSome && ((s.cmdsGone l.id u.idx && b.all s.flushable) || (l.cancelled && s.cmdsOpen l.id u.idx))
  | _ => false

/-- UNIT_CANCEL. -/
def execUnitCancel (launch unit : Nat) (s : State) : Out := event (s.agentActs none (s.cancelUnit launch unit))

end Sys2Proof.Machine
end

