-- ==== Sys2Proof/Machine/Preempt.lean ====
section
/-! DEFINITION. Pre-emption: the choice of units, the save of a unit into its image and the restore (R287, R292 to R294, R348, R352,
R365 to R367, R405). -/

namespace Sys2Proof.Machine

/-! ### The choice (R352) -/

/-- Whether a partition has a free core, powered or gated. -/
def State.anyFree (s : State) (e : Partition) : Bool := !(s.freeTiles e [] false).isEmpty || !(s.freeTiles e [] true).isEmpty

/-- The groups of cores that could be saved for a launch of priority `prio`: one unit, or a PLACE launch whole, which stops at its next
boundary (R287). Lowest priority first, then most recently placed. Cores already being saved are not among them; a frozen unit is not
saved (R368). -/
def State.victims (s : State) (p prio : Nat) : List (List Nat) :=
  let ok (g : Nat) : Bool := let c := s.coreAt g; !c.frozen && !c.saving && c.ending.isNone
  let of (l : Launch) : List (Nat × Nat × List Nat) :=
    let us := l.units.filterMap fun u => match u.st with
      | .running g => some (u.placed, g)
      | _ => none
    if l.place then
      if !us.isEmpty && us.all fun u => ok u.2 then [(l.prio, us.foldl (fun n u => max n u.1) 0, us.map (·.2))] else []
    else (us.filter fun u => ok u.2).map fun u => (l.prio, u.1, [u.2])
  (sortBy (fun a b => a.1 < b.1 || (a.1 == b.1 && b.2.1 ≤ a.2.1))
    ((s.launches.filter fun l => l.part == p && !l.cancelled && l.st == .placed && l.prio + 2 ≤ prio).flatMap of)).map (·.2.2)

/-- The cores of the shortest run of victims that makes a launch fit, or of all of them (R352, R355). -/
def State.enough (s : State) (e : Partition) (env : Env) (l : Launch) : List Nat → List (List Nat) → List Nat
  | taken, [] => taken
  | taken, v :: rest => if (s.planFor e env taken l).isSome then taken else s.enough e env l (taken ++ v) rest

/-- The cores being saved in a partition, or to be saved at their boundary; those of a frozen unit, and of the launch with PLACE it belongs
to, are not (R368). -/
def State.savingCores (s : State) (p : Nat) : List Nat :=
  (s.cores.filter fun (g, c) => c.saving && c.part.toNat == p && c.unit.isSome && !c.frozen
    && (s.launchOf g).all fun l => !l.place || l.cores.all fun h => !(s.coreAt h).frozen).map (·.1)

/-- The cores to save now: for the first waiting launch, when no core is free (R352; log entry 24). -/
def State.preemption (s : State) (p : Nat) : List Nat :=
  match s.candidates p with
  | [] => []
  | ls => match s.partEntry p, s.env p with
    | some e, some env =>
      if (s.pst p).quiesced || s.anyFree e then []
      else
        let now := s.savingCores p
        ((ls.head?.map fun l => s.enough e env l now (s.victims p l.prio)).getD []).filter fun g => !now.contains g
    | _, _ => []

/-- PREEMPT (R352): the saver is to stop the cores chosen. -/
def execPreempt (part : Nat) (s : State) : Out :=
  event ((s.preemption part).foldl (fun s g => s.setCore g { s.coreAt g with saving := true }) s)

/-- A `gang` entry of a queue. -/
def VEntry.isGang (x : VEntry) : Bool :=
  match x.op with
  | .gang .. => true
  | _ => false

/-- The saver stops the contexts that wait in a `gang` not yet matched before it: its entry leaves the queue, and it issues again after the
restore (R365). -/
def State.withdraw (s : State) (g : Nat) : State :=
  let c := s.coreAt g
  let r := s.row (g / 4)
  if !s.stopping g || r.matched.isSome || !c.vq.any VEntry.isGang then s
  else (if r.left.contains g then s.setRow (g / 4) { r with left := r.left.erase g } else s).setCore g { c with
    vq := c.vq.filter fun x => !x.isGang
    ctxs := c.ctxs.map fun (n, x) => (n, if x.st == .waiting .gang then { x with st := .ready } else x) }

/-! ### The image (R366) -/

/-- The bytes of an image. -/
def imageSize : Nat := 0x100000

/-- The lowest image of the save area that no saved unit of the partition uses. -/
def State.freeImage (s : State) (p : Nat) : Nat :=
  let base := ((s.partEntry p).map (·.saveArea)).getD 0
  let used := (s.launches.filter (·.part == p)).flatMap fun l => l.units.filterMap fun u => match u.st with
    | .saved img _ => some img
    | _ => none
  base + imageSize * (((List.range (used.length + 1)).find? fun k => !used.contains (base + imageSize * k)).getD 0)

/-- Chunks of 64 bytes of a list of bytes, as numbers, the first at `off`. -/
def chunks : Nat → Nat → List Byte → List (Nat × Nat × Nat)
  | 0, _, _ => []
  | n + 1, off, l => if l.isEmpty then [] else (off, min 64 l.length, leBytes (l.take 64)) :: chunks n (off + 64) (l.drop 64)

/-- A list of doublewords in an image. -/
def words8 (off : Nat) (l : List Word) : List (Nat × Nat × Nat) := ((List.range l.length).zip l).map fun (i, w) => (off + 8 * i, 8, w.toNat)

/-- A list of words in an image. -/
def words4 (off : Nat) (l : List W32) : List (Nat × Nat × Nat) := ((List.range l.length).zip l).map fun (i, w) => (off + 4 * i, 4, w.toNat)

/-- A doubleword whose contents the manual does not state. -/
def freeWord (n i : Nat) : Word := BitVec.ofNat 64 (leBytes ((List.range 8).map fun j => Config.freeByte n (8 * i + j)))

/-- TBLSTATE (R37). -/
def Core.tblState (c : Core) : Word := 0#60 ++ (BitVec.ofBool c.nmono1 ++ BitVec.ofBool c.nmono0 ++ 0#1 ++ BitVec.ofBool c.half)

/-- The register part of an image (R366): offset, bytes and value of each piece. The cause words of a context's frame, the codes of
its state and the form of the incoming entries are not stated: they are free. -/
def Core.imageRegs (c : Core) (n : Nat) : List (Nat × Nat × Nat) :=
  ((List.range 32).flatMap fun r => words4 (0x21000 + 1024 * r) ((List.range 256).map fun e => c.vElem (BitVec.ofNat 5 r) e))
    ++ ((List.range 8).map fun r => (0x29000 + 32 * r, 32, (c.mask (BitVec.ofNat 3 r)).toNat))
    ++ words8 0x29100 [c.shape.setWidth 64, (BitVec.ofBool c.zero).setWidth 64, c.weight.setWidth 64, c.scale, c.tblState, c.cfg, c.shadow,
        c.tvec, 0#14 ++ c.sphi ++ 0#14 ++ c.splo, c.lapse.setWidth 64]
    ++ words4 0x29180 ((List.range 256).map fun i => (c.table.getD i 0).setWidth 32)
    ++ ((List.range 4).flatMap fun r =>
        let o := 0x29600 + 0x200 * r
        match c.m.toList.getD r none with
        | some x => (List.range 4).map (fun i => (o + 64 * i, 64, bytesRead x.mcb (64 * i) 64)) ++ [(o + 256, 16, x.cap.toNat), (o + 272, 8, 1)]
        | none => [(o, 64, 0), (o + 64, 64, 0), (o + 128, 64, 0), (o + 192, 64, 0), (o + 256, 16, 0), (o + 272, 8, 0)])
    ++ chunks 80 0x2A000 (tileBytes c.t0) ++ chunks 80 0x2B400 (tileBytes c.t1)
    ++ words8 0x2C800 ((List.range 32).map fun i => freeWord n i)
    ++ words8 0x2C900 (List.replicate 32 0)
    ++ ((List.range 11).flatMap fun k =>
        let x := c.ctxAt k
        let o := 0x30000 + 0x1800 * k
        if x.st = .free then words8 o ((List.range 653).map fun i => freeWord n (1000 * (k + 1) + i))
        else words8 o (x.frame x.pc (freeWord n (1000 * (k + 1))) (freeWord n (1000 * (k + 1) + 1)) (freeWord n (1000 * (k + 1) + 2)))
          ++ words8 (o + 0x1420) [freeWord n (1000 * (k + 1) + 3), x.epc, x.ecause, x.eaddr, x.einfo, x.uvec, x.uframe,
            (BitVec.ofBool x.sys).setWidth 64, (BitVec.ofBool x.wake).setWidth 64])

/-- Writes pieces into an image. -/
def State.imgPieces (s : State) (p img : Nat) (l : List (Nat × Nat × Nat)) : State :=
  l.foldl (fun s (o, n, v) => s.imgPut p (img + o) n v) s

/-- The poisoned words of the scratchpad of a core, by offset. -/
def State.spadPoison (s : State) (g : Nat) : NatSet :=
  (s.mem.poison.filter fun x => spadPa g 0 ≤ x && x < spadPa g 0x20000).map (· - spadPa g 0)

/-- Copies the scratchpad of core `g` and its full-empty bits to an image. -/
def State.saveSpad (s : State) (g p img : Nat) : State :=
  let s := (List.range 2048).foldl (fun s i => s.imgPut p (img + 64 * i) 64 (s.spRead g (64 * i) 64)) s
  (List.range 64).foldl (fun s i => s.imgPut p (img + 0x20000 + 64 * i) 64 (s.mem.feRead g (64 * i) 64)) s

/-- Whether the 64 bytes of an image at `va` stand in a poisoned line (R413). -/
def State.imgPoisoned (s : State) (p va : Nat) : Bool :=
  match (s.imgPa p va .read).2 with
  | some pa => s.mem.poisoned false pa 64
  | none => false

/-- Copies an image back into the scratchpad of core `g`, with the words that were poisoned when it was saved and those whose bytes or full-empty
bits stand in a poisoned line of the image (R413, R414). -/
def State.loadSpad (s : State) (g p img : Nat) (poison : NatSet) : State :=
  let words (n w i : Nat) : List Nat := (List.range w).map fun j => n * i + 4 * j
  let bad := poison ++ (((List.range 2048).filter fun i => s.imgPoisoned p (img + 64 * i)).flatMap (words 64 16))
    ++ ((List.range 64).filter fun i => s.imgPoisoned p (img + 0x20000 + 64 * i)).flatMap (words 2048 512)
  let s := (List.range 2048).foldl (fun s i => s.spWrite g (64 * i) 64 (s.imgGet p (img + 64 * i) 64) false false) s
  let s := (List.range 64).foldl (fun s i => { s with mem := s.mem.feWrite g (64 * i) 64 (s.imgGet p (img + 0x20000 + 64 * i) 64) }) s
  { s with mem := { s.mem with poison := bad.foldl (fun l o => setInsert l (spadPa g o)) s.mem.poison } }

/-- Copies the B-operand SRAM of a row to or from an image of its lowest core (R366). -/
def State.saveSram (s : State) (row p img : Nat) : State :=
  (List.range 8192).foldl (fun s i => s.imgPut p (img + 0x80000 + 64 * i) 64 (bytesRead s.sram (sramKey row (64 * i)) 64)) s
def State.loadSram (s : State) (row p img : Nat) : State :=
  (List.range 8192).foldl (fun s i =>
    { s with sram := bytesWrite s.sram (sramKey row (64 * i)) 64 (s.imgGet p (img + 0x80000 + 64 * i) 64) }) s

/-- After the restore of a unit of a launch without PLACE the B-operand SRAM of its row, if that launch held the row last, is not
defined (R165, R366): its bytes are free values. -/
def State.freeSram (s : State) (row id : Nat) : State :=
  if (s.row row).lastHeld = some id then
    { s with
      sram := (List.range 8192).foldl (fun m i =>
        bytesWrite m (sramKey row (64 * i)) 64 (leBytes ((List.range 64).map fun j => Config.freeByte s.fresh (64 * i + j)))) s.sram
      fresh := s.fresh + 1 }
  else s

/-! ### Saving (R292, R365, R405) -/

/-- Whether the saver can stop a context (R365): its replies are in, no access that it has issued is still on its way to a line, no
instruction is in hand, and no fault waits to be taken, which would be delivered first (R369). -/
def Context.canStop (x : Context) : Bool :=
  x.replies.isEmpty && match x.st with
    | .waiting .earlier | .waiting (.host _) | .waiting (.grant _) => false
    | .ready => !x.inHand
    | _ => true

/-- Whether a core is at rest for the saver (R365): its contexts are stopped, its queue is empty but for `gang`s still unmatched, no
operation runs for it, replies are in, stores are performed, and its updates can be taken. The writes of its image are requests of the partition, which a quiesce holds
(R420). -/
def State.saveReady (s : State) (g : Nat) : Bool :=
  let c := s.coreAt g
  let t := s.withdraw g
  s.stopping g && !(s.pst c.part.toNat).quiesced && !c.frozen && c.unit.isSome && c.ending.isNone && !s.coreInCable g && t.queueDone g && (s.at g 0).storesPerformed
    && (c.ctxs.all fun x => x.2.canStop) && s.flushable g

/-- Whether the saver withdraws `gang`s from the queue of a core. -/
def State.withdrawDue (s : State) (g : Nat) : Bool :=
  s.stopping g && (s.row (g / 4)).matched.isNone && (s.coreAt g).vq.any VEntry.isGang

/-- A context as the saver stops it: before its waiting instruction, which issues again after the restore (R365). An `unsub` that waits
completes against the image (R296). -/
def Context.stopped (x : Context) : Context :=
  match x.st with
  | .waiting (.entryDrained _ next) => { x with st := .ready, inHand := false, pc := next, issued := x.issued + 1 }
  | .waiting _ => { x with st := .ready, inHand := false }
  | _ => { x with inHand := false }

/-- The entries on which an `unsub` of a core waits. -/
def Core.unsubbing (c : Core) : List Nat :=
  c.ctxs.filterMap fun x => match x.2.st with
    | .waiting (.entryDrained e _) => some e
    | _ => none

/-- Entries of a subscriber: the updates and the outgoing entries that feed core or image `a` now feed `b`. -/
def State.redirect (s : State) (pub : Nat) (a b : SubRef) : State :=
  let c := s.coreAt pub
  s.setCore pub { c with out := c.out.map (fun o => if o.sub = a then { o with sub := b } else o)
                         flits := c.flits.map fun f => if f.sub = a then { f with sub := b } else f }

/-- Saves the unit of one core (R365, R366), its stores being in the mirror (R417). -/
def State.saveOne (s : State) (g : Nat) : State :=
  match (s.coreAt g).unit with
  | none => s
  | some u =>
    match s.launchAt u.launch with
    | none => s
    | some l =>
      let s := (s.withdraw g).mirrorAll
      let pubs := (s.coreAt g).inc.foldl (fun t x => setInsert t x.2.pub) []
      let s := pubs.foldl (fun s q => s.flushTo q (.core g)) s
      let s := s.flush g
      let gone := (s.coreAt g).unsubbing
      let s := gone.foldl (fun s e => s.dropOut ((s.coreAt g).incAt e).pub (.core g) e) s
      let img := s.freeImage l.part
      let c := s.coreAt g
      let c := { c with
        ctxs := c.ctxs.map (fun (n, x) => (n, x.stopped)), saving := false, recovery := true
        inc := c.inc.filter fun x => !gone.contains x.1 }
      let poison := s.spadPoison g
      let s := s.setCore g c
      let s := s.saveSpad g l.part img
      let s := { s.imgPieces l.part img (c.imageRegs s.fresh) with fresh := s.fresh + 1 }
      let s := if l.place && g % 4 = 0 then s.saveSram (g / 4) l.part img else s
      let kept := { c with
        inc := c.inc.map (fun (e, x) => (e, if x.st = .live then { x with st := .redirected } else x)), out := [], flits := [] }
      let s := s.modLaunch l.id fun l => { l with
        arrived := l.arrived.filter (·.core != g)
        units := l.units.map fun x => if x.idx = u.unit then { x with
          st := .saved img (some g), kept := some kept, poison := poison } else x }
      let s := s.setCore g { s.coreAt g with
        out := (s.coreAt g).out.map fun o => if o.susp.isNone then { o with susp := some (l.id, u.unit) } else o }
      let s := pubs.foldl (fun s q => s.redirect q (.core g) (.image l.id u.unit)) s
      (s.releaseCore g).leaveRow (g / 4)

/-- UNIT_SAVE (R365): the unit of a core, or every unit of its PLACE launch together; first the saver withdraws `gang`s. -/
def execUnitSave (core : Nat) (s : State) : Out :=
  event <| s.agentActs none <|
    match s.launchOf core with
    | none => s
    | some l =>
      if s.withdrawDue core then s.withdraw core
      else if l.place then (if l.cores.all s.saveReady then l.cores.foldl State.saveOne s else s)
      else if s.saveReady core then s.saveOne core else s

/-! ### Restoring (R293, R294, R348, R367) -/

/-- `n` doublewords of an image. -/
def State.imgWords (s : State) (p va n : Nat) : List Word := (List.range n).map fun i => BitVec.ofNat 64 (s.imgGet p (va + 8 * i) 8)

/-- A context from its slot of an image; its state, and strands whose image is damaged, are those kept. Reserved fields of its registers
read 0 (R9), and its pc is even (R89). -/
def State.loadContext (s : State) (p o : Nat) (x : Context) : Context :=
  if x.st = .free then x
  else
    let f := s.imgWords p o 644
    let w (i : Nat) : Word := BitVec.ofNat 64 (s.imgGet p (o + 0x1420 + 8 * i) 8)
    { x.ofFrame f ((frameStrands f).getD x.h.toList) with
      pc := f.getD 0 0 &&& 0xFFFFFFFFFFFFFFFE
      epc := w 1
      ecause := w 2 &&& 0x1FF
      eaddr := w 3
      einfo := w 4
      uvec := vaField (w 5)
      uframe := w 6 &&& 0xFFFC1
      sys := (w 7).getLsbD 0
      wake := (w 8).getLsbD 0 }

/-- The elements and status of tile register `t` in an image (R30, R174). -/
def State.loadTile (s : State) (p va : Nat) (t : BitVec 1) : TileReg :=
  ⟨(List.range 1024).map fun e => tileElem t (BitVec.ofNat 32 (s.imgGet p (va + 4 * e) 4)),
   (List.range 1024).map fun e => BitVec.ofNat 3 (s.imgGet p (va + 4096 + e) 1 % 4)⟩

/-- A mesh slot in an image. -/
def State.loadSlot (s : State) (p va : Nat) : Option Slot :=
  if s.imgGet p (va + 272) 8 % 2 = 1 then
    some ⟨(List.range 4).foldl (fun m i => bytesWrite m (64 * i) 64 (s.imgGet p (va + 64 * i) 64)) [], BitVec.ofNat 128 (s.imgGet p (va + 256) 16)⟩
  else none

/-- The registers of a core from an image, over what was kept. -/
def State.loadRegs (s : State) (p img : Nat) (c : Core) : Core :=
  let w (i : Nat) : Word := BitVec.ofNat 64 (s.imgGet p (img + 0x29100 + 8 * i) 8)
  { c with
    v := vecOf 32 [] ((List.range 32).map fun r => (List.range 256).map fun e => BitVec.ofNat 32 (s.imgGet p (img + 0x21000 + 1024 * r + 4 * e) 4))
    k := vecOf 8 0 ((List.range 8).map fun r => BitVec.ofNat 256 (s.imgGet p (img + 0x29000 + 32 * r) 32))
    shape := (w 0).setWidth 8
    zero := (w 1).getLsbD 0
    weight := (w 2).setWidth 4
    scale := w 3
    half := (w 4).getLsbD 0
    nmono0 := (w 4).getLsbD 2
    nmono1 := (w 4).getLsbD 3
    cfg := w 5
    shadow := w 6
    lapse := (w 9).setWidth 16 ||| c.lapse
    table := (List.range 256).map fun i => BitVec.ofNat 18 (s.imgGet p (img + 0x29180 + 4 * i) 4)
    m := vecOf 4 none ((List.range 4).map fun r => s.loadSlot p (img + 0x29600 + 0x200 * r))
    t0 := s.loadTile p (img + 0x2A000) 0
    t1 := s.loadTile p (img + 0x2B400) 1
    ctxs := c.ctxs.map fun (n, x) => (n, s.loadContext p (img + 0x30000 + 0x1800 * n) x) }

/-- Whether a register of a unit stands in a poisoned line of its image: that state has no second copy (R412, R413). -/
def State.regsPoisoned (s : State) (p img : Nat) (c : Core) : Bool :=
  ((unitsOf 64 0x21000 0xB980) ++ c.ctxs.flatMap fun x => if x.2.st == .free then [] else unitsOf 64 (0x30000 + 0x1800 * x.1) 0x1480).any
    fun o => s.imgPoisoned p (img + o)

/-- The same for the B-operand SRAM. -/
def State.sramPoisoned (s : State) (p img : Nat) : Bool := (List.range 8192).any fun i => s.imgPoisoned p (img + 0x80000 + 64 * i)

/-- The recorded half-lines of one published region, each forwarded in full (R294). -/
def State.forwardMap (s : State) (g p img : Nat) (o : Outgoing) : State :=
  (unitsOf 64 o.off o.len).foldl (fun s a =>
    if s.imgGet p (img + 0x2C900 + a / 64 / 8) 1 / 2 ^ (a / 64 % 8) % 2 = 1 then
      let f : Flit := ⟨o.sub, o.entry, a - o.off, (List.range 64).map fun i => bytesGet s.mem.bytes (spadPa g (a + i)), true, (s.coreAt g).epoch, g⟩
      s.setCore g { s.coreAt g with flits := (s.coreAt g).flits ++ [f] }
    else s) s

/-- The unit of a core ends with POISON; no handler is entered (R412). -/
def State.poisonUnit (s : State) (g : Nat) : State :=
  if (s.coreAt g).unit.isNone || (s.coreAt g).ending.isSome then s
  else (s.endUnit g errFAULT cPOISON).raiseEvent (s.coreAt g).part.toNat 5

/-- Restores one unit onto core `g` (R367). A stack is neither given nor taken by a restore, whatever STACKSZ has become (R348; log entry 124); a
register that stands in a poisoned line of the image ends the unit (R412; log entry 127). -/
def State.restoreOne (s : State) (id : Nat) (env : Env) (unit g : Nat) : State :=
  match s.launchAt id with
  | none => s
  | some l =>
    match l.units.find? (·.idx == unit) with
    | some ⟨_, .saved img _, _, _, _, some kept, poison⟩ =>
      let p := l.part
      let pubs := kept.inc.foldl (fun t x => setInsert t x.2.pub) []
      let s := pubs.foldl (fun s q => s.flushTo q (.image id unit)) s
      let kept := (s.keptOf id unit).getD kept
      let s := (s.passCore g id).loadSpad g p img poison
      let c := (s.loadRegs p img kept).setEnv l env
      let bad := s.regsPoisoned p img kept
      let mine := (s.coreAt g).out.filter fun o => o.susp == some (id, unit)
      let outs := (s.coreAt g).out.map fun o => if o.susp = some (id, unit) then { o with susp := none } else o
      let c := { c with
        recovery := false, unit := some ⟨id, unit, l.helpers⟩, lastHeld := some id, part := BitVec.ofNat 4 p, out := outs, icache := []
        flits := (s.coreAt g).flits, laneUse := (s.coreAt g).laneUse, laneWait := none
        inc := kept.inc.map fun (e, x) => (e, if x.st = .redirected then { x with st := .live } else x) }
      let s := { s with fresh := s.fresh + 1 }.setCore g c
      let s := pubs.foldl (fun s q => s.redirect q (.image id unit) (.core g)) s
      let s := s.modLaunch id fun l => { l with
        units := l.units.map fun x => if x.idx = unit then { x with st := .running g, placed := s.nextId, kept := none, poison := [] } else x }
      let s := if l.place then s else s.freeSram (g / 4) id
      let s := { s with nextId := s.nextId + 1 }.passRow (g / 4)
      let s := (mine.foldl (fun s o => s.forwardMap g p img o) s).takeLapse g
      if bad then s.poisonUnit g else s
    | _ => s

/-- UNIT_RESTORE (R367): one unit, or every unit of a PLACE launch on the rectangle it left, as the distributor planned it. -/
def execUnitRestore (launch unit core : Nat) (s : State) : Out :=
  event <| s.distActs <|
    match s.launchAt launch with
    | none => s
    | some l =>
      match s.partEntry l.part, s.env l.part with
      | some e, some env =>
        if l.cancelled || (s.pst l.part).quiesced then s
        else match s.planRestore e [] l with
          | some (.restore ..) =>
            let s := s.readEnv l.part
            if l.place then
              let s := (s.savedUnits l).foldl (fun s u => s.restoreOne launch env u.1.idx (l.homeCore u.1)) s
              (s.savedUnits l).foldl (fun s u => match u.1.st with
                | .saved img _ =>
                  let g := l.homeCore u.1
                  if g % 4 != 0 then s
                  else
                    let t := s.loadSram (g / 4) l.part img
                    if s.sramPoisoned l.part img then (rowCores (g / 4)).foldl State.poisonUnit t else t
                | _ => s) s
            else if s.coreFree e [] (s.placeCores [] none) core && s.cmdsGone launch unit
                && (s.savedUnits l).any (fun u => u.1.idx == unit && (u.2 == none || u.2 == some core)) then s.restoreOne launch env unit core
            else s
          | _ => s
      | _, _ => s

end Sys2Proof.Machine
end

