-- ==== Sys2Proof/Machine/Coherence.lean ====
section
/-! DEFINITION. Events of the directory, the host attachment and the load-store domain (R264, R380, R382, R390 to R402). -/

namespace Sys2Proof.Machine

/-! ### Copies and their directory (R264, R382, R390, R391) -/

/-- Whether a directory entry records nothing. -/
def DirEntry.idle (e : DirEntry) : Bool := e.owner.isNone && e.sharers.isEmpty && e.awaited.isEmpty && e.claims.isEmpty

/-- Changes a directory entry; one with nothing in it is dropped. -/
def State.updDir (s : State) (k : Nat) (f : DirEntry → DirEntry) : State :=
  match s.dirAt k with
  | none => s
  | some e => s.setDir k (if (f e).idle then none else some (f e))

/-- Forgets one agent's copy. -/
def State.dropCopy (s : State) (k : Nat) (a : CacheAgent) : State :=
  s.updDir k fun e => { e with owner := e.owner.filter (·.1 != a), sharers := e.sharers.filter (· != a) }

/-- Whether no cache of the device holds a line. -/
def State.uncached (s : State) (k : Nat) : Bool :=
  match s.dirAt k with
  | some e => e.owner.isNone && e.sharers.isEmpty
  | none => true

/-- An acknowledgement arrives at the home; with the last one the stores that awaited it are performed. -/
def State.ackCopy (s : State) (k : Nat) (a : CacheAgent) : State :=
  s.updDir k fun e =>
    let aw := e.awaited.filter (· != a)
    { e with awaited := aw, writers := if aw.isEmpty then [] else e.writers }

/-- TRANSLATION_INVALIDATE_ACK (R382, R388): a cache that keeps copies in S only drops every entry derived from the line and, once what it
translated with them is drained, acknowledges; the distributor tests its launches again (R343). -/
def State.ackDerived (s : State) (k : Nat) (a : CacheAgent) : State :=
  let s := s.dropDerived a k
  if !s.drained a k then s
  else
    let s := (s.ackCopy k a).dropCopy k a
    if a == .distributor then
      let s := if (s.appendLine (keyLoc k).pa).isSome then s.distShares k else s
      s.distSees k
    else s

/-- TRANSLATION_INVALIDATE_ACK. -/
def execTranslationInvalidateAck (line : Nat) (agent : CacheAgent) (s : State) : Out := event (s.ackDerived line agent).unhold

/-- INVALIDATION (R264, R391, R401): the cache drops its copy, a dirty one written back first, and acknowledges. When the last copy of a half
of a host-homed line goes, the half is written back or released (R395). -/
def State.invalidate (s : State) (a : CacheAgent) (k : Nat) : State :=
  match s.dirAt k with
  | none => s
  | some e =>
    if sOnly a then s.ackDerived k a
    else
      let s := if e.owner.any (·.1 == a) then s.writeBack k else s
      let s := (s.ackCopy k a).dropCopy k a
      if s.uncached k then s.dropHalf k else s

/-- INVALIDATION. -/
def execInvalidation (line : Nat) (agent : CacheAgent) (s : State) : Out :=
  event ((lineKeys line).foldl (fun s k => s.invalidate agent k) s).unhold

/-- FORWARD (R391, R417): the owner supplies the line, once the mirror holds what it supplies. -/
def execForward (line : Nat) (requester : CacheAgent) (s : State) : Out :=
  event ((lineKeys line).foldl (fun s k => if ((s.dirAt k).bind (·.owner)).isSome then s.dirRead requester k else s) s)

/-! ### Host snoops and answers (R392 to R395, R399) -/

/-- A port sends a message to the host of a logical device. -/
def State.tellHost (s : State) (n : Nat) (x : PortMsg) : State := s.setLd n { s.ld n with answers := (s.ld n).answers ++ [x] }

/-- Whether the port of a logical device carries traffic: its link is up, and the host is not frozen (R399, R422). -/
def State.portLive (s : State) (n : Nat) : Bool := !(s.ld n).down && !(s.ld n).frozen

/-- The copies of a half become clean copies in S (R394). -/
def State.demote (s : State) (k : Nat) : State :=
  (s.writeBack k).updDir k fun e => { e with owner := none, sharers := ((e.owner.map (·.1)).toList ++ e.sharers).eraseDups }

/-- The three snoops of a host (R394). -/
inductive Snoop where
  | inv | data | cur
  deriving DecidableEq, Repr

/-- The answer to a snoop of a half in a state (R394), and whether the half's bytes go with it. A half in S under SnpData answers as one
in E, and SnpCur always answers with the current half (log entry 108). -/
def Snoop.answer (x : Snoop) (st : HalfSt) : SnoopResp × Bool :=
  match st, x with
  | .i, _ => (.iHitI, false)
  | _, .cur => (.vFwdV, true)
  | .m, .inv => (.iFwdM, true)
  | _, .inv => (.iHitSE, false)
  | .m, .data => (.sFwdM, true)
  | _, .data => (.sHitSE, false)

/-- The copies of a half after a snoop (R394): gone, clean in S, or as they were. The other half keeps everything (R392); a pinned line of
which no half is left is pinned no more (R395). -/
def State.snooped (s : State) (x : Snoop) (k : Nat) : State :=
  match x with
  | .inv =>
    let s := (s.setDir k none).modHalf k fun _ => .i
    let b := s.bridgeAt (keyLine k)
    if b.h0 == .i && b.h1 == .i then s.unpin (keyLine k) else s
  | .data => (s.demote k).modHalf k fun _ => .s
  | .cur => s

/-- A snoop of half `h` of a line (R394): what goes to the host is in the mirror first (R417). A port that carries no traffic holds it
(R399). -/
def State.snoop (s : State) (x : Snoop) (line : Nat) (h : Bool) : State :=
  let k := keyLine line + if h then 64 else 0
  let st := ((s.bridgeAt (keyLine k)).half h).1
  match s.ldOf k with
  | none => s
  | some n =>
    if !s.portLive n || !hostKey k then s
    else
      let s := s.mirrorNow k
      let (r, d) := x.answer st
      let s := s.tellHost n (.snoop (k - hostBase) r (if d then some (leBytes (s.lineBytes k)) else none))
      if st == .i then s else s.snooped x k

/-- SNPINV (R394). -/
def execSnpInv (line : Nat) (half : Bool) (s : State) : Out := event (s.snoop .inv line half)

/-- SNPDATA (R394). -/
def execSnpData (line : Nat) (half : Bool) (s : State) : Out := event (s.snoop .data line half)

/-- SNPCUR (R394). -/
def execSnpCur (line : Nat) (half : Bool) (s : State) : Out := event (s.snoop .cur line half)

/-- Poisons a line at its home (R413); the partition that it belongs to counts it (R430). -/
def State.poisonLine (s : State) (l : Loc) : State :=
  let m := s.phys l.dev
  let s := s.setPhys l.dev { m with poison := setInsert m.poison (l.pa / 128 * 128) }
  match if l.dev = 0 then s.lineOwner l.pa else none with
  | some x => { s with telemetry := { s.telemetry with poisoned := bump s.telemetry.poisoned x.1 } }
  | none => s

/-- The lines a host held are lost to it (R399, R422): those with a half in E or M are poisoned, the others are invalid there. -/
def State.loseHost (s : State) (n : Nat) : State :=
  let mine := s.hostHeld.filter fun x => x.ld == n
  let s := mine.foldl (fun s x => s.dropCopy x.line (.host n)) s
  (mine.filter fun x => x.h0 == .e || x.h0 == .m || x.h1 == .e || x.h1 == .m).foldl (fun s x => s.poisonLine (keyLoc x.line))
    { s with hostHeld := s.hostHeld.filter (·.ld != n) }

/-- A violation of a host logical device (R399): it is frozen and reported. -/
def State.freezeHost (s : State) (n : Nat) : State :=
  ((((s.setLd n { s.ld n with frozen := true }).loseHost n).report (.hostViolation n)).raiseEvent n 0).unhold

/-- HOST_RESPONSE (R393): the host answers the request for a half: E for RdOwn, S or E as it grants for RdShared. The bytes that it gives
are those of a half that the device did not hold; with none, the host has not written the half since (R395). An answer that was never
requested is a violation (R399). A line in no window, which only an Avlyn core's physical address reaches (R370), is answered alike. -/
def State.hostAnswer (s : State) (k : Nat) (h : Bool) (data : Option Nat) : State :=
  let b := s.bridgeAt k
  let (x, r) := b.half h
  match s.ldOf k, r with
  | none, none => s
  | some n, none => if s.portLive n then s.freezeHost n else s
  | d, some own =>
    if !(d.all s.portLive) then s
    else
      let s := if x = .i then data.elim s fun v => s.writeAt ⟨0, (keyLoc k).pa + if h then 64 else 0⟩ 64 v else s
      if own then s.setBridge (b.setHalf h (if x = .m then .m else .e) none)
      else { s.setBridge (b.setHalf h (if (Config.freeByte s.fresh 0).getLsbD 0 then .e else .s) none) with fresh := s.fresh + 1 }

/-- HOST_RESPONSE. -/
def execHostResponse (line : Nat) (answer : HalfAnswer) (s : State) : Out := event (s.hostAnswer line answer.half answer.data).unhold

/-! ### CXL.mem (R345, R397, R399) -/

/-- The port's record of the half [pa, pa + n) of a device line after a host access (R397): in M after a write, in E after a read that made the
host the only holder, else shared. -/
def State.hostHolds (s : State) (n k pa size : Nat) (write : Bool) : State :=
  let x := (s.heldAt k).getD ⟨k, n, .i, .i, false, false, 0⟩
  let own := (s.dirAt k).any fun e => e.owner.any (·.1 == .host n)
  let st (old : HalfSt) : HalfSt := if write then .m else if old != .i then old else if own then .e else .s
  let hs := halvesOf pa size
  let x := { x with ld := n, h0 := if hs.contains false then st x.h0 else x.h0, h1 := if hs.contains true then st x.h1 else x.h1 }
  { s with hostHeld := s.hostHeld.filter (·.line != k) ++ [x] }

/-- A request of a bus is of no core: it carries no fence's order, and its updates are no core's (R320). -/
def State.asBus (s : State) (f : State → State) : State := { f { s with hand := ⟨nCores + 32, 0, 0, 0, 0⟩ } with hand := s.hand }

/-- A host access that reaches a line of device memory (R397): the port is a sharer after a read, the owner after a write. -/
def State.hostLine (s : State) (n : Nat) (l : Loc) (addr size : Nat) (write : Bool) (v : Nat) (held : Instr) : State :=
  let k := lineKey l
  let s := s.usePin k
  if !write then
    let s := (s.dirRead (.host n) k).hostHolds n k l.pa size false
    s.tellHost n (.value addr size (s.readAt l size))
  else
    let (s, w) := s.claimLine none (some (.host n)) k
    if w then s.holdBus held
    else
      let s := (((s.homeStore none none k).sliceDirty k).store l size v).dirOwn (.host n) k
      ((s.setPhys 0 (s.mem.cleanse l.pa size)).hostHolds n k l.pa size true).tellHost n (.done addr)

/-- A host access that reaches a location of this device: poisoned data answer with poison and nothing is written (R413). -/
def State.hostAt (s : State) (n : Nat) (l : Loc) (addr size : Nat) (write : Bool) (v : Nat) (held : Instr) : State :=
  let p : Part := ⟨l, size⟩
  if (isSpad l.pa && 6 ≤ (spadParts l.pa).2.1) || (s.dataBad p (if write then .write else .read)).isSome then s.tellHost n (.poison addr)
  else if isSpad l.pa || (s.appendLine l.pa).isSome then
    if write then s.actsOnce none held ((s.writePart p v).1.tellHost n (.done addr)) else s.tellHost n (.value addr size (s.readPart p))
  else s.hostLine n l addr size write v held

/-- The port that carries a request of a logical device: one of its ports that work; which one is free (log entry 129). -/
def State.portOf (s : State) (n : Nat) : Nat :=
  let ps := if (s.ld n).portsUp.isEmpty then ((s.partEntry n).map (·.ports)).getD [] else (s.ld n).portsUp
  ps.getD ((Config.freeByte s.fresh 4).toNat % ps.length) 0

/-- HOST_CXL_MEM_ACCESS (R397): outside the window, or reaching another partition, it is a violation; a fault, and a frozen port, answer with
poison (R399). The port keeps the translation (R379). -/
def State.hostAccess (s : State) (n addr size : Nat) (write : Bool) (v : Nat) (held : Instr) : State :=
  match s.partEntry n with
  | none => s
  | some e =>
    let va := (addr - e.hdmBase) % 2 ^ 48
    let port : CacheAgent := .portTlb (s.portOf n)
    if (s.ld n).down then s
    else if (s.ld n).frozen then s.tellHost n (.poison addr)
    else if addr < e.hdmBase || e.hdmBase + min e.hdmSize (2 ^ 48) < addr + size then s.freezeHost n
    else if (s.pst n).quiesced then s.holdBus held
    else match s.translate port n va (if write then .write else .read) with
      | .error (s, .violation) => s.freezeHost n
      | .error (s, .wait _) => s.holdBus held
      | .error (s, .flt ..) => s.tellHost n (.poison addr)
      | .ok (s, l) =>
        let s := { s.fillXlat port n va [] with fresh := s.fresh + 1 }
        if isSpad l.pa && s.coreInCable (spadParts l.pa).1 then s.holdBus held
        else if l.dev = 0 && !isHost l.pa then s.asBus fun s => s.hostAt n l addr size write v held
        else s.tellHost n (.poison addr)

/-- Whether a CXL.mem request has the form that one can have: a read or write within one half of a line. -/
def cxlMem (addr size : Nat) (op : BusOp) : Bool := (op == .read || op == .write) && 0 < size && addr % 64 + size ≤ 64

/-- HOST_CXL_MEM_ACCESS: CXL.mem has no other request. -/
def execHostCxlMemAccess (ld addr size : Nat) (op : BusOp) (value : Nat) (s : State) : Out :=
  event (if cxlMem addr size op then s.hostAccess ld addr size (op == .write) value (.hostCxlMemAccess ld addr size op value) else s)

/-- Whether a host that holds a half so may have written it: in M, or in E, which becomes M silently (R397). -/
def moesiOwns (x : HalfSt) : Bool := x == .m || x == .e

/-- What a host gives up of a line: a half that it was asked for. -/
def HostHeld.answered (x : HostHeld) (half : Bool) : HostHeld :=
  if half then (if x.bi1 then { x with h1 := .i, bi1 := false } else x)
  else if x.bi0 then { x with h0 := .i, bi0 := false } else x

/-- The bytes of a half of a device line that the host gives up dirty: they go home, where they are what the host has written since (R397). -/
def State.hostDirty (s : State) (x : HostHeld) (a : HalfAnswer) : State :=
  match a.data with
  | some v =>
    if (if a.half then x.bi1 && moesiOwns x.h1 else x.bi0 && moesiOwns x.h0) then
      (s.sliceDirty x.line).writeAt ⟨(keyLoc x.line).dev, (keyLoc x.line).pa + if a.half then 64 else 0⟩ 64 v
    else s
  | none => s

/-- BISNP_RESPONSE (R397): the host gives up a half it was asked for, a dirty one with its bytes, and with the last one its copy of the line. -/
def State.hostGives (s : State) (k : Nat) (a : HalfAnswer) : State :=
  match s.heldAt k with
  | none => s
  | some x =>
    let s := s.hostDirty x a
    let y := x.answered a.half
    let rest := s.hostHeld.filter (·.line != k)
    if y.h0 == .i && y.h1 == .i then ({ s with hostHeld := rest } : State).dropCopy k (.host x.ld) else { s with hostHeld := rest ++ [y] }

/-- BISNP_RESPONSE. -/
def execBisnpResponse (line : Nat) (answer : HalfAnswer) (s : State) : Out := event (s.hostGives line answer).unhold

/-- The snoop timeout of a partition in nanoseconds, 10 µs to 100 ms (R399; log entry 128). -/
def snoopLimit (e : Partition) : Nat := max 10000 (min 100000000 e.snoopTime)

/-- Whether a host has left a back-invalidate snoop unanswered for the snoop timeout of the partition table (R399). -/
def State.hostOwes (s : State) (n : Nat) : Bool :=
  s.hostHeld.any fun x => x.ld == n && (x.bi0 || x.bi1) && (s.partEntry n).any fun e => snoopLimit e ≤ (s.time - x.asked).toNat

/-- SNOOP_TIMEOUT (R399). -/
def execSnoopTimeout (ld : Nat) (s : State) : Out := event (if s.hostOwes ld then s.freezeHost ld else s)

/-! ### The load-store domain (R380, R400 to R402) -/

/-- The fabric NI sends a message to a peer. -/
def State.tellPeer (s : State) (d : Nat) (x : PortMsg) : State :=
  { s with peers := smapSet s.peers d { s.peer d with answers := (s.peer d).answers ++ [x] } }

/-- A violation of a peer device (R399, R402): its traffic is refused; lines it held as owner are poisoned, shared ones dropped. -/
def State.freezePeer (s : State) (d : Nat) : State :=
  let s := { s with peers := smapSet s.peers d { s.peer d with refused := true } }
  let mine := s.dir.filter fun e => e.owner.any (·.1 == .fabric d)
  let s := mine.foldl (fun s e => s.poisonLine (keyLoc e.line)) s
  let s := s.dir.foldl (fun s e => (s.ackCopy e.line (.fabric d)).dropCopy e.line (.fabric d)) s
  (s.report (.peerViolation d)).unhold

/-- Whether a peer has left a coherence message of this device unanswered for the snoop timeout of the line's partition (R399, R402). -/
def State.peerOwes (s : State) (d : Nat) : Bool :=
  s.dir.any fun e => e.awaited.contains (.fabric d)
    && ((s.lineOwner (keyLoc e.line).pa).bind fun x => s.partEntry x.1).elim 100000000 snoopLimit ≤ (s.time - e.asked).toNat

/-- PEER_DEVICE_TIMEOUT (R402). -/
def execPeerDeviceTimeout (dev : Nat) (s : State) : Out :=
  event (if s.peerOwes dev && !(s.peer dev).refused then (s.freezePeer dev).raiseEvent 0 0 else s)

/-- The partition that accepts requests of partition `p` of device `d` (R380). -/
def State.boundTo (s : State) (d p : Nat) : Option Nat := (s.parts.find? fun (_, e) => e.valid && e.binds.contains (d, p)).map (·.1)

/-- Whether the request of a peer is of a form that its operation has: within one line, as its NI splits accesses (R182), a doubleword for an
atomic, 32 bytes for a barrier object. -/
def busSized (op : BusOp) (va size : Nat) : Bool :=
  match op with
  | .read | .write => 0 < size && va % 128 + size ≤ 128
  | .amo _ | .cas _ => size == 8 && va % 8 == 0
  | .barv | .bexp => size == 32 && va % 32 == 0

/-- What the request of a peer writes where `old` stands, with its operand `v` (R185, R187, R211). -/
def busResult (op : BusOp) (old v : Nat) : Option Nat :=
  match op with
  | .read => none
  | .write => some v
  | .amo o => some (amoOp o (BitVec.ofNat 64 old) (BitVec.ofNat 64 v)).1.toNat
  | .cas x => if old = x.toNat then some v else none
  | .barv => some (barUpdate Bar.arrive old)
  | .bexp => some (barUpdate (Bar.expect v) old)

/-- How the request of a peer is checked. -/
def busAcc (op : BusOp) : Acc :=
  match op with
  | .read => .read
  | .write => .write
  | _ => .update

/-- The agent that the request of a peer makes the holder of a line that it writes: the peer, none for an operation at the bank ALU, the
home slice for a half of a host-homed line (R186, R401). -/
def State.peerWrites (s : State) (d k : Nat) (op : BusOp) : Option CacheAgent :=
  if hostKey k then some (s.hostSlice k) else if op == .write then some (.fabric d) else none

/-- What the request of a peer asks for first, and whether it must wait (R289, R391 to R393, R397). -/
def State.peerReady (s : State) (d : Nat) (x : Part) (op : BusOp) : State × Bool :=
  if isSpad x.loc.pa then (s, s.coreInCable (spadParts x.loc.pa).1)
  else (copyKeys x.loc x.len).foldl (fun (s, w) k =>
    let (s, y) := if hostKey k then s.askHalf (keyLine k) (busAcc op).writes (keyHalf k)
      else if s.holds (.fabric d) k && !(busAcc op).writes then (s, false) else s.recall k
    if y then (s, true)
    else if !(busAcc op).writes then (s, w)
    else
      let (s, z) := s.claimLine none (s.peerWrites d k op) k
      (s, w || z)) (s, false)

/-- The directory's part in a request of a peer that is ready (R391, R401): a peer keeps a copy of a line of device memory; of a half of a
host-homed line no copy is made for it, and one that nobody holds is released. -/
def State.peerTouch (s : State) (d : Nat) (op : BusOp) (writes : Bool) (k : Nat) : State :=
  let s := s.usePin (keyLine k)
  if writes then match s.peerWrites d k op with
    | some a => s.dirWrite a k
    | none => (s.homeStore none none k).sliceDirty k
  else if busAcc op != .read then s
  else if hostKey k then (if (s.dirAt k).isNone then s.dropHalf k else s.supply k)
  else s.dirRead (.fabric d) k

/-- The request of a peer performed at its home, and the answer (R186, R380, R401): the old value, or the end of a write. -/
def State.peerAt (s : State) (d va : Nat) (x : Part) (op : BusOp) (v : Nat) : State :=
  let old := s.readPart x
  let r := busResult op old v
  let s := (if isSpad x.loc.pa then [] else copyKeys x.loc x.len).foldl (fun s k => s.peerTouch d op r.isSome k) s
  let s := r.elim s fun v => (s.writePart x v).1
  s.tellPeer d (if op == .write then .done va else .value va x.len old)

/-- PEER_DEVICE_REQUEST (R380): translated and served with the bound partition's tables; a fault goes back to the issuer. An issuer
without a binding, or a request that leaves the partition, is a violation. The cache of the port that the request came through keeps the translation (R379; log entry 129). One that must wait
comes again. -/
def State.peerRequest (s : State) (d p va size : Nat) (op : BusOp) (v : Nat) (held : Instr) : State :=
  if (s.peer d).refused then s
  else match s.boundTo d p with
    | none => (s.freezePeer d).raiseEvent 0 0
    | some q =>
      if (s.pst q).quiesced then s.holdBus held
      else if !busSized op va size then s.tellPeer d (.fault va cALIGN)
      else match s.translate (.fabricTlb (Config.fabricPort d)) q (va % 2 ^ 48) (busAcc op) with
      | .error (s, .violation) => (s.freezePeer d).raiseEvent q 0
      | .error (s, .wait _) => s.holdBus held
      | .error (s, .flt c _) => s.tellPeer d (.fault va c)
      | .ok (s, l) =>
        let s := s.fillXlat (.fabricTlb (Config.fabricPort d)) q (va % 2 ^ 48) []
        let x : Part := ⟨l, size⟩
        match s.dataBad x (busAcc op) with
        | some (.flt c _) => s.tellPeer d (.fault va c)
        | some _ => s
        | none => match s.peerReady d x op with
          | (s, true) => s.holdBus held
          | (s, false) => s.asBus fun s => s.actsOnce none held (s.peerAt d va x op v)

/-- PEER_DEVICE_REQUEST. -/
def execPeerDeviceRequest (dev part va size : Nat) (op : BusOp) (value : Nat) (s : State) : Out :=
  event (s.peerRequest dev part va size op value (.peerDeviceRequest dev part va size op value))

end Sys2Proof.Machine
end

