-- ==== Sys2Proof/Machine/Repair.lean ====
section
/-! DEFINITION. Mirroring and takeover, removal of a stack, loss and return of host links, soft errors (R411 to R425). -/

namespace Sys2Proof.Machine

/-! ### Mirroring and takeover (R417 to R421) -/

/-- MIRROR_UPDATE (R417): the entries of a line, of both halves of a host-homed one, take its contents. -/
def execMirrorUpdate (line : Nat) (s : State) : Out := event ((lineKeys line).foldl State.mirrorNow s)

/-- Sets the bytes that a key names. -/
def State.setLine (s : State) (k : Nat) (l : List Byte) : State := s.writeAt (keyLoc k) l.length (leBytes l)

/-- The stack whose agent owns a line, when a compute stack's agent does. -/
def DirEntry.ownerStack (e : DirEntry) : Option Nat :=
  match e.owner with
  | some (a, _) => if agentStack a < 4 then some (agentStack a) else none
  | none => none

/-- Adds one quarantine entry of logical device `n` for the half at host address `a` (R423), or counts it lost when the region is
full; either way the half is poisoned until the hand-over (R424). -/
def State.quarantine (s : State) (n a : Nat) (bytes : List Byte) : State :=
  match s.partEntry n with
  | none => s
  | some e =>
    let count := s.readAt ⟨0, e.quarBase + 4⟩ 4
    let d := s.ld n
    let s := s.setLd n { d with quarantined := setInsert d.quarantined a }
    if e.quarSize < 128 * (count + 2) then s.writeAt ⟨0, e.quarBase⟩ 4 (s.readAt ⟨0, e.quarBase⟩ 4 + 1)
    else
      let o := e.quarBase + 128 * (count + 1)
      ((s.writeAt ⟨0, o⟩ 64 (a / 64 * 64)).writeAt ⟨0, o + 64⟩ 64 (leBytes bytes)).writeAt ⟨0, e.quarBase + 4⟩ 4 (count + 1)

/-- Whether the owner of a line answers no more: a takeover of the line has begun, or its stack is reported or out of service (R419, R420). -/
def State.deadOwner (s : State) (e : DirEntry) : Bool := e.takeover || e.ownerStack.any s.stackDead

/-- The bytes of a key that survive: of a line whose owner is dead the mirror's, or the home's own copy; otherwise the current ones (R417,
R419). -/
def State.lastBytes (s : State) (k : Nat) : List Byte :=
  match (s.dirAt k).filter s.deadOwner with
  | some e => (e.mirror.orElse fun _ => e.home).getD (s.lineBytes k)
  | none => s.lineBytes k

/-- A half in M leaves the device while the link of logical device `n` is down: it goes to quarantine, and the host keeps what it had (R422,
R425). -/
def State.quarantineHalf (s : State) (n k : Nat) : State :=
  let old := ((s.dirAt k).bind (·.home)).getD (s.lineBytes k)
  if ((s.bridgeAt (keyLine k)).half (keyHalf k)).1 == .m then (s.quarantine n ((keyLoc k).pa - hostBase) (s.lastBytes k)).setLine k old else s

/-- What a line whose owner is dead becomes at its home (R419, R421): poisoned when the buddy is gone too, else the mirror's bytes, or the
home's own copy. A half of a host-homed line goes back through the bridge, to quarantine while the link is down (R425). -/
def State.takeBytes (s : State) (k : Nat) (a : CacheAgent) : State :=
  if !s.mirrors (agentStack a) then s.poisonLine (keyLoc k)
  else match (if hostKey k then s.ldOf k else none).filter fun n => (s.ld n).down with
    | some n => s.quarantineHalf n k
    | none => (s.setLine k (s.lastBytes k)).cleanHalf k

/-- The takeover of a key (R419): a dirty line becomes what survives of it, the dead owner's copy is gone, and a half that no cache holds any
more is released. -/
def State.takeoverKey (s : State) (k : Nat) : State :=
  match s.dirAt k with
  | none => s
  | some e =>
    match e.owner with
    | none => s
    | some (a, st) =>
      let s := s.modDir k fun e => { e with takeover := true }
      let s := if moesiDirty st then s.takeBytes k a else s
      let s := s.updDir k fun e => { e with
        owner := none, home := none, mirror := none, takeover := false, awaited := e.awaited.filter (· != a) }
      if s.uncached k then s.dropHalf k else s

/-- The takeover of a line, half by half of a host-homed one (R419). -/
def State.takeover (s : State) (line : Nat) : State := (lineKeys line).foldl State.takeoverKey s

/-- TAKEOVER_TIMEOUT (R419): the owner's stack is reported once, and the buddy is asked. -/
def execTakeoverTimeout (line : Nat) (s : State) : Out :=
  event <|
    match (lineKeys line).findSome? fun k => (s.dirAt k).bind (·.ownerStack) with
    | none => s
    | some n =>
      let s := if s.mailbox.contains (.stack n) then s else s.report (.stack n)
      let s := (lineKeys line).foldl (fun s k => s.modDir k fun e => { e with takeover := e.takeover || e.ownerStack == some n }) s
      { s with agenda := s.agenda ++ [.takeoverRequest line] }

/-- The stack for whose agent the buddy supplies a key: it holds an entry for it (R419). -/
def State.supplied (s : State) (k : Nat) : Option Nat :=
  (s.dirAt k).bind fun e => match e.owner with
    | some (a, _) => if e.takeover && e.dirty && e.mirror.isSome && s.mirrors (agentStack a) then some (agentStack a) else none
    | none => none

/-- TAKEOVER_REQUEST (R419): a line that the buddy supplies, whole or in part, is counted once (R430). -/
def execTakeoverRequest (line : Nat) (s : State) : Out :=
  event <|
    let t := (lineKeys line).foldl (fun s k => if (s.dirAt k).any (·.takeover) then s.takeoverKey k else s) s
    match (lineKeys line).findSome? s.supplied with
    | some n => { t with telemetry := { t.telemetry with takeover := bump t.telemetry.takeover n } }
    | none => t

/-- Whether an agent is outside the device. -/
def outside : CacheAgent → Bool
  | .host _ | .fabric _ => true
  | _ => false

/-- Every copy of a line in the caches of the device goes at once, a dirty one written back, with what is derived from it (R264, R381). -/
def State.evict (s : State) (k : Nat) : State :=
  match s.dirAt k with
  | some e =>
    let s := e.sharers.foldl (fun s a => if sOnly a then s.dropDerived a k else s) (s.writeBack k)
    let s := s.updDir k fun e =>
      let aw := e.awaited.filter outside
      { e with owner := e.owner.filter (outside ·.1), sharers := e.sharers.filter outside, awaited := aw
               writers := if aw.isEmpty then [] else e.writers }
    if s.uncached k then s.dropHalf k else s
  | none => s

/-- Whether a leaf maps a scratchpad of a stack (R376). -/
def mapsStack (stack e : Nat) : Bool :=
  let sz := 4096 * 2 ^ pteSize e
  let pa := pteFrame e * 4096 / sz * sz
  !pteFtp e && [pa, pa + sz - 1].any fun a => isSpad a && (spadParts a).1 / 1152 == stack

/-- The addresses of the leaves that map a scratchpad of a stack, in the table of `n` levels at `t` and in those below it (R375, R377). -/
def State.leavesOf (s : State) (x : Space) (stack : Nat) : Nat → Nat → List Nat
  | 0, _ => []
  | n + 1, t =>
    if !covered x.hbm (x.hbm.length + 1) t (t + 4096) then []
    else (List.range 512).flatMap fun i =>
      let e := s.readAt ⟨0, t + 8 * i⟩ 8
      if !pteV e then [] else if pteLeaf e then (if mapsStack stack e then [t + 8 * i] else []) else s.leavesOf x stack n (pteFrame e * 4096)

/-- Sets POIS in every leaf of a partition that maps a scratchpad of a stack, by stores to the page table (R382, R420). -/
def State.poisonLeaves (s : State) (p stack : Nat) : State :=
  match s.space p with
  | none => s
  | some x => (s.leavesOf x stack 4 x.ttbase).foldl (fun s pa =>
      let k := lineKey ⟨0, pa⟩
      let old := s.readAt ⟨0, pa⟩ 8
      if ptePois old then s else (((s.recall k).1.evict k).sliceDirty k).writeAt ⟨0, pa⟩ 8 (old + 128)) s

/-- Whether a dirty line belongs to a partition: it lies in its memory or in its host window, or an agent of its tiles and slices owns it
(R263). -/
def State.dirtyOf (s : State) (p : Nat) (e : Partition) (x : DirEntry) : Bool :=
  match x.owner with
  | some (a, st) => moesiDirty st && (((keyLoc x.line).dev = 0 && (s.lineOwner (keyLoc x.line).pa).any fun y => y.1 == p)
      || e.tiles.contains (agentTile a) || e.slices.contains (agentTile a))
  | none => false

/-- A quiesce writes every dirty line of a partition back, a host-homed one through the bridge, and those that are dirty in their home slices
(R3, R263). -/
def State.writeBackPart (s : State) (p : Nat) (e : Partition) : State :=
  let s := (s.dir.filter (s.dirtyOf p e)).foldl (fun s x => s.writeBack x.line) s
  (s.caches.l2dirty.filter fun k => (s.lineOwner (keyLoc k).pa).any fun y => y.1 == p).foldl State.sliceClean s

/-- The lines that were dirty in the home slices of a lost stack (R416): the buddy has written them back, or, when it is gone too, they are
poisoned at their homes (R420, R421). -/
def State.loseSlices (s : State) (stack : Nat) : State :=
  (s.caches.l2dirty.filter fun k => (s.homeSlice (keyLoc k).pa).any fun n => n / 144 == stack).foldl (fun s k =>
    (if s.mirrors stack then s else s.poisonLine (keyLoc k)).sliceClean k) s

/-- What the caches and the mirror store of a stack held is gone, and nothing more is awaited of them (R420). -/
def State.loseCaches (s : State) (stack : Nat) : State :=
  let here (a : CacheAgent) : Bool := agentStack a == stack
  let s := { s with
    caches := { s.caches with
      xlat := s.caches.xlat.filter fun x => !here x.agent
      revs := s.caches.revs.filter fun x => x.tile / 144 != stack } }
  let dir := s.dir.map fun e =>
    let aw := e.awaited.filter fun a => !here a
    { e with sharers := e.sharers.filter fun a => !here a, awaited := aw, writers := if aw.isEmpty then [] else e.writers
             mirror := if e.ownerStack == some (stack ^^^ 1) then none else e.mirror }
  { s with dir := dir.filter fun e => !e.idle }

/-- The units on a stack report LOST, their subscribers lapse, and what the stack held is gone; saved units stay, no longer bound to
a core of it (R420). -/
def State.loseUnits (s : State) (stack : Nat) : State :=
  let here (g : Nat) : Bool := g / 1152 == stack && g < nCores
  let s := { s with cmds := s.cmds.filter fun c => !here c.core }
  let s := (s.cores.filter fun x => here x.1).foldl (fun s x =>
    let s := s.dropUnit x.1 errLOST 0
    let gone := (s.coreAt x.1).out
    gone.foldl (fun s o => s.lapseAt o.sub o.entry) (s.setCore x.1 Core.reset)) s
  { s with launches := s.launches.map fun l => { l with units := l.units.map fun u => match u.st with
      | .saved img (some g) => if here g then { u with st := .saved img none } else u
      | _ => u } }

/-- Extends the measurement of the partition table as it is now written (R432, R433). -/
def State.measureTable (s : State) : State :=
  { s with fw := { s.fw with measured := smapSet s.fw.measured 5 (Config.sm3 (Config.tableBytes s.parts)) } }

/-- STACK_REMOVAL (R420): the partitions with a tile or slice on the stack are quiesced, their dirty lines written back, for the whole of
this step. -/
def State.removeStack (s : State) (stack : Nat) : State :=
  let s := { s with removed := setInsert s.removed stack }
  let s := (s.dir.filter fun e => e.ownerStack == some stack).foldl (fun s e => s.takeoverKey e.line) s
  let s := s.loseSlices stack
  let hit := s.parts.filter fun (_, e) => e.valid && (e.tiles.any (· / 144 == stack) || e.slices.any (· / 144 == stack))
  let s := hit.foldl (fun s x => s.writeBackPart x.1 x.2) s
  let homed := s.dir.filter fun e => (keyLoc e.line).dev = 0 && (s.homeSlice (keyLoc e.line).pa).any fun n => n / 144 == stack
  let s := homed.foldl (fun s e => s.evict e.line) s
  let s := hit.foldl (fun s (p, _) => s.poisonLeaves p stack) s
  let s := ((s.loseUnits stack).loseCaches stack).unhold
  ({ s with parts := s.parts.map fun (p, e) => (p, { e with
      tiles := e.tiles.filter fun t => t / 144 != stack, slices := e.slices.filter fun n => n / 144 != stack }) } : State).measureTable

/-- STACK_REMOVAL. -/
def execStackRemoval (stack : Nat) (s : State) : Out :=
  event (if 4 ≤ stack || s.removed.contains stack then s else s.removeStack stack)

/-! ### Host links (R422 to R425) -/

/-- Whether a line or half is one for which logical device `n` owes an answer. -/
def State.asksHost (s : State) (n line : Nat) : Bool :=
  s.ldOf line == some n && (let b := s.bridgeAt (keyLine line); b.req0.isSome || b.req1.isSome)

/-- The requests sent to a host and not answered end with LINKDOWN (R422): the contexts and commands that wait for one find out when they
try again. -/
def State.loseRequests (s : State) (n : Nat) : State :=
  { s with
    cores := s.cores.map fun x => (x.1, { x.2 with ctxs := x.2.ctxs.map fun y => (y.1, match y.2.st with
      | .waiting (.host k) | .waiting (.fetching k) => if s.asksHost n k then { y.2 with linkLost := true } else y.2
      | _ => y.2) })
    cmds := s.cmds.map fun c => if c.hostWait.any (s.asksHost n) then { c with linkLost := true } else c }

/-- A request of a peer that waits for a logical device's answer is answered LINKDOWN (R380, R422). -/
def State.losePeers (s : State) (n : Nat) : State :=
  s.heldBus.foldl (fun s i => match i with
    | .peerDeviceRequest d p va _ op _ =>
      match (s.boundTo d p).map fun q => s.translate (.fabricTlb (Config.fabricPort d)) q (va % 2 ^ 48) (busAcc op) with
      | some (.ok (_, l)) => if l.dev = 0 && isHost l.pa && s.asksHost n l.pa then
            ({ s with heldBus := s.heldBus.erase i } : State).tellPeer d (.fault va cLINKDOWN)
          else s
      | _ => s
    | _ => s) s

/-- Whether a request is a CXL.mem request of a logical device. -/
def fromHost (n : Nat) : Instr → Bool
  | .hostCxlMemAccess ld .. => ld == n
  | _ => false

/-- The CXL.mem requests of a host that are in flight are discarded (R422). -/
def State.dropRequests (s : State) (n : Nat) : State := { s with heldBus := s.heldBus.filter fun i => !fromHost n i }

/-- LINK_DOWN (R422): requests that wait end, those of the host are discarded, dirty halves go to quarantine, clean ones are dropped, copies are invalidated, and the host's
lines of device memory are lost. -/
def State.downLink (s : State) (n : Nat) : State :=
  match s.partEntry n with
  | none => s
  | some e =>
    let s := ((s.loseRequests n).losePeers n).dropRequests n
    let s := s.setLd n { s.ld n with down := true, portsUp := [] }
    let q := e.quarBase
    let s := if s.readAt ⟨0, q + 16⟩ 8 % 2 = 1 then (s.writeAt ⟨0, q⟩ 8 0) else s
    let s := (s.writeAt ⟨0, q + 8⟩ 8 s.time.toNat).writeAt ⟨0, q + 16⟩ 8 0
    let mine := s.bridge.filter fun b => s.ldOf b.line == some n
    let s := mine.foldl (fun s b => (lineKeys b.line).foldl (fun s k => (s.quarantineHalf n k).setDir k none) (s.unpin b.line)) s
    let s := { s with bridge := s.bridge.filter fun b => !mine.contains b }
    let s := s.loseHost n
    { s with telemetry := { s.telemetry with linkdn := bump s.telemetry.linkdn n } }.report (.link n)

/-- LINK_DOWN. -/
def execLinkDown (ld : Nat) (s : State) : Out := event (if (s.ld ld).down then s else (s.downLink ld).unhold)

/-- LINK_UP (R425): new accesses proceed with every half in I. -/
def execLinkUp (ld : Nat) (s : State) : Out :=
  event <|
    match s.partEntry ld with
    | some e => if (s.ld ld).down then s.setLd ld { s.ld ld with down := false, portsUp := e.ports } else s
    | none => s

/-- PORT_LINK_LOSS (R422): traffic moves to the ports that still work; with the last one the link is down. -/
def execPortLinkLoss (ld port : Nat) (s : State) : Out :=
  event <|
    let d := s.ld ld
    let rest := d.portsUp.filter (· != port)
    if d.down || rest.length = d.portsUp.length then s
    else if rest.isEmpty then (s.downLink ld).unhold
    else s.setLd ld { d with portsUp := rest }

/-- QUARANTINE_HANDOVER (R425): the entries are copied to a host buffer, and event class 2 is raised. -/
def execQuarantineHandover (ld buffer : Nat) (s : State) : Out :=
  event <|
    match s.partEntry ld with
    | some e =>
      if (s.ld ld).down then s
      else
        let count := s.readAt ⟨0, e.quarBase + 4⟩ 4
        ((List.range (2 * count)).foldl (fun s i =>
          s.writeAt ⟨0, hostBase + buffer + 64 * i⟩ 64 (s.readAt ⟨0, e.quarBase + 128 + 64 * i⟩ 64)) s).raiseEvent ld 2
    | none => s

/-- HOST_ACKNOWLEDGE (R425): HANDED is set and the poison of R424 lifted. -/
def execHostAcknowledge (ld : Nat) (s : State) : Out :=
  event <|
    match s.partEntry ld with
    | some e =>
      if (s.ld ld).down then s
      else (s.setLd ld { s.ld ld with quarantined := [] }).writeAt ⟨0, e.quarBase + 16⟩ 8 (s.readAt ⟨0, e.quarBase + 16⟩ 8 / 2 * 2 + 1)
    | none => s

/-! ### Soft errors (R411, R412, R415, R421) -/

/-- The array of an error, as the telemetry counts it. -/
def errArray : ErrSite → Nat
  | .hbmLine _ => 0
  | .l2Line _ => 1
  | .l1Line _ => 2
  | .directory _ => 3
  | .refetchOnly => 4
  | .spadWord _ => 5
  | .coreState _ => 6
  | .rowState _ => 7
  | .mirrorEntry _ => 8

/-- The pseudo-channel of the module that holds a physical address of device memory, with its HBM stack, channel and number in the channel
(R272). -/
def hbmPc (pa : Nat) : Nat := pa / 2048 % 512 ^^^ pa / 2 ^ 20 % 512
def hbmStack (pa : Nat) : Nat := hbmPc pa / 64
def hbmChannel (pa : Nat) : Nat := hbmPc pa / 2 % 32
def hbmPseudo (pa : Nat) : Nat := hbmPc pa % 2

/-- The stack under which an error is counted: of a line of HBM the stack that holds it (R272, R430). -/
def errStack (site : ErrSite) (stack : Nat) : Nat :=
  match site with
  | .hbmLine k => hbmStack (k / 128 * 128)
  | _ => stack

/-- CORRECTABLE_ERROR (R411): counted, with no other effect. -/
def execCorrectableError (site : ErrSite) (stack : Nat) (s : State) : Out :=
  event { s with telemetry := { s.telemetry with cecount := bump s.telemetry.cecount (8 * errArray site + errStack site stack) } }

/-- Whether a line has a dirty copy in an L1. -/
def State.dirtyIn (s : State) (k : Nat) (l1 : Bool) : Bool :=
  match (s.dirAt k).bind (·.owner) with
  | some (.l1 _, st) => l1 && moesiDirty st
  | some (_, st) => !l1 && moesiDirty st
  | none => false

/-- The mirror entry of a key is lost, and the line, which its owner or its home slice holds dirty, is poisoned at its home (R411, R421). -/
def State.loseMirror (s : State) (k : Nat) : State :=
  if (s.dirAt k).any (·.mirror.isSome) then (s.modDir k fun e => { e with mirror := none }).poisonLine (keyLoc k)
  else if s.caches.l2dirty.contains k then (s.poisonLine (keyLoc k)).sliceClean k
  else s

/-- The partition whose tile holds a core. -/
def State.corePart (s : State) (g : Nat) : Option Nat := (s.parts.find? fun (_, e) => e.valid && e.tiles.contains (g / 8)).map (·.1)

/-- A word of a scratchpad is poisoned (R414); the partition of its tile counts it (R430). -/
def State.poisonWord (s : State) (g off : Nat) : State :=
  { s with
    mem := { s.mem with poison := setInsert s.mem.poison (spadPa g (off / 4 * 4)) }
    telemetry := { s.telemetry with poisoned := (s.corePart g).elim s.telemetry.poisoned (bump s.telemetry.poisoned) } }

/-- Whether an L2 slice holds a line dirty: as its owner, or as its home (R411, R416). -/
def State.dirtyInL2 (s : State) (k : Nat) : Bool := s.dirtyIn k false || s.caches.l2dirty.contains k

/-- Whether an uncorrectable error is a refetch, which no program can see: the copy was clean (R411). -/
def State.refetches (s : State) (site : ErrSite) : Bool :=
  match site with
  | .l2Line k => !(lineKeys (keyLine k)).any s.dirtyInL2
  | .l1Line k => !(lineKeys (keyLine k)).any fun k => s.dirtyIn k true
  | .refetchOnly => true
  | _ => false

/-- What an uncorrectable error that is no refetch does (R411, R412). -/
def State.hardError (s : State) (site : ErrSite) : State :=
  match site with
  | .hbmLine k => s.poisonLine ⟨0, k / 128 * 128⟩
  | .l2Line k => (lineKeys (keyLine k)).foldl State.sliceClean (s.poisonLine (keyLoc (keyLine k)))
  | .l1Line k => s.poisonLine (keyLoc (keyLine k))
  | .mirrorEntry k => (lineKeys (keyLine k)).foldl State.loseMirror s
  | .directory ks => ks.foldl (fun s k => s.poisonLine (keyLoc (keyLine k))) s
  | .refetchOnly => s
  | .spadWord pa => if isSpad pa then s.poisonWord (spadParts pa).1 (spadParts pa).2.2 else s
  | .coreState g => s.poisonUnit g
  | .rowState r => (rowCores r).foldl State.poisonUnit s

/-- The partition that a line of this device belongs to. -/
def State.linePart (s : State) (pa : Nat) : Nat := ((s.lineOwner pa).map (·.1)).getD 0

/-- The partition that an error hits. -/
def State.errPart (s : State) (site : ErrSite) : Nat :=
  match site with
  | .hbmLine k | .l2Line k | .l1Line k | .mirrorEntry k => s.linePart k
  | .directory ks => s.linePart (ks.headD 0)
  | .refetchOnly => 0
  | .spadWord pa => (s.corePart (spadParts pa).1).getD 0
  | .coreState g => (s.coreAt g).part.toNat
  | .rowState r => (s.coreAt (4 * r)).part.toNat

/-- UNCORRECTABLE_ERROR (R411, R412): counted and reported (R3, R403), unless a refetch hides it. -/
def execUncorrectableError (site : ErrSite) (stack : Nat) (s : State) : Out :=
  event <|
    let s := { s with telemetry := { s.telemetry with uecount := bump s.telemetry.uecount (8 * errArray site + errStack site stack) } }
    if s.refetches site then s else ((s.hardError site).report (.error (errArray site))).raiseEvent (s.errPart site) 1

/-- PATROL_SCRUB (R415): a line of HBM is read; a poisoning that this causes is reported, and raises event class 1 for its partition (R3). -/
def execPatrolScrub (line : Nat) (bad : Bool) (s : State) : Out :=
  event <|
    if !bad then s
    else
      let pa := line / 128 * 128
      let s := { s with telemetry := { s.telemetry with uecount := bump s.telemetry.uecount (hbmStack pa) } }
      ((s.poisonLine ⟨0, pa⟩).report (.error 0)).raiseEvent (s.linePart pa) 1

end Sys2Proof.Machine
end

