-- ==== Sys2Proof/Machine/Manage.lean ====
section
/-! DEFINITION. The management plane: release of masters, the partition table, quiescing, clocks, power, events to the host, the
Avlyn cores, firmware, attestation and bring-up (R3, R5, R263, R370, R403, R404, R426 to R434). -/

namespace Sys2Proof.Machine

/-! ### Masters, partitions, quiescing (R3, R263, R426, R432) -/

/-- ERR of a unit that ends after a violation (R368). -/
def Launch.violationErr (l : Launch) : BitVec 16 := if l.cancelled then errVIOLATION ||| errCANCEL else errVIOLATION

/-- The violating commands of a master are not completed; the units that issued them and have been saved since are to end (R203, R368). -/
def State.dropFrozen (s : State) (core : Nat) : State :=
  let bad := s.cmds.filter fun x => x.st == EngSt.frozen && x.core == core
  let s := { s with cmds := s.cmds.filter fun x => !(x.st == EngSt.frozen && x.core == core) }
  bad.foldl (fun s x => match x.unit with
    | none => s
    | some u => match s.launchAt u.launch with
      | some l => s.modKept u.launch u.unit fun c => { c with ending := some (l.violationErr, 0) }
      | none => s) s

/-- The release of a core (R368, R426): its violating commands go, and a frozen core's unit is to end with VIOLATION, and CANCEL when a
`cancel` reached it meanwhile. -/
def State.releaseFrozen (s : State) (core : Nat) : State :=
  let c := s.coreAt core
  let s := s.dropFrozen core
  if !c.frozen then s
  else
    let s := s.setCore core { c with frozen := false }
    match s.launchOf core with
    | some l => s.endUnit core l.violationErr 0
    | none => s

/-- A half that the device held in M when the host's CXL state is reset: the spec states no bytes, so they are free (log entry 94). -/
def State.freeHalf (s : State) (pa : Nat) (x : HalfSt) : State :=
  if x == .m then { s.writeAt ⟨0, pa⟩ 64 (leBytes ((List.range 64).map (Config.freeByte s.fresh))) with fresh := s.fresh + 1 } else s

/-- The release of a host logical device (R426): its CXL state is reset, so that every half of its lines is in I on both sides and no
copy stays, and what waited for it goes on. Poisoned lines stay poisoned. -/
def State.releaseHost (s : State) (n : Nat) : State :=
  if !(s.ld n).frozen then s
  else
    let mine := s.bridge.filter fun b => s.ldOf b.line == some n
    let s := mine.foldl (fun s b =>
      let pa := (keyLoc b.line).pa
      let s := (s.freeHalf pa b.h0).freeHalf (pa + 64) b.h1
      (lineKeys b.line).foldl (fun s k => s.setDir k none) (s.unpin b.line)) s
    let s := { s with bridge := s.bridge.filter fun b => !mine.contains b, hostHeld := s.hostHeld.filter (·.ld != n) }
    (s.setLd n { s.ld n with frozen := false }).unhold

/-- The release of a peer device (R426): the device is reset, so that its memory is zero and no line of it is cached here, and it is bound
into the domain again. -/
def State.releasePeer (s : State) (d : Nat) : State :=
  if !(s.peer d).refused then s
  else { s with
    dir := s.dir.filter fun e => (keyLoc e.line).dev != d
    peers := smapSet s.peers d { s.peer d with bytes := [], full := [], poison := [], refused := false } }

/-- MASTER_RELEASE (R368, R426). -/
def execMasterRelease (master : Master) (s : State) : Out :=
  event <|
    match master with
    | .core n => s.releaseFrozen n
    | .host n => s.releaseHost n
    | .peer d => s.releasePeer d

/-- The dirty lines of a partition, once its slice set is to change, are written back first, and no copy stays in its directory: a line
never has two homes (R263). -/
def State.beforeRewrite (s : State) (part : Nat) (entry : Partition) : State :=
  match s.partEntry part with
  | none => s
  | some e =>
    if sliceList e == sliceList entry && entry.valid then s
    else
      let s := s.writeBackPart part e
      (s.dir.filter fun x => (keyLoc x.line).dev = 0 && (s.lineOwner (keyLoc x.line).pa).any fun y => y.1 == part).foldl
        (fun s x => s.evict x.line) s

/-- Whether a stack holds a tile or a slice of a fixed partition. -/
def State.fixedStack (s : State) (stack : Nat) : Bool :=
  s.parts.any fun (_, e) => e.valid && e.fixed && (e.tiles.any (· / 144 == stack) || e.slices.any (· / 144 == stack))

/-- The stacks of a list, with those that share a PLACE launch with one of them (R428). -/
def State.clockJoin (s : State) (ks : List Nat) : List Nat :=
  (s.launches.filter fun l => l.place && l.cores.any fun c => ks.contains (c / 1152)).foldl
    (fun g l => l.cores.foldl (fun g c => setInsert g (c / 1152)) g) ks

/-- The stacks that change frequency together with a stack: those joined to it by PLACE launches, one after another (R428). -/
def State.clockGroup (s : State) (stack : Nat) : List Nat := s.clockJoin (s.clockJoin (s.clockJoin [stack]))

/-- Changes the clock of a stack. -/
def State.setClock (s : State) (stack : Nat) (c : Clock) : State := { s with clocks := smapSet s.clocks stack c }

/-- The stacks of fixed partitions, with those that change together with them, run at 1.6 GHz, and no change of them is pending (R427; log
entry 110). -/
def State.lockClocks (s : State) : State :=
  ((List.range 4).filter fun k => (s.clockGroup k).any s.fixedStack).foldl (fun s k =>
    if s.clock k == ⟨1600, none, false⟩ then s else s.setClock k ⟨1600, none, false⟩) s

/-- A sparse store with the bytes of a list. -/
def bytesFrom (l : List (Nat × Byte)) : Bytes := l.foldl (fun m x => bytesSet m x.1 x.2) []

/-- A map with the pairs of a list. -/
def smapOf {α : Type} (l : List (Nat × α)) : SMap α := l.foldl (fun m x => smapSet m x.1 x.2) []

/-- A peer as it comes into the domain (R380, R400; log entry 109). -/
def Peer.joined (d : Nat) : Peer :=
  { Peer.none with
    bytes := bytesFrom (Config.peerMemory d)
    pools := smapOf (Config.peerPools d)
    bound := (Config.peerBinds d).map fun (p, t, h, ts, lo, n) => ⟨p, t, h, ts, lo, n⟩ }

/-- The devices whose partitions an entry accepts are peers of the domain (R380, R400). -/
def State.joinPeers (s : State) (e : Partition) : State :=
  e.binds.foldl (fun s b =>
    if b.1 = 0 || 512 ≤ b.1 || b.1 = e.device.toNat || (smapGet? s.peers b.1).isSome then s
    else { s with peers := smapSet s.peers b.1 (.joined b.1) }) s

/-- PARTITION_TABLE_WRITE (R3, R25, R263, R396): one of 16 entries; the slice set in ascending node number, the number of the device, and the
tiles of a fixed partition powered (R351), at the locked clock (R427). A rewrite of the slice set quiesces for the step. Once partitions
are written, launch queues are accepted (R434), and the distributor watches their tail lines (R3). -/
def execPartitionTableWrite (part : Nat) (entry : Partition) (s : State) : Out :=
  event <|
    if 16 ≤ part then s
    else
      let s := s.beforeRewrite part entry
      let s := { s with parts := smapSet s.parts part { entry with slices := sliceList entry } }
      let s := if entry.valid then { s with device := entry.device }.joinPeers entry else s
      let s : State := if entry.valid && entry.fixed then
          entry.tiles.foldl (fun s t => { s with tiles := smapSet s.tiles t ⟨false, (s.tileAt t).idle⟩ }) s
        else s
      let s := s.lockClocks
      let s := if (s.ld part).down then s else s.setLd part { s.ld part with portsUp := entry.ports }
      let s := if 5 ≤ s.fw.stage then { s with fw := { s.fw with stage := 7 } } else s
      let s := s.measureTable
      s.distActs (s.watchQueues part)

/-- QUIESCE (R3, R263): the partition is held, with every dirty line written back, or released. -/
def execQuiesce (part : Nat) (on : Bool) (s : State) : Out :=
  event <|
    let s := s.setPst part { s.pst part with quiesced := on }
    if on then
      match s.partEntry part with
      | some e => s.writeBackPart part e
      | none => s
    else s.unhold

/-! ### Clocks and power (R427 to R429) -/

/-- CLOCK_CHANGE_REQUEST (R427): to one of three points; a stack of a fixed partition stays at 1.6 GHz. -/
def State.clockRequest (s : State) (stack point : Nat) : State :=
  let g := s.clockGroup stack
  if 4 ≤ stack || !(point == 1600 || point == 1200 || point == 800) || (point != 1600 && g.any s.fixedStack) then s
  else g.foldl (fun s k => s.setClock k { s.clock k with req := some point, acked := false }) s

/-- CLOCK_CHANGE_REQUEST. -/
def execClockChangeRequest (stack point : Nat) (s : State) : Out := event (s.clockRequest stack point)

/-- Whether a stack is at a safe point: no cable step and no row-array operation runs on it. -/
def State.clockSafe (s : State) (stack : Nat) : Bool :=
  (s.rows.all fun x => !(x.1 / 288 == stack && x.2.running.isSome))
    && s.launches.all fun l => !(l.stepK == .cable && l.cores.any (· / 1152 == stack))

/-- CLOCK_CHANGE_ACK (R427): for every stack that changes together (R428). -/
def execClockChangeAck (stack : Nat) (s : State) : Out :=
  event <|
    let g := (s.clockGroup stack).filter s.clockHeld
    if g.contains stack && g.all s.clockSafe then g.foldl (fun s k => s.setClock k { s.clock k with acked := true }) s else s

/-- CLOCK_CHANGE_COMPLETE (R427): the new clock is in force and the holds are released; a stack of a fixed partition stays at 1.6 GHz. -/
def execClockChangeComplete (stack : Nat) (s : State) : Out :=
  event <|
    let g := (s.clockGroup stack).filter s.clockHeld
    if g.contains stack && g.all fun k => (s.clock k).acked then
      let s := g.foldl (fun s k => s.setClock k ⟨(s.clock k).req.getD (s.clock k).mhz, none, false⟩) s
      s.lockClocks
    else s

/-- The next lower frequency point. -/
def lowerPoint (mhz : Nat) : Nat := if mhz = 1600 then 1200 else 800

/-- POWER_LIMIT (R429): at most 3,500 W; elastic stacks are asked to step down, and their tiles with no units are gated. -/
def execPowerLimit (watts : Nat) (s : State) : Out :=
  event <|
    let s := { s with watts := min watts 3500 }
    let idle := (s.parts.flatMap fun (_, e) => if e.valid && !e.fixed then e.tiles else []).filter fun t => !s.tileBusy t
    let s := idle.foldl (fun s t => { s with tiles := smapSet s.tiles t ⟨true, (s.tileAt t).idle⟩ }) s
    ((List.range 4).filter fun k => !s.fixedStack k && !s.removed.contains k).foldl
      (fun s k => s.clockRequest k (lowerPoint (s.clock k).mhz)) s

/-- THERMAL_TRIP (R429): every master is frozen, and the module stops. -/
def execThermalTrip (s : State) : Out :=
  event <|
    let cores : SMap Core := s.cores.map fun x => (x.1, { x.2 with frozen := true })
    ({ s with cores := cores, stopped := true } : State).report .thermal

/-! ### Events (R403, R404) -/

/-- EVENT_RAISE (R403). -/
def execEventRaise (ld cls : Nat) (s : State) : Out := event (if cls < 6 then s.raiseEvent ld cls else s)

/-- HOST_EVENT_DELIVERY (R403, R404): the oldest pending event of a class, under the code in force when it was raised. A record goes
to the host's ring before the MSI-X; its contents are not stated, so they are free. A frozen port holds its events (R399). FORWARD is read
once: an event that is forwarded while the link is down waits as one that the host alone owns. -/
def State.deliverEvent (s : State) (n cls : Nat) (fwd : Bool) : State :=
  let d := s.ld n
  match d.pending.find? (·.1 == cls), s.partEntry n with
  | some ev, some e =>
    let rest := { d with pending := d.pending.erase ev }
    if !(ev.2 == 1 || (ev.2 == 2 && fwd)) then s.setLd n rest
    else if d.down || d.frozen then s.setLd n { d with pending := (cls, 1) :: d.pending.erase ev }
    else
      let a := hostBase + e.eventRing + 32 * (d.ringHead % max 1 e.eventSize)
      let s := s.writeAt ⟨0, a⟩ 32 (leBytes ((List.range 32).map (Config.freeByte s.fresh)))
      { s with fresh := s.fresh + 1 }.setLd n { rest with ringHead := d.ringHead + 1, msix := d.msix ++ [e.vectors.getD cls 0] }
  | _, _ => s

/-- HOST_EVENT_DELIVERY. -/
def execHostEventDelivery (ld cls : Nat) (fwd : Bool) (s : State) : Out := event (s.deliverEvent ld cls fwd)

/-- EVENT_OWNER_WRITE (R403): code 0b11 is refused. -/
def execEventOwnerWrite (ld cls : Nat) (code : BitVec 2) (s : State) : Out :=
  event (if code = 3 || 6 ≤ cls then s else s.setLd ld { s.ld ld with owners := smapSet (s.ld ld).owners cls code })

/-! ### The Avlyn cores (R370) -/

/-- AVLYN_RESTART (R370): the core goes on at the entry, whose bit 0 is ignored (R89; log entry 88), outside its handler; TVEC is as the management firmware set it. -/
def State.restartAvlyn (s : State) (n : Nat) (entry : Word) : State :=
  let g := nCores + n
  let s := s.setCore g { s.coreAt g with stopped := false, inHandler := false, frozen := false }
  s.modCtx g 0 fun c => { c with pc := entry &&& 0xFFFFFFFFFFFFFFFE, st := .ready, sys := true }

/-- AVLYN_RESTART. -/
def execAvlynRestart (n entry : Nat) (s : State) : Out := event (if n < 32 then s.restartAvlyn n (BitVec.ofNat 64 entry) else s)

/-! ### Firmware and bring-up (R431, R432, R434) -/

/-- Whether an image passes the root of trust (R431). -/
def imageOk (x : Image) : Bool := Config.sm2Verify (Config.sm3 x.bytes) x.sig && Config.fusedVersion ≤ x.version

/-- The measurements of a verified image (R432). -/
def measureImage (x : Image) : SMap (BitVec 256) :=
  [(1, Config.sm3 (Config.imagePart 1 x.bytes)), (2, Config.sm3 (Config.imagePart 2 x.bytes)), (3, Config.sm3 (Config.imagePart 3 x.bytes)),
   (4, Config.sm3 (Config.fuses ++ (List.range 8).map fun i => BitVec.ofNat 8 (Config.fusedVersion / 256 ^ i))),
   (5, Config.sm3 (Config.tableBytes []))]

/-- Verification at reset (R431): the module goes on to stage 1 with its measurements, or enters recovery. -/
def Firmware.verify (f : Firmware) : Firmware :=
  match f.flash with
  | some x => if imageOk x then { f with recovery := false, measured := measureImage x, stage := 1 } else { f with recovery := true, measured := [], stage := 0 }
  | none => { f with recovery := true, measured := [], stage := 0 }

/-- The module after a reset: only the flash and the stacks out of service stay; the number of the device comes with the partition table. -/
def State.moduleReset (s : State) : State :=
  { State.reset with fw := (({ State.reset.fw with flash := s.fw.flash } : Firmware)).verify, removed := s.removed }

/-- MODULE_RESET (R431). -/
def execModuleReset (s : State) : Out := event s.moduleReset

/-- RECOVERY_IMAGE (R431): verified, written to flash, and followed by a reset. -/
def execRecoveryImage (image : Image) (s : State) : Out :=
  event (if s.fw.recovery && imageOk image then { s with fw := { s.fw with flash := some image } }.moduleReset else s)

/-- One stage of bring-up (R434). The self-test of a removed stack has a free result. -/
def State.bringUp (s : State) : State :=
  match s.fw.stage with
  | 0 => { s with fw := s.fw.verify }
  | 1 => { s with parts := [], tiles := (List.range 576).map fun t => (t, ⟨true, 0⟩), fw := { s.fw with stage := 2 } }
  | 2 =>
    let out := s.removed.filter fun k => (Config.freeByte s.fresh k).getLsbD 0
    let s := { s with mem := { s.mem with bytes := s.mem.bytes.filter fun x => hbmSize ≤ x.1, poison := s.mem.poison.filter fun x => hbmSize ≤ x }
                      removed := out, fresh := s.fresh + 1, fw := { s.fw with stage := 3 } }
    out.foldl (fun s k => s.report (.stack k)) s
  | 3 => { s with fw := { s.fw with stage := 4 } }
  | 4 =>
    let s := { s with fw := { s.fw with stage := 5 } }
    let s := (List.range 16).foldl (fun s p => s.setPst p { s.pst p with pools := smapOf (Config.framePools p) }) s
    (List.range 32).foldl (fun s n =>
      let s := s.restartAvlyn n Config.serviceEntry
      s.setCore (nCores + n) { s.coreAt (nCores + n) with tvec := vaField Config.serviceTvec }) s
  | _ => s

/-- POWER_ON (R434): the next stage, and the one after it until the Avlyn cores have started; in recovery nothing goes on. -/
def execPowerOn (s : State) : Out :=
  event <|
    let t := s.bringUp
    if t.fw.recovery || 5 ≤ t.fw.stage then t else { t with agenda := t.agenda ++ [.powerOn] }

/-! ### Attestation (R433) -/

/-- The endpoint answers. -/
def State.answer (s : State) (x : SpdmAnswer) : State := { s with fw := { s.fw with answers := s.fw.answers ++ [x] } }

/-- GET_VERSION (R433): SPDM 1.2 and 1.3. -/
def execGetVersion (s : State) : Out := event (({ s with fw := { s.fw with versionDone := true } }).answer (.version [0x12, 0x13]))

/-- GET_CAPABILITIES (R433): no secure sessions. -/
def execGetCapabilities (s : State) : Out := event (s.answer (if s.fw.versionDone then .capabilities false else .error))

/-- NEGOTIATE_ALGORITHMS (R433): only SM2 and SM3 are offered. -/
def execNegotiateAlgorithms (sm2 sm3 : Bool) (s : State) : Out :=
  event <|
    if s.fw.versionDone then ({ s with fw := { s.fw with algsDone := sm2 && sm3 } }).answer (.algorithms (sm2 && sm3)) else s.answer .error

/-- GET_DIGESTS (R433). -/
def execGetDigests (s : State) : Out :=
  event (s.answer (if s.fw.algsDone then .digests (Config.sm3 Config.certificate) else .error))

/-- GET_CERTIFICATE (R433). -/
def execGetCertificate (s : State) : Out :=
  event (s.answer (if s.fw.algsDone then .certificate Config.certificate else .error))

/-- The bytes of a nonce. -/
def nonceBytes (n : Nat) : List Byte := (List.range 32).map fun i => BitVec.ofNat 8 (n / 256 ^ i)

/-- CHALLENGE (R433): signed over the chain and the nonce. -/
def execChallenge (nonce : Nat) (s : State) : Out :=
  event (s.answer (if s.fw.algsDone then .challengeAuth (Config.sm2Sign (Config.sm3 (Config.certificate ++ nonceBytes nonce)) s.fw.answers.length)
    else .error))

/-- Signed GET_MEASUREMENTS (R432, R433) of one index. -/
def execGetMeasurements (index nonce : Nat) (s : State) : Out :=
  event <|
    match s.fw.algsDone, smapGet? s.fw.measured index with
    | true, some m => s.answer (.measurements index m
        (Config.sm2Sign (Config.sm3 ((List.range 32).map (fun i => BitVec.ofNat 8 (m.toNat / 256 ^ i)) ++ nonceBytes nonce)) s.fw.answers.length))
    | _, _ => s.answer .error

end Sys2Proof.Machine
end

