-- ==== Sys2Proof/Machine/Dispatch.lean ====
section
/-! DEFINITION. One arm per instruction and event: what each does. -/

namespace Sys2Proof.Machine

/-- The meaning of an instruction or event in a state. -/
def exec (i : Instr) (s : State) : Host.Outcome State Fault Refusal :=
  match i with
  | .add g mr d a b => Sys2Proof.Machine.execAdd g mr d a b s
  | .sub g mr d a b => Sys2Proof.Machine.execSub g mr d a b s
  | .and g d a b => Sys2Proof.Machine.execAnd g d a b s
  | .or g d a b => Sys2Proof.Machine.execOr g d a b s
  | .xor g d a b => Sys2Proof.Machine.execXor g d a b s
  | .andn g d a b => Sys2Proof.Machine.execAndn g d a b s
  | .min g u d a b => Sys2Proof.Machine.execMin g u d a b s
  | .max g u d a b => Sys2Proof.Machine.execMax g u d a b s
  | .shl g mr d a b => Sys2Proof.Machine.execShl g mr d a b s
  | .shr g d a b => Sys2Proof.Machine.execShr g d a b s
  | .sra g d a b => Sys2Proof.Machine.execSra g d a b s
  | .rol g d a b => Sys2Proof.Machine.execRol g d a b s
  | .mul g mr d a b => Sys2Proof.Machine.execMul g mr d a b s
  | .mulh g u d a b => Sys2Proof.Machine.execMulh g u d a b s
  | .div g u d a b => Sys2Proof.Machine.execDiv g u d a b s
  | .rem g u d a b => Sys2Proof.Machine.execRem g u d a b s
  | .clz g d a => Sys2Proof.Machine.execClz g d a s
  | .ctz g d a => Sys2Proof.Machine.execCtz g d a s
  | .popc g d a => Sys2Proof.Machine.execPopc g d a s
  | .bswap g d a => Sys2Proof.Machine.execBswap g d a s
  | .bext g sx d a b c => Sys2Proof.Machine.execBext g sx d a b c s
  | .bins g d a b c => Sys2Proof.Machine.execBins g d a b c s
  | .mov g d a => Sys2Proof.Machine.execMov g d a s
  | .sel g d a b c => Sys2Proof.Machine.execSel g d a b c s
  | .cmp g cond d a b => Sys2Proof.Machine.execCmp g cond d a b s
  | .pand g d a b => Sys2Proof.Machine.execPand g d a b s
  | .por g d a b => Sys2Proof.Machine.execPor g d a b s
  | .pxor g d a b => Sys2Proof.Machine.execPxor g d a b s
  | .addImm g mr d a imm => Sys2Proof.Machine.execAddImm g mr d a imm s
  | .andImm g d a imm => Sys2Proof.Machine.execAndImm g d a imm s
  | .orImm g d a imm => Sys2Proof.Machine.execOrImm g d a imm s
  | .xorImm g d a imm => Sys2Proof.Machine.execXorImm g d a imm s
  | .shlImm g mr d a imm => Sys2Proof.Machine.execShlImm g mr d a imm s
  | .shrImm g d a imm => Sys2Proof.Machine.execShrImm g d a imm s
  | .sraImm g d a imm => Sys2Proof.Machine.execSraImm g d a imm s
  | .li g d imm => Sys2Proof.Machine.execLi g d imm s
  | .ld g sz sx d a imm => Sys2Proof.Machine.execLd g sz sx d a imm s
  | .st g mr sz d a imm => Sys2Proof.Machine.execSt g mr sz d a imm s
  | .lds g d a imm => Sys2Proof.Machine.execLds g d a imm s
  | .stf g d a imm => Sys2Proof.Machine.execStf g d a imm s
  | .sete g a imm => Sys2Proof.Machine.execSete g a imm s
  | .br g p off => Sys2Proof.Machine.execBr g p off s
  | .loop c off => Sys2Proof.Machine.execLoop c off s
  | .jmp g off => Sys2Proof.Machine.execJmp g off s
  | .call g off => Sys2Proof.Machine.execCall g off s
  | .jr g a => Sys2Proof.Machine.execJr g a s
  | .callr g a => Sys2Proof.Machine.execCallr g a s
  | .ret g => Sys2Proof.Machine.execRet g s
  | .hstart g d a b => Sys2Proof.Machine.execHstart g d a b s
  | .hwait g a => Sys2Proof.Machine.execHwait g a s
  | .retire g => Sys2Proof.Machine.execRetire g s
  | .yield g => Sys2Proof.Machine.execYield g s
  | .brk g => Sys2Proof.Machine.execBrk g s
  | .vadd g mo mr ty d a b k => Sys2Proof.Machine.execVadd g mo mr ty d a b k s
  | .vsub g mo mr ty d a b k => Sys2Proof.Machine.execVsub g mo mr ty d a b k s
  | .vmul g mo mr ty d a b k => Sys2Proof.Machine.execVmul g mo mr ty d a b k s
  | .vmin g mo mr ty d a b k => Sys2Proof.Machine.execVmin g mo mr ty d a b k s
  | .vmax g mo mr ty d a b k => Sys2Proof.Machine.execVmax g mo mr ty d a b k s
  | .vand g d a b k => Sys2Proof.Machine.execVand g d a b k s
  | .vor g d a b k => Sys2Proof.Machine.execVor g d a b k s
  | .vxor g d a b k => Sys2Proof.Machine.execVxor g d a b k s
  | .vshl g ty d a b k => Sys2Proof.Machine.execVshl g ty d a b k s
  | .vshr g ty d a b k => Sys2Proof.Machine.execVshr g ty d a b k s
  | .vrot g d a b k => Sys2Proof.Machine.execVrot g d a b k s
  | .vperm g d a b k => Sys2Proof.Machine.execVperm g d a b k s
  | .vfma g mo mr d a b c k => Sys2Proof.Machine.execVfma g mo mr d a b c k s
  | .vcmp g mo cond d a b => Sys2Proof.Machine.execVcmp g mo cond d a b s
  | .vsel g d a b k => Sys2Proof.Machine.execVsel g d a b k s
  | .kand g d a b => Sys2Proof.Machine.execKand g d a b s
  | .kor g d a b => Sys2Proof.Machine.execKor g d a b s
  | .knot g d a => Sys2Proof.Machine.execKnot g d a s
  | .kpop g d a => Sys2Proof.Machine.execKpop g d a s
  | .vmov g d a k => Sys2Proof.Machine.execVmov g d a k s
  | .vbcast g d a k => Sys2Proof.Machine.execVbcast g d a k s
  | .vext g sx d a b => Sys2Proof.Machine.execVext g sx d a b s
  | .vins g d a b => Sys2Proof.Machine.execVins g d a b s
  | .vcvt g mr fr tgt d a k => Sys2Proof.Machine.execVcvt g mr fr tgt d a k s
  | .vnarrow g rnd fmt nosat d a k => Sys2Proof.Machine.execVnarrow g rnd fmt nosat d a k s
  | .vscale g a => Sys2Proof.Machine.execVscale g a s
  | .vtrans g d a k => Sys2Proof.Machine.execVtrans g d a k s
  | .vred g mo mr op ty d a k => Sys2Proof.Machine.execVred g mo mr op ty d a k s
  | .vscan g mo mr op ty d a k => Sys2Proof.Machine.execVscan g mo mr op ty d a k s
  | .vtbl g half a => Sys2Proof.Machine.execVtbl g half a s
  | .vshape g a b => Sys2Proof.Machine.execVshape g a b s
  | .vsf g mr fn d a k => Sys2Proof.Machine.execVsf g mr fn d a k s
  | .vld g code rs d a imm k => Sys2Proof.Machine.execVld g code rs d a imm k s
  | .vst g mr code rs d a imm k => Sys2Proof.Machine.execVst g mr code rs d a imm k s
  | .vldb g code d a imm k => Sys2Proof.Machine.execVldb g code d a imm k s
  | .gang g a => Sys2Proof.Machine.execGang g a s
  | .mldb g a b c => Sys2Proof.Machine.execMldb g a b c s
  | .mstc g a => Sys2Proof.Machine.execMstc g a s
  | .mzc g => Sys2Proof.Machine.execMzc g s
  | .ecfg g a => Sys2Proof.Machine.execEcfg g a s
  | .tsave g t a => Sys2Proof.Machine.execTsave g t a s
  | .trest g t a => Sys2Proof.Machine.execTrest g t a s
  | .ldg g sz sx capb byp na d a imm => Sys2Proof.Machine.execLdg g sz sx capb byp na d a imm s
  | .stg g sz capb byp na d a imm => Sys2Proof.Machine.execStg g sz capb byp na d a imm s
  | .ldc g d a imm => Sys2Proof.Machine.execLdc g d a imm s
  | .stc g d a imm => Sys2Proof.Machine.execStc g d a imm s
  | .amo g op scope d a b => Sys2Proof.Machine.execAmo g op scope d a b s
  | .cas g scope d a b c => Sys2Proof.Machine.execCas g scope d a b c s
  | .prf g l2 w a => Sys2Proof.Machine.execPrf g l2 w a s
  | .cclean g a => Sys2Proof.Machine.execCclean g a s
  | .cflush g a => Sys2Proof.Machine.execCflush g a s
  | .lease g d a b c => Sys2Proof.Machine.execLease g d a b c s
  | .unlease g a => Sys2Proof.Machine.execUnlease g a s
  | .alloc g d a => Sys2Proof.Machine.execAlloc g d a s
  | .free g a => Sys2Proof.Machine.execFree g a s
  | .fence g kind scope => Sys2Proof.Machine.execFence g kind scope s
  | .sopen g h a => Sys2Proof.Machine.execSopen g h a s
  | .sadv g h b => Sys2Proof.Machine.execSadv g h b s
  | .stest g d h => Sys2Proof.Machine.execStest g d h s
  | .sget g d h => Sys2Proof.Machine.execSget g d h s
  | .sgetv g d h b => Sys2Proof.Machine.execSgetv g d h b s
  | .sclose g h => Sys2Proof.Machine.execSclose g h s
  | .send g d a => Sys2Proof.Machine.execSend g d a s
  | .fetch g d a => Sys2Proof.Machine.execFetch g d a s
  | .gath g d a => Sys2Proof.Machine.execGath g d a s
  | .scat g d a => Sys2Proof.Machine.execScat g d a s
  | .bnew g a b => Sys2Proof.Machine.execBnew g a b s
  | .barv g d a => Sys2Proof.Machine.execBarv g d a s
  | .bexp g a b => Sys2Proof.Machine.execBexp g a b s
  | .bwait g d a b => Sys2Proof.Machine.execBwait g d a b s
  | .step g => Sys2Proof.Machine.execStep g s
  | .stepCable g => Sys2Proof.Machine.execStepCable g s
  | .subsync g => Sys2Proof.Machine.execSubsync g s
  | .rsw g a b c => Sys2Proof.Machine.execRsw g a b c s
  | .rfin g d a c => Sys2Proof.Machine.execRfin g d a c s
  | .xsend g a => Sys2Proof.Machine.execXsend g a s
  | .xsel g a => Sys2Proof.Machine.execXsel g a s
  | .xrecv g d => Sys2Proof.Machine.execXrecv g d s
  | .subSubscription g d a c => Sys2Proof.Machine.execSubSubscription g d a c s
  | .unsub g a => Sys2Proof.Machine.execUnsub g a s
  | .fadd g mo mr d a b => Sys2Proof.Machine.execFadd g mo mr d a b s
  | .fsub g mo mr d a b => Sys2Proof.Machine.execFsub g mo mr d a b s
  | .fmul g mo mr d a b => Sys2Proof.Machine.execFmul g mo mr d a b s
  | .fdiv g mo mr d a b => Sys2Proof.Machine.execFdiv g mo mr d a b s
  | .faddD g mo mr d a b => Sys2Proof.Machine.execFaddD g mo mr d a b s
  | .fsubD g mo mr d a b => Sys2Proof.Machine.execFsubD g mo mr d a b s
  | .fmulD g mo mr d a b => Sys2Proof.Machine.execFmulD g mo mr d a b s
  | .fdivD g mo mr d a b => Sys2Proof.Machine.execFdivD g mo mr d a b s
  | .fmin g mo d a b => Sys2Proof.Machine.execFmin g mo d a b s
  | .fmax g mo d a b => Sys2Proof.Machine.execFmax g mo d a b s
  | .fsqrt g mo mr d a => Sys2Proof.Machine.execFsqrt g mo mr d a s
  | .fclass g d a => Sys2Proof.Machine.execFclass g d a s
  | .fminD g mo d a b => Sys2Proof.Machine.execFminD g mo d a b s
  | .fmaxD g mo d a b => Sys2Proof.Machine.execFmaxD g mo d a b s
  | .fsqrtD g mo mr d a => Sys2Proof.Machine.execFsqrtD g mo mr d a s
  | .fclassD g d a => Sys2Proof.Machine.execFclassD g d a s
  | .fma g mo mr d a b c => Sys2Proof.Machine.execFma g mo mr d a b c s
  | .fmaD g mo mr d a b c => Sys2Proof.Machine.execFmaD g mo mr d a b c s
  | .fcmp g mo cond d a b => Sys2Proof.Machine.execFcmp g mo cond d a b s
  | .fcmpD g mo cond d a b => Sys2Proof.Machine.execFcmpD g mo cond d a b s
  | .fcvt g mr fr tgt d a => Sys2Proof.Machine.execFcvt g mr fr tgt d a s
  | .cbound g d a b c => Sys2Proof.Machine.execCbound g d a b c s
  | .cadd g d a b => Sys2Proof.Machine.execCadd g d a b s
  | .cget g fld d a => Sys2Proof.Machine.execCget g fld d a s
  | .cchk g perms d a b c => Sys2Proof.Machine.execCchk g perms d a b c s
  | .cmov g d a b => Sys2Proof.Machine.execCmov g d a b s
  | .cnull g d => Sys2Proof.Machine.execCnull g d s
  | .mopen g m a => Sys2Proof.Machine.execMopen g m a s
  | .mrefresh g m => Sys2Proof.Machine.execMrefresh g m s
  | .mround g d m => Sys2Proof.Machine.execMround g d m s
  | .mreserve g d m b => Sys2Proof.Machine.execMreserve g d m b s
  | .mget g raw first cnt d m b => Sys2Proof.Machine.execMget g raw first cnt d m b s
  | .mfld g fid comp d m b => Sys2Proof.Machine.execMfld g fid comp d m b s
  | .mfst g fid comp d m b => Sys2Proof.Machine.execMfst g fid comp d m b s
  | .medge g d m b c => Sys2Proof.Machine.execMedge g d m b c s
  | .mstar g kind h m b => Sys2Proof.Machine.execMstar g kind h m b s
  | .mvalid g d m b => Sys2Proof.Machine.execMvalid g d m b s
  | .msplit g m d a b c => Sys2Proof.Machine.execMsplit g m d a b c s
  | .msplitC g m d a b c => Sys2Proof.Machine.execMsplitC g m d a b c s
  | .msplitX g m d a b c => Sys2Proof.Machine.execMsplitX g m d a b c s
  | .mcoll g m v1 d a c => Sys2Proof.Machine.execMcoll g m v1 d a c s
  | .mcollC g m v1 d a c => Sys2Proof.Machine.execMcollC g m v1 d a c s
  | .mcollX g m v1 d a c => Sys2Proof.Machine.execMcollX g m v1 d a c s
  | .mflip g m d a c => Sys2Proof.Machine.execMflip g m d a c s
  | .mflipC g m d a c => Sys2Proof.Machine.execMflipC g m d a c s
  | .mflipX g m d a c => Sys2Proof.Machine.execMflipX g m d a c s
  | .mrefine g m d a b c => Sys2Proof.Machine.execMrefine g m d a b c s
  | .mrefineC g m d a b c => Sys2Proof.Machine.execMrefineC g m d a b c s
  | .mrefineX g m d a b c => Sys2Proof.Machine.execMrefineX g m d a b c s
  | .trap g a => Sys2Proof.Machine.execTrap g a s
  | .eret => Sys2Proof.Machine.execEret s
  | .uret => Sys2Proof.Machine.execUret s
  | .mfc g d cr => Sys2Proof.Machine.execMfc g d cr s
  | .mtc g d cr => Sys2Proof.Machine.execMtc g d cr s
  | .sleep g d a b => Sys2Proof.Machine.execSleep g d a b s
  | .wake g a => Sys2Proof.Machine.execWake g a s
  | .launch g d a b => Sys2Proof.Machine.execLaunch g d a b s
  | .cancel g a => Sys2Proof.Machine.execCancel g a s
  | .rdcnt g d n => Sys2Proof.Machine.execRdcnt g d n s
  | .vectorArbiterBind tile => Sys2Proof.Machine.execVectorArbiterBind tile s
  | .vectorQueueHead core => Sys2Proof.Machine.execVectorQueueHead core s
  | .gangMatch row => Sys2Proof.Machine.execGangMatch row s
  | .rowArrayStart row => Sys2Proof.Machine.execRowArrayStart row s
  | .rowArrayComplete row => Sys2Proof.Machine.execRowArrayComplete row s
  | .loadReply core ctx => Sys2Proof.Machine.execLoadReply core ctx s
  | .waitConditionMet core ctx => Sys2Proof.Machine.execWaitConditionMet core ctx s
  | .sleepDeadline core ctx => Sys2Proof.Machine.execSleepDeadline core ctx s
  | .wiredBarrierRelease launch => Sys2Proof.Machine.execWiredBarrierRelease launch s
  | .cableStepTimeout launch => Sys2Proof.Machine.execCableStepTimeout launch s
  | .unitEnd core => Sys2Proof.Machine.execUnitEnd core s
  | .engineSlotFill tile gs => Sys2Proof.Machine.execEngineSlotFill tile gs s
  | .engineTransfer cmd => Sys2Proof.Machine.execEngineTransfer cmd s
  | .gatherElement cmd => Sys2Proof.Machine.execGatherElement cmd s
  | .completionRecord cmd => Sys2Proof.Machine.execCompletionRecord cmd s
  | .engineFaultReply cmd => Sys2Proof.Machine.execEngineFaultReply cmd s
  | .requestRingRetry part => Sys2Proof.Machine.execRequestRingRetry part s
  | .updateFlitClose core entry => Sys2Proof.Machine.execUpdateFlitClose core entry s
  | .subscriptionUpdateApply core entry => Sys2Proof.Machine.execSubscriptionUpdateApply core entry s
  | .sublapse core => Sys2Proof.Machine.execSublapse core s
  | .leaseExpiry part id => Sys2Proof.Machine.execLeaseExpiry part id s
  | .append part prio size value => Sys2Proof.Machine.execAppend part prio size value s
  | .launchDequeue part => Sys2Proof.Machine.execLaunchDequeue part s
  | .predecessorTest launch => Sys2Proof.Machine.execPredecessorTest launch s
  | .placement part => Sys2Proof.Machine.execPlacement part s
  | .ageLimitExpiry launch => Sys2Proof.Machine.execAgeLimitExpiry launch s
  | .spanningTreeMessage launch tile => Sys2Proof.Machine.execSpanningTreeMessage launch tile s
  | .preempt part => Sys2Proof.Machine.execPreempt part s
  | .unitSave core => Sys2Proof.Machine.execUnitSave core s
  | .unitRestore launch unit core => Sys2Proof.Machine.execUnitRestore launch unit core s
  | .cancellation part ctr => Sys2Proof.Machine.execCancellation part ctr s
  | .unitCancel launch unit => Sys2Proof.Machine.execUnitCancel launch unit s
  | .tilePowerGate tile => Sys2Proof.Machine.execTilePowerGate tile s
  | .tileWake tile => Sys2Proof.Machine.execTileWake tile s
  | .invalidation line agent => Sys2Proof.Machine.execInvalidation line agent s
  | .forward line requester => Sys2Proof.Machine.execForward line requester s
  | .translationInvalidateAck line agent => Sys2Proof.Machine.execTranslationInvalidateAck line agent s
  | .snpInv line half => Sys2Proof.Machine.execSnpInv line half s
  | .snpData line half => Sys2Proof.Machine.execSnpData line half s
  | .snpCur line half => Sys2Proof.Machine.execSnpCur line half s
  | .hostResponse line answer => Sys2Proof.Machine.execHostResponse line answer s
  | .hostCxlMemAccess ld addr size op value => Sys2Proof.Machine.execHostCxlMemAccess ld addr size op value s
  | .bisnpResponse line answer => Sys2Proof.Machine.execBisnpResponse line answer s
  | .snoopTimeout ld => Sys2Proof.Machine.execSnoopTimeout ld s
  | .peerDeviceTimeout dev => Sys2Proof.Machine.execPeerDeviceTimeout dev s
  | .mirrorUpdate line => Sys2Proof.Machine.execMirrorUpdate line s
  | .takeoverTimeout line => Sys2Proof.Machine.execTakeoverTimeout line s
  | .takeoverRequest line => Sys2Proof.Machine.execTakeoverRequest line s
  | .stackRemoval stack => Sys2Proof.Machine.execStackRemoval stack s
  | .linkDown ld => Sys2Proof.Machine.execLinkDown ld s
  | .linkUp ld => Sys2Proof.Machine.execLinkUp ld s
  | .quarantineHandover ld buffer => Sys2Proof.Machine.execQuarantineHandover ld buffer s
  | .hostAcknowledge ld => Sys2Proof.Machine.execHostAcknowledge ld s
  | .correctableError site stack => Sys2Proof.Machine.execCorrectableError site stack s
  | .uncorrectableError site stack => Sys2Proof.Machine.execUncorrectableError site stack s
  | .patrolScrub line bad => Sys2Proof.Machine.execPatrolScrub line bad s
  | .masterRelease master => Sys2Proof.Machine.execMasterRelease master s
  | .partitionTableWrite part entry => Sys2Proof.Machine.execPartitionTableWrite part entry s
  | .quiesce part on => Sys2Proof.Machine.execQuiesce part on s
  | .clockChangeRequest stack point => Sys2Proof.Machine.execClockChangeRequest stack point s
  | .clockChangeAck stack => Sys2Proof.Machine.execClockChangeAck stack s
  | .clockChangeComplete stack => Sys2Proof.Machine.execClockChangeComplete stack s
  | .powerLimit watts => Sys2Proof.Machine.execPowerLimit watts s
  | .thermalTrip => Sys2Proof.Machine.execThermalTrip s
  | .eventRaise ld cls => Sys2Proof.Machine.execEventRaise ld cls s
  | .hostEventDelivery ld cls fwd => Sys2Proof.Machine.execHostEventDelivery ld cls fwd s
  | .eventOwnerWrite ld cls code => Sys2Proof.Machine.execEventOwnerWrite ld cls code s
  | .avlynRestart n entry => Sys2Proof.Machine.execAvlynRestart n entry s
  | .moduleReset => Sys2Proof.Machine.execModuleReset s
  | .recoveryImage image => Sys2Proof.Machine.execRecoveryImage image s
  | .powerOn => Sys2Proof.Machine.execPowerOn s
  | .getVersion => Sys2Proof.Machine.execGetVersion s
  | .getCapabilities => Sys2Proof.Machine.execGetCapabilities s
  | .negotiateAlgorithms sm2 sm3 => Sys2Proof.Machine.execNegotiateAlgorithms sm2 sm3 s
  | .getDigests => Sys2Proof.Machine.execGetDigests s
  | .getCertificate => Sys2Proof.Machine.execGetCertificate s
  | .challenge nonce => Sys2Proof.Machine.execChallenge nonce s
  | .getMeasurements index nonce => Sys2Proof.Machine.execGetMeasurements index nonce s
  | .illegalEncoding hw => Sys2Proof.Machine.execIllegalEncoding hw s
  | .instructionFetchFault cause addr => Sys2Proof.Machine.execInstructionFetchFault cause addr s
  | .peerDeviceRequest dev part va size op value => Sys2Proof.Machine.execPeerDeviceRequest dev part va size op value s
  | .portLinkLoss ld port => Sys2Proof.Machine.execPortLinkLoss ld port s

end Sys2Proof.Machine
end

