-- ==== Sys2Proof/Machine/Internal.lean ====
section
/-! DEFINITION. Which event of the device comes next when a step is the device's: the events that come of themselves, each kind in
its turn. Events from outside stand in the agenda. -/

namespace Sys2Proof.Machine

/-- A list that starts at its element number `k`, round. -/
def rotate {α : Type} (k : Nat) (l : List α) : List α := l.drop (k % max 1 l.length) ++ l.take (k % max 1 l.length)

/-- The kinds of events that come of themselves. -/
inductive Kind where
  | reply | ready | queue | lanes | gang | rowStart | rowEnd | wired | late | unitEnd | slot | move | record | service | retry | close
  | update | lapse | lease | dequeue | preds | place | age | tree | preempt | save | cancel | gate | ack | host | recall | clock | tell
  deriving DecidableEq, Repr

/-- All kinds, in order. -/
def Kind.all : List Kind :=
  [.reply, .ready, .queue, .lanes, .gang, .rowStart, .rowEnd, .wired, .late, .unitEnd, .slot, .move, .record, .service, .retry, .close,
   .update, .lapse, .lease, .dequeue, .preds, .place, .age, .tree, .preempt, .save, .cancel, .gate, .ack, .host, .recall, .clock, .tell]

/-- The first core for which `f` finds an event. -/
def State.onCores (s : State) (f : Nat → Core → Option Instr) : Option Instr :=
  (rotate (s.fresh / 2) s.cores).findSome? fun x => f x.1 x.2

/-- The first partition for which `f` finds an event. -/
def State.onParts (s : State) (f : Nat → Option Instr) : Option Instr :=
  (s.parts.filter fun x => x.2.valid).findSome? fun x => f x.1

/-- An event when the condition holds. -/
def when (c : Bool) (i : Instr) : Option Instr := if c then some i else none

/-- A reply, or a queue head, or a wait of one core's contexts. -/
def Core.onCtxs (c : Core) (f : Nat → Context → Option Instr) : Option Instr := c.ctxs.findSome? fun x => f x.1 x.2

/-- Whether a stalled command has its answer and may take it (R289, R371). -/
def State.answered (s : State) (c : Cmd) : Bool :=
  match c.st with
  | .stalled _ _ _ _ bar (some a) => let r := s.replyOf a; r == 1 || (2 ≤ r && !s.declineHeld c bar)
  | _ => false

/-- Whether a command whose append was refused tries again (R371); not while its partition is quiesced (R420). -/
def State.retryDue (s : State) (p : Nat) : Bool := !(s.pst p).quiesced && (s.partEntry p).isSome && (s.refusedCmd p).isSome

/-- The active command of an engine of a tile that has the next turn (R280): of the core whose turn it is, its first. -/
def State.nextMove (s : State) (tile : Nat) (gs : Bool) : Option Cmd :=
  let cores := s.engCores tile gs .active
  if cores.isEmpty then none
  else
    let g := s.roundPick cores (moveKey gs)
    s.cmds.find? fun c => c.kind.gs == gs && c.core == g && c.st == .active

/-- The first event that the host of a logical device is to learn of, or that is to be dropped: the oldest of its class. One that the host owns
waits while the port carries no traffic (R399, R404). -/
def LogDev.tells (d : LogDev) : Option (Nat × BitVec 2) :=
  d.pending.find? fun ev => d.pending.find? (·.1 == ev.1) == some ev && !((d.down || d.frozen) && ev.2 == 1)

/-- Whether a copy kept in S only has something to do after an invalidation: drop what it derived, or acknowledge (R382). -/
def State.ackDue (s : State) (e : DirEntry) (a : CacheAgent) : Bool :=
  s.drained a e.line || (s.caches.xlat.any fun x => x.agent == a && x.lines.contains e.line)
    || s.caches.revs.any fun x => CacheAgent.revoke x.tile == a && x.line == e.line

/-- The next event of one kind, if there is one. -/
def State.nextOf (s : State) (k : Kind) : Option Instr :=
  match k with
  | .reply => s.onCores fun g c => c.onCtxs fun n x => when (!x.replies.isEmpty) (.loadReply g n)
  | .ready => s.onCores fun g c => c.onCtxs fun n x => match x.st with
      | .waiting w => if s.condMet g n w then some (.waitConditionMet g n)
          else match w with
            | .sleep _ d => when (s.deadlinePassed d) (.sleepDeadline g n)
            | _ => none
      | _ => none
  | .queue => s.onCores fun g c => match c.vq with
      | x :: _ => when (x.lanes == 0 && s.headReady g x) (.vectorQueueHead g)
      | [] => none
  | .lanes => s.onCores fun g _ => when (s.wantsLanes g && s.freeLanes (g / 8) != 0) (.vectorArbiterBind (g / 8))
  | .gang => s.onCores fun g _ => when (s.matchDue (g / 4)) (.gangMatch (g / 4))
  | .rowStart => s.rows.findSome? fun x =>
      when (x.2.matched.isSome && x.2.running.isNone && !s.clockHeld (x.1 / 288) && !s.rowHalted x.1
        && x.2.matched.any s.rowDue) (.rowArrayStart x.1)
  | .rowEnd => s.rows.findSome? fun x => when x.2.running.isSome (.rowArrayComplete x.1)
  | .wired => s.launches.findSome? fun l => when (s.abortDue l || s.releaseDue l) (.wiredBarrierRelease l.id)
  | .late => s.launches.findSome? fun l => when (s.cableLate l) (.cableStepTimeout l.id)
  | .unitEnd => s.onCores fun g _ => when (s.endReady g).isSome (.unitEnd g)
  | .slot => (rotate (s.fresh / 2) s.cmds).findSome? fun c =>
      when (c.st == .waiting && (s.cmds.filter fun d => d.core / 8 == c.core / 8 && d.kind.gs == c.kind.gs && d.st == .active).length < 8)
        (.engineSlotFill (c.core / 8) c.kind.gs)
  | .move => (rotate (s.fresh / 2) s.cmds).findSome? fun c =>
      if c.st == .active && !(s.pst c.part).quiesced then
        (s.nextMove (c.core / 8) c.kind.gs).map fun d => if c.kind.gs then .gatherElement d.id else .engineTransfer d.id
      else none
  | .record => s.cmds.findSome? fun c => when (s.recordDue c) (.completionRecord c.id)
  | .service => s.cmds.findSome? fun c => when (s.answered c) (.engineFaultReply c.id)
  | .retry => s.onParts fun p => when (s.retryDue p) (.requestRingRetry p)
  | .close => s.onCores fun g c => (List.range c.out.length).findSome? fun i => (c.outAt i).bind fun o =>
      when (c.flits.any fun f => f.sub == o.sub && f.entry == o.entry && !f.closed) (.updateFlitClose g i)
  | .update => s.onCores fun g c => (List.range c.out.length).findSome? fun i => (c.outAt i).bind fun o =>
      match c.flits.find? fun f => f.sub == o.sub && f.entry == o.entry with
      | some f => when (s.flitDue c f) (.subscriptionUpdateApply g i)
      | none => none
  | .lapse => s.onCores fun g _ => when (s.lapseDue g) (.sublapse g)
  | .lease => s.pstate.findSome? fun x => x.2.leases.findSome? fun l => when (l.expiry ≤ s.time.toNat * 8) (.leaseExpiry x.1 l.id)
  | .dequeue => s.onParts fun p => when (s.fw.stage == 7 && (s.canDequeue p || !s.watchesQueues p)) (.launchDequeue p)
  | .preds => s.launches.findSome? fun l => when (s.testDue l || !s.watchesAll l) (.predecessorTest l.id)
  | .place => s.onParts fun p => when ((s.plan p).isSome || s.envNews p) (.placement p)
  | .age => s.launches.findSome? fun l => when (s.overAge l) (.ageLimitExpiry l.id)
  | .tree => s.tree.findSome? fun w => when (s.nodeReady w.launch w.tile) (.spanningTreeMessage w.launch w.tile)
  | .preempt => s.onParts fun p => when (!(s.preemption p).isEmpty) (.preempt p)
  | .save => s.onCores fun g _ => match s.launchOf g with
      | some l => when (s.withdrawDue g || (s.saveReady g && (!l.place || l.cores.all s.saveReady))) (.unitSave g)
      | none => none
  | .cancel => s.launches.findSome? fun l => l.units.findSome? fun u => when (s.cancelDue l u) (.unitCancel l.id u.idx)
  | .gate => s.onParts fun p => ((s.partEntry p).map (·.tiles)).bind fun ts => ts.findSome? fun t => when (s.gateDue t) (.tilePowerGate t)
  | .ack => s.dir.findSome? fun e => e.awaited.findSome? fun a =>
      if sOnly a then when (s.ackDue e a) (.translationInvalidateAck e.line a) else some (.invalidation e.line a)
  | .host => s.bridge.findSome? fun b =>
      let live := match s.ldOf b.line with
        | some n => !(s.ld n).down && !(s.ld n).frozen
        | none => true
      if !live then none
      else if b.req0.isSome then some (.hostResponse b.line ⟨false, none⟩)
      else when b.req1.isSome (.hostResponse b.line ⟨true, none⟩)
  | .recall => s.hostHeld.findSome? fun x =>
      if (s.ld x.ld).down || (s.ld x.ld).frozen then none
      else if x.bi0 then some (.bisnpResponse x.line ⟨false, none⟩)
      else when x.bi1 (.bisnpResponse x.line ⟨true, none⟩)
  | .clock => (List.range 4).findSome? fun k =>
      let c := s.clock k
      if c.req.isNone then none
      else if c.acked then some (.clockChangeComplete k)
      else when (((s.clockGroup k).filter s.clockHeld).all s.clockSafe) (.clockChangeAck k)
  | .tell => s.lds.findSome? fun x => if (s.partEntry x.1).isNone then none
      else x.2.tells.map fun ev => .hostEventDelivery x.1 ev.1 (Config.freeByte s.fresh 0 |>.getLsbD 0)

/-- Whether an event is an action of the management plane (R3, R5). -/
def managed : Instr → Bool
  | .masterRelease _ | .partitionTableWrite .. | .quiesce .. | .clockChangeRequest .. | .powerLimit _ | .thermalTrip | .stackRemoval _
  | .linkUp _ | .eventOwnerWrite .. | .avlynRestart .. | .moduleReset | .recoveryImage _ | .powerOn => true
  | _ => false

/-- The event of an agenda that acts next, and the rest: the first of the management plane, else the first (R5). -/
def nextEvent (l : List Instr) : Option (Instr × List Instr) :=
  match l.find? managed with
  | some e => some (e, l.erase e)
  | none => match l with
    | e :: rest => some (e, rest)
    | [] => none

/-- The next event of the device: the kinds take turns. -/
def State.internal (s : State) : Option Instr := (rotate (s.fresh / 2) Kind.all).findSome? s.nextOf

end Sys2Proof.Machine
end

