-- ==== Sys2Proof/Machine/Issue.lean ====
section
/-! DEFINITION. Which context issues, and what passes with a step (R12 to R16, R99, R101, R128, R215, R260, R287, R364). -/

namespace Sys2Proof.Machine

/-! ### Choosing a context -/

/-- Whether a core issues at all: it holds a unit that is neither frozen nor ending, in a partition that is not quiesced; or it is an Avlyn
core that has not stopped. -/
def State.coreLive (s : State) (g : Nat) : Bool :=
  let c := s.coreAt g
  !c.frozen && c.ending.isNone
    && (if nCores ≤ g then g < nCores + 32 && !c.stopped else c.unit.isSome && !(s.pst c.part.toNat).quiesced)

/-- Whether a context can issue (R11 to R16, R128, R364): it is ready, no SUBLAPSE comes first, those it yielded to have issued or wait, and
a cable step leaves it a cycle. A context that the saver stops only brings the instruction in hand to its end (R365, R369). -/
def State.canIssue (s : State) (g n : Nat) : Bool :=
  s.isReady g n && (!s.stopping g || ((s.coreAt g).ctxAt n).inHand) && !(n == 0 && s.lapseNext g)
    && (((s.coreAt g).ctxAt n).yielded.all fun m => !s.isReady g m)
    && !(s.coreInCable g && (n != 0 || cableCycles ≤ s.cableNext g))

/-- The context of a core that issues next, round robin after the last (R13). -/
def State.pickCtx (s : State) (g : Nat) : Option Nat :=
  if s.coreLive g then ((List.range 11).map fun i => ((s.coreAt g).last + 1 + i) % 11).find? (s.canIssue g) else none

/-- The core and context that issue next: the schedule `pace` names the core; when it is empty, the cores take turns. -/
def State.pick (s : State) : Option (Nat × Nat) :=
  let turn (g : Nat) : Option (Nat × Nat) := (s.pickCtx g).map fun n => (g, n)
  match s.pace with
  | g :: _ => turn g
  | [] =>
    let after := (s.cores.map (·.1)).filter (s.turn < ·)
    let upTo := (s.cores.map (·.1)).filter (· ≤ s.turn)
    (after ++ upTo).findSome? turn

/-! ### Around an instruction -/

/-- Whether a context waits (R12). -/
def CtxState.waits : CtxState → Bool
  | .waiting _ => true
  | _ => false

/-- The `gang`s of every row that have reached their queue heads are matched in this cycle (R168, R169). -/
def State.matchRows (s : State) : State :=
  ((s.cores.map fun x => x.1 / 4).eraseDups).foldl (fun s r => if s.matchDue r then s.matchRow r else s) s

/-- Whether cycles come one by one: the start cycle S of a matched operation lies ahead, with the array idle (R7, R169), or a head waits for
lane groups, which are offered in each cycle (R23). -/
def State.aligning (s : State) : Bool :=
  (s.rows.any fun x => x.2.matched.isSome && x.2.running.isNone) || s.cores.any fun x => x.2.laneWait.isSome

/-- One cycle, and as many more as pass, in which TIME goes on by a number of nanoseconds that is free (R6, R26, R260). No cycle is passed over
while a gang is to start in it or a queue head waits for lane groups. The counters of an Avlyn core, which runs no unit, stand still (log entry 106). -/
def State.passTime (s : State) : State :=
  let n : Word := if s.aligning then 1 else BitVec.ofNat 64 (1 + Config.pace s.fresh)
  { s with
    time := s.time + BitVec.ofNat 64 (Config.pace (s.fresh + 1))
    fresh := s.fresh + 2
    beat := s.beat + n.toNat
    caches := s.agedCaches
    cores := s.cores.map fun x => (x.1, { x.2 with
      cycles := if x.2.unit.isSome then x.2.cycles + n else x.2.cycles
      vqbusy := if x.2.vq.isEmpty then x.2.vqbusy else x.2.vqbusy + n
      ctxs := x.2.ctxs.map fun y => (y.1, if y.2.st.waits || (y.2.st == .ready && s.regWait x.1 y.1) then
          { y.2 with waited := y.2.waited + n } else y.2) }) }

/-- The operations whose cycle S has come start, and their `gang`s go on in it (R169). -/
def State.startRows (s : State) : State := s.rows.foldl (fun s x => s.startRow x.1) s

/-- The next cycle. -/
def State.tick (s : State) : State := s.offerLanes.matchRows.passTime.startRows

/-- The state in which an instruction of context `n` of core `g` runs: it is in hand, and no step of its launch has just been released any
more (R287). In a cable step a load's result is one cycle late (R15). -/
def State.begin (s : State) (g n : Nat) (i : Instr) (hs : List Half) (len : Nat) : State :=
  let c := s.coreAt g
  let c := { c with
    cable := if s.cableLate1 g i then c.cable + 1 else c.cable
    loaded := none
    ctxs := c.ctxs.map fun x => (x.1, { x.2 with
      yielded := x.2.yielded.filter (· != n), inHand := if x.1 = n then false else x.2.inHand }) }
  let s := s.setCore g c
  let s := match s.launchOf g with
    | some l => if l.atRelease then s.modLaunch l.id fun l => { l with atRelease := false } else s
    | none => s
  { s with hand := ⟨g, n, (c.ctxAt n).pc, len, hs.headD 0⟩ }

/-- Whether an instruction has been issued when its context stands so: it does not wait before it (R12). -/
def CtxState.issued : CtxState → Bool
  | .waiting c => c.issued || match c with
    | .gang | .wired _ | .retire | .held .. => true
    | _ => false
  | _ => true

/-- The register that the instruction in hand has just loaded from the scratchpad, when it has (R15). -/
def State.justLoaded (s : State) (i : Instr) : Option (BitVec 5) :=
  (s.cableLoads i).bind fun x => if s.guard x.1 && s.my.pc == s.nextPc then some x.2 else none

/-- After an instruction: the context is the last one to have issued (R13); one more issued, unless it waits and issues again; in a cable
step it has taken its cycle, and a load's result comes a cycle later (R15). -/
def State.after (s : State) (g n : Nat) (i : Instr) : State :=
  let c := s.coreAt g
  let x := c.ctxAt n
  let c := if x.st.issued then { c with last := n } else c
  match x.st with
  | .free | .waiting _ => s.setCore g c
  | _ =>
    let l := s.justLoaded i
    if s.coreInCable g then s.setCore g ({ c with cable := c.cable + 1, loaded := l }.setCtx n { x with issued := x.issued + 1, linkLost := false })
    else s.setCore g (c.setCtx n { x with issued := x.issued + 1, linkLost := false, loaded := (l.map fun d => (d, c.cycles)).orElse fun _ => x.loaded })

/-- A context that has taken the fault of a lost answer waits for it no more (R422). -/
def State.linkTold (s : State) (g n : Nat) : State :=
  let x := (s.coreAt g).ctxAt n
  if x.linkLost && !x.st.waits then s.modCtx g n fun x => { x with linkLost := false } else s

/-- A next state changed, any other outcome as it is. -/
def mapNext (f : State → State) (o : Out) : Out :=
  match o with
  | .next s => .next (f s)
  | .fault r => .fault r
  | .refused r => .refused r

/-- What a fetch waits for: its instruction has not been issued (R12, R364). -/
def Cond.ofFetch : Cond → Cond
  | .host k => .fetching k
  | c => c

/-- The next instruction of context `n` of core `g`: fetch, decoding and the instruction (R99, R101). A context whose fetch or decoding faults
has not issued an instruction (log entry 95). -/
def State.issue (s : State) (g n : Nat) : Out :=
  let pc := ((s.coreAt g).ctxAt n).pc
  let s := { s with hand := ⟨g, n, pc, 1, 0⟩ }
  match s.fetch pc with
  | .error (.inr (s, c)) => .next (s.modMy fun x => { x with st := .waiting c.ofFetch })
  | .error (.inl (s, .wait line, _)) => .next (s.modMy fun x => { x with st := .waiting (.fetching line) })
  | .error (.inl (s, .violation, _)) => .next s.freezeMaster
  | .error (.inl (s, .flt code _, va)) =>
    mapNext (fun t => t.linkTold g n)
      (exec (.instructionFetchFault (BitVec.ofNat 8 code) (BitVec.ofNat 64 va)) { s with hand := ⟨g, n, pc, 1, s.halfAt pc⟩ })
  | .ok (s, hs) =>
    match decode hs with
    | none => exec (.illegalEncoding (hs.headD 0)) (s.begin g n .eret hs hs.length)
    | some (i, len) => mapNext (fun t => t.after g n i) (exec i (s.begin g n i hs len))

/-- The step of a core: time passes, the schedule moves on, and the instruction of the context that is chosen runs. -/
def State.coreStep (s : State) : Out :=
  let t := s.tick
  match t.pick with
  | some (g, n) => { t with pace := t.pace.tail, turn := g }.issue g n
  | none => .next { t with pace := t.pace.tail }

/-! ### A program placed from outside -/

/-- The bytes of halfwords, each little-endian (R89). -/
def halfBytes (hs : List Half) : List Byte := hs.flatMap fun (h : Half) => [h.setWidth 8, (h >>> 8).setWidth 8]

/-- The partition, launch and unit under which a word placed from outside runs: partition 0 with one tile and an identity map of its
first 4 MiB, readable, writable and executable. -/
def probePartition : Partition where
  valid := true
  tiles := [0]
  slices := [0]
  device := 0
  hbm := [(0, 0x400000)]
  ttbase := 0x1000
  queueBase := none
  envBlock := 0x5000
  ringHdr := 0x6000
  bitmap := 0x200000
  saveArea := 0x100000
  quarBase := 0
  quarSize := 0
  hostBase := 0
  hostSize := 0
  hdmBase := 0
  hdmSize := 0
  fixed := true
  slotMask := 0
  portMask := 0
  vcFixed := false
  ageLimit := 1000000
  idleTime := 1000000
  snoopTime := 10000
  binds := []
  eventRing := 0
  eventSize := 0
  vectors := []
  ports := []

/-- The tables of that map: levels 3 and 2 point on, level 1 maps two pages of 2 MiB. -/
def probeTables (m : Bytes) : Bytes :=
  bytesWrite (bytesWrite (bytesWrite (bytesWrite m 0x1000 8 0x2001) 0x2000 8 0x3001) 0x3000 8 0x90F) 0x3008 8 0x20090F

/-- The address at which the word is placed. -/
def probePc : Nat := 0x10000

/-- Its launch, with one unit on core 0. -/
def probeLaunch : Launch where
  id := 0
  part := 0
  prio := 0
  recVA := 0x7000
  entry := probePc
  across := 1
  down := 1
  percore := 1
  vsw := 0
  helpers := 10
  swm1 := 0
  wave := false
  place := true
  arg := 0
  preds := []
  st := .placed
  eligible := none
  aged := false
  cancelled := false
  origin := none
  units := [⟨0, .running 0, none, some 0, 0, none, []⟩]
  stepK := .compute
  arrived := []
  atRelease := false

/-- The state with the unit on core 0, its context 0 ready at the word, and core 0 next to issue. -/
def State.withProbe (s : State) (code : List Byte) : State :=
  let c := s.coreAt 0
  let x := c.ctxAt 0
  let x := { x with pc := BitVec.ofNat 64 probePc, st := .ready, replies := [], yielded := [], loaded := none }
  let c := { c.setCtx 0 x with
    unit := some ⟨0, 0, 10⟩, frozen := false, ending := none, saving := false, part := 0, last := 10, vq := [], lapse := 0, icache := [] }
  { s.setCore 0 c with
    mem := { s.mem with bytes := bytesWrite (probeTables s.mem.bytes) probePc code.length (leBytes code) }
    parts := smapSet s.parts 0 probePartition
    pstate := smapSet s.pstate 0 PartState.none
    launches := probeLaunch :: s.launches.filter (·.id != 0)
    caches := { s.caches with xlat := [] }
    agenda := []
    devTurn := false
    pace := [0]
    stopped := false }

end Sys2Proof.Machine
end

