-- ==== Sys2Proof/Machine/Step.lean ====
section
/-! DEFINITION. One step of the device. -/

namespace Sys2Proof.Machine

/-- One step: what stands in the agenda first, an action of the management plane before any other (R5), then by turns an event of the
device and an instruction of a core. -/
def step (s : State) : Host.Outcome State Fault Refusal :=
  if s.stopped then .fault .moduleStopped
  else match nextEvent s.agenda with
    | some (e, rest) => exec e { s with agenda := rest }
    | none =>
      match if s.devTurn then s.internal else none with
      | some e => exec e { s with devTurn := false }
      | none => { s with devTurn := true }.coreStep

/-- The instruction whose bits are `w`, as the opcode table numbers them, placed where the next step fetches. -/
def State.withFetchWord (s : State) (nbits w : Nat) : State :=
  s.withProbe (halfBytes (tableHalves nbits w ++ [0, 0, 0, 0, 0]))

end Sys2Proof.Machine
end

