-- ==== Sys2Proof/Safety.lean ====
section
/-! DEFINITION. What the statements take as a well-formed machine: memory in its canonical form; and the terms they use: when an
instruction runs, and what it leaves unchanged. -/

namespace Sys2Proof.Machine

/-- A strictly rising list of numbers: the canonical form of a set. -/
def setWf (l : NatSet) : Bool := decide (l.Pairwise (· < ·))

/-- The canonical form of a memory: bytes with addresses strictly rising and none equal to what an unlisted address reads as (log
entry 2), and the sets of full and of poisoned units strictly rising. -/
def Memory.wf (m : Phys) : Bool := bytesWf m.bytes && setWf m.full && setWf m.poison

/-- An instruction executes in this state (R97, R99): its core has it (`av`: an Avlyn core does), the step of its region allows it
(`cable`: it may issue in a cable step), and its guard holds. -/
def State.runs (s : State) (av cable : Bool) (g : Guard) : Prop := s.issuable av cable = true ∧ s.guard g = true

/-- What a register holds after `v` is written to it: s0 and its like discard the write and read 0 (R17). -/
def orZero {n : Nat} {α : Type} [OfNat α 0] (r : BitVec n) (v : α) : α := if r = 0 then 0 else v

/-- The memory of every device reads as before: each byte, each full-empty bit, each unit of poison. -/
structure SameMemory (s t : State) : Prop where
  bytes  : ∀ dev a, bytesGet (t.phys dev).bytes a = bytesGet (s.phys dev).bytes a
  full   : ∀ dev, (t.phys dev).full = (s.phys dev).full
  poison : ∀ dev, (t.phys dev).poison = (s.phys dev).poison

/-- What a context holds beside its pc, its numbered registers and FFLAGS: the exception registers, the mode, its state, its counters and
what it waits for. -/
def SameSystem (x y : Context) : Prop :=
  y = { x with s := y.s, p := y.p, a := y.a, h := y.h, pc := y.pc, fflags := y.fflags }

/-- The numbered registers of the context in hand but those listed, and its system registers, are as before. -/
structure SameRegs (s t : State) (ds : List (BitVec 5)) (ps : List (BitVec 3)) (as hs : List (BitVec 4)) : Prop where
  S    : ∀ r, r ∉ ds → t.S r = s.S r
  P    : ∀ r, r ∉ ps → t.P r = s.P r
  A    : ∀ r, r ∉ as → t.A r = s.A r
  H    : ∀ r, r ∉ hs → t.H r = s.H r
  rest : SameSystem s.my t.my

/-- Nothing but the context in hand has changed: no other context, no register that contexts share, no memory, no unit. -/
def OnlyContext (s t : State) : Prop := t = s.modMy fun _ => t.my

/-- The frame of an instruction that writes registers only: those listed, the pc and FFLAGS. -/
structure RegFrame (s t : State) (ds : List (BitVec 5)) (ps : List (BitVec 3)) (as hs : List (BitVec 4)) : Prop where
  regs  : SameRegs s t ds ps as hs
  only  : OnlyContext s t
  mem   : SameMemory s t

/-- The outcome is the next state in which scalar register `d` holds `v` (s0 discards it), `fl` is ORed into FFLAGS, the pc is at the
next instruction, and nothing else has changed. -/
def WritesS (o : Out) (s : State) (d : BitVec 5) (v : Word) (fl : FFlags) : Prop :=
  ∃ t, o = .next t ∧ t.S d = orZero d v ∧ t.my.pc = s.nextPc ∧ t.my.fflags = s.my.fflags ||| fl ∧ RegFrame s t [d] [] [] []

/-- The same for predicate `d`; p0 stays true. -/
def WritesP (o : Out) (s : State) (d : BitVec 3) (v : Bool) (fl : FFlags) : Prop :=
  ∃ t, o = .next t ∧ t.P d = (d = 0 || v) ∧ t.my.pc = s.nextPc ∧ t.my.fflags = s.my.fflags ||| fl ∧ RegFrame s t [] [d] [] []

/-- The same for capability register `d`; a0 stays null. -/
def WritesA (o : Out) (s : State) (d : BitVec 4) (v : CapBits) : Prop :=
  ∃ t, o = .next t ∧ t.A d = orZero d v ∧ t.my.pc = s.nextPc ∧ t.my.fflags = s.my.fflags ∧ RegFrame s t [] [] [d] []

/-- The same for strand register `h`. -/
def WritesH (o : Out) (s : State) (h : BitVec 4) (v : Option Strand) : Prop :=
  ∃ t, o = .next t ∧ t.H h = v ∧ t.my.pc = s.nextPc ∧ t.my.fflags = s.my.fflags ∧ RegFrame s t [] [] [] [h]

/-- The outcome is the next state in which only the pc of the context in hand has changed. -/
def JumpsTo (o : Out) (s : State) (pc : Word) : Prop :=
  ∃ t, o = .next t ∧ t.my.pc = pc ∧ t.my.fflags = s.my.fflags ∧ RegFrame s t [] [] [] []

/-- The outcome is the taking of this fault, with this address saved (R357, R359 to R361). -/
def Traps (o : Out) (s : State) (code : Nat) (addr info epc : Word) : Prop :=
  ∃ u, o = .next (u.deliver ⟨code, addr, info⟩ epc) ∧ (u = s ∨ u = s.setPc s.nextPc)

/-! ### Which checks an instruction passes before its effect (R98, R99, R215, R370) -/

/-- The guard of an instruction; none for `loop`, `eret` and `uret`, which take none (R98), and for the events. -/
def guardOf : Instr → Option Guard
  | .add g .. | .sub g .. | .and g .. | .or g .. | .xor g .. | .andn g .. | .min g .. | .max g .. | .shl g .. | .shr g ..
  | .sra g .. | .rol g .. | .mul g .. | .mulh g .. | .div g .. | .rem g .. | .clz g .. | .ctz g .. | .popc g .. | .bswap g ..
  | .bext g .. | .bins g .. | .mov g .. | .sel g .. | .cmp g .. | .pand g .. | .por g .. | .pxor g .. | .addImm g .. | .andImm g ..
  | .orImm g .. | .xorImm g .. | .shlImm g .. | .shrImm g .. | .sraImm g .. | .li g .. | .ld g .. | .st g .. | .lds g .. | .stf g ..
  | .sete g .. | .br g .. | .jmp g .. | .call g .. | .jr g .. | .callr g .. | .ret g | .hstart g .. | .hwait g .. | .retire g
  | .yield g | .brk g | .vadd g .. | .vsub g .. | .vmul g .. | .vmin g .. | .vmax g .. | .vand g .. | .vor g .. | .vxor g ..
  | .vshl g .. | .vshr g .. | .vrot g .. | .vperm g .. | .vfma g .. | .vcmp g .. | .vsel g .. | .kand g .. | .kor g .. | .knot g ..
  | .kpop g .. | .vmov g .. | .vbcast g .. | .vext g .. | .vins g .. | .vcvt g .. | .vnarrow g .. | .vscale g .. | .vtrans g ..
  | .vred g .. | .vscan g .. | .vtbl g .. | .vshape g .. | .vsf g .. | .vld g .. | .vst g .. | .vldb g .. | .gang g .. | .mldb g ..
  | .mstc g .. | .mzc g | .ecfg g .. | .tsave g .. | .trest g .. | .ldg g .. | .stg g .. | .ldc g .. | .stc g .. | .amo g ..
  | .cas g .. | .prf g .. | .cclean g .. | .cflush g .. | .lease g .. | .unlease g .. | .alloc g .. | .free g .. | .fence g ..
  | .sopen g .. | .sadv g .. | .stest g .. | .sget g .. | .sgetv g .. | .sclose g .. | .send g .. | .fetch g .. | .gath g ..
  | .scat g .. | .bnew g .. | .barv g .. | .bexp g .. | .bwait g .. | .step g | .stepCable g | .subsync g | .rsw g .. | .rfin g ..
  | .xsend g .. | .xsel g .. | .xrecv g .. | .subSubscription g .. | .unsub g .. | .fadd g .. | .fsub g .. | .fmul g .. | .fdiv g ..
  | .faddD g .. | .fsubD g .. | .fmulD g .. | .fdivD g .. | .fmin g .. | .fmax g .. | .fsqrt g .. | .fclass g .. | .fminD g ..
  | .fmaxD g .. | .fsqrtD g .. | .fclassD g .. | .fma g .. | .fmaD g .. | .fcmp g .. | .fcmpD g .. | .fcvt g .. | .cbound g ..
  | .cadd g .. | .cget g .. | .cchk g .. | .cmov g .. | .cnull g .. | .mopen g .. | .mrefresh g .. | .mround g .. | .mreserve g ..
  | .mget g .. | .mfld g .. | .mfst g .. | .medge g .. | .mstar g .. | .mvalid g .. | .msplit g .. | .msplitC g .. | .msplitX g ..
  | .mcoll g .. | .mcollC g .. | .mcollX g .. | .mflip g .. | .mflipC g .. | .mflipX g .. | .mrefine g .. | .mrefineC g ..
  | .mrefineX g .. | .trap g .. | .mfc g .. | .mtc g .. | .sleep g .. | .wake g .. | .launch g .. | .cancel g .. | .rdcnt g .. => some g
  | _ => none

/-- What may issue in a cable step (R215): page 0, majors 0x00 to 0x02, 0x04 to 0x10 and 0x14 to 0x18, `ld`, `st`, the cable
instructions and `step`. -/
def cableAllows : Instr → Bool
  | .add .. | .sub .. | .and .. | .or .. | .xor .. | .andn .. | .min .. | .max .. | .shl .. | .shr .. | .sra .. | .rol .. | .clz ..
  | .ctz .. | .popc .. | .bswap .. | .bext .. | .bins .. | .mov .. | .sel .. | .cmp .. | .pand .. | .por .. | .pxor .. | .addImm ..
  | .andImm .. | .orImm .. | .xorImm .. | .shlImm .. | .shrImm .. | .sraImm .. | .li .. | .stf .. | .sete .. | .br .. | .loop ..
  | .jmp .. | .ld .. | .st .. | .xsend .. | .xsel .. | .xrecv .. | .step .. | .stepCable .. => true
  | _ => false

/-- What an Avlyn core lacks (R370): scratchpad, helpers, `retire`, page 1, the rest of page 2, mesh instructions and `uret`. -/
def avlynLacks : Instr → Bool
  | .ld .. | .st .. | .lds .. | .stf .. | .sete .. | .hstart .. | .hwait .. | .retire ..
  | .vadd .. | .vsub .. | .vmul .. | .vmin .. | .vmax .. | .vand .. | .vor .. | .vxor .. | .vshl .. | .vshr .. | .vrot .. | .vperm ..
  | .vfma .. | .vcmp .. | .vsel .. | .kand .. | .kor .. | .knot .. | .kpop .. | .vmov .. | .vbcast .. | .vext .. | .vins .. | .vcvt ..
  | .vnarrow .. | .vscale .. | .vtrans .. | .vred .. | .vscan .. | .vtbl .. | .vshape .. | .vsf .. | .vld .. | .vst .. | .vldb ..
  | .gang .. | .mldb .. | .mstc .. | .mzc .. | .ecfg .. | .tsave .. | .trest ..
  | .sopen .. | .sadv .. | .stest .. | .sget .. | .sgetv .. | .sclose .. | .send .. | .fetch .. | .gath .. | .scat .. | .step ..
  | .stepCable .. | .xsend .. | .xsel .. | .xrecv .. | .subSubscription .. | .unsub .. | .subsync ..
  | .mopen .. | .mrefresh .. | .mround .. | .mreserve .. | .mget .. | .mfld .. | .mfst .. | .medge .. | .mstar .. | .mvalid ..
  | .msplit .. | .msplitC .. | .msplitX .. | .mcoll .. | .mcollC .. | .mcollX .. | .mflip .. | .mflipC .. | .mflipX .. | .mrefine ..
  | .mrefineC .. | .mrefineX .. | .uret => true
  | _ => false

/-- Whether an instruction passes step 2 of R99 in this state: what the issuing core decides without reading a register. -/
def passesDecode (s : State) (i : Instr) : Bool :=
  !(s.isAvlyn && avlynLacks i) && match i with
    | .mfc _ _ cr => crKnown s.isAvlyn cr
    | .mtc _ _ cr => crKnown s.isAvlyn cr && !crReadOnly cr
    | .mget _ _ _ cnt d _ _ => d.toNat + cnt.toNat ≤ 31
    | _ => true

/-- Whether it passes step 3, privilege: `eret` and the system registers are for system mode, tile registers for recovery mode. -/
def passesPriv (s : State) (i : Instr) : Bool :=
  match i with
  | .eret => s.inSys
  | .mfc _ _ cr => s.inSys || !crSystem cr false
  | .mtc _ _ cr => s.inSys || !crSystem cr true
  | .tsave .. | .trest .. => s.me.recovery
  | _ => true

/-- Whether the kind of step that the region is in lets an instruction issue (R215, R216), a check of step 5 (log entry 31). -/
def stepAllows (s : State) (i : Instr) : Bool :=
  (!s.inCable || cableAllows i) && match i with
    | .xsend .. | .xsel .. | .xrecv .. => s.inCable
    | _ => true

/-- The state at the start of an instruction's own effect: the pc is at the next instruction. -/
abbrev State.ahead (s : State) : State := s.setPc s.nextPc

/-! ### Local accesses, queues and strands -/

/-- A local access of `n` bytes to window RAW at address `x` passes its checks (R176, R413): in window RAW, aligned to `align`, within
SPLIM, no poison met. -/
structure RawOk (s : State) (write : Bool) (x : Word) (n align : Nat) : Prop where
  window  : x.toNat < 0x20000
  aligned : x.toNat % align = 0
  low     : s.me.splo.toNat ≤ x.toNat
  high    : x.toNat + n ≤ s.me.sphi.toNat
  inside  : x.toNat + n ≤ 0x20000
  clean   : s.spPoison write s.hand.core x.toNat n = false

/-- It may be made now: no earlier access of the vector queue or of the row array stands in its way (R163, R171). -/
structure RawReady (s : State) (write : Bool) (x : Word) (n align : Nat) : Prop where
  ok      : RawOk s write x n align
  turn    : s.localBlocked write 0 x.toNat n = false

/-- A local access through window `w` at offset `off` may be made now. -/
structure WinReady (s : State) (write : Bool) (x : Word) (n w off : Nat) : Prop where
  ok      : s.localCheck x n n false = .ok (w, off)
  clean   : s.winPoison write s.hand.core w off n = false
  turn    : s.localBlocked write w off n = false

/-- What a store to the own scratchpad changes: memory, the update flits of what is published (R220), and the pc. -/
def OnlyStore (s t : State) (fl : FFlags) : Prop :=
  t = { (s.ahead.orFlags fl).modMe (fun c => { c with flits := t.me.flits }) with mem := t.mem } ∧ (s.me.out = [] → t.me.flits = s.me.flits)

/-- A strand as its descriptor and `mstar` make it: FMT of R195, a ring with its list of at most 64 handles. -/
def Strand.wf (h : Strand) : Bool :=
  if h.ring then h.base == 0 && h.fmt == 2 && !h.loc && h.fin.toNat ≤ 64 && h.list.length == h.fin.toNat
  else h.fmt.toNat < 7 && h.list.isEmpty

/-- The outcome is the next state in which `op` stands last in the vector queue with what R142 captures, and the pc has moved on;
nothing else has changed. -/
def Enters (o : Out) (s : State) (op : VOp) : Prop :=
  o = .next { s.ahead.modMe (fun c => { c with
      vq := c.vq ++ [⟨s.nextId, op, ⟨s.hand.ctx, s.me.shape, s.me.zero, s.me.half, s.me.scale.extractLsb' 32 32⟩⟩] }) with
    nextId := s.nextId + 1 }

/-- The outcome is the next state in which the context waits at the instruction, which it will issue again (R12). -/
def Waits (o : Out) (s : State) (c : Cond) : Prop :=
  ∃ u, o = .next (u.modMy fun x => { x with pc := s.hand.pc, st := .waiting c }) ∧ (u = s ∨ u = s.ahead)

/-- A vector load or store to the own scratchpad passes its checks at issue (R142, R161, R162): no queued instruction writes its mask,
the address and window are allowed, and every active element is aligned, in range, within SPLIM and free of poison. -/
structure VecReady (s : State) (write code bcast : Bool) (rs k : BitVec 3) (x : Word) : Prop where
  turn   : k = 0 ∨ ∀ e ∈ s.me.vq, e.op.maskDest ≠ k
  addr   : x.toNat < 0xA0000
  code   : code = true → 0x20000 ≤ x.toNat
  elems  : ∀ e ∈ regionElems s.me.shape, (s.me.mask k).getLsbD e = true →
    let w := x.toNat / 0x20000
    let off := elemOff (x.toNat % 0x20000) w s.me.shape rs bcast e
    (w = 0 → off % 4 = 0) ∧ (w = 3 ∨ w = 4 → off % 2 = 0) ∧
    (w = 2 → elemOff (x.toNat % 0x20000) w s.me.shape rs bcast (e / 16 * 16) % 4 = 0) ∧ off < 0x20000 ∧
    s.me.splo.toNat ≤ (storedBytes w off 4).1 ∧ (storedBytes w off 4).1 + (storedBytes w off 4).2 ≤ s.me.sphi.toNat ∧
    (storedBytes w off 4).1 + (storedBytes w off 4).2 ≤ 0x20000 ∧ s.winPoison write s.hand.core w off 4 = false
  room   : s.me.vq.length < 8

/-- An access of `n` bytes at `va` by the instruction in hand passes the checks of R180 after CheckCap, lies in one line of this device's
HBM, at `pa`, that no host holds, meets no APPEND doubleword (R345), and finds room in the directory (R264). Its translation changes
nothing, and when it writes, each copy of the line elsewhere is given up within the step (R391, log entry 86). -/
structure HbmReady (s : State) (va : Word) (n : Nat) (acc : Acc) (pa : Nat) : Prop where
  canonical : va.toNat < 2 ^ 57
  outside   : s.aperture va.toNat = false
  oneLine   : va.toNat % 128 + n ≤ 128
  some      : 0 < n
  mapped    : s.translateMy va.toNat acc = .ok (s, ⟨0, pa⟩)
  hbm       : pa < hbmSize
  inPage    : pa % 128 = va.toNat % 128
  clean     : s.mem.poisoned (acc == .write) pa n = false
  room      : s.dir.length < 0x8000
  alone     : s.heldAt (pa / 128 * 128) = none
  granted   : acc.writes = true → ∀ e ∈ s.dir, e.line = pa / 128 * 128 → e.awaited = [] ∧ ∀ a ∈ e.others none, slow a = false
  plain     : s.appendLine pa = none

/-- No host holds the line from which the check of a tag reads its revocation bit (R55, R397). -/
def TagFree (s : State) (tag : Nat) : Prop := ∀ k, s.tagRead tag = some k → s.heldAt k = none

/-- No host holds a line that [pa, pa + n) touches, and each copy of one is given up within the step that asks for it (R391, log entry 86). -/
def LinesFree (s : State) (pa n : Nat) : Prop :=
  (∀ y ∈ s.hostHeld, y.line + 128 ≤ pa ∨ pa + n ≤ y.line) ∧
  ∀ e ∈ s.dir, e.line + 128 ≤ pa ∨ pa + n ≤ e.line ∨ (e.awaited = [] ∧ ∀ a ∈ e.others none, slow a = false)

/-- The same of every line. -/
def AllFree (s : State) : Prop := s.hostHeld = [] ∧ ∀ e ∈ s.dir, e.awaited = [] ∧ ∀ a ∈ e.others none, slow a = false

/-- The base of an access is a scalar register plus the immediate, or a capability that passes CheckCap (R54, R179). -/
def BaseIs (s : State) (capb : Bool) (a : BitVec 5) (imm va : Word) (n : Nat) (perm : BitVec 6) : Prop :=
  if capb then TagFree s (capTag (s.A (a.setWidth 4))) ∧
    s.checkCap (s.A (a.setWidth 4)) imm.toInt n perm ((a.setWidth 4 : BitVec 4).setWidth 64) = .ok va.toNat
  else va = s.S a + imm

/-- What a global load leaves when it is performed: its reply on its way, with the lines that its translation and check came from (R383,
R388), the directory, the caches and the counters of the home moved on, all else as before. -/
def Replies (o : Out) (s : State) (d : Dest) (v : BitVec 128) (fl : FFlags) : Prop :=
  ∃ t lines, o = .next t ∧ t = { s.ahead.modMy (fun c => { c with replies := c.replies ++ [⟨d, v, fl, lines⟩] }) with
    dir := t.dir, telemetry := t.telemetry, caches := t.caches }

/-- What a global store of `n` bytes of value `v` at `pa` leaves: those bytes written, the directory, the bridge (R418), the caches and
the counters of the home moved on, all else as before. -/
def Stores (t s : State) (pa n v : Nat) : Prop :=
  t = { s with mem := { s.mem with bytes := t.mem.bytes }, dir := t.dir, bridge := t.bridge, telemetry := t.telemetry, caches := t.caches } ∧
  (∀ i < n, bytesGet t.mem.bytes (pa + i) = BitVec.ofNat 8 (v / 256 ^ i)) ∧
  ∀ b, ¬(pa ≤ b ∧ b < pa + n) → bytesGet t.mem.bytes b = bytesGet s.mem.bytes b

/-- A local range that a descriptor names passes its checks (R198): in window RAW, aligned, within SPLIM. -/
structure RangeOk (s : State) (a : Word) (n align : Nat) : Prop where
  window   : a.toNat < 0x20000
  aligned  : a.toNat % align = 0 ∧ n % align = 0
  low      : s.me.splo.toNat ≤ a.toNat
  high     : a.toNat + n ≤ s.me.sphi.toNat
  inside   : a.toNat + n ≤ 0x20000
  nonempty : s.me.splo.toNat < s.me.sphi.toNat

/-- A local range fails its checks with this fault code, that of the first that it fails (R198): window, alignment, bounds. -/
def RangeBad (s : State) (a : Word) (n align code : Nat) : Prop :=
  if a.toNat / 0x20000 % 8 ≠ 0 then code = 4
  else if a.toNat % align ≠ 0 ∨ n % align ≠ 0 then code = 3
  else code = 5 ∧ (0x100000 ≤ a.toNat ∨ s.me.sphi.toNat ≤ s.me.splo.toNat ∨ 0x20000 ≤ s.me.splo.toNat ∨
    a.toNat % 0x20000 < s.me.splo.toNat ∨ s.me.sphi.toNat < a.toNat % 0x20000 + n ∨ 0x20000 < a.toNat % 0x20000 + n)

/-- The doubleword at byte `o` of the own scratchpad. -/
def State.dword (s : State) (o : Nat) : Word := BitVec.ofNat 64 (bytesRead s.mem.bytes (spadPa s.hand.core o) 8)

/-- An engine queue has an entry for the core in hand: one of its own two, or one of the 16 shared (R199). -/
def QueueFree (s : State) : Prop :=
  (s.cmds.filter fun c => c.core == s.hand.core && !c.shared).length < 2 ∨
  (s.cmds.filter fun c => c.core / 8 == s.hand.core / 8 && c.shared).length < 16

/-- A command issued from `s`, the state at the start of the instruction's effect, is accepted when there is an entry, and else refused
(R199): p_d tells which; nothing else changes. -/
def AcceptsOrRefuses (o : Out) (s : State) (d : BitVec 3) (c : Cmd) : Prop :=
  (QueueFree s → o = .next ({ s with
    cmds := s.cmds ++ [{ c with
      id := s.nextId
      core := s.hand.core
      ctx := s.hand.ctx
      unit := s.me.unit
      part := s.partNo
      shared := decide (2 ≤ (s.cmds.filter fun x : Cmd => x.core == s.hand.core && !x.shared).length) }]
    nextId := s.nextId + 1 }.setP d true)) ∧
  (¬QueueFree s → o = .next (s.setP d false))

/-! ### Numbers -/

/-- The real number that a finite exact result is; a NaN or an infinity has none. -/
def Exact.value : Exact → Option Rat
  | .rat n a b => some ((if n then -1 else 1) * ((a : Rat) / (b : Rat)))
  | _ => none

/-- The real number that a finite operand is (R31). -/
def FVal.value : FVal → Rat
  | .fin n m e => (if n then -1 else 1) * ((m : Rat) * (2 : Rat) ^ e)
  | _ => 0

/-- The outcome writes to `d` the result formed from `e` by R40 and R41, with the flags of that and `fl`. -/
def FormsS (o : Out) (s : State) (f : Fmt) (mr : BitVec 8) (d : BitVec 5) (e : Exact) (fl : FFlags) : Prop :=
  WritesS o s d (fWord (formResult f mr e fl).1) (formResult f mr e fl).2

/-! ### Meshes -/

/-- The page tables of the partition in hand give every page of a group one and the same entry (R376). -/
def PagesAgree (s : State) : Prop :=
  ∀ x va wa lvl pa e, s.space s.partNo = some x → s.walk x 0 va 4 x.ttbase = .ok (lvl, pa, e) →
    wa / (4096 * 2 ^ pteSize e) = va / (4096 * 2 ^ pteSize e) → ∃ pa', s.walk x 0 wa 4 x.ttbase = .ok (lvl, pa', e)

/-- An address is translated as now however the translation cache fills meanwhile: its translation is cached and is not the next to be
dropped, or it is walked and the tables agree. -/
def Steady (s : State) (va : Nat) : Prop :=
  if (s.xlatAt s.tlb s.partNo (va % 2 ^ 48)).isSome then (s.caches.xlat.filter fun t => t.agent == s.tlb).length ≤ 256 else PagesAgree s

/-- No byte of [pa, pa + n) lies in a launch-queue APPEND doubleword (R345), whatever those bytes hold. -/
def NoQueueIn (s : State) (pa n : Nat) : Prop :=
  ∀ b : Bytes, (∀ a, ¬(pa ≤ a ∧ a < pa + n) → bytesGet b a = bytesGet s.mem.bytes a) →
    ∀ i < n, ({ s with mem := { s.mem with bytes := b } } : State).appendLine (pa + i) = none

/-- Nothing has changed but the directory, the caches and the counters of homes that were read. -/
def Quiet (s t : State) : Prop := t = { s with dir := t.dir, telemetry := t.telemetry, caches := t.caches }

/-- A read of `n` bytes through a capability that a control block holds (R228) passes its checks, in this device's HBM, and finds `v`. -/
def CapReads (s : State) (cap : CapBits) (off n v : Nat) : Prop :=
  ∃ va pa, TagFree s (capTag cap) ∧ s.checkCap cap off n permREAD 16 = .ok va ∧ Steady s va ∧ HbmReady s (BitVec.ofNat 64 va) n .read pa ∧
    bytesRead s.mem.bytes pa n = v

/-- Handle `h` resolves LIVE for kind `k` (R60). -/
def LiveElem (s : State) (b : Bytes) (k : Nat) (h : W32) : Prop :=
  h ≠ 0xFFFFFFFF ∧ hKind h = k ∧ hIdx h < mcbCap b k ∧
    ∃ g, CapReads s (mcbPool b) (mcbStoff b k + 8 * mcbCap b k + hIdx h) 1 g ∧ g / 4 = hGen h ∧ g % 4 = 1

/-- Handle `h` resolves STALE for kind `k` (R60). -/
def StaleElem (s : State) (b : Bytes) (k : Nat) (h : W32) : Prop :=
  h = 0xFFFFFFFF ∨ hKind h = k ∧ (mcbCap b k ≤ hIdx h ∨ ∃ g,
    CapReads s (mcbPool b) (mcbStoff b k + 8 * mcbCap b k + hIdx h) 1 g ∧ g % 4 ≠ 3 ∧ ¬(g / 4 = hGen h ∧ g % 4 = 1))

/-- Word `w` of the record of element `i` of kind `k` reads as `v` (R63). -/
def RecReads (s : State) (b : Bytes) (k i w : Nat) (v : W32) : Prop :=
  CapReads s (mcbPool b) (mcbRecoff b k + (if k < 2 then 16 else 48) * i + 4 * w) 4 v.toNat

/-- Every byte of the first `len` bytes that a capability names is ready for any access the permissions allow (R54, R180): they lie at `pa`
in one writable page of this device's HBM, whose translation the tile holds and which the partition owns, free of poison, with no copy
outside the issuing core and none at a host, clear of launch queues and of the line with the capability's revocation bit. -/
structure RegionReady (s : State) (cap : CapBits) (perm : BitVec 6) (len pa : Nat) : Prop where
  usable : capPermits cap perm 0 = .ok ()
  fits   : len ≤ capLen cap ∧ capBase cap + len ≤ 2 ^ 57 ∧ capBase cap % 2 ^ 48 + len ≤ 0xF00000000000
  tag    : TagFree s (capTag cap) ∧ s.tagPoisoned (capTag cap) = false
  alive  : capTag cap = 0 ∨ s.revoked (capTag cap) = false ∧
    ∀ k o, s.tagLine (capTag cap) = some (k, o) → k + 128 ≤ pa ∨ pa + len ≤ k
  here   : s.isLocal (capBase cap) = true
  page   : ∃ t : Xlat, ∃ x : Space, (∀ i < len, s.xlatAt s.tlb s.partNo (capBase cap % 2 ^ 48 + i) = some t) ∧
    pteFtp t.leaf = false ∧ ptePois t.leaf = false ∧ pteRdup t.leaf = false ∧ pteWr t.leaf = true ∧ s.space s.partNo = some x ∧
    let sz := 4096 * 2 ^ pteSize t.leaf
    let lo := pteFrame t.leaf * 4096 / sz * sz
    capBase cap % 2 ^ 48 % sz + len ≤ sz ∧ pa = lo + capBase cap % 2 ^ 48 % sz ∧ lo + sz ≤ hbmSize ∧ x.owns lo (lo + sz) = true
  clean  : s.mem.poisoned false pa len = false
  free   : ∀ y ∈ s.hostHeld, y.line + 128 ≤ pa ∨ pa + len ≤ y.line
  own    : ∀ e ∈ s.dir, e.line + 128 ≤ pa ∨ pa + len ≤ e.line ∨
    (e.awaited = [] ∧ (∀ o, e.owner = some o → o.1 = s.agent) ∧ ∀ a ∈ e.sharers, a = s.agent)
  noQueue : NoQueueIn s pa len
  room   : s.dir.length + len ≤ 0x8000

/-- Two ranges (first address, size) do not meet. -/
def Apart (a b : Nat × Nat) : Prop := a.1 + a.2 ≤ b.1 ∨ b.1 + b.2 ≤ a.1

/-- The bound slot names a mesh of dimension 2 without fields or orientation check, in a round, whose records, markers, generation bytes and
`top` spawn slots lie apart in the first `len` bytes of POOL, which are ready at `pa` for a topology instruction. -/
structure MeshReady (s : State) (x : Slot) (top len pa : Nat) : Prop where
  pool   : RegionReady s (mcbPool x.mcb) permTopo len pa
  dim    : mcbDim x.mcb = 2
  round  : mcbRound x.mcb ≠ 0
  plain  : ∀ f < 16, fldValid (mcbField x.mcb f) = false
  orient : mcbOrient x.mcb = false
  areas  : let l := [0, 1, 2].flatMap fun k => [(mcbRecoff x.mcb k, mcbCap x.mcb k * recSize k), (mcbStoff x.mcb k, 9 * mcbCap x.mcb k),
      (spawnOff x.mcb k 0, 4 * (top * quota 2 k))]
    (∀ e ∈ l, e.1 + e.2 ≤ len) ∧ l.Pairwise Apart

/-- Memory has changed in these pieces only (address, bytes, the value they hold), and beside it the directory, the bridge, the caches and
the counters of homes. -/
def Written (s t : State) (l : List (Nat × Nat × Nat)) : Prop :=
  t = { s with mem := { s.mem with bytes := t.mem.bytes }, dir := t.dir, bridge := t.bridge, telemetry := t.telemetry, caches := t.caches } ∧
  (∀ e ∈ l, bytesRead t.mem.bytes e.1 e.2.1 = e.2.2) ∧
  ∀ a, (∀ e ∈ l, a < e.1 ∨ e.1 + e.2.1 ≤ a) → bytesGet t.mem.bytes a = bytesGet s.mem.bytes a

/-- Words of the record of element `i` of kind `k` from word `w`, as pieces, in a pool at `pa`. -/
def recPieces (b : Bytes) (pa k i w : Nat) (l : List W32) : List (Nat × Nat × Nat) :=
  (List.range l.length).map fun j => (pa + wordOff b k i (w + j), 4, (l.getD j 0).toNat)

/-- What claiming leaves in a marker (R65): this round and the lower key. -/
def claimed (r key old : Nat) : Nat := if old / 2 ^ 56 = r ∧ old % 2 ^ 56 ≤ key then old else r * 2 ^ 56 + key

/-- The three forms of a topology operation (R238) whose claim set is `cl` (kind and index), whose commit writes the pieces `eff` and answers
handle `r`, with this key: the claim form claims and is DONE; the plain form claims and commits, or is CONFLICT where a marker of this round
holds another key; the commit form commits where every marker is its own, else is CONFLICT. -/
def TopoCompletes (s : State) (g : Guard) (d : BitVec 5) (x : Slot) (pa key : Nat) (plain claim commit : Instr) (cl : List (Nat × Nat))
    (eff : List (Nat × Nat × Nat)) (r : W32) : Prop :=
  let rd := mcbRound x.mcb
  let mark (e : Nat × Nat) : Nat := pa + markOff x.mcb e.1 e.2
  let held (e : Nat × Nat) : Nat := bytesRead s.mem.bytes (mark e) 8
  let own := rd * 2 ^ 56 + key
  let claims := cl.map fun e => (mark e, 8, claimed rd key (held e))
  let done (i : Instr) (v : Word) (ok : Bool) (l : List (Nat × Nat × Nat)) : Prop :=
    ∃ t, exec i s = .next t ∧ Written ((s.ahead.setS d v).setP g.p ok) t l
  done claim 0 true claims ∧
  ((∀ e ∈ cl, held e / 2 ^ 56 ≠ rd ∨ held e = own) → done plain (r ++ 0#32) true (claims ++ eff)) ∧
  ((∃ e ∈ cl, held e / 2 ^ 56 = rd ∧ held e ≠ own) → done plain 1 false claims) ∧
  ((∀ e ∈ cl, held e = own) → done commit (r ++ 0#32) true eff) ∧
  ((∃ e ∈ cl, held e ≠ own) → done commit 1 false [])

end Sys2Proof.Machine
end

