-- ==== Sys2Proof/Certificates/Slice0/Obligations.lean ====
section
/-! DEFINITION. The statements for the provers. -/

open Sys2Proof Sys2Proof.Machine

/-! ### Scalar instructions (R110 to R122) -/

/-- R112 to R116: `add`, `sub`, `mul`, `shl` and the immediate forms of `add` and `shl` wrap modulo 2^64, or under `sat` saturate the
exact signed result and set FFLAGS.SAT when that changes it; they leave everything else. R45, R116: `mulh`, `div` and `rem` with
their corner cases. -/
def Obligations.ScalarArithmeticAndDivision : Prop :=
  (∀ (s : State) (g : Guard) (d a b : BitVec 5) (imm : Word),
    let sat (x : Int) : Word := if x < -(2 ^ 63) then 0x8000000000000000 else if 2 ^ 63 ≤ x then 0x7FFFFFFFFFFFFFFF else BitVec.ofInt 64 x
    let flag (x : Int) : FFlags := if -(2 ^ 63) ≤ x ∧ x < 2 ^ 63 then 0 else fSAT
    let A := s.S a
    let B := s.S b
    (s.runs true true g →
      WritesS (exec (.add g 0 d a b) s) s d (A + B) 0 ∧
      WritesS (exec (.add g 0x40 d a b) s) s d (sat (A.toInt + B.toInt)) (flag (A.toInt + B.toInt)) ∧
      WritesS (exec (.sub g 0 d a b) s) s d (A - B) 0 ∧
      WritesS (exec (.sub g 0x40 d a b) s) s d (sat (A.toInt - B.toInt)) (flag (A.toInt - B.toInt)) ∧
      WritesS (exec (.addImm g 0 d a imm) s) s d (A + imm) 0 ∧
      WritesS (exec (.addImm g 0x40 d a imm) s) s d (sat (A.toInt + imm.toInt)) (flag (A.toInt + imm.toInt)) ∧
      WritesS (exec (.shl g 0 d a b) s) s d (A <<< (B.toNat % 64)) 0 ∧
      WritesS (exec (.shl g 0x40 d a b) s) s d (sat (A.toInt * 2 ^ (B.toNat % 64))) (flag (A.toInt * 2 ^ (B.toNat % 64))) ∧
      (imm < 64#64 →
        WritesS (exec (.shlImm g 0 d a imm) s) s d (A <<< imm.toNat) 0 ∧
        WritesS (exec (.shlImm g 0x40 d a imm) s) s d (sat (A.toInt * 2 ^ imm.toNat)) (flag (A.toInt * 2 ^ imm.toNat)))) ∧
    (s.runs true false g →
      WritesS (exec (.mul g 0 d a b) s) s d (A * B) 0 ∧
      WritesS (exec (.mul g 0x40 d a b) s) s d (sat (A.toInt * B.toInt)) (flag (A.toInt * B.toInt)))) ∧
  (∀ (s : State) (g : Guard) (d a b : BitVec 5), s.runs true false g →
    let A := s.S a
    let B := s.S b
    (∃ v : Word, WritesS (exec (.mulh g false d a b) s) s d v 0 ∧ ∃ lo : Nat, lo < 2 ^ 64 ∧ A.toInt * B.toInt = v.toInt * 2 ^ 64 + lo) ∧
    (∃ v : Word, WritesS (exec (.mulh g true d a b) s) s d v 0 ∧ ∃ lo : Nat, lo < 2 ^ 64 ∧ A.toNat * B.toNat = v.toNat * 2 ^ 64 + lo) ∧
    (∃ q r : Word, WritesS (exec (.div g false d a b) s) s d q 0 ∧ WritesS (exec (.rem g false d a b) s) s d r 0 ∧
      (B = 0 → q = BitVec.allOnes 64 ∧ r = A) ∧
      (A.toInt = -(2 ^ 63) → B = BitVec.allOnes 64 → q = A ∧ r = 0) ∧
      (B ≠ 0 → ¬(A.toInt = -(2 ^ 63) ∧ B = BitVec.allOnes 64) →
        A.toInt = q.toInt * B.toInt + r.toInt ∧ |r.toInt| < |B.toInt| ∧ (r.toInt = 0 ∨ (r.toInt < 0 ↔ A.toInt < 0)))) ∧
    (∃ q r : Word, WritesS (exec (.div g true d a b) s) s d q 0 ∧ WritesS (exec (.rem g true d a b) s) s d r 0 ∧
      (B = 0 → q = BitVec.allOnes 64 ∧ r = A) ∧
      (B ≠ 0 → A.toNat = q.toNat * B.toNat + r.toNat ∧ r.toNat < B.toNat)))

/-- R112, R114, R119, R120: bitwise operations, minima and maxima, constants, copies and selections. R121, R122: comparisons and
operations on predicates. -/
def Obligations.ScalarLogicMovesAndComparisons : Prop :=
  (∀ (s : State) (g : Guard) (d a b : BitVec 5) (c : BitVec 3) (imm : Word), s.runs true true g →
    let A := s.S a
    let B := s.S b
    WritesS (exec (.and g d a b) s) s d (A &&& B) 0 ∧
    WritesS (exec (.or g d a b) s) s d (A ||| B) 0 ∧
    WritesS (exec (.xor g d a b) s) s d (A ^^^ B) 0 ∧
    WritesS (exec (.andn g d a b) s) s d (A &&& ~~~B) 0 ∧
    WritesS (exec (.andImm g d a imm) s) s d (A &&& imm) 0 ∧
    WritesS (exec (.orImm g d a imm) s) s d (A ||| imm) 0 ∧
    WritesS (exec (.xorImm g d a imm) s) s d (A ^^^ imm) 0 ∧
    WritesS (exec (.li g d imm) s) s d imm 0 ∧
    WritesS (exec (.mov g d a) s) s d A 0 ∧
    WritesS (exec (.sel g d a b c) s) s d (if s.P c then A else B) 0 ∧
    WritesS (exec (.min g false d a b) s) s d (BitVec.ofInt 64 (min A.toInt B.toInt)) 0 ∧
    WritesS (exec (.min g true d a b) s) s d (BitVec.ofNat 64 (min A.toNat B.toNat)) 0 ∧
    WritesS (exec (.max g false d a b) s) s d (BitVec.ofInt 64 (max A.toInt B.toInt)) 0 ∧
    WritesS (exec (.max g true d a b) s) s d (BitVec.ofNat 64 (max A.toNat B.toNat)) 0) ∧
  (∀ (s : State) (g : Guard) (d x y : BitVec 3) (a b : BitVec 5), s.runs true true g →
    let A := s.S a
    let B := s.S b
    WritesP (exec (.cmp g 0 d a b) s) s d (decide (A = B)) 0 ∧
    WritesP (exec (.cmp g 1 d a b) s) s d (decide (A ≠ B)) 0 ∧
    WritesP (exec (.cmp g 2 d a b) s) s d (decide (A.toInt < B.toInt)) 0 ∧
    WritesP (exec (.cmp g 3 d a b) s) s d (decide (B.toInt ≤ A.toInt)) 0 ∧
    WritesP (exec (.cmp g 4 d a b) s) s d (decide (A.toNat < B.toNat)) 0 ∧
    WritesP (exec (.cmp g 5 d a b) s) s d (decide (B.toNat ≤ A.toNat)) 0 ∧
    (∃ v, WritesP (exec (.cmp g 6 d a b) s) s d v 0 ∧ (v = true ↔ ∃ i < 64, A.getLsbD i = true ∧ B.getLsbD i = true)) ∧
    WritesP (exec (.pand g d x y) s) s d (s.P x && s.P y) 0 ∧
    WritesP (exec (.por g d x y) s) s d (s.P x || s.P y) 0 ∧
    WritesP (exec (.pxor g d x y) s) s d (s.P x ^^ s.P y) 0)

/-- R114, R115: right shifts and rotation by s_b[5:0] or by an immediate of 0 to 63, bit by bit. R117, R118: counts of zero and one
bits, reversal of bytes, bit-field extraction and insertion. -/
def Obligations.ScalarShiftsCountsAndFields : Prop :=
  (∀ (s : State) (g : Guard) (d a b : BitVec 5) (imm : Word), s.runs true true g →
    let A := s.S a
    let n := (s.S b).toNat % 64
    (∃ v : Word, WritesS (exec (.shr g d a b) s) s d v 0 ∧ ∀ i < 64, v.getLsbD i = A.getLsbD (i + n)) ∧
    (∃ v : Word, WritesS (exec (.sra g d a b) s) s d v 0 ∧ ∀ i < 64, v.getLsbD i = A.getLsbD (min (i + n) 63)) ∧
    (∃ v : Word, WritesS (exec (.rol g d a b) s) s d v 0 ∧ ∀ i < 64, v.getLsbD ((i + n) % 64) = A.getLsbD i) ∧
    (imm < 64#64 →
      (∃ v : Word, WritesS (exec (.shrImm g d a imm) s) s d v 0 ∧ ∀ i < 64, v.getLsbD i = A.getLsbD (i + imm.toNat)) ∧
      (∃ v : Word, WritesS (exec (.sraImm g d a imm) s) s d v 0 ∧ ∀ i < 64, v.getLsbD i = A.getLsbD (min (i + imm.toNat) 63)))) ∧
  (∀ (s : State) (g : Guard) (d a b c : BitVec 5), s.runs true true g →
    let A := s.S a
    let off := (s.S b).toNat
    let w := min (s.S c).toNat (64 - off)
    (∃ n ≤ 64, WritesS (exec (.clz g d a) s) s d (BitVec.ofNat 64 n) 0 ∧
      (∀ i < 64, 64 ≤ i + n → A.getLsbD i = false) ∧ (n < 64 → A.getLsbD (63 - n) = true)) ∧
    (∃ n ≤ 64, WritesS (exec (.ctz g d a) s) s d (BitVec.ofNat 64 n) 0 ∧
      (∀ i < n, A.getLsbD i = false) ∧ (n < 64 → A.getLsbD n = true)) ∧
    WritesS (exec (.popc g d a) s) s d (BitVec.ofNat 64 ((List.range 64).filter fun i => A.getLsbD i).length) 0 ∧
    (∃ v : Word, WritesS (exec (.bswap g d a) s) s d v 0 ∧ ∀ i < 8, ∀ j < 8, v.getLsbD (8 * i + j) = A.getLsbD (8 * (7 - i) + j)) ∧
    (∀ sx, ∃ v : Word, WritesS (exec (.bext g sx d a b c) s) s d v 0 ∧
      ∀ i < 64, v.getLsbD i = if w = 0 then false else if i < w then A.getLsbD (off + i) else sx && A.getLsbD (off + w - 1)) ∧
    (∃ v : Word, WritesS (exec (.bins g d a b c) s) s d v 0 ∧
      ∀ i < 64, v.getLsbD i = if off ≤ i ∧ i < off + w then A.getLsbD (i - off) else (s.S d).getLsbD i))

/-! ### Decoding checks, privilege, guards and control transfers (R89, R98, R99, R123 to R130, R215, R370) -/

/-- R99, R255, R370: an instruction that the issuing core does not have faults ILLEGAL with EPC at itself and the halfword in EINFO,
whatever its guard and mode. R215, R216: one that the step of its region does not allow (in a cable step what R215 does not list,
outside one the cable instructions) faults ILLEGAL where it passes decoding and privilege and its guard holds. That this check
stands in step 5 of R99, after PRIV and the guard, is the model's reading (log entry 31), and so is that EINFO is the first halfword
of the chain (46). R19, R99, R254: `eret` and the system control registers in user mode, and tile registers outside recovery mode,
fault PRIV, after the checks of decoding and whatever the guard. R99, R101, R109, R357: an encoding that decodes to nothing faults
ILLEGAL with its first halfword in EINFO, and a fetch that fails faults with the halfword's address in EADDR; EPC is the
instruction. -/
def Obligations.ChecksOfDecodingAndPrivilegeFault : Prop :=
  (∀ (s : State) (i : Instr), i.isEvent = false →
    (passesDecode s i = false → Traps (exec i s) s 1 0 (s.hand.hw.setWidth 64) s.hand.pc) ∧
    (passesDecode s i = true → passesPriv s i = true → stepAllows s i = false →
      (∀ g, guardOf i = some g → s.P g.p ≠ g.neg) → Traps (exec i s) s 1 0 (s.hand.hw.setWidth 64) s.hand.pc)) ∧
  (∀ (s : State) (i : Instr), passesDecode s i = true → passesPriv s i = false →
    Traps (exec i s) s 2 0 (s.hand.hw.setWidth 64) s.hand.pc) ∧
  (∀ (s : State) (hw : BitVec 16) (cause : BitVec 8) (addr : Word),
    Traps (exec (.illegalEncoding hw) s) s 1 0 (hw.setWidth 64) s.hand.pc ∧
    Traps (exec (.instructionFetchFault cause addr) s) s cause.toNat addr
      (if cause = 10 then 2 else if cause = 1 then s.hand.hw.setWidth 64 else 0) s.hand.pc)

/-- R97 to R99: with a false guard every instruction that passes the checks of decoding and privilege only moves the pc: it writes no
register, flag, memory or queue, and raises no fault of its own checks, the ILLEGAL of a cable step among them (log entry 31). -/
def Obligations.FalseGuardOnlyMovesPc : Prop :=
  ∀ (s : State) (i : Instr) (g : Guard), guardOf i = some g → passesDecode s i = true → passesPriv s i = true → s.P g.p = g.neg →
    JumpsTo (exec i s) s s.nextPc

/-- R123 to R125: branches, jumps, `loop` and calls go to pc + 2 × off or to the register's address; calls write s31, `loop` its
counter; an odd register target faults ALIGN on the transfer, which writes nothing. -/
def Obligations.ControlTransfers : Prop :=
  ∀ (s : State) (g : Guard) (p : BitVec 3) (c a : BitVec 5) (off : Word),
    let target := s.hand.pc + 2 * off
    let after := s.hand.pc + 2 * BitVec.ofNat 64 s.hand.len
    let links (o : Out) (pc : Word) : Prop := ∃ t, o = .next t ∧ t.S 31 = after ∧ t.my.pc = pc ∧ t.my.fflags = s.my.fflags ∧
      RegFrame s t [31] [] [] []
    (s.runs true true g →
      JumpsTo (exec (.br g p off) s) s (if s.P p then target else after) ∧
      JumpsTo (exec (.jmp g off) s) s target) ∧
    (s.issuable true true = true → c ≠ 0 → ∃ t, exec (.loop c off) s = .next t ∧ t.S c = s.S c - 1 ∧
      t.my.pc = (if s.S c = 1 then after else target) ∧ t.my.fflags = s.my.fflags ∧ RegFrame s t [c] [] [] []) ∧
    (s.runs true false g →
      links (exec (.call g off) s) target ∧
      ((s.S a).getLsbD 0 = false → JumpsTo (exec (.jr g a) s) s (s.S a) ∧ links (exec (.callr g a) s) (s.S a)) ∧
      ((s.S a).getLsbD 0 = true →
        Traps (exec (.jr g a) s) s 3 (s.S a) 0 s.hand.pc ∧ Traps (exec (.callr g a) s) s 3 (s.S a) 0 s.hand.pc) ∧
      ((s.S 31).getLsbD 0 = false → JumpsTo (exec (.ret g) s) s (s.S 31)) ∧
      ((s.S 31).getLsbD 0 = true → Traps (exec (.ret g) s) s 3 (s.S 31) 0 s.hand.pc))

/-- R130: `brk` is the halfword 0xE000 and faults BRK, with EPC holding its own address. -/
def Obligations.BrkFaultsAtItself : Prop :=
  (∀ rest, decode (0xE000#16 :: rest) = some (.brk ⟨false, 0⟩, 1)) ∧
  ∀ (s : State) (g : Guard), s.runs true false g → Traps (exec (.brk g) s) s 20 0 0 s.hand.pc

/-- R253, R359: `trap sa` is page 3, major 0x0F, f = 0, with d and b zero, in every mode; once the context's earlier instructions have
taken their full effect (R356) it enters system mode at TVEC with EPC the next instruction, ECAUSE.CODE TRAP, EINFO s_a and EADDR 0. -/
def Obligations.TrapEntersSystemMode : Prop :=
  (∀ (a : BitVec 5) (rest : List Half),
    decode ((0xF903#16 ||| (a >>> 3).setWidth 16 <<< 4) :: (0x7800#16 ||| (a.setWidth 3).setWidth 16 <<< 5) :: rest) =
      some (.trap ⟨false, 0⟩ a, 2)) ∧
  ∀ (s : State) (g : Guard) (a : BitVec 5), s.runs true false g →
    Traps (exec (.trap g a) s) s 21 0 (s.S a) s.nextPc ∧
    (s.isAvlyn = false → s.inCable = false → s.my.sys = false → s.me.tvec ≠ 0 → s.settled = true →
      ∃ t, exec (.trap g a) s = .next t ∧
        t = s.modMy fun c => { c with
          epc := s.nextPc
          ecause := 21
          eaddr := 0
          einfo := s.S a
          sys := true
          pc := s.me.tvec
          st := .ready })

/-- R254, R89: `eret` goes to EPC in the mode that ECAUSE.PMODE records; with an odd EPC it faults ALIGN on itself. On an Avlyn core it
also leaves the handler (R370). R359, R254, R356: a cause taken at TVEC in user mode and an `eret` in its handler bring the context
back to the address saved, in user mode, with nothing but EPC, ECAUSE, EADDR, EINFO changed. While an earlier instruction of the
context has not taken its full effect the cause is not taken: the context waits at the instruction. R360: on a compute core outside
a cable step a cause that would be delivered at TVEC in system mode, or with no handler, ends the unit with ERR FAULT and FCODE the
code; no register changes, and the pc stays at the address that would be saved. The report and the event are R3's and R403's. -/
def Obligations.HandlersAreEnteredAndReturnedFrom : Prop :=
  (∀ (s : State), s.issuable true false = true → s.inSys = true →
    (s.my.epc.getLsbD 0 = false →
      exec .eret s = .next ((s.modMy fun c => { c with pc := c.epc, sys := c.ecause.getLsbD 8 }).modMe fun c => { c with inHandler := false })) ∧
    (s.my.epc.getLsbD 0 = true → Traps (exec .eret s) s 3 s.my.epc 0 s.hand.pc)) ∧
  (∀ (s : State) (f : Flt) (epc : Word), s.isAvlyn = false → s.inCable = false → s.my.sys = false → s.me.tvec ≠ 0 →
    f.code < 256 → (f.code ≠ 10 ∧ f.code ≠ 11 ∧ f.code ≠ 19 ∨ s.my.uvec = 0 ∨ s.my.uframe.getLsbD 0 = true) →
    let entered := s.modMy fun c => { c with
      epc := epc
      ecause := BitVec.ofNat 64 f.code
      eaddr := f.addr
      einfo := f.info
      sys := true
      pc := s.me.tvec
      st := .ready }
    (s.settled = true → s.deliver f epc = entered) ∧
    (s.settled = false → s.deliver f epc = s.modMy fun c => { c with pc := s.hand.pc, st := .waiting .earlier }) ∧
    (epc.getLsbD 0 = false → ∀ h : InHand, h.core = s.hand.core → h.ctx = s.hand.ctx →
      ∃ t, exec .eret { entered with hand := h } = .next t ∧ t.my = { entered.my with pc := epc, sys := false } ∧
        SameMemory s t ∧ ∀ g n, ¬(g = s.hand.core ∧ n = s.hand.ctx) → (t.coreAt g).ctxAt n = (s.coreAt g).ctxAt n)) ∧
  (∀ (s : State) (f : Flt) (epc : Word), s.isAvlyn = false → s.inCable = false →
    s.settled = true →
    (s.my.sys = true ∨ s.me.tvec = 0 ∧ (f.code ≠ 10 ∧ f.code ≠ 11 ∧ f.code ≠ 19 ∨ s.my.uvec = 0 ∨ s.my.uframe.getLsbD 0 = true)) →
    (s.deliver f epc).me = { (s.setPc epc).me with ending := some (1, f.code) } ∧
    (s.deliver f epc).pickCtx s.hand.core = none ∧
    (s.deliver f epc).mailbox = s.mailbox ++ [.unitFault s.hand.core f.code] ∧
    SameMemory s (s.deliver f epc))

/-- R361, R362, R364: a PAGE, WPROT or SUBLAPSE in user mode with UVEC set, UFRAME not active and a frame that fits writes the frame at
UFRAME, sets ACTIVE and goes to UVEC. EPC, ECAUSE and the mode stay, every byte outside the frame stays. R361 to R363: after an
upcall, a `uret` at once restores the whole context: every scalar, predicate, capability and strand register, FFLAGS, and the pc
that the frame holds; ACTIVE is clear again. -/
def Obligations.UpcallsAndTheirReturn : Prop :=
  (∀ (s : State) (f : Flt) (pc : Word), s.isAvlyn = false → s.inCable = false → s.settled = true → s.my.sys = false →
    (f.code = 10 ∨ f.code = 11 ∨ f.code = 19) →
    s.my.uvec ≠ 0 → s.my.uframe.getLsbD 0 = false →
    let A := (s.my.uframe &&& 0xFFFC0).toNat
    A < 0x20000 → s.me.splo.toNat ≤ A → A + 0x1420 ≤ s.me.sphi.toNat → A + 0x1420 ≤ 0x20000 →
    let t := s.deliver f pc
    let dw (o : Nat) : Word := BitVec.ofNat 64 (bytesRead t.mem.bytes (spadPa s.hand.core (A + o)) 8)
    let image (x : Strand) : List Word := [if x.ring then 0 else x.base, x.fin ++ x.pos,
      x.stride ++ (0#24 ++ (if x.ring then 2#4 else x.fmt) ++ 0#3 ++ BitVec.ofBool (x.loc && !x.ring)), (if x.ring then 3 else 1)]
    dw 0 = pc ∧ dw 8 = BitVec.ofNat 64 f.code ∧ dw 0x10 = f.addr ∧ dw 0x18 = f.info ∧ dw 0x20 = s.my.fflags.setWidth 64 ∧
    (∀ i < 64, (dw 0x28).getLsbD i = (decide (1 ≤ i ∧ i < 8) && s.P (BitVec.ofNat 3 i))) ∧
    (∀ n < 31, dw (0x30 + 8 * n) = s.S (BitVec.ofNat 5 (n + 1))) ∧ dw 0x128 = 0 ∧
    (∀ n < 15, dw (0x130 + 16 * n) = (s.A (BitVec.ofNat 4 (n + 1))).setWidth 64 ∧
      dw (0x138 + 16 * n) = (s.A (BitVec.ofNat 4 (n + 1))).extractLsb' 64 64) ∧
    (∀ n < 16, ∀ k < 4, dw (0x220 + 32 * n + 8 * k) = match s.H (BitVec.ofNat 4 n) with
      | some x => (image x).getD k 0
      | none => 0) ∧
    (∀ n < 16, ∀ k < 32, dw (0x420 + 256 * n + 8 * k) = match s.H (BitVec.ofNat 4 n) with
      | some x => if x.ring then x.list.getD (2 * k + 1) 0 ++ x.list.getD (2 * k) 0 else 0
      | none => 0) ∧
    t.my = { s.my with uframe := s.my.uframe ||| 1, pc := s.my.uvec, st := .ready } ∧
    (∀ a, ¬(spadPa s.hand.core A ≤ a ∧ a < spadPa s.hand.core A + 0x1420) → bytesGet t.mem.bytes a = bytesGet s.mem.bytes a) ∧
    t.mem.full = s.mem.full) ∧
  (∀ (s : State) (f : Flt) (pc : Word), s.isAvlyn = false → s.inCable = false → s.settled = true → s.my.sys = false →
    (f.code = 10 ∨ f.code = 11 ∨ f.code = 19) →
    s.my.uvec ≠ 0 → s.my.uframe.getLsbD 0 = false → pc.getLsbD 0 = false →
    let A := (s.my.uframe &&& 0xFFFC0).toNat
    A < 0x20000 → s.me.splo.toNat ≤ A → A + 0x1420 ≤ s.me.sphi.toNat → A + 0x1420 ≤ 0x20000 →
    s.localBlocked false 0 A 0x1420 = false → (∀ r x, s.H r = some x → x.wf = true) →
    ∀ h : InHand, h.core = s.hand.core → h.ctx = s.hand.ctx →
      ∃ t, exec .uret { s.deliver f pc with hand := h } = .next t ∧
        (∀ r, t.S r = s.S r) ∧ (∀ r, t.P r = s.P r) ∧ (∀ r, t.A r = s.A r) ∧ (∀ r, t.H r = s.H r) ∧
        t.my.fflags = s.my.fflags ∧ t.my.pc = pc ∧ t.my.uframe = s.my.uframe ∧ t.my.sys = false ∧
        t.my.epc = s.my.epc ∧ t.my.ecause = s.my.ecause ∧ t.my.eaddr = s.my.eaddr ∧ t.my.einfo = s.my.einfo ∧ t.my.uvec = s.my.uvec)

/-- R126 to R129: once what the context queued has executed and its stores are globally performed (R317, R321), `hstart` starts the lowest
free context among 1 to the budget in the state of R126, or writes 0; `hwait` goes on when the helpers it names are free, what
they queued has executed and the stores of the core are performed, and else waits; a helper's `retire` waits for its replies only and then frees its context, while what it
queued stays in the queue, context 0's waits for the end of the unit (R29); `yield` names the other ready contexts, those that wait
neither for an event nor for a register. -/
def Obligations.HelpersStartAndEnd : Prop :=
  ∀ (s : State) (g : Guard) (d a b : BitVec 5), s.runs false false g →
    let free (n : Nat) : Prop := (s.me.ctxAt n).st = .free
    let named (n : Nat) : Prop := if (s.S a).extractLsb' 1 10 = 0 then 1 ≤ n ∧ n ≤ 10 else 1 ≤ n ∧ n ≤ 10 ∧ (s.S a).getLsbD n = true
    let quiet : Prop := s.queueQuiet s.hand.core s.hand.ctx = true
    let idle (n : Nat) : Prop := s.queueQuiet s.hand.core (orphan n) = true
    (s.hand.ctx = 0 → (s.S a).getLsbD 0 = false → quiet → s.storesPerformed = true →
      (∀ n, 1 ≤ n → n ≤ s.budget → free n → (∀ m, 1 ≤ m → m < n → ¬free m) →
        ∃ t, exec (.hstart g d a b) s = .next t ∧ t.S d = orZero d (BitVec.ofNat 64 n) ∧ t.my.pc = s.nextPc ∧
          (let h := t.me.ctxAt n;
            h.pc = s.S a ∧ h.st = .ready ∧ h.sys = false ∧ h.fflags = 0 ∧ h.uvec = s.my.uvec ∧ h.uframe = s.my.uframe ∧
            (∀ r : Fin 32, h.s.get r = if r = 1 then s.S b else if r = 2 then BitVec.ofNat 64 n else 0) ∧
            (∀ r : Fin 8, h.p.get r = true) ∧
            (∀ r : Fin 16, h.a.get r = if r = 1 then s.A 1 else if r = 15 then s.A 15 else 0) ∧
            (∀ r : Fin 16, h.h.get r = none)) ∧
          SameRegs s t [d] [] [] [] ∧ SameMemory s t ∧ t.my.fflags = s.my.fflags ∧
          (∀ m, m ≠ n → m ≠ 0 → t.me.ctxAt m = s.me.ctxAt m) ∧ ∀ k, k ≠ s.hand.core → t.coreAt k = s.coreAt k) ∧
      ((∀ n, 1 ≤ n → n ≤ s.budget → ¬free n) → WritesS (exec (.hstart g d a b) s) s d 0 0)) ∧
    (s.hand.ctx = 0 → (s.S a).getLsbD 0 = false → ¬quiet → Waits (exec (.hstart g d a b) s) s .queued) ∧
    (s.hand.ctx = 0 → (s.S a).getLsbD 0 = false → quiet → s.storesPerformed = false → Waits (exec (.hstart g d a b) s) s .performed) ∧
    (s.hand.ctx = 0 → (s.S a).getLsbD 0 = true → Traps (exec (.hstart g d a b) s) s 3 (s.S a) 0 s.hand.pc) ∧
    (s.hand.ctx = 0 →
      ((∀ n, named n → free n ∧ idle n) → s.storesPerformed = true → JumpsTo (exec (.hwait g a) s) s s.nextPc) ∧
      ((∀ n, named n → free n ∧ idle n) → s.storesPerformed = false → Waits (exec (.hwait g a) s) s .performed) ∧
      ((∃ n, named n ∧ ¬(free n ∧ idle n)) → ∃ m, Waits (exec (.hwait g a) s) s (.helpers m))) ∧
    (s.hand.ctx ≠ 0 →
      Traps (exec (.hstart g d a b) s) s 1 0 (s.hand.hw.setWidth 64) s.hand.pc ∧
      Traps (exec (.hwait g a) s) s 1 0 (s.hand.hw.setWidth 64) s.hand.pc ∧
      (s.my.replies = [] → ∃ t, exec (.retire g) s = .next t ∧ t.my = Context.reset ∧ (∀ n, n ≠ s.hand.ctx → t.me.ctxAt n = s.me.ctxAt n) ∧
        t.me.vq.map (fun e => (e.id, e.op)) = s.me.vq.map (fun e => (e.id, e.op)) ∧ (∀ k, k ≠ s.hand.core → t.coreAt k = s.coreAt k) ∧
        SameMemory s t) ∧
      (s.my.replies ≠ [] → Waits (exec (.retire g) s) s .replies)) ∧
    (s.hand.ctx = 0 → Waits (exec (.retire g) s) s .retire) ∧
    (∃ t, exec (.yield g) s = .next t ∧
      t = s.ahead.modMy fun c => { c with yielded := (List.range 11).filter fun n => n != s.hand.ctx && s.ahead.isReady s.hand.core n })

/-! ### The own scratchpad (R27, R56, R57, R175 to R177, R283, R413, R414) -/

/-- R175 to R177, R57: `ld` through RAW gives the bytes, zero- or sign-extended; through FE the full-empty bits; through Q8, Q6, H16 and
B16 the f32 of the same value, zero-extended. It changes no memory. R57, R176, R283, R414: `st` through RAW writes the low bytes of
the register, and nothing else: no other byte, no full-empty bit, no poison but of the words written whole (of each word of an
8-byte store, the model's choice in log entry 12). Through FE it sets and clears full-empty bits only; through the converting
windows it writes the code or the number that the f32 rounds to under its mode, of a Q6 group the one code named, with the flags of
the conversion. R163, R177, R283: `lds` waits for what was issued before it on the word, then while the word is empty, and loads it,
leaving the bit; `stf` writes the word and sets it full; `sete` sets it empty and leaves the data. -/
def Obligations.LocalLoadsAndStores : Prop :=
  (∀ (s : State) (g : Guard) (sz : BitVec 2) (sx : Bool) (d a : BitVec 5) (imm : Word), s.runs false true g →
    let x := s.S a + imm
    let n := if sz = 0 then 8 else if sz = 1 then 1 else if sz = 2 then 2 else 4
    let byte (i : Nat) : Byte := bytesGet s.mem.bytes (spadPa s.hand.core (x.toNat + i))
    (RawReady s false x n n → ∃ v, WritesS (exec (.ld g sz sx d a imm) s) s d v 0 ∧
      (∀ i < n, ∀ j < 8, v.getLsbD (8 * i + j) = (byte i).getLsbD j) ∧
      ∀ k, 8 * n ≤ k → k < 64 → v.getLsbD k = (sx && (byte (n - 1)).getLsbD 7)) ∧
    (∀ off, WinReady s false x n 5 off → ∃ v, WritesS (exec (.ld g sz sx d a imm) s) s d v 0 ∧
      ∀ j < 8 * n, v.getLsbD j = decide (spadPa s.hand.core (4 * (8 * off + j)) ∈ s.mem.full)) ∧
    ∀ w off, WinReady s false x n w off →
      let rd (o m : Nat) : Nat := bytesRead s.mem.bytes (spadPa s.hand.core o) m
      let gives (f : Fmt) (bits : Nat) : Prop := ∃ b : BitVec 32, WritesS (exec (.ld g sz sx d a imm) s) s d (b.setWidth 64) 0 ∧
        b.toNat = widen f f32 bits ∧ ∀ neg m e, unpack f bits = .fin neg m e → (unpack f32 b.toNat).value = (unpack f bits).value
      (w = 1 → gives e8m10 (decodeCode s.me.table s.me.half false (rd off 1))) ∧
      (w = 2 → gives e8m10 (decodeCode s.me.table s.me.half true (rd (3 * (off / 4)) 3 / 64 ^ (off % 4) % 64))) ∧
      (w = 3 → gives h16 (rd off 2)) ∧
      (w = 4 → gives b16 (rd off 2))) ∧
  (∀ (s : State) (g : Guard) (mr : BitVec 8) (sz : BitVec 2) (d a : BitVec 5) (imm : Word), s.runs false true g →
    let x := s.S a + imm
    let n := if sz = 0 then 8 else if sz = 1 then 1 else if sz = 2 then 2 else 4
    let A := spadPa s.hand.core x.toNat
    (RawReady s true x n n → ∃ t, exec (.st g mr sz d a imm) s = .next t ∧ OnlyStore s t 0 ∧
      (∀ i < n, bytesGet t.mem.bytes (A + i) = (s.S d).extractLsb' (8 * i) 8) ∧
      (∀ b, ¬(A ≤ b ∧ b < A + n) → bytesGet t.mem.bytes b = bytesGet s.mem.bytes b) ∧
      t.mem.full = s.mem.full ∧ ∀ u, u ∈ t.mem.poison ↔ u ∈ s.mem.poison ∧ ¬(A ≤ u ∧ u + 4 ≤ A + n)) ∧
    (∀ off, WinReady s true x n 5 off → ∃ t, exec (.st g mr sz d a imm) s = .next t ∧ OnlyStore s t 0 ∧
      t.mem.bytes = s.mem.bytes ∧ t.mem.poison = s.mem.poison ∧
      ∀ u, u ∈ t.mem.full ↔
        if ∃ j < 8 * n, u = spadPa s.hand.core (4 * (8 * off + j)) then (s.S d).getLsbD ((u - spadPa s.hand.core 0) / 4 - 8 * off) = true
        else u ∈ s.mem.full) ∧
    ∀ w off, WinReady s true x n w off →
      let v := unpack f32 ((s.S d).toNat % 2 ^ 32)
      let nv := flagIf v.isSNaN fNV
      let rd (m : Bytes) (o k : Nat) : Nat := bytesRead m (spadPa s.hand.core o) k
      let code (q6 : Bool) := encodeCode s.me.table s.me.half q6 (mrRound mr) (mrMode mr == 1) v.exact
      let puts (o k : Nat) (fl : FFlags) (holds : Bytes → Prop) : Prop := ∃ t, exec (.st g mr sz d a imm) s = .next t ∧ OnlyStore s t fl ∧
        t.mem.full = s.mem.full ∧ holds t.mem.bytes ∧
        ∀ b, ¬(spadPa s.hand.core o ≤ b ∧ b < spadPa s.hand.core o + k) → bytesGet t.mem.bytes b = bytesGet s.mem.bytes b
      (w = 1 → puts off 1 (code false).2 fun m => rd m off 1 = (code false).1) ∧
      (w = 2 → puts (3 * (off / 4)) 3 (code true).2 fun m => ∀ j < 4, rd m (3 * (off / 4)) 3 / 64 ^ j % 64 =
        if j = off % 4 then (code true).1 else rd s.mem.bytes (3 * (off / 4)) 3 / 64 ^ j % 64) ∧
      (w = 3 → puts off 2 (formResult h16 mr v.exact nv).2 fun m => rd m off 2 = (formResult h16 mr v.exact nv).1) ∧
      (w = 4 → puts off 2 (formResult b16 mr v.exact nv).2 fun m => rd m off 2 = (formResult b16 mr v.exact nv).1)) ∧
  (∀ (s : State) (g : Guard) (d a : BitVec 5) (imm : Word),
    let x := s.S a + imm
    let A := spadPa s.hand.core x.toNat
    (s.runs false false g → RawOk s false x 4 4 →
      (s.localBlocked false 0 x.toNat 4 = true → Waits (exec (.lds g d a imm) s) s (.scratch false 0 x.toNat 4)) ∧
      (A ∉ s.mem.full → s.localBlocked false 0 x.toNat 4 = false → Waits (exec (.lds g d a imm) s) s (.wordFull A)) ∧
      (A ∈ s.mem.full → s.localBlocked false 0 x.toNat 4 = false →
        WritesS (exec (.lds g d a imm) s) s d (BitVec.ofNat 64 (bytesRead s.mem.bytes A 4)) 0)) ∧
    (s.runs false true g → RawReady s true x 4 4 → ∃ t, exec (.stf g d a imm) s = .next t ∧ OnlyStore s t 0 ∧
      (∀ i < 4, bytesGet t.mem.bytes (A + i) = (s.S d).extractLsb' (8 * i) 8) ∧
      (∀ b, ¬(A ≤ b ∧ b < A + 4) → bytesGet t.mem.bytes b = bytesGet s.mem.bytes b) ∧
      (∀ u, u ∈ t.mem.full ↔ u = A ∨ u ∈ s.mem.full) ∧ ∀ u, u ∈ t.mem.poison ↔ u ∈ s.mem.poison ∧ u ≠ A) ∧
    (s.runs false true g → RawOk s false x 4 4 → s.localBlocked true 0 x.toNat 4 = false → ∃ t, exec (.sete g a imm) s = .next t ∧
      t = { s.ahead with mem := t.mem } ∧ t.mem.bytes = s.mem.bytes ∧ t.mem.poison = s.mem.poison ∧
      ∀ u, u ∈ t.mem.full ↔ u ∈ s.mem.full ∧ u ≠ A))

/-- R163, R176, R27, R57, R413: the checks of a local address in order, WINDOW, ALIGN, SPBOUND, then, once what was issued before it on
these bytes is done, poison; the first that fails faults with EADDR the address, and nothing is read or written. `lds`, `stf` and `sete` take window RAW only. -/
def Obligations.LocalFaultsInOrder : Prop :=
  ∀ (s : State) (g : Guard) (mr : BitVec 8) (sz : BitVec 2) (sx : Bool) (d a : BitVec 5) (imm : Word),
    let x := s.S a + imm
    let n := if sz = 0 then 8 else if sz = 1 then 1 else if sz = 2 then 2 else 4
    let w := x.toNat / 0x20000 % 8
    let off := x.toNat % 0x20000
    let outside (k : Nat) : Prop := let (o, m) := storedBytes w off k
      0x100000 ≤ x.toNat ∨ o < s.me.splo.toNat ∨ min s.me.sphi.toNat 0x20000 < o + m ∨ min s.me.sphi.toNat 0x20000 ≤ s.me.splo.toNat
    let faults (o : Out) (code : Nat) (info : Word) : Prop := Traps o s code x info s.hand.pc
    let access (o : Out) (write : Bool) : Prop :=
      (6 ≤ w ∨ w = 5 ∧ 0x1000 ≤ off → faults o 4 0) ∧
      (w = 0 ∧ off % n ≠ 0 ∨ (w = 3 ∨ w = 4) ∧ off % 2 ≠ 0 → faults o 3 0) ∧
      (w < 5 ∨ w = 5 ∧ off + n ≤ 0x1000 → ¬(w = 0 ∧ off % n ≠ 0 ∨ (w = 3 ∨ w = 4) ∧ off % 2 ≠ 0) →
        (outside n → faults o 5 0) ∧
        (¬outside n → s.localBlocked write w off n = false → s.winPoison write s.hand.core w off n = true → faults o 12 (if write then 1 else 0)))
    let sync (o : Out) (write poison : Bool) : Prop :=
      (w ≠ 0 → faults o 4 0) ∧
      (w = 0 → off % 4 ≠ 0 → faults o 3 0) ∧
      (w = 0 → off % 4 = 0 → (outside 4 → faults o 5 0) ∧
        (¬outside 4 → poison = true → s.localBlocked write 0 off 4 = false → s.spPoison false s.hand.core off 4 = true → faults o 12 0))
    (s.runs false true g →
      access (exec (.ld g sz sx d a imm) s) false ∧ access (exec (.st g mr sz d a imm) s) true ∧
      sync (exec (.stf g d a imm) s) true false ∧ sync (exec (.sete g a imm) s) true true) ∧
    (s.runs false false g → sync (exec (.lds g d a imm) s) false true)

/-! ### The vector queue, vector and matrix instructions (R23, R37, R47, R142 to R174) -/

/-- R12, R142: the vector instructions that cannot fault enter the core's queue with the scalars they read and what they capture; with 8
entries in the queue they wait for room. R47, R156, R160: `vscale` writes S and its reciprocal rounded to nearest even, with the
flags of that division; `vshape` writes the counts less one, clamped to 1 to 16; both at issue, past the queue. R165, R166, R168,
R172 to R174: the matrix instructions pass their checks at issue and enter the queue; the context of a `gang` waits until its
operation starts or it faults. Where GANGABORT and a length of 0 stand among the checks of `mldb` is the model's choice (log entry
82). -/
def Obligations.VectorAndMatrixEnterTheQueue : Prop :=
  (∀ (s : State) (g : Guard) (mo : BitVec 6) (mr : BitVec 8) (ty op half : BitVec 2) (cond d a b c : BitVec 5) (k kd ka kb fn : BitVec 3)
    (x : Bool), s.runs false false g →
    ∀ p ∈ [(Instr.vadd g mo mr ty d a b k, VOp.bin .add mo mr ty d a b k), (.vsub g mo mr ty d a b k, .bin .sub mo mr ty d a b k),
        (.vmul g mo mr ty d a b k, .bin .mul mo mr ty d a b k), (.vmin g mo mr ty d a b k, .bin .min mo mr ty d a b k),
        (.vmax g mo mr ty d a b k, .bin .max mo mr ty d a b k), (.vand g d a b k, .bin .and 0 0 0 d a b k),
        (.vor g d a b k, .bin .or 0 0 0 d a b k), (.vxor g d a b k, .bin .xor 0 0 0 d a b k),
        (.vshl g ty d a b k, .bin .shl 0 0 ty d a b k), (.vshr g ty d a b k, .bin .shr 0 0 ty d a b k),
        (.vrot g d a b k, .rot d a (s.S b) k), (.vperm g d a b k, .perm d a b k), (.vfma g mo mr d a b c k, .fma mo mr d a b c k),
        (.vcmp g mo cond kd a b, .cmp mo cond kd a b), (.vsel g d a b k, .sel d a b k), (.kand g kd ka kb, .kbin .and kd ka kb),
        (.kor g kd ka kb, .kbin .or kd ka kb), (.knot g kd ka, .knot kd ka), (.kpop g d ka, .kpop d ka), (.vmov g d a k, .mov d a k),
        (.vbcast g d a k, .bcast d ((s.S a).setWidth 32) k), (.vext g x d a b, .ext x d a (s.S b)),
        (.vins g d a b, .ins d ((s.S a).setWidth 32) (s.S b)), (.vcvt g mr ty op d a k, .cvt mr ty op d a k),
        (.vnarrow g ty op x d a k, .narrow ty op x d a k), (.vtrans g d a k, .trans d a k), (.vred g mo mr op ty d a k, .red mo mr op ty d a k),
        (.vscan g mo mr op ty d a k, .scan mo mr op ty d a k), (.vtbl g half a, .tbl half a), (.vsf g mr fn d a k, .sf mr fn d a k),
        (.mzc g, .mzc)],
      (s.me.vq.length < 8 → Enters (exec p.1 s) s p.2) ∧ (8 ≤ s.me.vq.length → Waits (exec p.1 s) s .queueRoom)) ∧
  (∀ (s : State) (g : Guard) (a b : BitVec 5), s.runs false false g →
    let x := (s.S a).setWidth 32
    let q := fpDiv (.fin false 1 0) (unpack f32 x.toNat)
    let field (v : Word) : BitVec 4 := BitVec.ofNat 4 (min (max v.toNat 1) 16 - 1)
    (∃ t, exec (.vscale g a) s = .next t ∧ t.me.scale = BitVec.ofNat 32 (roundExact f32 0 q.1).1 ++ x ∧
      t.my.fflags = s.my.fflags ||| q.2 ||| (roundExact f32 0 q.1).2 ∧
      t = (s.ahead.orFlags (q.2 ||| (roundExact f32 0 q.1).2)).modMe fun c => { c with scale := t.me.scale }) ∧
    exec (.vshape g a b) s = .next (s.ahead.modMe fun c => { c with shape := field (s.S b) ++ field (s.S a) })) ∧
  (∀ (s : State) (g : Guard) (a b c : BitVec 5) (t : BitVec 1), s.runs false false g → s.me.vq.length < 8 →
    let A := s.S a
    let B := s.S b
    let C := s.S c
    (∃ u, Enters (.next u) s (.gang A s.nextPc) ∧
      exec (.gang g a) s = .next (u.modMy fun x => { x with pc := s.hand.pc, st := .waiting .gang })) ∧
    (A.toNat / 0x20000 % 8 = 0 → A.toNat % 128 = 0 → B.toNat % 128 = 0 → C.toNat % 128 = 0 → B.toNat + C.toNat ≤ 0x80000 →
      (C = 0 ∨ s.me.splo.toNat ≤ A.toNat ∧ A.toNat + C.toNat ≤ s.me.sphi.toNat ∧ A.toNat + C.toNat ≤ 0x20000 ∧
        s.spPoison false s.hand.core A.toNat C.toNat = false) →
      (∃ l, ∀ j < 4, ((s.coreAt (4 * (s.hand.core / 4) + j)).unit.map (·.launch)) = some l) →
      Enters (exec (.mldb g a b c) s) s (.mldb A B C)) ∧
    (RawOk s true A 4096 64 → Enters (exec (.mstc g a) s) s (.mstc A)) ∧
    (let w := cfgAWin A
     let k := cfgK A
     1 ≤ w → w ≤ 4 → (w = 2 → k % 4 = 0 ∧ cfgAOff A % 4 = 0) → (w = 3 ∨ w = 4 → cfgAOff A % 2 = 0) →
       cfgAOff A + 32 * k * (if w ≤ 2 then 1 else 2) ≤ 0x20000 → cfgBOff A + k * cfgBw A ≤ 0x80000 → cfgCOff A + 4096 ≤ 0x20000 →
       Enters (exec (.ecfg g a) s) s (.ecfg A)) ∧
    (s.me.recovery = true → RawOk s true A 5120 64 → Enters (exec (.tsave g t a) s) s (.tsave t A)) ∧
    (s.me.recovery = true → RawOk s false A 5120 64 → Enters (exec (.trest g t a) s) s (.trest t A)))

/-- R142, R161, R162, R196: `vld`, `vst`, `vldb` and `sgetv` pass their checks at issue and enter the queue with their address or
strand; a queued instruction that writes the mask makes them wait. R161, R162, R413: a vector load or store beyond the local address
space faults SPBOUND, through FE or a reserved window WINDOW, `.c` through RAW ILLEGAL; then the first active element in list order
that is misaligned or out of range faults, with its own address in EADDR; then, once what was issued before it on those bytes is
done, the first that meets poison: R161 names no such check, and that a vector access finds poison at issue is the model's reading
(log entry 15). -/
def Obligations.VectorAccessesEnterOrFault : Prop :=
  (∀ (s : State) (g : Guard) (mr : BitVec 8) (code : Bool) (rs k : BitVec 3) (d a b : BitVec 5) (h : BitVec 4) (imm : Word) (h0 : Strand),
    s.runs false false g →
    let x := s.S a + imm
    (VecReady s false code false rs k x → Enters (exec (.vld g code rs d a imm k) s) s (.ld code false rs d x k)) ∧
    (VecReady s true code false rs k x → Enters (exec (.vst g mr code rs d a imm k) s) s (.st mr code rs d x k)) ∧
    (VecReady s false code true 0 k x → Enters (exec (.vldb g code d a imm k) s) s (.ld code true 0 d x k)) ∧
    (s.H h = some h0 → s.me.vq.length < 8 →
      (h0.ring = true ∨ h0.loc = true ∧ h0.fmt ≠ 3 ∧ ∀ i < h0.count, ∃ w off,
        s.localCheck (h0.elemAddr (h0.pos.toNat + i)) (strandSize h0.fmt).1 (strandSize h0.fmt).1 false = .ok (w, off) ∧
        s.winPoison false s.hand.core w off (strandSize h0.fmt).1 = false) →
      Enters (exec (.sgetv g d h b) s) s (.sgetv d h0 ((s.S b).setWidth 4))) ∧
    (k ≠ 0 → (∃ e ∈ s.me.vq, e.op.maskDest = k) →
      Waits (exec (.vld g code rs d a imm k) s) s (.maskWritten k) ∧ Waits (exec (.vst g mr code rs d a imm k) s) s (.maskWritten k) ∧
      Waits (exec (.vldb g code d a imm k) s) s (.maskWritten k))) ∧
  (∀ (s : State) (g : Guard) (mr : BitVec 8) (code : Bool) (rs k : BitVec 3) (d a : BitVec 5) (imm : Word), s.runs false false g →
    (k = 0 ∨ ∀ e ∈ s.me.vq, e.op.maskDest ≠ k) →
    let x := s.S a + imm
    let w := x.toNat / 0x20000 % 8
    let els := (regionElems s.me.shape).filter fun e => (s.me.mask k).getLsbD e
    let access (o : Out) (write bcast : Bool) (rs : BitVec 3) : Prop :=
      let off (e : Nat) : Nat := elemOff (x.toNat % 0x20000) w s.me.shape rs bcast e
      let stored (e : Nat) : Nat × Nat := storedBytes w (off e) 4
      let misaligned (e : Nat) : Prop := w = 0 ∧ off e % 4 ≠ 0 ∨ (w = 3 ∨ w = 4) ∧ off e % 2 ≠ 0 ∨ w = 2 ∧ off (e / 16 * 16) % 4 ≠ 0
      let outside (e : Nat) : Prop := 0x20000 ≤ off e ∨ (stored e).1 < s.me.splo.toNat ∨
        min s.me.sphi.toNat 0x20000 < (stored e).1 + (stored e).2
      let at' (e : Nat) : Word := BitVec.ofNat 64 (w * 0x20000 + off e)
      let faults (c : Nat) (addr info : Word) : Prop := Traps o s c addr info s.hand.pc
      (0x100000 ≤ x.toNat → faults 5 x 0) ∧
      (x.toNat < 0x100000 → 5 ≤ w → faults 4 x 0) ∧
      (x.toNat < 0x20000 → code = true → faults 1 0 (s.hand.hw.setWidth 64)) ∧
      (x.toNat < 0xA0000 → ¬(code = true ∧ w = 0) → s.me.splo.toNat < min s.me.sphi.toNat 0x20000 →
        (∀ pre e post, els = pre ++ e :: post → (∀ q ∈ pre, ¬misaligned q ∧ ¬outside q) →
          (misaligned e → faults 3 (at' e) 0) ∧ (¬misaligned e → outside e → faults 5 (at' e) 0)) ∧
        ((∀ q ∈ els, ¬misaligned q ∧ ¬outside q) →
          ∀ pre e post, els = pre ++ e :: post → (∀ q ∈ pre, s.winPoison write s.hand.core w (off q) 4 = false) →
            s.winPoison write s.hand.core w (off e) 4 = true → s.localBlocked write w (off e) 4 = false →
            faults 12 (at' e) (if write then 1 else 0)))
    access (exec (.vld g code rs d a imm k) s) false false rs ∧ access (exec (.vst g mr code rs d a imm k) s) true false rs ∧
    access (exec (.vldb g code d a imm k) s) false true 0)

/-- R143, R146 to R148, R23: an element-wise operation at the head of a queue leaves the queue, writes the active elements of its
destination from its sources as they are then, and no other element or register; i32 and u32 wrap, i32 saturates under `sat` (R144
has no `sat` for u32), and each f32 element is its exact result rounded once. The flags of the active elements go to the context
that issued it (R43). The head executes through VECTOR_ARBITER_BIND where it takes lane groups, when one of the tile is free. R147,
R149 to R155, R157 to R159, R161, R162, R166, R172 to R174, R196: what every other kind of queue entry does at the head, once it may
execute: fused sums, conversions, narrowing and special functions, comparisons and masks, moves and moves across lanes, reductions
and scans, the decode table, loads and stores of the scratchpad through every window, strand rows, configuration, B-operand SRAM and
tile registers. An entry of a helper that has retired writes no scalar register and no flag (R128). The model's choice: `vcvt`
between i32 and u32 (log entry 78), and a reduction or scan of one active element, which is the element, a NaN the canonical one
(79). -/
def Obligations.QueueHeadsExecute : Prop :=
  (∀ (s : State) (core id : Nat) (op : VBin) (mo : BitVec 6) (mr : BitVec 8) (ty : BitVec 2) (d a b : BitVec 5) (k : BitVec 3) (cap : Captured)
    (rest : List VEntry), (s.coreAt core).vq = ⟨id, .bin op mo mr ty d a b k, cap⟩ :: rest →
    let c := s.coreAt core
    let active (e : Nat) : Prop := e / 16 ≤ (cap.shape.setWidth 4).toNat ∧ e % 16 ≤ (cap.shape.extractLsb' 4 4).toNat ∧
      (c.mask k).getLsbD e = true
    let exact (e : Nat) : Int := let m := (c.vElem a e).toInt; let n := (c.vElem b e).toInt
      if op = .add then m + n else if op = .sub then m - n else m * n
    let float (e : Nat) : W32 × FFlags := let x := f32Op mo 0 (c.vElem a e); let y := f32Op mo 1 (c.vElem b e)
      f32Result mr (if op = .add then fpAdd (mrRound mr) x y else if op = .sub then fpSub (mrRound mr) x y else if op = .mul then fpMul x y
        else fpMinMax (op == .max) x y)
    let flag (e : Nat) : FFlags :=
      if ty = 0 ∧ op ∈ [VBin.add, .sub, .mul, .min, .max] then (float e).2
      else if ty = 1 ∧ mrMode mr = 1 ∧ op ∈ [VBin.add, .sub, .mul] ∧ ¬(-(2 ^ 31) ≤ exact e ∧ exact e < 2 ^ 31) then fSAT else 0
    let done (o : Out) : Prop := ∃ t, o = .next t ∧ (t.coreAt core).vq = rest ∧
      (∀ e < 256, ¬active e → (t.coreAt core).vElem d e = c.vElem d e) ∧
      (∀ r ≠ d, (t.coreAt core).v.get r.toFin = c.v.get r.toFin) ∧
      (∀ e < 256, active e → let x := c.vElem a e; let y := c.vElem b e; let z := (t.coreAt core).vElem d e
        (op = .and → z = x &&& y) ∧ (op = .or → z = x ||| y) ∧ (op = .xor → z = x ^^^ y) ∧
        (op = .shl → z = x <<< (y.toNat % 32)) ∧
        (op = .shr → z = if ty = 1 then x.sshiftRight (y.toNat % 32) else x >>> (y.toNat % 32)) ∧
        (ty ≠ 0 → ¬(ty = 1 ∧ mrMode mr = 1) →
          (op = .add → z = x + y) ∧ (op = .sub → z = x - y) ∧ (op = .mul → z = x * y)) ∧
        (ty = 1 → op = .min → z.toInt = min x.toInt y.toInt) ∧ (ty = 1 → op = .max → z.toInt = max x.toInt y.toInt) ∧
        (ty ≠ 0 → ty ≠ 1 → op = .min → z.toNat = min x.toNat y.toNat) ∧
        (ty ≠ 0 → ty ≠ 1 → op = .max → z.toNat = max x.toNat y.toNat) ∧
        (ty = 1 → mrMode mr = 1 → op ∈ [VBin.add, .sub, .mul] → z.toInt = max (-(2 ^ 31)) (min (exact e) (2 ^ 31 - 1))) ∧
        (ty = 0 → op ∈ [VBin.add, .sub, .mul, .min, .max] → z = (float e).1)) ∧
      (cap.ctx < 11 → ((t.coreAt core).ctxAt cap.ctx).fflags =
        ((List.range 256).filter fun e => decide (active e)).foldl (fun fl e => fl ||| flag e) (c.ctxAt cap.ctx).fflags) ∧
      t.mem = s.mem ∧ (t.coreAt core).k = c.k ∧ ∀ g ≠ core, t.coreAt g = s.coreAt g
    done (exec (.vectorQueueHead core) s) ∧
    ((∀ g, g / 8 = core / 8 → g ≠ core → (s.coreAt g).vq = []) → s.freeLanes (core / 8) ≠ 0 → done (exec (.vectorArbiterBind (core / 8)) s))) ∧
  (∀ (s : State) (core id : Nat) (cap : Captured) (op : VOp) (rest : List VEntry), (s.coreAt core).vq = ⟨id, op, cap⟩ :: rest →
    s.headReady core ⟨id, op, cap⟩ = true →
    let c := s.coreAt core
    let rows := (cap.shape.setWidth 4).toNat + 1
    let cols := (cap.shape.extractLsb' 4 4).toNat + 1
    let region (e : Nat) : Prop := e / 16 < rows ∧ e % 16 < cols
    let active (k : BitVec 3) (e : Nat) : Prop := region e ∧ (c.mask k).getLsbD e = true
    let rd (o n : Nat) : Nat := bytesRead s.mem.bytes (spadPa core o) n
    ∃ t, exec (.vectorQueueHead core) s = .next t ∧ (t.coreAt core).vq = rest ∧ (∀ g ≠ core, t.coreAt g = s.coreAt g) ∧
      ((∀ mr code rs d a k, op ≠ .st mr code rs d a k) → (∀ a, op ≠ .mstc a) → (∀ n a, op ≠ .tsave n a) → t.mem = s.mem) ∧
      let u := t.coreAt core
      let mapped (d : BitVec 5) (act : Nat → Prop) (f : Nat → W32) : Prop :=
        (∀ e < 256, (act e → u.vElem d e = f e) ∧ (¬act e → u.vElem d e = c.vElem d e)) ∧ ∀ r ≠ d, u.v.get r.toFin = c.v.get r.toFin
      let crossed (d a : BitVec 5) (k : BitVec 3) (act : Nat → Prop) (src : Nat → Nat) : Prop :=
        (∀ e < 256, act e → (src e < 256 ∧ active k (src e) → u.vElem d e = c.vElem a (src e)) ∧
          (¬(src e < 256 ∧ active k (src e)) → u.vElem d e = if cap.zero then 0 else c.vElem d e)) ∧
        (∀ e < 256, ¬act e → u.vElem d e = c.vElem d e) ∧ ∀ r ≠ d, u.v.get r.toFin = c.v.get r.toFin
      let writes (d : BitVec 5) (v : Word) : Prop := cap.ctx < 11 → ∀ r : BitVec 5, r ≠ 0 →
        (u.ctxAt cap.ctx).s.get r.toFin = if r = d then v else (c.ctxAt cap.ctx).s.get r.toFin
      let flagged (act : Nat → Bool) (f : Nat → FFlags) : Prop := cap.ctx < 11 →
        (u.ctxAt cap.ctx).fflags = ((List.range 256).filter act).foldl (fun fl e => fl ||| f e) (c.ctxAt cap.ctx).fflags
      let act (k : BitVec 3) (e : Nat) : Bool := decide (e / 16 < rows) && decide (e % 16 < cols) && (c.mask k).getLsbD e
      let masked (d : BitVec 3) (f : Nat → Bool) : Prop := ∀ e < 256, (u.mask d).getLsbD e = (d = 0 || f e)
      let place (e : Nat) : Nat := e / 16 * cols + e % 16
      (∀ mo mr d a b z k, op = .fma mo mr d a b z k →
        let f (e : Nat) := f32Result mr (fpFma (mrRound mr) (f32Op mo 0 (c.vElem a e)) (f32Op mo 1 (c.vElem b e)) (f32Op mo 2 (c.vElem z e)))
        mapped d (active k) (fun e => (f e).1) ∧ flagged (act k) fun e => (f e).2) ∧
      (∀ mr fn d a k, op = .sf mr fn d a k →
        let f (e : Nat) := f32Result mr (sfValue fn (unpack f32 (c.vElem a e).toNat))
        mapped d (active k) (fun e => (f e).1) ∧ flagged (act k) fun e => (f e).2) ∧
      (∀ mr fr tgt d a k, op = .cvt mr fr tgt d a k →
        let f (e : Nat) := vconvert mr fr tgt (c.vElem a e)
        mapped d (active k) (fun e => (f e).1) ∧ flagged (act k) fun e => (f e).2) ∧
      (∀ rnd fmt nosat d a k, op = .narrow rnd fmt nosat d a k →
        let f (e : Nat) := vnarrow1 c cap rnd fmt nosat (c.vElem a e)
        mapped d (active k) (fun e => (f e).1) ∧ flagged (act k) fun e => (f e).2) ∧
      (∀ mo cond d a b, op = .cmp mo cond d a b →
        let x (e : Nat) := c.vElem a e
        let y (e : Nat) := c.vElem b e
        let test (e : Nat) : Bool := match cond.toNat with
          | 0 | 1 | 2 | 3 => (fpCond (cond.setWidth 2) (f32Op mo 0 (x e)) (f32Op mo 1 (y e))).1
          | 4 => decide (x e = y e)
          | 5 => decide (x e ≠ y e)
          | 6 => decide ((x e).toInt < (y e).toInt)
          | 7 => decide ((y e).toInt ≤ (x e).toInt)
          | 8 => decide ((x e).toNat < (y e).toNat)
          | 9 => decide ((y e).toNat ≤ (x e).toNat)
          | _ => decide (x e &&& y e ≠ 0)
        masked d (fun e => decide (e / 16 < rows) && decide (e % 16 < cols) && test e)) ∧
      (∀ d a b, op = .kbin .and d a b → masked d fun e => (c.mask a).getLsbD e && (c.mask b).getLsbD e) ∧
      (∀ d a b, op = .kbin .or d a b → masked d fun e => (c.mask a).getLsbD e || (c.mask b).getLsbD e) ∧
      (∀ d a, op = .knot d a → masked d fun e => !(c.mask a).getLsbD e) ∧
      (∀ d a, op = .kpop d a → writes d (BitVec.ofNat 64 ((List.range 256).filter (act a)).length)) ∧
      (∀ sx d a i, op = .ext sx d a i →
        let v : W32 := if i.toNat < 256 then c.vElem a i.toNat else 0
        writes d (if sx then v.signExtend 64 else v.setWidth 64)) ∧
      (∀ d v i, op = .ins d v i → mapped d (fun e => e = i.toNat) fun _ => v) ∧
      (∀ d a k, op = .mov d a k → mapped d (active k) (c.vElem a)) ∧
      (∀ d v k, op = .bcast d v k → mapped d (active k) fun _ => v) ∧
      (∀ d a b k, op = .sel d a b k → mapped d region fun e => if (c.mask k).getLsbD e then c.vElem a e else c.vElem b e) ∧
      (∀ d a n k, op = .rot d a n k → crossed d a k (active k) fun e =>
        let q := (place e + n.toNat) % (rows * cols)
        16 * (q / cols) + q % cols) ∧
      (∀ d a b k, op = .perm d a b k → crossed d a k (active k) fun e => (c.vElem b e).toNat) ∧
      (∀ d a k, op = .trans d a k → crossed d a k (fun e => e / 16 < cols ∧ e % 16 < rows ∧ (c.mask k).getLsbD e = true)
        fun e => 16 * (e % 16) + e / 16) ∧
      (∀ mo mr o ty d a k, op = .red mo mr o ty d a k →
        let r := treeCombine (vbin (redOp o) ty 0 mr) (vcanon ty) 0 (c.redList cap mo o ty a k)
        writes d (if ty = 1 then r.1.signExtend 64 else r.1.setWidth 64) ∧
        (ty ≠ 0 → o = 0 → ¬(ty = 1 ∧ mrMode mr = 1) → r.1 = ((List.range 256).filter (act k)).foldl (fun v e => v + c.vElem a e) 0)) ∧
      (∀ mo mr o ty d a k, op = .scan mo mr o ty d a k →
        mapped d (active k) (fun e => (treeCombine (vbin (redOp o) ty 0 mr) (vcanon ty) 0 ((c.redList cap mo o ty a k).take (place e + 1))).1) ∧
        (ty ≠ 0 → o = 0 → ¬(ty = 1 ∧ mrMode mr = 1) → ∀ e < 256, active k e → u.vElem d e =
          ((List.range 256).filter fun q => act k q && decide (place q ≤ place e)).foldl (fun v q => v + c.vElem a q) 0)) ∧
      (∀ half a, op = .tbl half a →
        (∀ i < 256, u.table.getD i 0 = if half.getLsbD (i / 128) then (c.vElem a i).setWidth 18 else c.table.getD i 0) ∧
        let falls (h : Nat) : Prop := ∃ i < 127, let x := (u.table.getD (128 * h + i) 0).toNat; let y := (u.table.getD (128 * h + i + 1) 0).toNat
          y < x ∨ e8m10.inf < x ∨ e8m10.inf < y
        (half.getLsbD 0 = true → (u.nmono0 = true ↔ falls 0)) ∧ (half.getLsbD 1 = true → (u.nmono1 = true ↔ falls 1)) ∧
        (half.getLsbD 0 = false → u.nmono0 = c.nmono0) ∧ (half.getLsbD 1 = false → u.nmono1 = c.nmono1)) ∧
      (∀ code bc rs d a k, op = .ld code bc rs d a k →
        let w := a.toNat / 0x20000 % 8
        w ≤ 4 → (code = true → w ≠ 0) →
        let off (e : Nat) := elemOff (a.toNat % 0x20000) w cap.shape rs bc e
        let held (e : Nat) : Nat := if w = 0 then rd (off e) 4 else if w = 1 then rd (off e) 1
          else if w = 2 then rd (3 * (off e / 4)) 3 / 64 ^ (off e % 4) % 64 else rd (off e) 2
        mapped d (active k) fun e => BitVec.ofNat 32 (if code ∨ w = 0 then held e
          else if w = 1 then widen e8m10 f32 (decodeCode c.table cap.half false (held e))
          else if w = 2 then widen e8m10 f32 (decodeCode c.table cap.half true (held e))
          else if w = 3 then widen h16 f32 (held e) else widen b16 f32 (held e))) ∧
      (∀ mr code rs d a k, op = .st mr code rs d a k →
        let w := a.toNat / 0x20000 % 8
        w ≤ 4 → (code = true → w ≠ 0) →
        let off (e : Nat) := elemOff (a.toNat % 0x20000) w cap.shape rs false e
        let field (m : Bytes) (o : Nat) : Nat := if w = 0 then bytesRead m (spadPa core o) 4 else if w = 1 then bytesRead m (spadPa core o) 1
          else if w = 2 then bytesRead m (spadPa core (3 * (o / 4))) 3 / 64 ^ (o % 4) % 64 else bytesRead m (spadPa core o) 2
        let x (e : Nat) : FVal := unpack f32 (c.vElem d e).toNat
        let put (e : Nat) : Nat := if w = 0 then (c.vElem d e).toNat
          else if code then (c.vElem d e).toNat % (if w = 1 then 256 else if w = 2 then 64 else 65536)
          else if w ≤ 2 then (encodeCode c.table cap.half (w == 2) (mrRound mr) (mrMode mr == 1) (x e).exact).1
          else (formResult (if w = 3 then h16 else b16) mr (x e).exact (snan [x e])).1
        (∀ e < 256, active k e → field t.mem.bytes (off e) = put e) ∧
        (w = 2 → ∀ o, (∀ e < 256, active k e → off e ≠ o) → field t.mem.bytes o = field s.mem.bytes o) ∧
        ∀ b, (∀ e < 256, active k e → let r := storedBytes w (off e) 4; b < spadPa core r.1 ∨ spadPa core r.1 + r.2 ≤ b) →
          bytesGet t.mem.bytes b = bytesGet s.mem.bytes b) ∧
      (∀ d h r, op = .sgetv d h r →
        let n := (strandSize h.fmt).1
        mapped d (fun e => e / 16 = r.toNat) fun e =>
          let j := h.pos.toNat + e % 16
          let a := (h.elemAddr j).toNat
          let w := a / 0x20000 % 8
          let v := s.winReadAs cap.half core w (a % 0x20000) n
          if h.count ≤ e % 16 then 0 else if h.ring then h.list.getD j 0
          else if w = 0 ∨ w = 5 then (extend n (strandSize h.fmt).2 v).setWidth 32 else BitVec.ofNat 32 v) ∧
      (∀ w, op = .ecfg w → u.shadow = w ∧ u.cfg = if (s.row (core / 4)).running = none then w else c.cfg) ∧
      (op = .mzc → u.t0.data = [] ∧ u.t1 = c.t1) ∧
      (∀ a b n, op = .mldb a b n →
        let home := core / 4 * 0x80000 + b.toNat
        let held : Prop := ∃ l, ∀ j < 4, (s.coreAt (4 * (core / 4) + j)).unit.map (·.launch) = some l
        (held → (∀ i < n.toNat, bytesGet t.sram (home + i) = bytesGet s.mem.bytes (spadPa core (a.toNat % 0x20000 + i))) ∧
          ∀ q, q < home ∨ home + n.toNat ≤ q → bytesGet t.sram q = bytesGet s.sram q) ∧
        (¬held → t.sram = s.sram ∧ (n ≠ 0 → (t.row (core / 4)).broken = true))) ∧
      (∀ a, op = .mstc a →
        let o := spadPa core (a.toNat % 0x20000)
        (∀ e < 1024, bytesRead t.mem.bytes (o + 4 * e) 4 = (c.t0.data.getD e 0).toNat) ∧
        ∀ b, ¬(o ≤ b ∧ b < o + 4096) → bytesGet t.mem.bytes b = bytesGet s.mem.bytes b) ∧
      (∀ n a, op = .tsave n a →
        let o := spadPa core (a.toNat % 0x20000)
        (∀ e < 1024, bytesRead t.mem.bytes (o + 4 * e) 4 = ((c.tile n).data.getD e 0).toNat ∧
          bytesGet t.mem.bytes (o + 4096 + e) = ((c.tile n).st.getD e 0).setWidth 8) ∧
        ∀ b, ¬(o ≤ b ∧ b < o + 5120) → bytesGet t.mem.bytes b = bytesGet s.mem.bytes b) ∧
      ∀ n a, op = .trest n a →
        let o := spadPa core (a.toNat % 0x20000)
        ∀ e < 1024, (u.tile n).data.getD e 0 = BitVec.ofNat 32 (bytesRead s.mem.bytes (o + 4 * e) 4) &&& (if n = 0 then 0xFFFFFFFF else 0xFFFFFF00) ∧
          (u.tile n).st.getD e 0 = BitVec.ofNat 3 ((bytesGet s.mem.bytes (o + 4096 + e)).toNat % 4))

/-- R51, R167 to R170: the four `gang`s of a row that agree match and, the array being idle, start two cycles later, not before: the four
contexts go on after their `gang`s, and the operation takes the lead's active configuration and table half; with no participant it only
releases them. When it completes the array is idle, each participant's slice holds for each element the sum of products that R51 gives,
in chunks of P, stored where the configuration says so, no other byte of memory changed, and the shadow configurations become active.
Words that differ, or with a reserved bit set, fault all four; so does a missing core those that wait. A frozen core offers no `gang`
(R368). That a reserved bit in four identical words has EINFO 0 is the model's choice (log entry 84). -/
def Obligations.RowArrayMatchesStartsCompletes : Prop :=
  ∀ (s : State) (row : Nat) (word : Word) (l : Nat),
    let cores := [4 * row, 4 * row + 1, 4 * row + 2, 4 * row + 3]
    let offers (g : Nat) (w : Word) (x : VEntry) (n : Word) (rest : List VEntry) : Prop := (s.coreAt g).vq = x :: rest ∧ x.op = .gang w n
    let goOn (u : State) : Prop := ∀ g ∈ cores, ∀ x n rest, offers g word x n rest →
      (u.coreAt g).vq = rest ∧ ((u.coreAt g).ctxAt x.cap.ctx).pc = n ∧ ((u.coreAt g).ctxAt x.cap.ctx).st = .ready
    let later (t : State) : State := { t with cores := t.cores.map fun x => (x.1, { x.2 with cycles := x.2.cycles + 2#64 }) }
    let aborts (info : Word) (t : State) : Prop := (t.row row).matched = none ∧ (t.row row).broken = false ∧
      ∀ g ∈ cores, ∀ w x n rest, offers g w x n rest → (t.coreAt g).vq = rest ∧
        (s.coreInCable g = false → g < 4608 → (s.coreAt g).ending = none → ((s.coreAt g).ctxAt x.cap.ctx).sys = false → (s.coreAt g).tvec ≠ 0 →
          let c := (s.coreAt g).ctxAt x.cap.ctx
          (t.coreAt g).ctxAt x.cap.ctx = { c with
            epc := c.pc
            ecause := 16
            eaddr := 0
            einfo := info
            sys := true
            pc := (s.coreAt g).tvec
            st := .ready })
    (∀ m, (s.row row).matched = some m → (s.row row).running = none → s.clockHeld (row / 288) = false → s.rowHalted row = false →
      s.rowDue m = true →
      ∃ u, exec (.rowArrayStart row) s = .next u ∧ (u.row row).matched = none ∧ (u.row row).running =
        if m.parts = 0 then none else some { m with cfg := (s.coreAt m.lead).cfg, half := (s.coreAt m.lead).half }) ∧
    ((s.row row).matched = none → (s.row row).broken = false → (s.row row).left = [] →
    ((∀ g ∈ cores, (s.coreAt g).unit.map (·.launch) = some l ∧ (s.coreAt g).ending = none) → (∃ g ∈ cores, (s.coreAt g).frozen = true) →
      exec (.gangMatch row) s = .next s) ∧
    ((∀ g ∈ cores, (s.coreAt g).frozen = false) →
    ((∀ g ∈ cores, (s.coreAt g).unit.map (·.launch) = some l ∧ (s.coreAt g).ending = none ∧ ∃ x rest n, offers g word x n rest) →
      (word &&& 0xFFFFFFFFFFFF00FF = 0 → ∃ t m, exec (.gangMatch row) s = .next t ∧ (t.row row).matched = some m ∧ m.parts = 0 ∧
        (∀ g, t.coreAt g = s.coreAt g) ∧
        ((t.row row).running = none → t.clockHeld (row / 288) = false → exec (.rowArrayStart row) t = .next t ∧
          ∃ u, exec (.rowArrayStart row) (later t) = .next u ∧ (u.row row).matched = none ∧ (u.row row).running = none ∧ goOn u)) ∧
      (word &&& 0xFFFFFFFFFFFF00F0 = 0 → ∀ i < 4, word.getLsbD i = true → (∀ j < i, word.getLsbD j = false) →
        let lead := 4 * row + i
        (∀ g ∈ cores, s.badRange lead (word.setWidth 4) g = false) →
        ∃ t m, exec (.gangMatch row) s = .next t ∧ (t.row row).matched = some m ∧ m.lead = lead ∧ m.parts = word.setWidth 4 ∧
          (∀ g, t.coreAt g = s.coreAt g) ∧
          ((t.row row).running = none → t.clockHeld (row / 288) = false → exec (.rowArrayStart row) t = .next t ∧
            ∃ u, exec (.rowArrayStart row) (later t) = .next u ∧ (u.row row).matched = none ∧
              (u.row row).running = some { m with cfg := (s.coreAt lead).cfg, half := (s.coreAt lead).half } ∧ goOn u))) ∧
    (∀ words : Nat → Word,
      (∀ g ∈ cores, (s.coreAt g).unit.map (·.launch) = some l ∧ (s.coreAt g).ending = none ∧ ∃ x rest n, offers g (words g) x n rest) →
      (∀ g ∈ cores, s.gangSettled g = true) → (∃ g ∈ cores, words g ≠ words (4 * row) ∨ words g &&& 0xFFFFFFFFFFFF00F0 ≠ 0) →
      ∃ t, exec (.gangMatch row) s = .next t ∧ aborts 0 t) ∧
    ((∃ g ∈ cores, (s.coreAt g).unit.map (·.launch) ≠ some l ∨ (s.coreAt g).ending.isSome = true) →
      (∃ g ∈ cores, (s.coreAt g).unit.map (·.launch) = some l ∧ ∃ w x n rest, offers g w x n rest) →
      (∀ g ∈ cores, s.gangSettled g = true) → ∃ t, exec (.gangMatch row) s = .next t ∧ aborts 1 t)) ∧
    (∀ op, (s.row row).running = some op → ∃ t, exec (.rowArrayComplete row) s = .next t ∧ (t.row row).running = none ∧
      (∀ g ∈ cores, (t.coreAt g).cfg = (s.coreAt g).shadow) ∧
      let part (g : Nat) : Prop := g ∈ cores ∧ op.parts.getLsbD (g % 4) = true
      let sum (g e : Nat) : W32 := BitVec.ofNat 32 ((List.range (cfgK op.cfg)).foldl (fun (p, c) k =>
          let q := (roundExact e8m15 0 (fpFma 0 (unpack e8m10 (s.arrayA op (e / 32) k))
            (unpack e8m10 (s.arrayB row op k (32 * (g % 4) + e % 32))) (unpack e8m15 p)).1).1
          if (k + 1) % cfgP op.cfg = 0 ∨ k + 1 = cfgK op.cfg then (0, (roundExact f32 0 (fpAdd 0 (unpack f32 c) (unpack e8m15 q)).1).1)
          else (q, c)) (0, if cfgACC op.cfg then ((s.coreAt g).t0.data.getD e 0).toNat else 0)).2
      (∀ g, part g → ∀ e < 1024, (t.coreAt g).t0.data.getD e 0 = sum g e ∧
        (cfgSTORE op.cfg = true → bytesRead t.mem.bytes (spadPa g (cfgCOff op.cfg + 4 * e)) 4 = (sum g e).toNat)) ∧
      (∀ g ∈ cores, ¬part g → (t.coreAt g).t0 = (s.coreAt g).t0) ∧
      ∀ b, (cfgSTORE op.cfg = true → ∀ g, part g → b < spadPa g (cfgCOff op.cfg) ∨ spadPa g (cfgCOff op.cfg) + 4096 ≤ b) →
        bytesGet t.mem.bytes b = bytesGet s.mem.bytes b))

/-! ### Global memory (R53 to R55, R179 to R193) -/

/-- R175, R179, R184: `ldg` and `ldc` from device memory read the bytes, extended as R175 says, for a reply that LOAD_REPLY writes; they
write no register or memory themselves. That the value is bound in the step in which the load issues is the model's choice (log
entry 5). R12: LOAD_REPLY writes the oldest reply of a context: its register (s0 and a0 discard it) and its flags, and nothing else. -/
def Obligations.GlobalLoadsAndTheirReplies : Prop :=
  (∀ (s : State) (g : Guard) (sz : BitVec 2) (sx capb byp na : Bool) (d a : BitVec 5) (cd ca : BitVec 4) (imm va : Word) (pa : Nat),
    s.runs true false g →
    let n := if sz = 0 then 8 else if sz = 1 then 1 else if sz = 2 then 2 else 4
    (BaseIs s capb a imm va n 1 → HbmReady s.ahead va n .read pa →
      ∃ v : Word, Replies (exec (.ldg g sz sx capb byp na d a imm) s) s (.s d) (v.setWidth 128) 0 ∧
        (∀ i < n, ∀ j < 8, v.getLsbD (8 * i + j) = (bytesGet s.mem.bytes (pa + i)).getLsbD j) ∧
        ∀ k, 8 * n ≤ k → k < 64 → v.getLsbD k = (sx && (bytesGet s.mem.bytes (pa + n - 1)).getLsbD 7)) ∧
    (TagFree s (capTag (s.A ca)) → s.checkCap (s.A ca) imm.toInt 16 1 (ca.setWidth 64) = .ok va.toNat → va.toNat % 16 = 0 → HbmReady s.ahead va 16 .read pa →
      Replies (exec (.ldc g cd ca imm) s) s (.a cd) (BitVec.ofNat 128 (bytesRead s.mem.bytes pa 16)) 0)) ∧
  (∀ (s : State) (core n : Nat) (r : Reply) (rest : List Reply), ((s.coreAt core).ctxAt n).replies = r :: rest →
    let x := (s.coreAt core).ctxAt n
    ∃ t y, exec (.loadReply core n) s = .next t ∧ t = s.setCore core ((s.coreAt core).setCtx n y) ∧
      (∀ q : BitVec 5, y.s.get q.toFin = if q ≠ 0 ∧ r.dest = .s q then r.value.setWidth 64 else x.s.get q.toFin) ∧
      (∀ q : BitVec 4, y.a.get q.toFin = if q ≠ 0 ∧ r.dest = .a q then r.value else x.a.get q.toFin) ∧
      y = { x with s := y.s, a := y.a, replies := rest, fflags := x.fflags ||| r.flags })

/-- R179, R184: `stg` and `stc` to device memory write their bytes and no others, and no register. R185, R187, R65: an atomic reads the
doubleword, writes the operation's result, and replies with the old value and the flags of `fadd`; `cas` writes only when the
comparison succeeds. -/
def Obligations.GlobalStoresAndAtomics : Prop :=
  (∀ (s : State) (g : Guard) (sz : BitVec 2) (capb byp na : Bool) (d a : BitVec 5) (cd ca : BitVec 4) (imm va : Word) (pa : Nat),
    s.runs true false g →
    let n := if sz = 0 then 8 else if sz = 1 then 1 else if sz = 2 then 2 else 4
    (BaseIs s capb a imm va n 2 → HbmReady s.ahead va n .write pa →
      ∃ t, exec (.stg g sz capb byp na d a imm) s = .next t ∧ Stores t s.ahead pa n (s.S d).toNat) ∧
    (TagFree s (capTag (s.A ca)) → s.checkCap (s.A ca) imm.toInt 16 2 (ca.setWidth 64) = .ok va.toNat → va.toNat % 16 = 0 → HbmReady s.ahead va 16 .write pa →
      ∃ t, exec (.stc g cd ca imm) s = .next t ∧ Stores t s.ahead pa 16 (s.A cd).toNat)) ∧
  (∀ (s : State) (g : Guard) (op : BitVec 4) (scope : BitVec 3) (d a b c : BitVec 5) (pa : Nat), s.runs true false g →
    (s.S a).toNat % 8 = 0 → HbmReady s.ahead (s.S a) 8 .update pa →
    let old : Word := BitVec.ofNat 64 (bytesRead s.mem.bytes pa 8)
    let x := s.S b
    let sum := fpAdd 0 (unpack f64 old.toNat) (unpack f64 x.toNat)
    let replied (fl : FFlags) (lines : List Nat) : State := s.ahead.modMy fun y => { y with replies := y.replies ++ [⟨.s d, old.setWidth 128, fl, lines⟩] }
    (∃ t v lines, ∃ fl : FFlags, exec (.amo g op scope d a b) s = .next t ∧ Stores t (replied fl lines) pa 8 v ∧
      (op ≠ 7 → fl = 0) ∧
      (op = 0 → v = (old + x).toNat) ∧ (op = 1 → v = (old &&& x).toNat) ∧ (op = 2 → v = (old ||| x).toNat) ∧ (op = 3 → v = (old ^^^ x).toNat) ∧
      (op = 4 → v = (if x.toInt < old.toInt then x else old).toNat) ∧ (op = 5 → v = (if old.toInt < x.toInt then x else old).toNat) ∧
      (op = 6 → v = x.toNat) ∧
      (op = 7 → v = (formResult f64 0 sum.1 sum.2).1 ∧ fl = (formResult f64 0 sum.1 sum.2).2) ∧
      (op = 8 → v = (if old.toNat / 2 ^ 56 ≠ x.toNat / 2 ^ 56 ∨ x.toNat % 2 ^ 56 < old.toNat % 2 ^ 56 then x else old).toNat)) ∧
    (∃ t lines, exec (.cas g scope d a b c) s = .next t ∧
      (old = x → Stores t (replied 0 lines) pa 8 (s.S c).toNat) ∧ (old ≠ x → Stores t (replied 0 lines) pa 0 0)))

/-- R54, R184: CheckCap's faults in order, CAPNULL, CAPPERM, CAPBOUND, CAPREVOKED, with the register's number in EINFO and the address
in EADDR where it has been formed, else the capability's base. Before CAPREVOKED, a revocation bit that is read from a poisoned line
faults POISON, which is the model's choice (log entry 118). Nothing takes effect but, in the directory, that a dirty copy has
supplied the bit's line. R180, R182: the checks of an access that goes through the NI in order: bits [63:57], the aperture's window
and alignment, translation, the data; EADDR holds the address and nothing takes effect. -/
def Obligations.CapabilityAndGlobalFaultsInOrder : Prop :=
  (∀ (s : State) (g : Guard) (d a : BitVec 4) (imm : Word), s.runs true false g →
    let c := s.A a
    let base : Nat := c.toNat % 2 ^ 57
    let len : Nat := c.toNat / 2 ^ 57 % 2 ^ 40
    let faults (code : Nat) (addr : Word) (info : Word := a.setWidth 64) : Prop :=
      ∃ dir, Traps (exec (.ldc g d a imm) s) { s with dir := dir } code addr info s.hand.pc
    TagFree s (c.toNat / 2 ^ 104) →
    (c = 0 → faults 6 0) ∧
    (c ≠ 0 → c.getLsbD 103 = true ∨ c.getLsbD 97 = false → faults 8 (BitVec.ofNat 64 base)) ∧
    (c ≠ 0 → c.getLsbD 103 = false → c.getLsbD 97 = true →
      (imm.toInt < 0 ∨ (len : Int) < imm.toInt + 16 → faults 7 (BitVec.ofNat 64 base)) ∧
      (0 ≤ imm.toInt → imm.toInt + 16 ≤ len →
        (2 ^ 57 ≤ base + imm.toNat → faults 7 (BitVec.ofNat 64 (base + imm.toNat))) ∧
        (base + imm.toNat < 2 ^ 57 → c.toNat / 2 ^ 104 ≠ 0 →
          (s.tagPoisoned (c.toNat / 2 ^ 104) = true → faults 12 (BitVec.ofNat 64 (base + imm.toNat)) 0) ∧
          (s.tagPoisoned (c.toNat / 2 ^ 104) = false → s.revoked (c.toNat / 2 ^ 104) = true →
            faults 9 (BitVec.ofNat 64 (base + imm.toNat))))))) ∧
  (∀ (s : State) (g : Guard) (sz : BitVec 2) (sx byp na : Bool) (d a : BitVec 5) (imm : Word), s.runs true false g →
    let va := s.S a + imm
    let x := va.toNat
    let n := if sz = 0 then 8 else if sz = 1 then 1 else if sz = 2 then 2 else 4
    let faults (code : Nat) (read write : Word) : Prop :=
      Traps (exec (.ldg g sz sx false byp na d a imm) s) s code va read s.hand.pc ∧
      Traps (exec (.stg g sz false byp na d a imm) s) s code va write s.hand.pc
    (2 ^ 57 ≤ x → faults 10 0 1) ∧
    (x < 2 ^ 57 → s.aperture x = true → 6 ≤ x / 0x20000 % 8 → faults 4 0 0) ∧
    (x < 2 ^ 57 → s.aperture x = true → x / 0x20000 % 8 = 0 → x % n ≠ 0 → faults 3 0 0) ∧
    (x < 2 ^ 57 → s.aperture x = true → x / 0x20000 % 8 = 3 ∨ x / 0x20000 % 8 = 4 → x % 2 ≠ 0 → faults 3 0 0) ∧
    (x < 2 ^ 57 → s.aperture x = false → ∀ code r w, s.ahead.translateMy x .read = .error (s.ahead, .flt code r) →
      s.ahead.translateMy x .write = .error (s.ahead, .flt code w) → faults code r w) ∧
    (x < 2 ^ 57 → s.aperture x = false → x % 128 + n ≤ 128 → ∀ pa, s.ahead.translateMy x .read = .ok (s.ahead, ⟨0, pa⟩) →
      s.ahead.translateMy x .write = .ok (s.ahead, ⟨0, pa⟩) → pa < hbmSize → s.mem.poisoned true pa n = true → faults 12 0 1))

/-- R181, R188, R193, R194, R320, R382: `prf` never faults and changes no register and no byte; `cclean` leaves the line dirty nowhere,
`cflush` leaves no copy of it; `cflush` waits while a copy must still be acknowledged by a cache that drains first. A fence closes
update flits and waits for what its context queued; then a fence of kind `.acq` completes, and every other kind when no
acknowledgement is awaited: `.rel`, `.ar` and `.sc` begin a new epoch of updates, `.desc` drops what the context has fetched. R189,
R190: `lease` gives the frame range a lease with its ways and its end in TIME, or writes 0 for what it refuses: an operand out of
range, more than 64 MiB, no free id, or a set of L2 that would hold more than 16 reserved ways, those of every lease counted;
`unlease` and LEASE_EXPIRY end a lease. R189 says only that the id is one from 1 to 64; that it is the lowest free one is the
model's choice (log entry 122). -/
def Obligations.CachesFencesAndLeases : Prop :=
  (∀ (s : State) (g : Guard) (l2 w : Bool) (a : BitVec 5) (kind scope : BitVec 3) (pa : Nat), s.runs true false g →
    let line := pa / 128 * 128
    let closed := s.ahead.closeFlits s.hand.core
    (∃ t, exec (.prf g l2 w a) s = .next t ∧
      t = { s.ahead with dir := t.dir, bridge := t.bridge, hostHeld := t.hostHeld, telemetry := t.telemetry, caches := t.caches }) ∧
    (HbmReady s.ahead (s.S a) 1 .read pa → (s.ahead.leafOf (s.S a).toNat).any pteRdup = false →
      (∃ t, exec (.cclean g a) s = .next t ∧ t = { s.ahead with dir := t.dir, caches := t.caches } ∧ line ∉ t.caches.l2dirty ∧
        ∀ e x st, t.dirAt line = some e → e.owner = some (x, st) → moesiDirty st = false) ∧
      ((∀ e ∈ s.dir, e.line = line → e.awaited = [] ∧ ∀ x ∈ e.others none, slow x = false) →
        ∃ t, exec (.cflush g a) s = .next t ∧ t = { s.ahead with dir := t.dir, bridge := t.bridge, pstate := t.pstate, caches := t.caches } ∧
          t.dirAt line = none) ∧
      ((∃ e, s.dirAt line = some e ∧ (e.awaited ≠ [] ∨ ∃ x ∈ e.others none, slow x = true)) →
        ∃ t, exec (.cflush g a) s = .next t ∧ t.my = { s.my with pc := s.hand.pc, st := .waiting (.grant line) } ∧ SameMemory s t)) ∧
    (s.queueQuiet s.hand.core s.hand.ctx = false →
      exec (.fence g kind scope) s = .next (closed.modMy fun x => { x with pc := s.hand.pc, st := .waiting .queued })) ∧
    (s.queueQuiet s.hand.core s.hand.ctx = true →
      exec (.fence g 0 scope) s = .next closed ∧
      (kind ≠ 0 → (∀ e ∈ s.dir, e.awaited = []) → s.me.freed = [] →
        ∃ t, exec (.fence g kind scope) s = .next t ∧
          (kind = 1 ∨ kind = 2 ∨ kind = 3 → t = { closed.modMe (fun c => { c with epoch := c.epoch + 1 }) with dir := t.dir }) ∧
          (kind = 5 → t = { closed.modMe (fun c => { c with icache := c.icache.filter fun x => x.1 / 2 ^ 60 != s.hand.ctx }) with
            dir := t.dir }) ∧
          (kind ≠ 1 → kind ≠ 2 → kind ≠ 3 → kind ≠ 5 → t = { closed with dir := t.dir })))) ∧
  (∀ (s : State) (g : Guard) (d a b c : BitVec 5) (pa id : Nat), s.runs true false g →
    let n := (s.S b).toNat
    let o := s.S c
    let ways := (o.setWidth 5).toNat
    let leases := (s.pst s.partNo).leases
    let page := 4096 * 2 ^ ((s.ahead.leafOf (s.S a).toNat).map pteSize).getD 40
    let slices (p : Nat) : List Nat := ((s.partEntry p).map sliceList).getD []
    let reserved (k : Nat) : Nat :=
      ways + (s.pstate.map fun x => ((x.2.leases.filter fun l => (setsOf (slices x.1) l.lo l.hi).contains k).map (·.ways)).sum).sum
    (HbmReady s.ahead (s.S a) 1 .read pa → (s.S a).toNat % 128 = 0 → n % 128 = 0 → (s.S a).toNat % page + n ≤ page →
      (o.extractLsb' 32 32 = 0 ∨ o.setWidth 5 = 0 ∨ 16 < ways ∨ o.extractLsb' 5 27 ≠ 0 ∨ n = 0 ∨ 0x4000000 < n ∨
        (∀ i, 1 ≤ i → i ≤ 64 → ∃ l ∈ leases, l.id = i) ∨ (∃ k ∈ setsOf (slices s.partNo) pa (pa + n), 16 < reserved k) →
        ∃ t, exec (.lease g d a b c) s = .next t ∧ t = s.ahead.setS d 0) ∧
      (o.extractLsb' 32 32 ≠ 0 → o.setWidth 5 ≠ 0 → ways ≤ 16 → o.extractLsb' 5 27 = 0 → n ≠ 0 → n ≤ 0x4000000 →
        1 ≤ id → id ≤ 64 → (∀ l ∈ leases, l.id ≠ id) → (∀ i, 1 ≤ i → i < id → ∃ l ∈ leases, l.id = i) →
        (∀ k ∈ setsOf (slices s.partNo) pa (pa + n), reserved k ≤ 16) →
        ∃ t, exec (.lease g d a b c) s = .next t ∧ t.S d = orZero d (BitVec.ofNat 64 id) ∧ t.my.pc = s.nextPc ∧
          SameRegs s t [d] [] [] [] ∧ SameMemory s t ∧
          (t.pst s.partNo).leases = leases ++ [⟨id, pa, pa + n, ways, s.time.toNat * 8 + (o.extractLsb' 32 32).toNat * 5, []⟩])) ∧
    (∃ t, exec (.unlease g a) s = .next t ∧ t = s.ahead.setPst s.partNo { s.pst s.partNo with
      leases := leases.filter fun l => l.id != (s.S a).toNat }) ∧
    (∃ t, exec (.leaseExpiry s.partNo id) s = .next t ∧
      ((∃ l ∈ leases, l.id = id ∧ l.expiry ≤ s.time.toNat * 8) → (t.pst s.partNo).leases = leases.filter fun l => l.id != id) ∧
      ((∀ l ∈ leases, l.id = id → s.time.toNat * 8 < l.expiry) → t = s)))

/-- R191, R192, R55, R388: `alloc` takes the first block of the smallest class that holds s_a bytes, zeroes it and no other byte, and makes a
capability of it with a fresh tag, or writes null; `free` checks its capability in order and sets the tag's revocation bit, and nothing else in
memory, once no cache that must drain first keeps the bit's line: until then it waits. -/
def Obligations.AllocAndFree : Prop :=
  ∀ (s : State) (g : Guard) (d a : BitVec 4) (b : BitVec 5) (j va pa tag : Nat) (rest : List Nat) (e : Partition), s.runs true false g →
    let n := (s.S b).toNat
    let c := s.A a
    let byte := e.bitmap + c.toNat / 2 ^ 104 / 8
    let line := byte / 128 * 128
    let size := 16 * 2 ^ j
    (n = 0 ∨ 0x100000 < n → WritesA (exec (.alloc g d b) s) s d 0) ∧
    (n ≠ 0 → j ≤ 16 → n ≤ size → (j = 0 ∨ 16 * 2 ^ (j - 1) < n) → smapGet? (s.pst s.partNo).slabs j = some (va :: rest) →
      va < 2 ^ 57 → (s.pst s.partNo).nextTag = tag → 0 < tag → tag < 2 ^ 24 → s.revokedHome tag = false → s.bitPoisoned tag = false →
      (∀ i < size, s.ahead.translate .distributor s.partNo (va + i) .read = .ok (s.ahead, ⟨0, pa + i⟩)) →
      pa % 128 = va % 128 → pa + size ≤ hbmSize → s.mem.poisoned false pa size = false → LinesFree s pa size →
      ∃ t, exec (.alloc g d b) s = .next t ∧
        t.A d = orZero d (BitVec.ofNat 128 (tag * 2 ^ 104 + 0x3B * 2 ^ 97 + n * 2 ^ 57 + va)) ∧ t.my.pc = s.nextPc ∧
        (∀ r, t.S r = s.S r) ∧ (∀ r, t.P r = s.P r) ∧ (∀ r, r ≠ d → t.A r = s.A r) ∧ (∀ r, t.H r = s.H r) ∧ t.my.fflags = s.my.fflags ∧
        smapGet? (t.pst s.partNo).slabs j = some rest ∧ (t.pst s.partNo).nextTag = tag + 1 ∧
        (∀ i < size, bytesGet t.mem.bytes (pa + i) = 0) ∧
        (∀ x, ¬(pa ≤ x ∧ x < pa + size) → bytesGet t.mem.bytes x = bytesGet s.mem.bytes x) ∧
        t.mem.full = s.mem.full ∧ t.mem.poison = s.mem.poison) ∧
    (c = 0 → Traps (exec (.free g a) s) s 6 0 (a.setWidth 64) s.hand.pc) ∧
    (c ≠ 0 → c.getLsbD 103 = true ∨ c.getLsbD 98 = false ∨ c.toNat / 2 ^ 104 = 0 →
      Traps (exec (.free g a) s) s 8 (BitVec.ofNat 64 (c.toNat % 2 ^ 57)) (a.setWidth 64) s.hand.pc) ∧
    (c ≠ 0 → c.getLsbD 103 = false → c.getLsbD 98 = true → c.toNat / 2 ^ 104 ≠ 0 → s.partEntry s.partNo = some e → byte < hbmSize →
      s.mem.poisoned false line 1 = false → s.heldAt line = none →
      (LinesFree s line 1 → (bytesGet s.mem.bytes byte).getLsbD (c.toNat / 2 ^ 104 % 8) = true →
        Traps (exec (.free g a) s) s 9 (BitVec.ofNat 64 (c.toNat % 2 ^ 57)) (a.setWidth 64) s.hand.pc) ∧
      (LinesFree s line 1 → (bytesGet s.mem.bytes byte).getLsbD (c.toNat / 2 ^ 104 % 8) = false →
        ∃ t, exec (.free g a) s = .next t ∧ (bytesGet t.mem.bytes byte).getLsbD (c.toNat / 2 ^ 104 % 8) = true ∧
          (∀ i < 8, i ≠ c.toNat / 2 ^ 104 % 8 → (bytesGet t.mem.bytes byte).getLsbD i = (bytesGet s.mem.bytes byte).getLsbD i) ∧
          (∀ x, x ≠ byte → bytesGet t.mem.bytes x = bytesGet s.mem.bytes x) ∧ t.mem.full = s.mem.full ∧ t.mem.poison = s.mem.poison ∧
          t.my.pc = s.nextPc ∧ SameRegs s t [] [] [] []) ∧
      ((∃ x, s.dirAt line = some x ∧ (x.awaited ≠ [] ∨ ∃ y ∈ x.others none, slow y = true)) →
        ∃ t, exec (.free g a) s = .next t ∧ t.my = { s.my with pc := s.hand.pc, st := .waiting (.grant line) } ∧ SameMemory s t))

/-! ### Strands and engine commands (R195 to R209, R279 to R281, R371) -/

/-- R195, R196, R17: `sopen` reads a valid descriptor into its strand register; `sadv`, `stest` and `sclose` act on the position; any
use of a closed strand but `sopen` faults ILLEGAL. R196, R235: `sget` reads 0 at the end, a ring's handle from its list, a local
element as `ld` and a global one as `ldg`, extended by its format. That a local element is read through the window of its own
address is the model's choice, log entry 97. -/
def Obligations.StrandsAndTheirElements : Prop :=
  (∀ (s : State) (g : Guard) (h : BitVec 4) (d a b : BitVec 5) (p : BitVec 3) (x : Strand), s.runs false false g →
    let A := (s.S a).toNat
    let w (i : Nat) : Word := s.dword (A + 8 * i)
    let invalid : Prop := (w 2).extractLsb' 8 24 ≠ 0 ∨ (w 2).extractLsb' 1 3 ≠ 0 ∨ w 3 ≠ 0 ∨ 7 ≤ ((w 2).extractLsb' 4 4).toNat
    (RawReady s false (s.S a) 32 8 →
      (¬invalid → WritesH (exec (.sopen g h a) s) s h (some ⟨w 0, (w 1).setWidth 32, (w 1).extractLsb' 32 32, (w 2).extractLsb' 32 32,
        (w 2).extractLsb' 4 4, (w 2).getLsbD 0, false, []⟩)) ∧
      (invalid → Traps (exec (.sopen g h a) s) s 1 0 (s.hand.hw.setWidth 64) s.hand.pc)) ∧
    (s.H h = some x →
      WritesH (exec (.sadv g h b) s) s h
        (some { x with pos := BitVec.ofNat 32 (min (x.pos.toNat + if b = 0 then 1 else (s.S b).toNat) x.fin.toNat) }) ∧
      WritesP (exec (.stest g p h) s) s p (decide (x.fin.toNat ≤ x.pos.toNat)) 0 ∧
      WritesH (exec (.sclose g h) s) s h none) ∧
    (s.H h = none → ∀ i ∈ [Instr.sadv g h b, .stest g p h, .sget g d h, .sgetv g d h b, .sclose g h],
      Traps (exec i s) s 1 0 (s.hand.hw.setWidth 64) s.hand.pc)) ∧
  (∀ (s : State) (g : Guard) (h : BitVec 4) (d : BitVec 5) (x : Strand) (pa : Nat), s.runs false false g → s.H h = some x → x.fmt.toNat < 7 →
    let at' := x.base + BitVec.ofNat 64 x.pos.toNat * x.stride.signExtend 64
    let n := if x.fmt = 0 ∨ x.fmt = 4 then 1 else if x.fmt = 1 ∨ x.fmt = 5 then 2 else if x.fmt = 3 then 8 else 4
    let extended (v : Word) (byte : Nat → Byte) : Prop := (∀ i < n, ∀ j < 8, v.getLsbD (8 * i + j) = (byte i).getLsbD j) ∧
      ∀ k, 8 * n ≤ k → k < 64 → v.getLsbD k = (decide (4 ≤ x.fmt.toNat) && (byte (n - 1)).getLsbD 7)
    (x.fin.toNat ≤ x.pos.toNat → WritesS (exec (.sget g d h) s) s d 0 0) ∧
    (x.pos.toNat < x.fin.toNat →
      (x.ring = true → WritesS (exec (.sget g d h) s) s d ((x.list.getD x.pos.toNat 0).setWidth 64) 0) ∧
      (x.ring = false → x.loc = true → RawReady s false at' n n → ∃ v, WritesS (exec (.sget g d h) s) s d v 0 ∧
        extended v fun i => bytesGet s.mem.bytes (spadPa s.hand.core (at'.toNat + i))) ∧
      (x.ring = false → x.loc = false → HbmReady s.ahead at' n .read pa → ∃ v : Word,
        Replies (exec (.sget g d h) s) s (.s d) (v.setWidth 128) 0 ∧ extended v fun i => bytesGet s.mem.bytes (pa + i))))

/-- R163, R197 to R202: the checks of `send` and `fetch` in order, each with its fault: the descriptor's address, its fields and form,
its local ranges, the windows of its virtual addresses, what its form forbids, alignment. What passes them all, a `send` from the
own scratchpad (which no earlier access is still to write) or from memory, a `fetch` into the scratchpad or into L2, takes a queue
entry with the descriptor's fields and writes true to p_d, or with no entry free writes false. R198 to R200, R204, R388: the checks
of `gath` and `scat` of one to three levels in order, each with its fault: the descriptor's address and fields, its local ranges,
its capabilities level by level (null, permissions, revocation), their alignment, the windows of virtual addresses. What passes them
all takes a queue entry with the index list, and for `scat` the data, as they are at issue, and the tile keeps the lines of the
capabilities' tags that it has checked. That lists and data are read at issue is the model's choice, log entry 19; so is POISON for
a revocation bit that is read from a poisoned line, log entry 118. -/
def Obligations.EngineCommandsAreAcceptedOrRefused : Prop :=
  (∀ (s : State) (g : Guard) (d : BitVec 3) (a : BitVec 5) (fetch : Bool), s.runs false false g →
    let i : Instr := if fetch then .fetch g d a else .send g d a
    let faults (code : Nat) (addr info : Word) : Prop := Traps (exec i s) s code addr info s.hand.pc
    let w (i : Nat) : Word := s.dword ((s.S a).toNat + 8 * i)
    let src := w 0
    let dst := w 1
    let srcl := (w 3).getLsbD 61
    let dstl := (w 3).getLsbD 62
    let bytes := ((w 2).extractLsb' 39 25).toNat
    let slot : Word := ((w 2).extractLsb' 0 20).setWidth 64
    let bare := (w 3).getLsbD 63
    let bar : Word := ((w 3).extractLsb' 0 57).setWidth 64
    let raw (va : Word) : Prop := inAperture va.toNat = true → va.toNat / 0x20000 % 8 = 0
    let legal : Prop := (w 2).extractLsb' 36 3 = 0 ∧ (w 3).extractLsb' 57 4 = 0 ∧ bytes ≤ 0x1000000 ∧ (if fetch then srcl else dstl) = false
    let ranges : Prop := (srcl = true → RangeOk s src bytes 4) ∧ (dstl = true → RangeOk s dst bytes 4) ∧ RangeOk s slot 16 16
    let windows : Prop := (srcl = false → raw src) ∧ (dstl = false → raw dst) ∧ (bare = true → raw bar)
    let allowed : Prop := (srcl = false → inAperture src.toNat = false) ∧
      (fetch = true → dstl = false → dst = 0 ∧ src.toNat % 128 = 0 ∧ bytes % 128 = 0)
    (∀ code, RangeBad s (s.S a) 32 16 code → faults code (s.S a) 0) ∧
    (RawReady s false (s.S a) 32 16 →
      (¬legal → faults 1 0 (s.hand.hw.setWidth 64)) ∧
      (legal → ∀ code,
        (srcl = true → RangeBad s src bytes 4 code → faults code src 0) ∧
        ((srcl = true → RangeOk s src bytes 4) → dstl = true → RangeBad s dst bytes 4 code → faults code dst 0) ∧
        ((srcl = true → RangeOk s src bytes 4) → (dstl = true → RangeOk s dst bytes 4) → RangeBad s slot 16 16 code → faults code slot 0)) ∧
      (legal → ranges →
        (srcl = false → ¬raw src → faults 4 src 0) ∧
        ((srcl = false → raw src) → dstl = false → ¬raw dst → faults 4 dst 0) ∧
        ((srcl = false → raw src) → (dstl = false → raw dst) → bare = true → ¬raw bar → faults 4 bar 0)) ∧
      (legal → ranges → windows → ¬allowed → faults 1 0 (s.hand.hw.setWidth 64)) ∧
      (legal → ranges → windows → allowed →
        (srcl = false → src.toNat % 4 ≠ 0 → faults 3 src 0) ∧
        ((srcl = false → src.toNat % 4 = 0) → dstl = false → dst.toNat % 4 ≠ 0 → faults 3 dst 0) ∧
        ((srcl = false → src.toNat % 4 = 0) → (dstl = false → dst.toNat % 4 = 0) → srcl = false → dstl = false → bytes % 4 ≠ 0 →
          ∃ addr, faults 3 addr 0) ∧
        ((srcl = false → src.toNat % 4 = 0) → (dstl = false → dst.toNat % 4 = 0) → (srcl = false → dstl = false → bytes % 4 = 0) →
          (srcl = true → s.localBlocked false 0 (src.toNat % 0x20000) bytes = false) →
          AcceptsOrRefuses (exec i s) s.ahead d { Cmd.blank (if fetch then .fetch else .send) with
            src := src, dst := dst, srcl := srcl, dstl := dstl, bytes := bytes, tag := (w 2).extractLsb' 20 16, cslot := slot.toNat
            bare := bare, bar := bar.toNat })))) ∧
  (∀ (s : State) (g : Guard) (d : BitVec 3) (a : BitVec 5) (scat : Bool), s.runs false false g →
    let i : Instr := if scat then .scat g d a else .gath g d a
    let faults (code : Nat) (addr info : Word) : Prop :=
      ∃ dir caches, Traps (exec i s) { s with dir := dir, caches := caches } code addr info s.hand.pc
    let w (i : Nat) : Word := s.dword ((s.S a).toNat + 8 * i)
    let depth := ((w 7).extractLsb' 54 2).toNat
    let cap (j : Nat) : CapBits := w (2 * j + 1) ++ w (2 * j)
    let n := ((w 7).extractLsb' 56 8).toNat + 1
    let z := if (w 7).getLsbD 53 then 8 else 4
    let idx : Word := ((w 7).extractLsb' 20 20).setWidth 64
    let data : Word := ((w 7).extractLsb' 0 20).setWidth 64
    let slot : Word := ((w 8).extractLsb' 0 20).setWidth 64
    let bare := (w 9).getLsbD 63
    let bar : Word := ((w 9).extractLsb' 0 57).setWidth 64
    let raw (va : Word) : Prop := inAperture va.toNat = true → va.toNat / 0x20000 % 8 = 0
    let legal : Prop := depth ≠ 0 ∧ (w 7).extractLsb' 40 13 = 0 ∧ (w 8).extractLsb' 36 28 = 0 ∧ (w 9).extractLsb' 57 6 = 0
    let base (j : Nat) : Word := BitVec.ofNat 64 (capBase (cap j))
    let permits (j : Nat) : Prop := (cap j).getLsbD 103 = false ∧ (cap j).getLsbD 100 = true ∧
      (cap j).getLsbD (if j + 1 = depth ∧ scat = true then 98 else 97) = true
    let revoked (j : Nat) : Prop := capTag (cap j) ≠ 0 ∧ s.revoked (capTag (cap j)) = true
    let sound (j : Nat) : Prop := permits j ∧ s.tagPoisoned (capTag (cap j)) = false ∧ ¬revoked j
    let based (j : Nat) : Prop := capBase (cap j) % (if j + 1 = depth then z else 4) = 0
    (∀ code, RangeBad s (s.S a) 80 16 code → faults code (s.S a) 0) ∧
    (RawReady s false (s.S a) 80 16 →
      (¬legal → faults 1 0 (s.hand.hw.setWidth 64)) ∧
      (legal → ∀ code,
        (RangeBad s idx (4 * n) 4 code → faults code idx 0) ∧
        (RangeOk s idx (4 * n) 4 → RangeBad s data (z * n) z code → faults code data 0) ∧
        (RangeOk s idx (4 * n) 4 → RangeOk s data (z * n) z → RangeBad s slot 16 16 code → faults code slot 0)) ∧
      (legal → RangeOk s idx (4 * n) 4 → RangeOk s data (z * n) z → RangeOk s slot 16 16 → s.dir.length < 0x8000 →
        (∀ j < depth, TagFree s (capTag (cap j))) →
        (∀ j < depth, (∀ k < j, sound k) →
          (cap j = 0 → faults 6 0 16) ∧ (cap j ≠ 0 → ¬permits j → faults 8 (base j) 16) ∧
          (permits j → s.tagPoisoned (capTag (cap j)) = true → faults 12 (base j) 0) ∧
          (permits j → s.tagPoisoned (capTag (cap j)) = false → revoked j → faults 9 (base j) 16)) ∧
        ((∀ j < depth, sound j) →
          (∀ j < depth, (∀ k < j, based k) → ¬based j → faults 3 (base j) 0) ∧
          ((∀ j < depth, based j) → (∀ j < depth, (∀ k < j, raw (base k)) → ¬raw (base j) → faults 4 (base j) 0) ∧
            ((∀ j < depth, raw (base j)) → (bare = true → ¬raw bar → faults 4 bar 0) ∧
              ((bare = true → raw bar) → RawReady s false idx (4 * n) 4 → (scat = true → RawReady s false data (z * n) z) →
                ∃ u : State, u = { s.ahead with dir := u.dir, caches := u.caches } ∧
                  AcceptsOrRefuses (exec i s) u d { Cmd.blank (if scat then .scat else .gath) with
                    caps := (List.range depth).map cap, fill := w 6, esz := (w 7).getLsbD 53, data := data.toNat
                    tag := (w 8).extractLsb' 20 16, cslot := slot.toNat
                    idx := (List.range n).map fun i => BitVec.ofNat 32 (bytesRead s.mem.bytes (spadPa s.hand.core (idx.toNat + 4 * i)) 4)
                    words := if scat then (List.range n).map fun i =>
                      BitVec.ofNat 64 (bytesRead s.mem.bytes (spadPa s.hand.core (data.toNat + z * i)) z) else []
                    bare := bare, bar := bar.toNat })))))))

/-- R203, R205, R206, R279: an engine's turns, of a command whose unit, if it has one, is on its core. A free slot starts a waiting
command; a `send` from a scratchpad to memory moves its bytes up to the next 128-byte boundary; a one-level `gath` writes an
element, or its FILL where the index is out of bounds, and sets it full; a finished command whose stores are acknowledged writes its
record, sets the record's words full and frees its entry. One turn moving one such unit, and its order among other turns, are the
model's choice, log entries 18 and 19. R207, R281, R371, R420: while its partition is not quiesced, a stalled command whose request
is answered goes back to wait at the head of its core's commands, with REPLY 1, or a copy ends with the fault's FCODE, with REPLY 2;
a request that the ring refused is tried again when HEAD has changed: with room its entry holds KIND 1, DETAIL, GCORE and VA[56:0],
and TAIL moves on; without room DROPS counts it. No host and no cache that must drain first holds the lines of the ring. -/
def Obligations.EngineTurnsStallsAndRecords : Prop :=
  (∀ (s : State) (c : Cmd) (pa : Nat), s.cmd c.id = some c → s.savedImage c.unit = none → c.core < 4608 →
    c.part = (s.at c.core c.ctx).partNo → (s.pst c.part).quiesced = false → s.coreInCable c.core = false →
    let at' (o : Nat) : Nat := spadPa c.core o
    let sets (t : State) (o : Nat) : Prop := (∀ b, ¬(at' o ≤ b ∧ b < at' o + 4) → bytesGet t.mem.bytes b = bytesGet s.mem.bytes b) ∧
      ∀ u, u ∈ t.mem.full ↔ u ∈ s.mem.full ∨ u = at' o
    (c.st = .waiting → (∀ x ∈ s.cmds, x.core / 8 = c.core / 8 → x = c) →
      ∃ t, exec (.engineSlotFill (c.core / 8) c.kind.gs) s = .next t ∧ t.cmd c.id = some { c with st := .active } ∧ t.mem = s.mem) ∧
    (c.st = .active → c.kind = .send → c.srcl = true → c.dstl = false → c.endCode = none → c.bare = false → c.next < c.bytes →
      let src := (c.src.toNat + c.next) % 0x20000
      let n := min (c.bytes - c.next) (128 - (c.dst.toNat + c.next) % 128)
      s.spPoison false c.core src n = false → c.dst.toNat + c.next < 2 ^ 57 →
      HbmReady (s.at c.core c.ctx) (BitVec.ofNat 64 (c.dst.toNat + c.next)) n .write pa → LinesFree s pa n →
      ∃ t, exec (.engineTransfer c.id) s = .next t ∧
        (∀ i < n, bytesGet t.mem.bytes (pa + i) = bytesGet s.mem.bytes (at' (src + i))) ∧
        (∀ b, ¬(pa ≤ b ∧ b < pa + n) → bytesGet t.mem.bytes b = bytesGet s.mem.bytes b) ∧
        ∃ y, t.cmd c.id = some y ∧ y.next = c.next + n ∧ y.delivered = c.delivered + n ∧
          y.st = if c.bytes ≤ c.next + n then .finishing else .active) ∧
    (∀ cap, c.st = .active → c.kind = .gath → c.srcl = false → c.dstl = false → c.bad = [] → c.caps = [cap] → c.esz = false → c.endCode = none →
      c.bare = false → c.next < c.idx.length → c.data % 4 = 0 → LinesFree s (at' (c.data + 4 * c.next)) 4 →
      let x := (c.idx.getD c.next 0).toNat
      let o := c.data + 4 * c.next
      (x * 4 + 4 ≤ capLen cap → capBase cap + x * 4 < 2 ^ 57 →
        HbmReady (s.at c.core c.ctx) (BitVec.ofNat 64 (capBase cap + x * 4)) 4 .read pa →
        ∃ t, exec (.gatherElement c.id) s = .next t ∧
          (∀ i < 4, bytesGet t.mem.bytes (at' (o + i)) = bytesGet s.mem.bytes (pa + i)) ∧ sets t o ∧
          ∃ y, t.cmd c.id = some y ∧ y.next = c.next + 1 ∧ y.count = c.count + 1 ∧ y.first = c.first) ∧
      (capLen cap < x * 4 + 4 → ∃ t, exec (.gatherElement c.id) s = .next t ∧
        (∀ i < 4, bytesGet t.mem.bytes (at' (o + i)) = c.fill.extractLsb' (8 * i) 8) ∧ sets t o ∧
        ∃ y, t.cmd c.id = some y ∧ y.next = c.next + 1 ∧ y.count = c.count ∧ y.first = some (c.first.getD c.next) ∧
          (c.first = none → y.fcode = 5 ∧ y.level = 0))) ∧
    (c.st = .finishing → c.cslot % 16 = 0 → LinesFree s (at' c.cslot) 16 → (∀ e ∈ s.dir, e.awaited = [] ∨ c.core ∉ e.writers) →
      ∃ t, exec (.completionRecord c.id) s = .next t ∧ t.cmds = s.cmds.filter (·.id != c.id) ∧
        bytesRead t.mem.bytes (at' c.cslot) 4 = (c.fcode * 2 ^ 24 + c.level * 2 ^ 14 + (if c.stalledOnce then 2 else 0) + 1) % 2 ^ 32 ∧
        bytesRead t.mem.bytes (at' (c.cslot + 4)) 4 = (if c.kind.gs then c.count else c.next) % 2 ^ 32 ∧
        bytesRead t.mem.bytes (at' (c.cslot + 8)) 4 = c.first.getD 0xFFFFFFFF % 2 ^ 32 ∧
        bytesRead t.mem.bytes (at' (c.cslot + 12)) 4 = c.tag.toNat ∧
        (∀ b, ¬(at' c.cslot ≤ b ∧ b < at' c.cslot + 16) → bytesGet t.mem.bytes b = bytesGet s.mem.bytes b) ∧
        ∀ u, u ∈ t.mem.full ↔ u ∈ s.mem.full ∨ u = at' c.cslot ∨ u = at' (c.cslot + 4) ∨ u = at' (c.cslot + 8) ∨ u = at' (c.cslot + 12))) ∧
  (∀ (s : State) (c : Cmd) (code va lvl a part : Nat) (wr : Bool) (e : Partition), s.cmd c.id = some c → c.bare = false →
    (s.pst c.part).quiesced = false →
    let reply := bytesRead s.mem.bytes (a + 24) 8 % 4
    (c.st = .stalled code va lvl wr false (some a) → s.mem.poisoned false a 64 = false → s.heldAt (a / 128 * 128) = none →
      (reply = 1 → ∃ t, exec (.engineFaultReply c.id) s = .next t ∧
        t.cmds = { c with st := .waiting } :: s.cmds.filter (·.id != c.id) ∧ t.mem = s.mem) ∧
      (reply = 2 → c.kind.gs = false → c.endCode = none → ∃ t y, exec (.engineFaultReply c.id) s = .next t ∧ t.cmd c.id = some y ∧
        y.st = .finishing ∧ y.fcode = code ∧ y.first = (if c.next < c.bytes then some c.next else none)) ∧
      (reply = 0 → ∃ t, exec (.engineFaultReply c.id) s = .next t ∧ t.cmds = s.cmds ∧ t.mem = s.mem)) ∧
    (∀ head tail log ring wk, c.st = .stalled code va lvl wr false none → s.cmds = [c] → c.part = part → c.core < 4608 →
      s.coreInCable c.core = false → s.partEntry part = some e → s.ringHeader e = some (head, tail, log, ring, wk) →
      let entry := ring + 64 * (tail % 2 ^ log)
      let full : Prop := (tail + 2 ^ 32 - head) % 2 ^ 32 = 2 ^ log
      LinesFree s e.ringHdr 64 → LinesFree s entry 64 → s.mem.poisoned true entry 64 = false → e.ringHdr + 64 ≤ hbmSize →
      (c.head = some head → exec (.requestRingRetry part) s = .next s) ∧
      (c.head ≠ some head → full → ∃ t y, exec (.requestRingRetry part) s = .next t ∧ t.cmd c.id = some { c with head := y } ∧
        bytesRead t.mem.bytes (e.ringHdr + 12) 4 = (bytesRead s.mem.bytes (e.ringHdr + 12) 4 + 1) % 2 ^ 32) ∧
      (c.head ≠ some head → ¬full → ∃ t y, exec (.requestRingRetry part) s = .next t ∧
        t.cmd c.id = some { c with st := .stalled code va lvl wr false (some entry), head := y } ∧
        (entry + 64 ≤ e.ringHdr ∨ e.ringHdr + 64 ≤ entry →
          bytesRead t.mem.bytes entry 8 = 2 ^ 56 + (if wr then 2 ^ 48 else 0) + c.core ∧
          bytesRead t.mem.bytes (entry + 8) 8 = va % 2 ^ 57 ∧ bytesRead t.mem.bytes e.ringHdr 4 = (tail + 1) % 2 ^ 32))))

/-! ### Barriers, reductions, supersteps, the cable fabric and subscriptions (R210 to R225, R286 to R296, R364) -/

/-- R210, R211: the barrier instructions on an object in device memory. `bnew` writes the whole object; `barv`, with nothing left to
release, reads the phase and arrives; `bexp` adds expected bytes; an arrival that completes the phase starts the next; a count out of
range is ILLEGAL before any check of the address; an object with a reserved field set only becomes broken. That ARRIVED of an object past
its count goes on modulo 2^16 is the model's choice, log entry 68. -/
def Obligations.BarrierObjects : Prop :=
  ∀ (s : State) (g : Guard) (d a b : BitVec 5) (pa : Nat), s.runs true false g →
    let n := (s.S b).toNat
    let w0 := bytesRead s.mem.bytes pa 8
    let w1 := bytesRead s.mem.bytes (pa + 8) 8
    let arrived := w0 / 2 ^ 16 % 2 ^ 16
    let count := w0 % 2 ^ 16
    let pending := w0 / 2 ^ 32 % 2 ^ 24
    let phase := w1 / 2 ^ 32
    let expsum := w1 % 2 ^ 25
    let broken := w1 / 2 ^ 25 % 2
    let object (pend arr cnt ph br ex : Nat) : Nat := pend * 2 ^ 32 + arr * 2 ^ 16 + cnt + (ph * 2 ^ 32 + br * 2 ^ 25 + ex) * 2 ^ 64
    let wellFormed : Prop := w0 / 2 ^ 56 = 0 ∧ w1 / 2 ^ 26 % 2 ^ 6 = 0 ∧ bytesRead s.mem.bytes (pa + 16) 16 = 0
    (n = 0 ∨ 65535 < n → Traps (exec (.bnew g a b) s) s 1 0 (s.hand.hw.setWidth 64) s.hand.pc) ∧
    ((s.S a).toNat % 32 = 0 → HbmReady s.ahead (s.S a) 32 .write pa → 0 < n → n ≤ 65535 →
      ∃ t, exec (.bnew g a b) s = .next t ∧ Stores t s.ahead pa 32 n) ∧
    ((s.S a).toNat % 32 = 0 → HbmReady s.ahead (s.S a) 32 .update pa →
      (s.updatesDone s.hand.core = true → s.storesPerformed = true → s.queueQuiet s.hand.core s.hand.ctx = true →
        (wellFormed → ∃ t, exec (.barv g d a) s = .next t ∧ Stores t (s.ahead.setS d (BitVec.ofNat 64 phase)) pa 32
          (if arrived = count then
            (if pending = 0 then object pending 0 count ((phase + 1) % 2 ^ 32) 1 0 else object pending arrived count phase 1 expsum)
           else if (arrived + 1) % 2 ^ 16 = count ∧ pending = 0 then object pending 0 count ((phase + 1) % 2 ^ 32) broken 0
           else object pending ((arrived + 1) % 2 ^ 16) count phase broken expsum)) ∧
        (¬wellFormed → ∃ t v, exec (.barv g d a) s = .next t ∧ Stores t (s.ahead.setS d (BitVec.ofNat 64 phase)) pa 32 v ∧
          v = bytesRead s.mem.bytes pa 32 + (if broken = 1 then 0 else 2 ^ 89))) ∧
      (wellFormed → ∃ t, exec (.bexp g a b) s = .next t ∧ Stores t s.ahead pa 32
        (if 0xFFFFFF < n ∨ 0xFFFFFF < expsum + n then object pending arrived count phase 1 expsum
         else object ((pending + n) % 2 ^ 24) arrived count phase broken (expsum + n))))

/-- R211, R225: `bwait` goes on once the phase is over or the object broken, writing whether it is whole, and else waits; `rfin` goes on
once the object is done, with its result, its error bit and its flags, and else waits. R224: an `rsw` to an object in device memory
writes its value to an empty slot, low 32 bits for f32, and sets the slot's bit; FILLED counts it. The last one reduces the values
of all slots by TreeCombine: the object is done, with the result and its flags. An `rsw` to an object that is done, or whose header
is malformed, past its last slot, to a filled slot, or to one that cannot be reached, it or its bit, is discarded: the object is
done, in error, with result 0, and so is one where a slot cannot be read at the last contribution, the model's choice, log entry 98.
No other byte changes; no register changes. No host and no cache that must drain first holds the lines that it writes. -/
def Obligations.WaitsAndRefusedContributions : Prop :=
  (∀ (s : State) (g : Guard) (p c : BitVec 3) (d a b : BitVec 5) (pa : Nat), s.runs true false g →
    let w1 := bytesRead s.mem.bytes (pa + 8) 8
    let w0 := bytesRead s.mem.bytes pa 8
    let ended : Prop := w1 / 2 ^ 32 ≠ ((s.S b).setWidth 32).toNat ∨ w1 / 2 ^ 25 % 2 = 1
    let quiet (t : State) (u : State) : Prop := t = { u with dir := t.dir, telemetry := t.telemetry, caches := t.caches }
    ((s.S a).toNat % 32 = 0 → HbmReady s.ahead (s.S a) 32 .update pa →
      w0 / 2 ^ 56 = 0 → w1 / 2 ^ 26 % 2 ^ 6 = 0 → bytesRead s.mem.bytes (pa + 16) 16 = 0 →
      (ended → ∃ t, exec (.bwait g p a b) s = .next t ∧ quiet t (s.ahead.setP p (decide (w1 / 2 ^ 25 % 2 = 0)))) ∧
      (¬ended → ∃ t, exec (.bwait g p a b) s = .next t ∧
        quiet t (s.modMy fun x => { x with pc := s.hand.pc, st := .waiting (.barrier 0 pa ((s.S b).setWidth 32)) }))) ∧
    ((s.S a).toNat % 64 = 0 → HbmReady s.ahead (s.S a) 64 .read pa →
      (w0 % 2 = 1 → ∃ t, exec (.rfin g d a c) s = .next t ∧
        quiet t (((s.ahead.setS d (BitVec.ofNat 64 (bytesRead s.mem.bytes (pa + 16) 8))).setP c (decide (w0 / 2 % 2 = 0))).orFlags
          (BitVec.ofNat 6 (bytesRead s.mem.bytes (pa + 24) 8)))) ∧
      (w0 % 2 = 0 → ∃ t, exec (.rfin g d a c) s = .next t ∧
        quiet t (s.modMy fun x => { x with pc := s.hand.pc, st := .waiting (.done 0 pa) })))) ∧
  (∀ (s : State) (g : Guard) (a b c : BitVec 5) (pa : Nat), s.runs true false g → (s.S a).toNat % 64 = 0 →
    HbmReady s.ahead (s.S a) 64 .update pa → LinesFree s pa 64 →
    let va := (s.S a).toNat
    let slot := (s.S b).toNat
    let word (i : Nat) : Nat := bytesRead s.mem.bytes (pa + 8 * i) 8
    let n := word 0 / 2 ^ 32 % 2 ^ 16 + 1
    let size := 64 + 8 * n + (n + 7) / 8
    let f32s := word 0 / 2 ^ 8 % 4 = 0
    let value := if f32s then (s.S c).toNat % 2 ^ 32 else (s.S c).toNat
    let so := 64 + 8 * slot
    let bo := 64 + 8 * n + slot / 8
    let only (t : State) : Prop := t = { s.ahead with
      mem := { s.mem with bytes := t.mem.bytes }, dir := t.dir, bridge := t.bridge, telemetry := t.telemetry, caches := t.caches }
    let discarded : Prop := ∃ t, exec (.rsw g a b c) s = .next t ∧ only t ∧
      bytesRead t.mem.bytes pa 8 % 4 = 3 ∧ bytesRead t.mem.bytes (pa + 16) 8 = 0 ∧
      (∀ i < 8, i ≠ 0 → bytesGet t.mem.bytes (pa + i) = bytesGet s.mem.bytes (pa + i)) ∧
      ∀ x, ¬(pa ≤ x ∧ x < pa + 64) → bytesGet t.mem.bytes x = bytesGet s.mem.bytes x
    let valid : Prop := word 0 / 2 ^ 48 = 0 ∧ word 0 / 2 ^ 10 % 2 ^ 22 = 0 ∧ word 0 / 2 ^ 8 % 4 ≠ 3 ∧ word 0 / 2 ^ 6 % 4 = 0 ∧
      word 0 / 2 ^ 4 % 4 ≠ 3 ∧ word 0 / 2 ^ 2 % 4 = 0 ∧ word 0 % 2 = 0 ∧ word 1 < 2 ^ 17 ∧ word 3 < 2 ^ 6 ∧ ∀ i, 4 ≤ i → i < 8 → word i = 0
    let maps (o : Nat) (acc : Acc) : Prop := s.ahead.translate .distributor s.partNo (va + o) acc = .ok (s.ahead, ⟨0, pa + o⟩)
    let reached (o n : Nat) (acc : Acc) : Prop := maps o acc ∧ s.mem.poisoned false (pa + o) n = false
    let lost (o n : Nat) (acc : Acc) : Prop := maps o acc ∧ s.mem.poisoned false (pa + o) n = true ∨
      ∃ e, s.ahead.translate .distributor s.partNo (va + o) acc = .error (s.ahead, e)
    (¬valid ∨ n ≤ slot → discarded) ∧
    (valid → slot < n → s.isAvlyn = false → pa + size ≤ hbmSize → NoQueueIn s.ahead pa size →
      (∀ y ∈ s.hostHeld, y.line + 128 ≤ pa ∨ pa + size ≤ y.line) → LinesFree s (pa + so) 8 → LinesFree s (pa + bo) 1 →
      (reached so 8 .write ∨ lost so 8 .write → reached bo 1 .update ∨ lost bo 1 .update → lost so 8 .write ∨ lost bo 1 .update → discarded) ∧
      (reached so 8 .write → reached bo 1 .update →
        ((bytesGet s.mem.bytes (pa + bo)).getLsbD (slot % 8) = true → discarded) ∧
        ((bytesGet s.mem.bytes (pa + bo)).getLsbD (slot % 8) = false →
          (word 1 + 1 = n → (∀ i < n, reached (64 + 8 * i) 8 .read ∨ lost (64 + 8 * i) 8 .read) → (∃ i < n, lost (64 + 8 * i) 8 .read) →
            discarded) ∧
          (word 1 < n → word 2 = 0 → word 3 = 0 → word 0 / 2 % 2 = 0 →
            let filled := bytesWrite (bytesWrite s.mem.bytes (pa + so) 8 value) (pa + bo) 1
              ((bytesGet s.mem.bytes (pa + bo)).toNat + 2 ^ (slot % 8))
            let result := treeCombine (swCombine (word 0 / 2 ^ 8 % 4) (word 0 / 2 ^ 4 % 4)) (swCanon (word 0 / 2 ^ 8 % 4)) 0
              ((List.range n).map fun i => bytesRead filled (pa + 64 + 8 * i) 8)
            (word 1 + 1 < n ∨ ∀ i < n, reached (64 + 8 * i) 8 .read) →
            ∃ t, exec (.rsw g a b c) s = .next t ∧ only t ∧
              (∀ x, ¬(pa ≤ x ∧ x < pa + 64) → bytesGet t.mem.bytes x = bytesGet filled x) ∧
              bytesRead t.mem.bytes (pa + 8) 8 = word 1 + 1 ∧ (∀ i, 4 ≤ i → i < 8 → bytesRead t.mem.bytes (pa + 8 * i) 8 = 0) ∧
              (word 1 + 1 < n → bytesRead t.mem.bytes pa 8 = word 0 ∧ bytesRead t.mem.bytes (pa + 16) 16 = 0) ∧
              (word 1 + 1 = n → bytesRead t.mem.bytes pa 8 = word 0 + 1 ∧ bytesRead t.mem.bytes (pa + 24) 8 = result.2.toNat ∧
                bytesRead t.mem.bytes (pa + 16) 8 = if f32s then result.1 % 2 ^ 32 else result.1 % 2 ^ 64))))))

/-- R213, R214: context 0 of a unit issues `step` and waits; the wired barrier releases the region once every running unit has arrived
with the same form and what it issued is done: each context goes on after its `step`, in the next kind of step, with no update on its way that
the step waits for: those that a cable step held are applied, which no other region's step holds here. Different forms fault
GANGABORT with EPC at each `step`, once what each context issued before has taken its full effect (R356). A helper's `step` is ILLEGAL. That
the abort waits for no other unit, and that wires and selections start anew, are the model's choice, log entries 32 and 33. -/
def Obligations.SuperstepsArriveAndRelease : Prop :=
  ∀ (s : State) (g : Guard) (l : Launch), s.launchAt l.id = some l →
    (s.runs false true g → s.launchOf s.hand.core = some l → s.hand.ctx = 0 → l.wave = false →
      let arrives (o : Out) (cable : Bool) : Prop := ∃ t l', o = .next t ∧ t.launchAt l.id = some l' ∧
        l' = { l with arrived := l.arrived.filter (·.core != s.hand.core) ++ [⟨s.hand.core, cable, s.hand.pc, s.nextPc, s.nextId⟩] } ∧
        t.my = { s.my with pc := s.hand.pc, st := .waiting (.wired cable) } ∧ t.mem = s.mem
      arrives (exec (.step g) s) false ∧
      (l.place = true → l.stepK = .compute → arrives (exec (.stepCable g) s) true) ∧
      (l.stepK ≠ .compute → Traps (exec (.stepCable g) s) s 1 0 (s.hand.hw.setWidth 64) s.hand.pc)) ∧
    (s.runs false true g → s.hand.ctx ≠ 0 →
      Traps (exec (.step g) s) s 1 0 (s.hand.hw.setWidth 64) s.hand.pc ∧
      Traps (exec (.stepCable g) s) s 1 0 (s.hand.hw.setWidth 64) s.hand.pc) ∧
    (s.wiredReady l = true → (∀ f ∈ s.stepUpdates l, s.holder f = none ∨ s.holder f = some l.id) → l.formsDiffer = false →
      (l.arrived.map (·.core)).Nodup →
      let cable := l.arrived.any (·.cable)
      ∃ t l', exec (.wiredBarrierRelease l.id) s = .next t ∧ t.launchAt l.id = some l' ∧ l'.arrived = [] ∧
        l'.stepK = (if l.stepK = .compute then (if cable then .cable else .exchange) else .compute) ∧
        (∀ a ∈ l.arrived, ((t.coreAt a.core).ctxAt 0).pc = a.next ∧ ((t.coreAt a.core).ctxAt 0).st = .ready) ∧
        ∀ h, ∀ f ∈ (t.coreAt h).flits, h ∉ l.cores ∧ f.writer ∉ l.cores) ∧
    (l.formsDiffer = true → (l.arrived.map (·.core)).Nodup →
      (∀ a ∈ l.arrived, a.core < 4608 ∧ (s.coreAt a.core).frozen = false ∧ (s.coreAt a.core).ending = none ∧ (s.at a.core 0).settled = true ∧
        ((s.coreAt a.core).ctxAt 0).sys = false ∧ (s.coreAt a.core).tvec ≠ 0 ∧ s.coreInCable a.core = false) →
      ∃ t, exec (.wiredBarrierRelease l.id) s = .next t ∧
        ∀ a ∈ l.arrived, let x := (t.coreAt a.core).ctxAt 0
          x.epc = a.pc ∧ x.ecause = 16 ∧ x.einfo = 3 ∧ x.pc = (s.coreAt a.core).tvec ∧ x.sys = true)

/-- R216, R217: in a cable step `xsend` puts its value on the core's wire at the core's cycle, `xsel` selects a core of the region or
nothing, and `xrecv` reads the latest value its source sent by the cycle less the cable delay, 0 before any; at the last cycle a unit
without its closing `step` aborts the step: with no fault of its own held, its context 0 takes GANGABORT. That a held fault is delivered
instead is the model's choice, log entry 47. The two cores of the manual's example are 15 cycles apart. -/
def Obligations.CableInstructions : Prop :=
  cableDelay 217 (8 * (144 + 2 * 12 + 1)) = 15 ∧ (∀ g h, g / 8 = h / 8 → cableDelay g h = 2) ∧
  ∀ (s : State) (g : Guard) (d a : BitVec 5) (h : Nat) (l : Launch), s.runs false true g → s.inCable = true →
    s.launchOf s.hand.core = some l →
    exec (.xsend g a) s = .next (s.ahead.modMe fun c => { c with wires := ⟨c.cable, s.S a⟩ :: c.wires }) ∧
    exec (.xsel g a) s = .next (s.ahead.modMe fun c => { c with
      sel := if (s.S a).toNat < 4608 ∧ (s.S a).toNat ∈ l.cores then some (s.S a).toNat else none }) ∧
    (s.me.sel = none → WritesS (exec (.xrecv g d) s) s d 0 0) ∧
    (s.me.sel = some h → s.me.cable < cableDelay h s.hand.core → WritesS (exec (.xrecv g d) s) s d 0 0) ∧
    (s.me.sel = some h → cableDelay h s.hand.core ≤ s.me.cable →
      s.me.cable < (s.coreAt h).cable + cableDelay h s.hand.core →
      WritesS (exec (.xrecv g d) s) s d
        ((((s.coreAt h).wires.find? fun w => decide (w.cycle + cableDelay h s.hand.core ≤ s.me.cable)).map (·.value)).getD 0) 0) ∧
    (s.launchAt l.id = some l → s.cableLate l = true → l.cores.Nodup →
      ∃ t l', exec (.cableStepTimeout l.id) s = .next t ∧ t.launchAt l.id = some l' ∧ l'.stepK = .compute ∧ l'.arrived = [] ∧
        ∀ q ∈ l.cores, q < 4608 → (s.coreAt q).frozen = false → (s.coreAt q).ending = none →
          let before := (s.coreAt q).ctxAt 0
          let x := (t.coreAt q).ctxAt 0
          (t.coreAt q).cable = 0 ∧ (before.sys = false → (s.coreAt q).tvec ≠ 0 → (∀ u k v, before.st ≠ .waiting (.held u k v)) →
            (s.at q 0).settled = true → s.launchOf q = some l →
            x.epc = before.pc ∧ x.ecause = 16 ∧ x.einfo = 3 ∧ x.pc = (s.coreAt q).tvec ∧ x.sys = true))

/-- R218 to R222, R317: `sub` makes a live incoming entry and the publisher's outgoing entry, and writes true, or false where the entry
is not free or the publisher has 16; `unsub` of an entry in use with nothing on its way removes both, and else waits, of a free or
lapsed one does nothing; `subsync` goes on once what the context queued has executed, the core's stores are performed, no store of
the core is still queued and no update of it on its way, and else waits. R220, R295, R320, R364: an update closes and, with none of
an earlier release on its way, is applied at a live subscriber entry, byte for byte where it meets no poisoned word in part, setting
its words full only with SETFULL; a pending SUBLAPSE is delivered to context 0 of a core in user mode, with the lapsed entries in
EINFO, and frees them: at TVEC, or as an upcall, whose frame holds them, under the conditions of R361. Before which instruction it
comes is the model's choice, log entry 34. -/
def Obligations.SubscriptionsUpdatesAndLapses : Prop :=
  (∀ (s : State) (g : Guard) (d : BitVec 4) (a : BitVec 5) (c : BitVec 3) (pub off : Nat), s.runs false false g →
    let w (i : Nat) : Word := s.dword ((s.S a).toNat + 8 * i)
    let cap := s.A d
    let va := capBase cap
    let n := capLen cap
    let e := ((w 1).extractLsb' 0 4).toNat
    let free : Prop := (s.me.incAt e).st = .free ∧ (s.coreAt pub).out.length < 16
    (RawReady s false (s.S a) 16 16 → (w 0).extractLsb' 20 44 = 0 → (w 1).extractLsb' 9 55 = 0 → (w 1).extractLsb' 4 4 = 0 →
      TagFree s (capTag cap) → s.checkCap cap 0 n 17 (d.setWidth 64) = .ok va → inAperture va = true → va / 2 ^ 48 = 0 → vaWindow va = 0 → va % 64 = 0 → n % 64 = 0 →
      0 < n → n ≤ 0x10000 → va % 0x20000 + n ≤ 0x20000 → RangeOk s (w 0) n 64 → pub < 4608 → off + n ≤ 0x20000 →
      s.ahead.translateMy va .read = .ok (s.ahead, ⟨0, spadPa pub off⟩) → s.lentBy pub = none → s.dir.length < 0x8000 →
      ∃ u : State, u = { s.ahead with dir := u.dir, caches := u.caches } ∧
      (free → ∃ t, exec (.subSubscription g d a c) s = .next t ∧ t.P c = (c = 0 || true) ∧
        t.me.incAt e = ⟨.live, pub, off, (w 0).toNat, n, (w 1).getLsbD 8⟩ ∧
        (t.coreAt pub).out = (s.coreAt pub).out ++ [⟨.core s.hand.core, e, off, n, none⟩] ∧ t = { u with cores := t.cores } ∧
        t.my.pc = s.nextPc) ∧
      (¬free → exec (.subSubscription g d a c) s = .next (u.setP c false))) ∧
    (let k := ((s.S a).extractLsb' 0 4).toNat
     let x := s.me.incAt k
     (x.st = .free ∨ x.st = .lapsed → JumpsTo (exec (.unsub g a) s) s s.nextPc) ∧
     (x.st ≠ .free → x.st ≠ .lapsed → (∃ f ∈ (s.coreAt x.pub).flits, f.sub = .core s.hand.core ∧ f.entry = k) →
       ∃ t, exec (.unsub g a) s = .next t ∧ t.my = { s.my with pc := s.hand.pc, st := .waiting (.entryDrained k s.nextPc) } ∧ t.mem = s.mem) ∧
     (x.st ≠ .free → x.st ≠ .lapsed → (s.coreAt x.pub).flits = [] → ∃ t, exec (.unsub g a) s = .next t ∧ (t.me.incAt k).st = .free ∧ t.my.pc = s.nextPc ∧
       (∀ o ∈ (t.coreAt x.pub).out, ¬(o.sub = .core s.hand.core ∧ o.entry = k)) ∧ t.mem = s.mem)) ∧
    (let ready : Prop := s.queueQuiet s.hand.core s.hand.ctx = true ∧ s.storesPerformed = true ∧ s.storesQueued = false ∧
       s.updatesDone s.hand.core = true
     (ready → ∃ t, exec (.subsync g) s = .next t ∧ t = { s.ahead with dir := t.dir }) ∧
     (¬ready → ∃ t k, exec (.subsync g) s = .next t ∧ t.my = { s.my with pc := s.hand.pc, st := .waiting k } ∧ t.mem = s.mem ∧
       (k = .queued ∨ k = .performed ∨ k = .updates) ∧ ∀ f ∈ t.me.flits, f.closed = true))) ∧
  (∀ (s : State) (core i g : Nat) (o : Outgoing) (f : Flit) (rest : List Flit) (sf : Bool),
    (s.coreAt core).outAt i = some o →
    (∃ t, exec (.updateFlitClose core i) s = .next t ∧ t.mem = s.mem ∧
      ∀ x ∈ (t.coreAt core).flits, x.sub = o.sub → x.entry = o.entry → x.closed = true) ∧
    (o.sub = .core g → (s.coreAt core).flits = f :: rest → f.sub = o.sub → f.entry = o.entry → f.closed = true → s.coreInCable g = false →
      (∀ x ∈ rest, x.writer = f.writer → f.epoch ≤ x.epoch) → s.spPoison true g (((s.coreAt g).incAt o.entry).loc + f.off) f.bytes.length = false →
      (s.coreAt g).incAt o.entry = ⟨.live, core, o.off, ((s.coreAt g).incAt o.entry).loc, o.len, sf⟩ →
      let at' := spadPa g (((s.coreAt g).incAt o.entry).loc + f.off)
      LinesFree s at' f.bytes.length →
      ∃ t, exec (.subscriptionUpdateApply core i) s = .next t ∧ (t.coreAt core).flits = rest ∧
        (∀ j < f.bytes.length, bytesGet t.mem.bytes (at' + j) = f.bytes.getD j 0) ∧
        (∀ b, ¬(at' ≤ b ∧ b < at' + f.bytes.length) → bytesGet t.mem.bytes b = bytesGet s.mem.bytes b) ∧
        ∀ u, u ∈ t.mem.full ↔ u ∈ s.mem.full ∨ sf = true ∧ u ∈ unitsOf 4 at' f.bytes.length) ∧
    (s.lapseDue g = true → g < 4608 → ((s.coreAt g).ctxAt 0).uvec ≠ 0 →
      let before := (s.coreAt g).ctxAt 0
      let A := (before.uframe &&& 0xFFFC0).toNat
      A < 0x20000 → (s.coreAt g).splo.toNat ≤ A → A + 0x1420 ≤ (s.coreAt g).sphi.toNat → A + 0x1420 ≤ 0x20000 →
      ∃ t, exec (.sublapse g) s = .next t ∧ (t.coreAt g).lapse = 0 ∧
        (t.coreAt g).ctxAt 0 = { before with uframe := before.uframe ||| 1, pc := before.uvec, st := .ready } ∧
        (let dw (o : Nat) : Word := BitVec.ofNat 64 (bytesRead t.mem.bytes (spadPa g (A + o)) 8);
          dw 0 = before.pc ∧ dw 8 = 19 ∧ dw 0x10 = 0 ∧ dw 0x18 = (s.coreAt g).lapse.setWidth 64) ∧
        ∀ e, (s.coreAt g).lapse.getLsbD e = true → ((t.coreAt g).incAt e).st = .free) ∧
    (s.lapseDue g = true → g < 4608 → (s.coreAt g).tvec ≠ 0 → ((s.coreAt g).ctxAt 0).uvec = 0 →
      ∃ t, exec (.sublapse g) s = .next t ∧ (t.coreAt g).lapse = 0 ∧
        (let x := (t.coreAt g).ctxAt 0;
          x.epc = ((s.coreAt g).ctxAt 0).pc ∧ x.ecause = 19 ∧ x.einfo = (s.coreAt g).lapse.setWidth 64 ∧ x.pc = (s.coreAt g).tvec ∧
          x.sys = true ∧ x.st = .ready) ∧
        ∀ e, (s.coreAt g).lapse.getLsbD e = true → ((t.coreAt g).incAt e).st = .free))

/-! ### Scalar floating point and capabilities (R31, R40 to R46, R50, R131 to R141) -/

/-- R44, R50, R137, R139: `fadd`, `fsub`, `fmul`, `fdiv` and `fma`, in f32 and f64, form their result from the exact real result; invalid
operations give the canonical NaN with NV, a division of a finite non-zero number by zero a signed infinity with DZ. `fma` adds to the exact
product, rounding once; 0 × ∞ is invalid whatever is added. -/
def Obligations.FloatArithmeticIsExactThenRounded : Prop :=
  ∀ (s : State) (g : Guard) (mo : BitVec 6) (mr : BitVec 8) (d a b c : BitVec 5) (wide : Bool), s.runs true false g →
    let f := if wide then f64 else f32
    let x := s.fOperand f mo 0 a
    let y := s.fOperand f mo 1 b
    let z := s.fOperand f mo 2 c
    let add := exec (if wide then .faddD g mo mr d a b else .fadd g mo mr d a b) s
    let sub := exec (if wide then .fsubD g mo mr d a b else .fsub g mo mr d a b) s
    let mul := exec (if wide then .fmulD g mo mr d a b else .fmul g mo mr d a b) s
    let div := exec (if wide then .fdivD g mo mr d a b else .fdiv g mo mr d a b) s
    let fma := exec (if wide then .fmaD g mo mr d a b c else .fma g mo mr d a b c) s
    (x.isNaN = true ∨ y.isNaN = true →
      let fl := flagIf (x.isSNaN || y.isSNaN) fNV
      FormsS add s f mr d .nan fl ∧ FormsS sub s f mr d .nan fl ∧ FormsS mul s f mr d .nan fl ∧ FormsS div s f mr d .nan fl) ∧
    (∀ n1 m1 e1 n2 m2 e2, x = .fin n1 m1 e1 → y = .fin n2 m2 e2 →
      (∃ r, FormsS add s f mr d r 0 ∧ r.value = some (x.value + y.value) ∧
        r.isNeg = if n1 = n2 then n1 else if x.value + y.value = 0 then decide (mrRound mr = 2) else decide (x.value + y.value < 0)) ∧
      (∃ r, FormsS sub s f mr d r 0 ∧ r.value = some (x.value - y.value)) ∧
      (∃ r, FormsS mul s f mr d r 0 ∧ r.value = some (x.value * y.value) ∧ r.isNeg = (n1 != n2)) ∧
      (m2 ≠ 0 → ∃ r, FormsS div s f mr d r 0 ∧ r.value = some (x.value / y.value) ∧ r.isNeg = (n1 != n2)) ∧
      (m2 = 0 → m1 ≠ 0 → FormsS div s f mr d (.inf (n1 != n2)) fDZ) ∧
      (m2 = 0 → m1 = 0 → FormsS div s f mr d .nan fNV) ∧
      (∀ n3 m3 e3, z = .fin n3 m3 e3 → ∃ r, FormsS fma s f mr d r 0 ∧ r.value = some (x.value * y.value + z.value) ∧
        r.isNeg = if (n1 != n2) = n3 then n3 else if x.value * y.value + z.value = 0 then decide (mrRound mr = 2)
          else decide (x.value * y.value + z.value < 0))) ∧
    (let inf (v : FVal) : Prop := ∃ n, v = .inf n
     let zero (v : FVal) : Prop := ∃ n e, v = .fin n 0 e
     let finite (v : FVal) : Prop := ∃ n m e, v = .fin n m e
     let invalid : Prop := inf x ∧ zero y ∨ zero x ∧ inf y
     let neg := x.neg != y.neg
     (invalid → FormsS fma s f mr d .nan fNV) ∧
     (¬invalid → x.isNaN = true ∨ y.isNaN = true ∨ z.isNaN = true →
       FormsS fma s f mr d .nan (flagIf (x.isSNaN || y.isSNaN || z.isSNaN) fNV)) ∧
     (¬invalid → inf x ∧ y.isNaN = false ∨ x.isNaN = false ∧ inf y →
       (∀ n3, z = .inf n3 → if n3 = neg then FormsS fma s f mr d (.inf neg) 0 else FormsS fma s f mr d .nan fNV) ∧
       (finite z → FormsS fma s f mr d (.inf neg) 0)) ∧
     (∀ n3, finite x → finite y → z = .inf n3 → FormsS fma s f mr d (.inf n3) 0)) ∧
    (∀ n1 n2, x = .inf n1 → y = .inf n2 →
      (if n1 = n2 then FormsS add s f mr d (.inf n1) 0 ∧ FormsS sub s f mr d .nan fNV
       else FormsS add s f mr d .nan fNV ∧ FormsS sub s f mr d (.inf n1) 0) ∧
      FormsS mul s f mr d (.inf (n1 != n2)) 0 ∧ FormsS div s f mr d .nan fNV) ∧
    (∀ n1 n2 m2 e2, x = .inf n1 → y = .fin n2 m2 e2 →
      FormsS add s f mr d (.inf n1) 0 ∧ FormsS sub s f mr d (.inf n1) 0 ∧ FormsS div s f mr d (.inf (n1 != n2)) 0 ∧
      (if m2 = 0 then FormsS mul s f mr d .nan fNV else FormsS mul s f mr d (.inf (n1 != n2)) 0)) ∧
    (∀ n1 m1 e1 n2, x = .fin n1 m1 e1 → y = .inf n2 →
      FormsS add s f mr d (.inf n2) 0 ∧ FormsS sub s f mr d (.inf !n2) 0 ∧ FormsS div s f mr d (.rat (n1 != n2) 0 1) 0 ∧
      (if m1 = 0 then FormsS mul s f mr d .nan fNV else FormsS mul s f mr d (.inf (n1 != n2)) 0))

/-- R44, R138, R140: minima and maxima, square roots, classes and comparisons, in f32 and f64. R46, R141: conversions take the value of
the source, times 2^k, to the target in one rounding; into an integer format they round as the mode says, and saturate with NV. -/
def Obligations.FloatSelectionsRootsAndConversions : Prop :=
  (∀ (s : State) (g : Guard) (mo : BitVec 6) (mr : BitVec 8) (d a b : BitVec 5) (p : BitVec 3) (wide : Bool), s.runs true false g →
    let f := if wide then f64 else f32
    let x := s.fOperand f mo 0 a
    let y := s.fOperand f mo 1 b
    let fl := flagIf (x.isSNaN || y.isSNaN) fNV
    let least := exec (if wide then .fminD g mo d a b else .fmin g mo d a b) s
    let most := exec (if wide then .fmaxD g mo d a b else .fmax g mo d a b) s
    let root := exec (if wide then .fsqrtD g mo mr d a else .fsqrt g mo mr d a) s
    let cls := exec (if wide then .fclassD g d a else .fclass g d a) s
    let cmp (cond : BitVec 2) := exec (if wide then .fcmpD g mo cond p a b else .fcmp g mo cond p a b) s
    (x.isNaN = true → y.isNaN = true → FormsS least s f 0 d .nan fl ∧ FormsS most s f 0 d .nan fl) ∧
    (x.isNaN = true → y.isNaN = false → FormsS least s f 0 d y.exact fl ∧ FormsS most s f 0 d y.exact fl) ∧
    (x.isNaN = false → y.isNaN = true → FormsS least s f 0 d x.exact fl ∧ FormsS most s f 0 d x.exact fl) ∧
    (x.isNaN = true ∨ y.isNaN = true → ∀ cond, WritesP (cmp cond) s p (decide (cond = 3)) fl) ∧
    (∀ n1 m1 e1 n2 m2 e2, x = .fin n1 m1 e1 → y = .fin n2 m2 e2 →
      (∃ r, FormsS least s f 0 d r 0 ∧ (r = x.exact ∨ r = y.exact) ∧ r.value = some (min x.value y.value) ∧
        (x.value = 0 → y.value = 0 → r.isNeg = (n1 || n2))) ∧
      (∃ r, FormsS most s f 0 d r 0 ∧ (r = x.exact ∨ r = y.exact) ∧ r.value = some (max x.value y.value) ∧
        (x.value = 0 → y.value = 0 → r.isNeg = (n1 && n2))) ∧
      WritesP (cmp 0) s p (decide (x.value = y.value)) 0 ∧ WritesP (cmp 1) s p (decide (x.value < y.value)) 0 ∧
      WritesP (cmp 2) s p (decide (x.value ≤ y.value)) 0 ∧ WritesP (cmp 3) s p false 0) ∧
    (x.isNaN = false → y.isNaN = false →
      (x = .inf true ∨ y = .inf true → FormsS least s f 0 d (.inf true) 0) ∧ (x = .inf false → FormsS least s f 0 d y.exact 0) ∧
      (y = .inf false → FormsS least s f 0 d x.exact 0) ∧
      (x = .inf false ∨ y = .inf false → FormsS most s f 0 d (.inf false) 0) ∧ (x = .inf true → FormsS most s f 0 d y.exact 0) ∧
      (y = .inf true → FormsS most s f 0 d x.exact 0) ∧
      ((∃ n, x = .inf n ∨ y = .inf n) → WritesP (cmp 0) s p (decide (x = y)) 0 ∧
        WritesP (cmp 1) s p (decide (x ≠ y ∧ (x = .inf true ∨ y = .inf false))) 0 ∧
        WritesP (cmp 2) s p (decide (x = .inf true ∨ y = .inf false)) 0 ∧ WritesP (cmp 3) s p false 0)) ∧
    (∀ n m e, x = .fin n m e →
      (m = 0 → FormsS root s f mr d (.rat n 0 1) 0) ∧
      (m ≠ 0 → n = true → FormsS root s f mr d .nan fNV) ∧
      (m ≠ 0 → n = false → ∃ r v, FormsS root s f mr d r 0 ∧ r.value = some v ∧ 0 < v ∧ |v * v - x.value| * 2 ^ 100 ≤ x.value ∧
        ((∃ u : Rat, u * u = x.value) → v * v = x.value))) ∧
    (x = .inf false → FormsS root s f mr d (.inf false) 0) ∧
    (x = .inf true → FormsS root s f mr d .nan fNV) ∧
    (let bits := fBits f (s.S a)
      let neg := bits / f.sign % 2 = 1
      ∃ k < 10, WritesS cls s d (BitVec.ofNat 64 (2 ^ k)) 0 ∧
        match unpack f bits with
        | .nan sg => k = if sg then 8 else 9
        | .inf _ => k = if neg then 0 else 7
        | .fin _ m _ =>
          if m = 0 then k = if neg then 3 else 4
          else if m < 2 ^ f.fw then k = if neg then 2 else 5
          else k = if neg then 1 else 6)) ∧
  (∀ (s : State) (g : Guard) (mr : BitVec 8) (fr tgt : BitVec 3) (d a : BitVec 5), s.runs true false g →
    let o := exec (.fcvt g mr fr tgt d a) s
    let x := unpack (cvtFmt fr) (fBits (cvtFmt fr) (s.S a))
    (4 ≤ fr.toNat → tgt.toNat < 4 → ∃ r, FormsS o s (cvtFmt tgt) mr d r 0 ∧ r.value = some ((cvtInt fr (s.S a) : Int) : Rat)) ∧
    (fr.toNat < 4 → tgt.toNat < 4 →
      (∀ n m e, x = .fin n m e → ∃ r, FormsS o s (cvtFmt tgt) mr d r 0 ∧ r.value = some x.value ∧ r.isNeg = n) ∧
      (∀ n, x = .inf n → FormsS o s (cvtFmt tgt) mr d (.inf n) 0) ∧
      (∀ sg, x = .nan sg → FormsS o s (cvtFmt tgt) mr d .nan (flagIf sg fNV))) ∧
    (fr.toNat < 4 → 4 ≤ tgt.toNat →
      (∀ sg, x = .nan sg → WritesS o s d 0 fNV) ∧
      (∀ n, x = .inf n → WritesS o s d (BitVec.ofInt 64 (if n then (cvtRange tgt).1 else (cvtRange tgt).2)) fNV) ∧
      (∀ n m e, x = .fin n m e →
        let v : Rat := x.value * (2 : Rat) ^ mrScale mr
        ∀ q : Int, (match (mrRound mr).toNat with
          | 0 => |v - q| * 2 < 1 ∨ (|v - q| * 2 = 1 ∧ q % 2 = 0)
          | 1 => q = if v < 0 then ⌈v⌉ else ⌊v⌋
          | 2 => q = ⌊v⌋
          | _ => q = ⌈v⌉) →
        if q < (cvtRange tgt).1 then WritesS o s d (BitVec.ofInt 64 (cvtRange tgt).1) fNV
        else if (cvtRange tgt).2 < q then WritesS o s d (BitVec.ofInt 64 (cvtRange tgt).2) fNV
        else WritesS o s d (BitVec.ofInt 64 q) (if (q : Rat) = v then 0 else fNX))))

/-- R40: Round brackets the exact value. Towards zero the result is the number of the format next to it on the side of zero; to nearest,
no number of the format is nearer; an infinity to nearest comes with OF and NX. -/
def Obligations.RoundingIsToTheNextNumber : Prop :=
  ∀ (f : Fmt), f = f64 ∨ f = f32 ∨ f = h16 ∨ f = b16 ∨ f = e8m10 ∨ f = e8m15 → ∀ (neg : Bool) (num den : Nat), 0 < num → 0 < den →
    let x : Rat := (num : Rat) / den
    let v (bits : Nat) : Rat := (unpack f bits).value
    let sg := if neg then f.sign else 0
    (∃ b ≤ f.max, (roundRat f 1 neg num den).1 = sg + b ∧ v b ≤ x ∧ (b < f.max → x < v (b + 1))) ∧
    (∃ b ≤ f.inf, (roundRat f 0 neg num den).1 = sg + b ∧ (b < f.inf → ∀ c ≤ f.max, |x - v b| ≤ |x - v c|) ∧
      (b = f.inf → v f.max < x ∧ (roundRat f 0 neg num den).2 = fOF ||| fNX))

/-- R131 to R135: derivations keep TAG and SEAL and never widen; their source checks fault in order; `cget` reads a field, `cchk` tells
what CheckCap would pass but for revocation, `cmov` narrows permissions and `cnull` writes null. -/
def Obligations.CapabilityDerivationsNeverWiden : Prop :=
  ∀ (s : State) (g : Guard) (d a : BitVec 4) (b c r : BitVec 5), s.runs true false g →
    let C := s.A a
    let B := s.S b
    let off := B.toNat
    let len := (s.S c).toNat
    let same (x : CapBits) : Prop := capTag x = capTag C ∧ capSeal x = capSeal C ∧ capPerm x = capPerm C
    let within (x : CapBits) : Prop := capBase C ≤ capBase x ∧ capBase x + capLen x ≤ capBase C + capLen C
    (C = 0 → Traps (exec (.cbound g d a b c) s) s 6 0 (a.setWidth 64) s.hand.pc ∧
      Traps (exec (.cadd g d a b) s) s 6 0 (a.setWidth 64) s.hand.pc) ∧
    (C ≠ 0 → capSeal C = true → Traps (exec (.cbound g d a b c) s) s 8 (BitVec.ofNat 64 (capBase C)) (a.setWidth 64) s.hand.pc ∧
      Traps (exec (.cadd g d a b) s) s 8 (BitVec.ofNat 64 (capBase C)) (a.setWidth 64) s.hand.pc) ∧
    (C ≠ 0 → capSeal C = false →
      (off ≤ capLen C ∧ len ≤ capLen C - off ∧ capBase C + off < 2 ^ 57 → ∃ x, WritesA (exec (.cbound g d a b c) s) s d x ∧ same x ∧
        capBase x = capBase C + off ∧ capLen x = len ∧ within x) ∧
      (¬(off ≤ capLen C ∧ len ≤ capLen C - off ∧ capBase C + off < 2 ^ 57) →
        Traps (exec (.cbound g d a b c) s) s 7 (BitVec.ofNat 64 (capBase C)) (a.setWidth 64) s.hand.pc) ∧
      (off ≤ capLen C ∧ capBase C + off < 2 ^ 57 → ∃ x, WritesA (exec (.cadd g d a b) s) s d x ∧ same x ∧
        capBase x = capBase C + off ∧ capLen x = capLen C - off ∧ within x) ∧
      (¬(off ≤ capLen C ∧ capBase C + off < 2 ^ 57) →
        Traps (exec (.cadd g d a b) s) s 7 (BitVec.ofNat 64 (capBase C)) (a.setWidth 64) s.hand.pc)) ∧
    (∃ x, WritesA (exec (.cmov g d a b) s) s d x ∧ capTag x = capTag C ∧ capSeal x = capSeal C ∧ capBase x = capBase C ∧
      capLen x = capLen C ∧ capPerm x = capPerm C &&& ~~~(B.setWidth 6)) ∧
    WritesA (exec (.cnull g d) s) s d 0 ∧
    (WritesS (exec (.cget g 0 r a) s) s r (BitVec.ofNat 64 (capBase C)) 0 ∧ WritesS (exec (.cget g 1 r a) s) s r (BitVec.ofNat 64 (capLen C)) 0 ∧
      WritesS (exec (.cget g 2 r a) s) s r ((C.extractLsb' 97 7).setWidth 64) 0 ∧
      WritesS (exec (.cget g 3 r a) s) s r (BitVec.ofNat 64 (capTag C)) 0 ∧ WritesS (exec (.cget g 4 r a) s) s r (C.extractLsb' 0 64) 0 ∧
      WritesS (exec (.cget g 5 r a) s) s r (C.extractLsb' 64 64) 0) ∧
    (∀ (ext p : BitVec 3) (info : Word), ∃ v, WritesP (exec (.cchk g ext p a b c) s) s p v 0 ∧
      (v = true ↔ (∃ va, s.checkCap C B.toInt len (ext.setWidth 6) info = .ok va) ∨
        ∃ addr, s.checkCap C B.toInt len (ext.setWidth 6) info = .error ⟨9, addr, info⟩))

/-! ### Meshes (R59 to R67, R226 to R252) -/

/-- R17, R229, R230, R232: `mopen` and `mrefresh` bind a slot to the control block they read when its checks pass, else fault MESHFMT;
`mround` writes the next round to memory, snapshot and s_d; `mreserve` reserves or writes 0; an unbound slot faults MESHFMT. The tile keeps
the line of the capability's tag that it has checked (R388). -/
def Obligations.MeshSlotsAndRounds : Prop :=
  ∀ (s : State) (g : Guard) (m : BitVec 2) (a : BitVec 4) (d b : BitVec 5), s.runs false false g →
    let bound (o : Out) (cap : CapBits) (info : Word) : Prop :=
      ∀ i va, s.ahead.tagTurn (capTag cap) = .ok i → i.checkCap cap 0 256 1 info = .ok va →
        let v := i.fillRev (capTag cap)
        (va % 64 ≠ 0 → o = .next (v.deliver ⟨3, BitVec.ofNat 64 va, 0⟩ s.hand.pc)) ∧
        (va % 64 = 0 → ∀ u w x y, v.niRead (BitVec.ofNat 64 va) 128 1 false .plain = .ok (u, x) →
          u.niRead (BitVec.ofNat 64 (va + 128)) 128 1 false .plain = .ok (w, y) →
          let blk := bytesWrite [] 0 256 (x + y * 256 ^ 128)
          (mcbOk blk = true → o = .next (w.setSlot m ⟨blk, cap⟩)) ∧
          (mcbOk blk = false → o = .next (w.deliver ⟨15, 0, 0⟩ s.hand.pc)))
    bound (exec (.mopen g m a) s) (s.A a) (a.setWidth 64) ∧
    (s.slot m = none →
      Traps (exec (.mrefresh g m) s) s 15 0 0 s.hand.pc ∧ Traps (exec (.mround g d m) s) s 15 0 0 s.hand.pc ∧
      Traps (exec (.mreserve g d m b) s) s 15 0 0 s.hand.pc) ∧
    (∀ x, s.slot m = some x →
      bound (exec (.mrefresh g m) s) x.cap 16 ∧
      (∀ i va u ps, s.ahead.tagTurn (capTag x.cap) = .ok i → i.checkCap x.cap 0 8 0x22 16 = .ok va →
        (i.fillRev (capTag x.cap)).niAccess (BitVec.ofNat 64 va) 128 1 true .update .bank = .ok (u, ps) →
        let blk := bytesWrite [] 0 128 (u.readParts ps)
        ∀ w r, (mcbRound blk ≠ 255 ∧ w = u ∧ r = mcbRound blk + 1 ∨
            mcbRound blk = 255 ∧ u.meshRun m (mmWriteAll .bank 0x22 (clearMarkers x.mcb (mcbNext blk))) = .ok (w, ()) ∧ r = 1) →
          ∃ b', exec (.mround g d m) s =
              .next ((((w.updated ps .bank).putByte ps 7 r).setSlot m { x with mcb := b' }).setS d (BitVec.ofNat 64 r)) ∧
            b' = (meshKinds x.mcb).foldl (fun y k => bytesWrite y (0x3D + 16 * k) 3 (mcbNext blk k)) (bytesWrite x.mcb 7 1 r)) ∧
      (mcbRound x.mcb = 0 ∨ 0xFFFFFF < (s.S b).toNat → Traps (exec (.mreserve g d m b) s) s 15 0 0 s.hand.pc) ∧
      (mcbRound x.mcb ≠ 0 → (s.S b).toNat ≤ 0xFFFFFF → (∀ k ∈ meshKinds x.mcb, mcbNext x.mcb k = 0) →
        (∃ k ∈ meshKinds x.mcb, mcbCap x.mcb k < (s.S b).toNat * quota (mcbDim x.mcb) k) → WritesS (exec (.mreserve g d m b) s) s d 0 0) ∧
      (∀ u ok, s.ahead.meshRun m (reserve x.cap (s.S b).toNat) = .ok (u, ok) →
        exec (.mreserve g d m b) s = .next (u.setS d (if ok then 1 else 0))))

/-- R60, R63, R64, R233, R234, R236: `mvalid`, `mget`, `mfld` and `mfst` on live, stale and absent elements. The line that `mfst` writes
is neither a page-table line nor a revocation line that its own reads used (R381, R388). That the range, the field and the kind are checked
before the handle is resolved is the model's choice, log entry 39. -/
def Obligations.MeshElementsAreReadAndWritten : Prop :=
  ∀ (s : State) (g : Guard) (m : BitVec 2) (d b : BitVec 5) (p : BitVec 3) (raw : Bool) (first fid : BitVec 4) (cnt comp : BitVec 3) (x : Slot),
    s.runs false false g → s.slot m = some x →
    let h := (s.S b).setWidth 32
    let k := hKind h
    let i := hIdx h
    let n := cnt.toNat + 1
    let e := mcbField x.mcb fid.toNat
    let fmt := fldFmt e
    let off := fldOff e + i * fmtSize fmt + comp.toNat * fmtComp fmt
    (LiveElem s.ahead x.mcb k h → ∃ t, exec (.mvalid g p m b) s = .next t ∧ Quiet (s.ahead.setP p true) t) ∧
    (StaleElem s.ahead x.mcb k h → ∃ t, exec (.mvalid g p m b) s = .next t ∧ Quiet (s.ahead.setP p false) t) ∧
    (d.toNat + cnt.toNat ≤ 31 → h = 0xFFFFFFFF ∨ (first.toNat + n ≤ (if k < 2 then 4 else 12) ∧ (k = 3 → mcbDim x.mcb = 3)) →
      (LiveElem s.ahead x.mcb k h → ∀ w : Nat → W32, (∀ j < n, RecReads s.ahead x.mcb k i (first.toNat + j) (w j)) →
        let v (j : Nat) : W32 := if k = 1 ∧ raw = false ∧ first.toNat + j < 2 ∧ w j ≠ 0xFFFFFFFF then w j &&& 0x3FFFFFFF else w j
        ∃ t, exec (.mget g raw first cnt d m b) s = .next t ∧
          Quiet ((s.ahead.setSeq d.toNat ((List.range n).map fun j => (v j).setWidth 64)).setP g.p true) t ∧
          (∀ j < n, d.toNat + j ≠ 0 → t.S (BitVec.ofNat 5 (d.toNat + j)) = (v j).setWidth 64)) ∧
      (StaleElem s.ahead x.mcb k h → ∃ t, exec (.mget g raw first cnt d m b) s = .next t ∧
        Quiet ((s.ahead.setSeq d.toNat (List.replicate n 0xFFFFFFFF)).setP g.p false) t)) ∧
    (d.toNat + cnt.toNat ≤ 31 → h ≠ 0xFFFFFFFF → (if k < 2 then 4 else 12) < first.toNat + n →
      Traps (exec (.mget g raw first cnt d m b) s) s 15 0 0 s.hand.pc) ∧
    (fldValid e = true → comp.toNat < fmtCount fmt → (fldKind e = 3 → mcbDim x.mcb = 3) →
      (LiveElem s.ahead x.mcb (fldKind e) h →
        (∀ v, CapReads s.ahead (mcbFarea x.mcb) off (fmtComp fmt) v →
          ∃ t, exec (.mfld g fid comp d m b) s = .next t ∧
            Quiet ((s.ahead.setS d (if fmt = 5 then BitVec.ofNat 64 (widen h16 f32 v) else if fmt = 6 then BitVec.ofNat 64 (widen b16 f32 v)
              else if fmt = 7 then (BitVec.ofNat 32 v).signExtend 64 else BitVec.ofNat 64 v)).setP g.p true) t) ∧
        (∀ va pa, TagFree s (capTag (mcbFarea x.mcb)) → s.ahead.checkCap (mcbFarea x.mcb) off (fmtComp fmt) 2 16 = .ok va →
          Steady s.ahead va → HbmReady s.ahead (BitVec.ofNat 64 va) (fmtComp fmt) .write pa →
          (∀ q ∈ s.ahead.myLines (capBase (mcbPool x.mcb) + mcbStoff x.mcb k + 8 * mcbCap x.mcb k + i), q ≠ pa / 128 * 128) →
          (∀ c ∈ [mcbPool x.mcb, mcbFarea x.mcb], ∀ q o, s.tagLine (capTag c) = some (q, o) → q ≠ pa / 128 * 128) →
          let u := unpack f32 ((s.S d).toNat % 2 ^ 32)
          let r : Nat × FFlags := if fmt = 4 then ((s.S d).toNat, 0) else if fmt = 5 then formResult h16 0 u.exact (flagIf u.isSNaN fNV)
            else if fmt = 6 then formResult b16 0 u.exact (flagIf u.isSNaN fNV) else ((s.S d).toNat % 2 ^ 32, 0)
          ∃ t, exec (.mfst g fid comp d m b) s = .next t ∧ Stores t ((s.ahead.orFlags r.2).setP g.p true) pa (fmtComp fmt) r.1)) ∧
      (StaleElem s.ahead x.mcb (fldKind e) h →
        (∃ t, exec (.mfld g fid comp d m b) s = .next t ∧ Quiet ((s.ahead.setS d 0).setP g.p false) t) ∧
        (∃ t, exec (.mfst g fid comp d m b) s = .next t ∧ Quiet (s.ahead.setP g.p false) t))) ∧
    (fldValid e = false ∨ fmtCount fmt ≤ comp.toNat ∨ (h ≠ 0xFFFFFFFF ∧ fldKind e ≠ k) ∨ fldKind e = 3 ∧ mcbDim x.mcb ≠ 3 →
      Traps (exec (.mfld g fid comp d m b) s) s 15 0 0 s.hand.pc ∧ Traps (exec (.mfst g fid comp d m b) s) s 15 0 0 s.hand.pc)

/-- R235, R236: `mstar` opens a ring strand over the list it gathers, cut at 64, and `medge` finds an edge; in dimension 2 the faces of an
edge are its two faces and the neighbours of a face its three. That the stride of the ring strand is 0, and that `medge` with a
stale first handle does not look at the second, are the model's choice, log entries 22 and 105. -/
def Obligations.MeshListsAndEdges : Prop :=
  ∀ (s : State) (g : Guard) (m : BitVec 2) (hd : BitVec 4) (kind : BitVec 3) (d b c : BitVec 5) (x : Slot),
    s.runs false false g → s.slot m = some x →
    let h := (s.S b).setWidth 32
    let ring (l : List W32) : Strand := ⟨0, 0, BitVec.ofNat 32 l.length, 0, 2, false, true, l⟩
    (∀ u l, s.ahead.meshRun m (starList kind.toNat h) = .ok (u, some l) →
      exec (.mstar g kind hd m b) s = .next ((u.setH hd (some (ring (l.take 64)))).setP g.p (decide (l.length ≤ 64)))) ∧
    (∀ u, s.ahead.meshRun m (starList kind.toNat h) = .ok (u, none) →
      exec (.mstar g kind hd m b) s = .next ((u.setH hd (some (ring []))).setP g.p false)) ∧
    (mcbDim x.mcb = 2 → LiveElem s.ahead x.mcb 1 h → ∀ f0 f1, RecReads s.ahead x.mcb 1 (hIdx h) 2 f0 → RecReads s.ahead x.mcb 1 (hIdx h) 3 f1 →
      ∃ t, exec (.mstar g 1 hd m b) s = .next t ∧ Quiet ((s.ahead.setH hd (some (ring ([f0, f1].filter (· ≠ 0xFFFFFFFF))))).setP g.p true) t) ∧
    (mcbDim x.mcb = 2 → LiveElem s.ahead x.mcb 2 h → ∀ n0 n1 n2, RecReads s.ahead x.mcb 2 (hIdx h) 6 n0 →
      RecReads s.ahead x.mcb 2 (hIdx h) 7 n1 → RecReads s.ahead x.mcb 2 (hIdx h) 8 n2 →
      ∃ t, exec (.mstar g 4 hd m b) s = .next t ∧
        Quiet ((s.ahead.setH hd (some (ring ([n0, n1, n2].filter (· ≠ 0xFFFFFFFF))))).setP g.p true) t) ∧
    (4 < kind.toNat ∨ kind = 2 ∧ mcbDim x.mcb ≠ 3 → Traps (exec (.mstar g kind hd m b) s) s 15 0 0 s.hand.pc) ∧
    (∀ u e, s.ahead.meshRun m (medgeOf h ((s.S c).setWidth 32)) = .ok (u, e) →
      exec (.medge g d m b c) s = .next ((u.setS d (e.setWidth 64)).setP g.p (decide (e ≠ 0xFFFFFFFF)))) ∧
    (h = 0xFFFFFFFF → exec (.medge g d m b c) s = .next ((s.ahead.setS d 0xFFFFFFFF).setP g.p false))

/-- R227, R237, R238, R245: every topology instruction checks its key word, round and parameter, then runs the steps of R238; it writes
the status and the result handle to s_d and the outcome to its predicate. A target that names nothing is STALE; a result handle comes with
DONE only, and never with a claim. A parameter of `msplit` that is not between 0 and 1, or a weight of `mrefine` that is not positive and
finite, faults MESHFMT; weights that cannot be read fault as a local read of them. -/
def Obligations.TopologyInstructions : Prop :=
  ∀ (s : State) (g : Guard) (m : BitVec 2) (d a b c : BitVec 5) (v1 : Bool) (x : Slot), s.runs false false g → s.slot m = some x →
    let kw := s.S c
    let h := (s.S a).setWidth 32
    let n := if mcbDim x.mcb = 3 then 4 else 3
    let between (bits : Nat) (top : Option Rat) : Prop := ∃ neg m e, unpack f32 bits = .fin neg m e ∧ 0 < (unpack f32 bits).value ∧
      ∀ q, top = some q → (unpack f32 bits).value < q
    (kw.toNat < 2 ^ 56 → mcbRound x.mcb ≠ 0 →
      (¬between ((s.S b).toNat % 2 ^ 32) (some 1) →
        ∀ i ∈ [Instr.msplit g m d a b c, .msplitC g m d a b c, .msplitX g m d a b c], Traps (exec i s) s 15 0 0 s.hand.pc) ∧
      ∀ i ∈ [Instr.mrefine g m d a b c, .mrefineC g m d a b c, .mrefineX g m d a b c],
        (∀ code, RangeBad s (s.S b) (4 * n) 4 code → Traps (exec i s) s code (s.S b) 0 s.hand.pc) ∧
        (RawReady s false (s.S b) (4 * n) 4 →
          (∃ j < n, ¬between (bytesRead s.mem.bytes (spadPa s.hand.core ((s.S b).toNat + 4 * j)) 4) none) →
          Traps (exec i s) s 15 0 0 s.hand.pc)) ∧
    ∀ e ∈ [(Instr.msplit g m d a b c, TopoForm.plain, splitParam b), (.msplitC g m d a b c, .claim, splitParam b),
        (.msplitX g m d a b c, .commit, splitParam b), (.mcoll g m v1 d a c, .plain, fun _ => .ok (.coll v1)),
        (.mcollC g m v1 d a c, .claim, fun _ => .ok (.coll v1)), (.mcollX g m v1 d a c, .commit, fun _ => .ok (.coll v1)),
        (.mflip g m d a c, .plain, fun _ => .ok .flip), (.mflipC g m d a c, .claim, fun _ => .ok .flip),
        (.mflipX g m d a c, .commit, fun _ => .ok .flip), (.mrefine g m d a b c, .plain, refineParam m b),
        (.mrefineC g m d a b c, .claim, refineParam m b), (.mrefineX g m d a b c, .commit, refineParam m b)],
      (2 ^ 56 ≤ kw.toNat ∨ mcbRound x.mcb = 0 → Traps (exec e.1 s) s 15 0 0 s.hand.pc) ∧
      (kw.toNat < 2 ^ 56 → mcbRound x.mcb ≠ 0 → ∀ op, e.2.2 s.ahead = .ok op →
        (∀ u st r fl, s.ahead.meshRun m (do
            let q ← topoWork e.2.1 op h kw
            let w ← get
            return (q, w.fl)) = .ok (u, (st, r), fl) →
          exec e.1 s = .next (((u.orFlags fl).setS d (r ++ BitVec.ofNat 32 st)).setP g.p (st == 0)) ∧
          st ≤ 3 ∧ (st ≠ 0 ∨ e.2.1 = .claim → r = 0)) ∧
        (h = 0xFFFFFFFF → exec e.1 s = .next ((s.ahead.setS d 2).setP g.p false)))

/-! ### Control registers, waits, `launch` and `cancel` (R12, R19 to R27, R255 to R260, R345, R353) -/

/-- R19 to R27, R37, R42, R47, R164, R255, R358, R370: `mfc` reads a control register and `mtc` writes its writable fields, each register
of the core in a mode that may; every other register, and memory, keeps its value; either waits where the register is not ready. -/
def Obligations.ControlRegistersAreReadAndWritten : Prop :=
  ∀ (s : State) (g : Guard) (d : BitVec 5) (cr : BitVec 8), s.runs true false g → crKnown s.isAvlyn cr = true →
    let c := s.me
    let x := s.my
    let va : Word := 0x01FFFFFFFFFFFFFE
    let ones := BitVec.allOnes 64
    (s.inSys = true ∨ crSystem cr false = false →
      (s.crWaits cr false = true → Waits (exec (.mfc g d cr) s) s (.register cr false)) ∧
      (s.crWaits cr false = false → ∀ e ∈ [(0, c.shape.setWidth 64), (1, if c.zero then 1 else 0), (2, c.weight.setWidth 64), (3, c.scale),
          (4, (if c.half then 1 else 0) + (if c.nmono0 then 4 else 0) + (if c.nmono1 then 8 else 0)), (5, x.fflags.setWidth 64), (6, c.cfg),
          (8, x.epc), (9, x.ecause), (10, x.eaddr), (11, x.einfo), (12, c.tvec), (13, x.uvec), (14, x.uframe),
          (16, BitVec.ofNat 64 (s.hand.core * 65536 + (if s.inSys then 256 else 0) + s.hand.ctx)),
          (17, BitVec.ofNat 64 (s.device.toNat * 65536 + s.partNo)), (18, s.time), (19, 0#14 ++ c.sphi ++ (0#14 ++ c.splo)), (20, c.svcpart)],
        cr = BitVec.ofNat 8 e.1 → WritesS (exec (.mfc g d cr) s) s d e.2 0)) ∧
    (s.inSys = true ∨ crSystem cr true = false → crReadOnly cr = false →
      (s.crWaits cr true = true → Waits (exec (.mtc g d cr) s) s (.register cr true)) ∧
      (s.crWaits cr true = false → ∀ e ∈ [(0, 0xFF#64), (1, 1), (2, 0xF), (3, ones), (4, 1), (5, 0x3F), (8, ones), (9, 0x1FF), (10, ones), (11, ones),
          (12, va), (13, va), (14, 0xFFFC1), (19, 0x0003FFFF0003FFFF), (20, 0x10F)], cr = BitVec.ofNat 8 e.1 →
        ∃ t, exec (.mtc g d cr) s = .next t ∧
          t.crRead cr = (s.S d &&& e.2) ||| (if cr = 4 then s.crRead 4 &&& ~~~1 else 0) ∧
          (∀ q, q ≠ cr → ¬(q = 17 ∧ cr = 20) → t.crRead q = s.crRead q) ∧
          (∀ r, t.S r = s.S r) ∧ (∀ r, t.P r = s.P r) ∧ (∀ r, t.A r = s.A r) ∧ (∀ r, t.H r = s.H r) ∧ t.my.pc = s.nextPc ∧
          SameMemory s t ∧ (∀ n, n ≠ s.hand.ctx → t.me.ctxAt n = s.me.ctxAt n) ∧ ∀ k, k ≠ s.hand.core → t.coreAt k = s.coreAt k))

/-- R12, R256, R257, R260: `sleep` ends at a full word, a deadline or a wake-up and else waits; `wake` sets a wake-up after a release;
`rdcnt` reads a counter; WAIT_CONDITION_MET and SLEEP_DEADLINE make a waiting context ready. A release waits for what the context queued and
for its core's stores, and has the mirror hold every dirty line (R417). That a `wake` to a core outside the partition, whatever its context
number, is a violation is the model's choice, log entries 35 and 103. -/
def Obligations.SleepWakeAndCounters : Prop :=
  ∀ (s : State) (g : Guard) (p : BitVec 3) (d a b : BitVec 5),
    let dl := s.S b
    let passed : Prop := dl ≠ 0 ∧ dl.toNat ≤ s.time.toNat
    let word := spadPa s.hand.core (s.S a).toNat
    let slept (v : Bool) : State := (s.ahead.modMy fun c => { c with wake := false }).setP p v
    let k := ((s.S a).extractLsb' 16 13).toNat
    let n := ((s.S a).extractLsb' 0 4).toNat
    let u := s.ahead.mirrorAll
    (s.runs true false g →
      (s.S a = BitVec.allOnes 64 →
        (passed ∨ s.my.wake = true → exec (.sleep g p a b) s = .next (slept false)) ∧
        (¬passed → s.my.wake = false → Waits (exec (.sleep g p a b) s) s (.sleep none dl))) ∧
      (s.isAvlyn = false → RawOk s false (s.S a) 4 4 →
        (word ∈ s.mem.full → exec (.sleep g p a b) s = .next (slept true)) ∧
        (word ∉ s.mem.full → passed ∨ s.my.wake = true → exec (.sleep g p a b) s = .next (slept false)) ∧
        (word ∉ s.mem.full → ¬passed → s.my.wake = false → Waits (exec (.sleep g p a b) s) s (.sleep (some word) dl))) ∧
      (4640 ≤ k → JumpsTo (exec (.wake g a) s) s s.nextPc) ∧
      (k < 4640 → s.inPartition k = false → exec (.wake g a) s = .next s.ahead.freezeMaster) ∧
      (k < 4640 → s.inPartition k = true → s.queueQuiet s.hand.core s.hand.ctx = false → Waits (exec (.wake g a) s) s .queued) ∧
      (k < 4640 → s.inPartition k = true → s.queueQuiet s.hand.core s.hand.ctx = true →
        (u.storesPerformed = false →
          exec (.wake g a) s = .next (u.modMy fun x => { x with pc := s.hand.pc, st := .waiting .performed })) ∧
        (u.storesPerformed = true → (10 < n ∨ 4608 ≤ k ∧ n ≠ 0 ∨ k < 4608 ∧ ((s.coreAt k).ctxAt n).st = .free) → exec (.wake g a) s = .next u) ∧
        (u.storesPerformed = true → n ≤ 10 → (k < 4608 → ((s.coreAt k).ctxAt n).st ≠ .free) → (4608 ≤ k → n = 0) →
          exec (.wake g a) s = .next (u.modCtx k n fun x => { x with wake := true }))) ∧
      WritesS (exec (.rdcnt g d 0) s) s d s.me.cycles 0 ∧ WritesS (exec (.rdcnt g d 1) s) s d s.my.issued 0 ∧
      WritesS (exec (.rdcnt g d 2) s) s d s.my.waited 0 ∧ WritesS (exec (.rdcnt g d 3) s) s d s.me.vqbusy 0) ∧
    (∀ (core ctx : Nat) (c : Cond), ((s.coreAt core).ctxAt ctx).st = .waiting c →
      exec (.waitConditionMet core ctx) s = .next (if s.condMet core ctx c then s.modCtx core ctx fun x => { x with st := .ready, inHand := c.issued } else s) ∧
      (∀ w dl, c = .sleep w dl → exec (.sleepDeadline core ctx) s =
        .next (if dl ≠ 0 ∧ dl.toNat ≤ s.time.toNat then s.modCtx core ctx fun x => { x with st := .ready, inHand := c.issued } else s)))

/-- R258, R259, R344, R345, R353, R403: `launch` and APPEND put a record's address at the tail of a queue, whose lines are free for a write, or
count a drop where it is full and raise event class 3; `cancel` sets CANCELLED of a counter that has not finished, whose line is free for a write and no page-table line of
the address, and tells the distributor. That `launch` checks the first 64 bytes of its record is the model's choice, log entry 104. -/
def Obligations.LaunchesAndCancels : Prop :=
  ∀ (s : State) (g : Guard) (p : BitVec 3) (a b : BitVec 5) (pa hdr slot : Nat), s.runs true false g →
    let va := s.S a
    let prio := (s.S b).toNat
    let illegal (o : Out) : Prop := Traps o s 1 0 (s.hand.hw.setWidth 64) s.hand.pc
    let rd (n o : Nat) : Nat := bytesRead s.mem.bytes (hdr + o) n
    let tail := rd 4 8
    let log := rd 1 16 % 32
    let room : Prop := 6 ≤ log ∧ log ≤ 16 ∧ rd 8 24 % 128 = 0 ∧ rd 8 24 < 2 ^ 57 ∧ (tail + 2 ^ 32 - rd 4 12) % 2 ^ 32 ≠ 2 ^ log
    let appends (o : Out) (u : State) (q prio v : Nat) (ok : State → Bool → State) : Prop :=
      u.queueAt q prio = (u, some hdr) → u.dir.length < 0x8000 → LinesFree u hdr 32 →
      (room → u.translate .distributor q (rd 8 24 + 8 * (tail % 2 ^ log)) .write = .ok (u, ⟨0, slot⟩) → slot < hbmSize →
        u.mem.poisoned true slot 8 = false → LinesFree u slot 8 → (slot + 8 ≤ hdr ∨ hdr + 32 ≤ slot) →
        ∃ t, o = .next (ok t true) ∧ t = { u with
            mem := { u.mem with bytes := t.mem.bytes }, dir := t.dir, bridge := t.bridge, telemetry := t.telemetry, caches := t.caches } ∧
          (∀ i < 8, bytesGet t.mem.bytes (slot + i) = BitVec.ofNat 8 (v / 256 ^ i)) ∧
          (∀ i < 4, bytesGet t.mem.bytes (hdr + 8 + i) = BitVec.ofNat 8 ((tail + 1) / 256 ^ i)) ∧
          ∀ x, ¬(slot ≤ x ∧ x < slot + 8) → ¬(hdr + 8 ≤ x ∧ x < hdr + 12) → bytesGet t.mem.bytes x = bytesGet u.mem.bytes x) ∧
      (¬room →
        ∃ t, o = .next (ok t false) ∧ t = { u.raiseEvent q 3 with
            mem := { u.mem with bytes := t.mem.bytes }, dir := t.dir, bridge := t.bridge, telemetry := t.telemetry, caches := t.caches } ∧
          (∀ i < 4, bytesGet t.mem.bytes (hdr + 20 + i) = BitVec.ofNat 8 ((rd 4 20 + 1) / 256 ^ i)) ∧
          ∀ x, ¬(hdr + 20 ≤ x ∧ x < hdr + 24) → bytesGet t.mem.bytes x = bytesGet u.mem.bytes x)
    (24 ≤ prio → illegal (exec (.launch g p a b) s)) ∧
    (prio < 24 → s.physMode = false → va.toNat < 2 ^ 57 → inAperture va.toNat = false → va.toNat % 64 ≠ 0 →
      Traps (exec (.launch g p a b) s) s 3 va 0 s.hand.pc) ∧
    (prio < 24 → s.physMode = false → va.toNat % 64 = 0 → HbmReady s.ahead va 64 .read pa → s.queueQuiet s.hand.core s.hand.ctx = true →
      s.ahead.storesPerformed = true →
      let u := s.ahead.mirrorAll
      (hdr % 128 = 0 → u.appendLine hdr = some s.partNo →
        appends (exec (.launch g p a b) s) u s.partNo prio va.toNat (fun t ok => t.setP p ok)) ∧
      (u.queueAt s.partNo prio = (u, none) →
        exec (.launch g p a b) s = .next (((u.report (.drop s.partNo)).raiseEvent s.partNo 3).setP p false))) ∧
    (∀ (part q : Nat) (v : Word), v.toNat < 2 ^ 57 → appends (exec (.append part q 8 v) s) s part q v.toNat (fun t _ => t)) ∧
    (∀ (part q size : Nat) (v : Word), s.queueHeader part q = none → exec (.append part q size v) s = .next s) ∧
    (s.physMode = true → illegal (exec (.cancel g a) s)) ∧
    (s.physMode = false → va.toNat % 8 = 0 → HbmReady s.ahead va 8 .read pa →
      let x := bytesGet s.mem.bytes (pa + 8)
      (va.toNat % 32 ≠ 0 ∨ x.getLsbD 0 = true → ∃ t, exec (.cancel g a) s = .next t ∧ Quiet s.ahead t) ∧
      (va.toNat % 32 = 0 → x.getLsbD 0 = false → (∀ q ∈ s.ahead.myLines va.toNat, q ≠ pa / 128 * 128) →
        (∀ e ∈ s.dir, e.line = pa / 128 * 128 → e.awaited = [] ∧ ∀ c ∈ e.others none, slow c = false) →
        ∃ t, exec (.cancel g a) s = .next t ∧ t = { s.ahead with
            mem := { s.mem with bytes := t.mem.bytes }
            dir := t.dir
            bridge := t.bridge
            telemetry := t.telemetry
            caches := t.caches
            agenda := s.agenda ++ [.cancellation s.partNo va.toNat] } ∧
          bytesGet t.mem.bytes (pa + 8) = x ||| 4 ∧ ∀ y, y ≠ pa + 8 → bytesGet t.mem.bytes y = bytesGet s.mem.bytes y))

/-! ### The launch distributor and units (R28, R29, R338 to R353, R365 to R367) -/

/-- R342, R343, R346, R349, R353: a dequeue moves HEAD on, then discards an unreadable record, completes an invalid or cancelled one, and
tests the predecessors of any other and watches their counters; the predecessor test, made again when they change, the age limit and a
cancellation act on held launches as R343, R349 and R353 say. The order of the checks of a record, and that an entry or record which cannot be
read is discarded with a drop counted, are the model's choice, log entry 48; so is that the distributor first asks for the lines that it comes
too early for, and acts when it comes again, log entry 76. -/
def Obligations.LaunchesAreDequeuedAndTested : Prop :=
  ∀ (s : State) (p : Nat),
    (let y := s.watchQueues p
     let acts (o : Out) (x : State) : Prop := o = .next (s.distActs x) ∧ (s.blockers x = [] → s.gains x = [] → o = .next x)
     (y.canDequeue p = false → acts (exec (.launchDequeue p) s) y) ∧
     (∀ prio hdr head log ring, y.canDequeue p = true → y.topQueue p = some (prio, hdr, head, log, ring) →
      let u := y.distWrite (hdr + 12) 4 (head + 1)
      let slot := u.distAt p (ring + 8 * (head % 2 ^ log)) 8 .read
      let discard (x : State) : State := (x.lostCounter p).countDrop (some .distributor) hdr
      (slot.2 = none → acts (exec (.launchDequeue p) s) (discard slot.1)) ∧
      (∀ e, slot.2 = some e →
        let va := bytesRead slot.1.mem.bytes e 8
        let rec1 := slot.1.readRecord p va
        (rec1.2 = none → acts (exec (.launchDequeue p) s) (discard rec1.1)) ∧
        (∀ v, rec1.2 = some v →
          let l := recLaunch s.nextId p prio va v
          let w := ({ rec1.1.distShares (lineKey ⟨0, hdr⟩) with launches := s.launches ++ [l], nextId := s.nextId + 1 } : State).initCounter l
          let cancelled := (w.chain p 4 (va + 32)).any w.ctrCancelled
          acts (exec (.launchDequeue p) s)
            (if recValid prio v = false then w.completeEmpty l 4 else if cancelled then w.completeEmpty l 2
             else (w.testLaunch s.nextId).watchLaunch s.nextId))))) ∧
    (∀ l : Launch, s.launchAt l.id = some l → l.st = .held →
      (s.testPreds l = .eligible → l.eligible = none →
        exec (.predecessorTest l.id) s =
          .next (s.distActs ((s.modLaunch l.id fun x => { x with eligible := some s.time.toNat }).watchLaunch l.id))) ∧
      (s.testPreds l = .eligible → l.eligible ≠ none → exec (.predecessorTest l.id) s = .next (s.distActs (s.watchLaunch l.id))) ∧
      (l.preds = [] → s.testPreds l = .eligible) ∧
      (s.testPreds l = .waits →
        exec (.predecessorTest l.id) s =
          .next (s.distActs ((s.modLaunch l.id fun x => { x with eligible := none, aged := false }).watchLaunch l.id))) ∧
      (s.watchLaunch l.id).mem = s.mem ∧ (s.watchLaunch l.id).launches = s.launches ∧
      (s.testPreds l = .failed → exec (.predecessorTest l.id) s = .next (s.distActs (s.completeEmpty l 32))) ∧
      (s.testPreds l = .unreadable → exec (.predecessorTest l.id) s = .next (s.distActs ((s.lostCounter l.part).completeEmpty l 4)))) ∧
    (∀ (l : Launch) (n t : Nat) (e : Partition), s.launchAt l.id = some l → l.st = .held → l.aged = false → l.eligible = some t →
      s.partEntry l.part = some e →
      exec (.ageLimitExpiry l.id) s = .next (if e.ageLimit < s.time.toNat - t then s.modLaunch l.id fun x => { x with aged := true } else s) ∧
      (n ≠ l.id → ∀ u, exec (.ageLimitExpiry l.id) s = .next u → u.launchAt n = s.launchAt n)) ∧
    (∀ (ctr pa : Nat) (rest : List Nat) (l : Launch), s.chain p 1 ctr = pa :: rest → s.launches = [l] → l.part = p → l.cancelled = false →
      pa ∈ s.chain p 4 l.ctr →
      (l.st = .held → s.blockers (s.completeEmpty l 2) = [] → s.gains (s.completeEmpty l 2) = [] →
        exec (.cancellation p ctr) s = .next (s.completeEmpty l 2)) ∧
      (l.st = .placed → ∃ t, exec (.cancellation p ctr) s = .next t ∧
        t.launches = [{ l with
          cancelled := true
          units := l.units.map fun u => if u.st = .pending then { u with st := .ended } else u }] ∧
        t.tree = s.tree ++ List.replicate (l.units.filter fun u => u.st == .pending).length ⟨l.id, 576, 2, 1, 0⟩ ∧ SameMemory s t)) ∧
    (∀ ctr, s.chain p 1 ctr = [] → exec (.cancellation p ctr) s = .next s)

/-- R28, R347, R348, R350: PLACEMENT carries out the plan: each unit starts on its core in the state of R28, with the registers of the
environment block and, where STACKSZ is not 0, a READ and WRITE capability of the lowest free stack slots, in the order of the units; tiles are
woken, or a restore is begun; without a plan nothing changes but the report of a block that has become invalid. A tile without units is gated
once it has been idle for the idle time of an elastic partition; a woken one has its full idle time. No host and no cache that must drain first
holds the scratchpads or the block. -/
def Obligations.PlacementStartsUnits : Prop :=
  ∀ (s : State) (p : Nat),
    (∀ (l : Launch) (env : Env) (e : Partition) (us : List (Nat × Nat)), s.plan p = some (.start l.id us) → s.env p = some env →
      s.partEntry p = some e → s.launchAt l.id = some l → l.part < 16 → (us.map (·.1)).Nodup → (us.map (·.2)).Nodup →
      s.heldAt (e.envBlock / 128 * 128) = none → (∀ x ∈ us, LinesFree s (spadPa x.2 0) 0x20000) →
      let used (j : Nat) : Bool := s.launches.any fun l => l.part == p && l.units.any fun x => x.stack == some j
      ∃ t, exec (.placement p) s = .next t ∧ ∀ i u g, us[i]? = some (u, g) →
        (let c := t.coreAt g
         c.unit = some ⟨l.id, u, l.helpers⟩ ∧ c.part = BitVec.ofNat 4 l.part ∧ c.tvec = env.tvec ∧ c.splo = env.splo ∧ c.sphi = env.sphi ∧
         c.weight = (if l.vsw = 0 then env.weight else l.vsw) ∧ c.frozen = false ∧ c.ending = none ∧ c.vq = [] ∧
         (∀ r : Fin 32, c.v.get r = []) ∧ (∀ r : Fin 8, c.k.get r = BitVec.allOnes 256) ∧ c.scale = 0 ∧ c.shape = 0xFF ∧
         (∀ n, n ≠ 0 → (c.ctxAt n).st = .free) ∧
         let x := c.ctxAt 0
         x.st = .ready ∧ x.pc = BitVec.ofNat 64 l.entry ∧ x.sys = false ∧ x.fflags = 0 ∧
         (∀ r : Fin 32, x.s.get r = if r = 1 then BitVec.ofNat 64 u else if r = 2 then BitVec.ofNat 64 (l.across * l.down * l.percore) else 0) ∧
         (∀ r : Fin 8, x.p.get r = true) ∧ (∀ r : Fin 16, x.h.get r = none) ∧
         (∀ r : Fin 16, r ≠ 15 → x.a.get r = if r = 1 then l.arg else 0) ∧ (env.size = 0 → x.a.get 15 = 0) ∧
         (env.size ≠ 0 → ∀ j, j < env.slots → used j = false → ((List.range j).filter fun k => !used k).length = i →
           x.a.get 15 = BitVec.ofNat 128 (3 * 2 ^ 97 + env.size * 2 ^ 57 + (env.base + j * env.size)))) ∧
        ((s.coreAt g).lastHeld ≠ some l.id → ∀ k < 0x20000, bytesGet t.mem.bytes (spadPa g k) = 0)) ∧
    (∀ ts, s.plan p = some (.wake ts) → exec (.placement p) s =
      .next { (s.setPst p { s.pst p with envTold := false }) with agenda := s.agenda ++ ts.map fun t => .tileWake t }) ∧
    (∀ id u g, s.plan p = some (.restore id u g) → exec (.placement p) s =
      .next { (s.setPst p { s.pst p with envTold := false }) with agenda := s.agenda ++ [.unitRestore id u g] }) ∧
    (s.plan p = none → exec (.placement p) s = .next
      (if s.candidates p ≠ [] ∧ (s.env p).isNone ≠ (s.pst p).envTold then
        if s.env p = none then (s.setPst p { s.pst p with envTold := true }).report (.envBlock p)
        else s.setPst p { s.pst p with envTold := false }
      else s)) ∧
    (∀ n,
      let due : Prop := (s.tileAt n).gated = false ∧ (∀ j < 8, (s.coreAt (8 * n + j)).unit = none) ∧
        ∃ x ∈ s.parts, x.2.valid = true ∧ x.2.fixed = false ∧ n ∈ x.2.tiles ∧ x.2.idleTime ≤ s.time.toNat - (s.tileAt n).idle
      (due → exec (.tilePowerGate n) s = .next { s with tiles := smapSet s.tiles n ⟨true, (s.tileAt n).idle⟩ }) ∧
      (¬due → exec (.tilePowerGate n) s = .next s)) ∧
    (∀ n, ∃ t, exec (.tileWake n) s = .next t ∧ t.tileAt n = ⟨false, s.time.toNat⟩ ∧ t = { s with tiles := t.tiles })

/-- R29, R340, R352, R353, R365, R367: the end of a unit puts its word into the completion tree; a node with all its words sends one, and
the root reports; PREEMPT marks cores to be saved, a save and a cancellation take a unit off its core, and a restore puts it back. Which
cores are saved, which image a unit gets, and when a unit that is ending leaves its core, are the model's choice, log entries 24, 45
and 60; so is that the distributor and the savers first ask for the lines that they come too early for, log entry 76: no host and no cache that
must drain first holds lines here where they write. -/
def Obligations.UnitsEndAndAreSaved : Prop :=
  ∀ (s : State) (core : Nat) (l : Launch), s.launchAt l.id = some l →
    (s.endReady core = none → exec (.unitEnd core) s = .next s) ∧
    (∀ err code, s.endReady core = some (err, code) → AllFree s ∨ (∀ x ∈ s.cores, x.2.flits = []) → ∃ t w, exec (.unitEnd core) s = .next t ∧ (t.coreAt core).unit = none ∧
      t.tree = s.tree ++ [w] ∧ some w.launch = (s.coreAt core).unit.map (·.launch) ∧ w.err = err ∧ w.count = 1 ∧ w.fcode = code) ∧
    (∀ node, s.nodeReady l.id node = false → exec (.spanningTreeMessage l.id node) s = .next s) ∧
    (∀ node, s.nodeReady l.id node = true →
      let ws := s.tree.filter fun w => w.launch == l.id && w.tile == node
      let err := ws.foldl (fun e w => e ||| w.err) 0
      let count := ws.foldl (fun n w => n + w.count) 0
      let code := ws.foldl (fun f w => max f w.fcode) 0
      let rest := s.tree.filter fun w => !(w.launch == l.id && w.tile == node)
      exec (.spanningTreeMessage l.id node) s = .next (s.distActs
        (if node = 576 then ({ s with tree := rest, launches := s.launches.filter (·.id != l.id) } : State).reportLaunch l.part l.ctr count err code
         else { s with tree := rest ++ [⟨l.id, parentNode l.nodes node, err, count, code⟩] }))) ∧
    (∀ p, ∃ t, exec (.preempt p) s = .next t ∧ (∀ g ∈ s.preemption p, t.coreAt g = { s.coreAt g with saving := true }) ∧
      ∀ g, g ∉ s.preemption p → t.coreAt g = s.coreAt g) ∧
    (∀ u, (s.coreAt core).unit = some u → u.launch = l.id → s.withdrawDue core = true →
      exec (.unitSave core) s = .next (s.withdraw core)) ∧
    (∀ u, (s.coreAt core).unit = some u → u.launch = l.id → l.place = false → s.withdrawDue core = false → s.saveReady core = false →
      exec (.unitSave core) s = .next s) ∧
    (∀ u, (s.coreAt core).unit = some u → u.launch = l.id → l.place = false → s.withdrawDue core = false → s.saveReady core = true →
      AllFree s → ∃ t l', exec (.unitSave core) s = .next t ∧ (t.coreAt core).unit = none ∧ t.launchAt l.id = some l' ∧
        ∀ x ∈ l'.units, x.idx = u.unit → ∃ b, x.st = .saved (s.freeImage l.part) b ∧ x.kept.isSome = true) ∧
    (∀ (e : Partition) (env : Env) (n g : Nat) (x y z : Nat) (x1 : Unit1) (kept : Core), s.partEntry l.part = some e → s.env l.part = some env →
      l.cancelled = false → (s.pst l.part).quiesced = false → l.place = false → s.planRestore e [] l = some (.restore x y z) → s.coreFree e [] (s.placeCores [] none) g = true →
      s.cmdsGone l.id n = true → l.units.find? (·.idx == n) = some x1 → (∃ img, x1.st = .saved img none) → x1.kept = some kept → kept.ending = none →
      AllFree s → ∃ t l', exec (.unitRestore l.id n g) s = .next t ∧ (t.coreAt g).unit = some ⟨l.id, n, l.helpers⟩ ∧ t.launchAt l.id = some l' ∧
        ∀ q ∈ l'.units, q.idx = n → q.st = .running g) ∧
    (∀ n x1, l.cancelled = true → (s.pst l.part).quiesced = false → s.cmds = [] → l.units.find? (·.idx == n) = some x1 →
      (∀ g, x1.st = .running g → (s.coreAt g).frozen = false → (s.coreAt g).ending = none → s.coreInCable g = false →
        exec (.unitCancel l.id n) s = .next (s.setCore g { s.coreAt g with ending := some (2, 0) })) ∧
      (x1.st = .pending ∨ x1.st = .ended → exec (.unitCancel l.id n) s = .next s))

/-! ### Coherence and the hosts (R264, R380, R382, R391 to R402) -/

/-- R264, R382, R391, R392, R395: INVALIDATION drops a copy, a dirty one written back, and counts its acknowledgement, of a host-homed line in
both halves, of which one that nobody holds any more is released; FORWARD gives the requester a copy of an owned line; a cache that keeps copies
in S only drops what it derived from the line and acknowledges once it has drained; memory and other lines stay as they are. -/
def Obligations.CopiesAreDroppedAndForwarded : Prop :=
  ∀ (s : State) (line : Nat) (a : CacheAgent),
    let without (x : DirEntry) : Prop := (∀ st, x.owner ≠ some (a, st)) ∧ a ∉ x.sharers
    (hostKey line = false →
      (s.dirAt line = none → exec (.invalidation line a) s = .next s.unhold ∧ exec (.forward line a) s = .next s) ∧
      (∀ e, s.dirAt line = some e →
        (sOnly a = false → ∃ t, exec (.invalidation line a) s = .next t ∧ t.mem = s.mem ∧
          (∀ x, t.dirAt line = some x → without x ∧ x.awaited = e.awaited.filter (· ≠ a) ∧ (x.awaited = [] → x.writers = [])) ∧
          (t.dirAt line = none → e.awaited.filter (· ≠ a) = [] ∧ e.sharers.filter (· ≠ a) = []) ∧
          ∀ k, k ≠ line → t.dirAt k = s.dirAt k) ∧
        (e.owner ≠ none → ∃ t x, exec (.forward line a) s = .next t ∧ t.mem = s.mem ∧ t.dirAt line = some x ∧
          (a ∈ x.sharers ∨ ∃ st, x.owner = some (a, st)) ∧ ∀ k, k ≠ line → t.dirAt k = s.dirAt k) ∧
        (e.owner = none → exec (.forward line a) s = .next s) ∧
        (sOnly a = true → exec (.invalidation line a) s = exec (.translationInvalidateAck line a) s))) ∧
    (hostKey line = true → line % 128 = 0 → sOnly a = false → ∃ t, exec (.invalidation line a) s = .next t ∧ t.mem = s.mem ∧
      ∀ half : Bool, let k := line + if half then 64 else 0
        (∀ x, t.dirAt k = some x → without x) ∧
        (∀ e, s.dirAt k = some e → e.sharers.filter (· ≠ a) = [] → (∀ b st, e.owner = some (b, st) → b = a) →
          ((t.bridgeAt line).half half).1 = .i)) ∧
    (s.drained a line = true → a ≠ .distributor → ∃ t, exec (.translationInvalidateAck line a) s = .next t ∧ t.mem = s.mem ∧
      (∀ x, t.dirAt line = some x → a ∉ x.awaited ∧ a ∉ x.sharers) ∧ ∀ y ∈ t.caches.xlat, y.agent = a → line ∉ y.lines) ∧
    (let u := ((s.dropDerived .distributor line).ackCopy line .distributor).dropCopy line .distributor;
      exec (.translationInvalidateAck line .distributor) s =
        .next ((if (u.appendLine (keyLoc line).pa).isSome then u.distShares line else u).distSees line).unhold) ∧
    (s.drained a line = false → exec (.translationInvalidateAck line a) s = .next (s.dropDerived a line).unhold)

/-- R393, R394, R395, R397, R399: snoops of a half give it up, share it or leave it, and answer the host with its state and, where it may be
dirty there, its bytes; an answer of the host grants the half it was asked for, with the bytes the host gives; the host's accesses inside its
window read or write device memory and are answered, and after a write the port is the line's owner; an answer to a back-invalidate snoop gives
up the half, whose bytes, where the host holds it in M or E and sends them, go home; what was never asked for, comes too late or leaves the
window freezes the logical device. The answers for states that R394 does not list, S or E after RdShared, what the port records after an
access, the bounds put on a snoop timeout of the table, and which port carries a request, are the model's choice, log entries 108, 54, 56, 128
and 129. -/
def Obligations.HostSnoopsAnswersAndAccesses : Prop :=
  ∀ (s : State) (line : Nat) (half : Bool) (n addr size pa v : Nat) (e : Partition),
    let b := s.bridgeAt line
    let x := (b.half half).1
    let k := line + if half then 64 else 0
    let frozen (o : Out) : Prop := ∃ t, o = .next t ∧ (t.ld n).frozen = true ∧ .hostViolation n ∈ t.mailbox
    let live : Prop := (s.ld n).down = false ∧ (s.ld n).frozen = false
    let bytes (m : Phys) (at' len w : Nat) : Prop := ∀ i < len, bytesGet m.bytes (at' + i) = BitVec.ofNat 8 (w / 256 ^ i)
    let told (t : State) (y : PortMsg) : Prop := (t.ld n).answers = (s.ld n).answers ++ [y]
    let free (c : Option CacheAgent) : Prop :=
      ∀ y ∈ s.dir, y.line = pa / 128 * 128 → y.awaited = [] ∧ ∀ z ∈ y.others c, slow z = false
    (hostKey k = true → line % 128 = 0 → s.ldOf k = some n →
      (live →
        let replies (t : State) (r : SnoopResp) (d : Bool) : Prop :=
          ∃ w, told t (.snoop (k - hostBase) r (if d then some w else none)) ∧ bytes s.mem k 64 w
        (∃ t, exec (.snpInv line half) s = .next t ∧ t.mem = s.mem ∧ ((t.bridgeAt line).half half).1 = .i ∧
          ((t.bridgeAt line).half (!half)).1 = (b.half (!half)).1 ∧ (x ≠ .i → t.dirAt k = none) ∧ (∀ q, q ≠ k → t.dirAt q = s.dirAt q) ∧
          replies t (if x = .i then .iHitI else if x = .m then .iFwdM else .iHitSE) (x == .m)) ∧
        (∃ t, exec (.snpData line half) s = .next t ∧ t.mem = s.mem ∧ ((t.bridgeAt line).half half).1 = (if x = .i then .i else .s) ∧
          ((t.bridgeAt line).half (!half)).1 = (b.half (!half)).1 ∧ (x ≠ .i → ∀ y, t.dirAt k = some y → y.owner = none) ∧
          replies t (if x = .i then .iHitI else if x = .m then .sFwdM else .sHitSE) (x == .m)) ∧
        (∃ t, exec (.snpCur line half) s = .next t ∧ t = { s with dir := t.dir, lds := t.lds } ∧
          replies t (if x = .i then .iHitI else .vFwdV) (x != .i))) ∧
      (¬live → ∀ i ∈ [Instr.snpInv line half, .snpData line half, .snpCur line half], exec i s = .next s)) ∧
    (s.ldOf line = some n → live → line < 2 ^ 52 → ∀ own data, (b.half half).2 = some own →
      ∃ t, exec (.hostResponse line ⟨half, data⟩) s = .next t ∧ (t.bridgeAt line).half (!half) = b.half (!half) ∧
        ((t.bridgeAt line).half half).2 = none ∧
        (own = true → ((t.bridgeAt line).half half).1 = if x = .m then .m else .e) ∧
        (own = false → ((t.bridgeAt line).half half).1 = .e ∨ ((t.bridgeAt line).half half).1 = .s) ∧
        (x ≠ .i ∨ data = none → t.mem = s.mem) ∧
        (∀ w, x = .i → data = some w → bytes t.mem k 64 w ∧
          ∀ y, ¬(k ≤ y ∧ y < k + 64) → bytesGet t.mem.bytes y = bytesGet s.mem.bytes y)) ∧
    (∀ data, s.ldOf line = some n → live → (b.half half).2 = none → frozen (exec (.hostResponse line ⟨half, data⟩) s)) ∧
    (∀ data, s.ldOf line = some n → ¬live → exec (.hostResponse line ⟨half, data⟩) s = .next s.unhold) ∧
    (s.partEntry n = some e → cxlMem addr size .read = true → ∀ op, op = .read ∨ op = .write →
      let out := exec (.hostCxlMemAccess n addr size op v) s
      ((s.ld n).down = true → out = .next s) ∧
      ((s.ld n).down = false → (s.ld n).frozen = true → out = .next (s.tellHost n (.poison addr))) ∧
      (live → addr < e.hdmBase ∨ e.hdmBase + min e.hdmSize (2 ^ 48) < addr + size → frozen out) ∧
      (live → e.hdmBase ≤ addr → addr + size ≤ e.hdmBase + min e.hdmSize (2 ^ 48) → (s.pst n).quiesced = true →
        out = .next { s with heldBus := s.heldBus ++ [.hostCxlMemAccess n addr size op v] })) ∧
    (s.partEntry n = some e → live → cxlMem addr size .read = true → e.hdmBase ≤ addr →
      addr + size ≤ e.hdmBase + min e.hdmSize (2 ^ 48) → (s.pst n).quiesced = false → pa < hbmSize → s.appendLine pa = none →
      let va := (addr - e.hdmBase) % 2 ^ 48
      let port : CacheAgent := .portTlb (s.portOf n)
      (s.translate port n va .read = .ok (s, ⟨0, pa⟩) → s.mem.poisoned false pa size = false →
        ∃ t, exec (.hostCxlMemAccess n addr size .read v) s = .next t ∧ t.mem = s.mem ∧
          told t (.value addr size (bytesRead s.mem.bytes pa size))) ∧
      (s.translate port n va .write = .ok (s, ⟨0, pa⟩) → s.mem.poisoned true pa size = false → free (some (.host n)) →
        (∀ y, s.space n = some y → ∀ q ∈ s.linesFor port y va, q ≠ pa / 128 * 128) →
        ∃ t, exec (.hostCxlMemAccess n addr size .write v) s = .next t ∧ told t (.done addr) ∧ bytes t.mem pa size v ∧
          (∀ y, ¬(pa ≤ y ∧ y < pa + size) → bytesGet t.mem.bytes y = bytesGet s.mem.bytes y) ∧
          ∃ y, t.dirAt (pa / 128 * 128) = some y ∧ y.owner = some (.host n, .e) ∧ y.sharers = [])) ∧
    (∀ data, s.heldAt line = none → exec (.bisnpResponse line ⟨half, data⟩) s = .next s.unhold) ∧
    (∀ y data, s.heldAt line = some y →
      let asked := if half then y.bi1 else y.bi0
      let st := if half then y.h1 else y.h0
      let z : HostHeld := if asked then (if half then { y with h1 := .i, bi1 := false } else { y with h0 := .i, bi0 := false }) else y
      ∃ t, exec (.bisnpResponse line ⟨half, data⟩) s = .next t ∧
        (z.h0 = .i ∧ z.h1 = .i → t.heldAt line = none ∧ t.holds (.host y.ld) line = false) ∧
        (¬(z.h0 = .i ∧ z.h1 = .i) → t.heldAt line = some z) ∧ (∀ q, q ≠ line → t.heldAt q = s.heldAt q) ∧
        (asked = false ∨ (st ≠ .m ∧ st ≠ .e) ∨ data = none →
          t = ({ s with hostHeld := t.hostHeld, dir := t.dir } : State).unhold ∧ (¬(z.h0 = .i ∧ z.h1 = .i) → t.dir = s.dir)) ∧
        (∀ w, line < 2 ^ 52 → asked = true → st = .m ∨ st = .e → data = some w → bytes t.mem k 64 w ∧
          ∀ b, ¬(k ≤ b ∧ b < k + 64) → bytesGet t.mem.bytes b = bytesGet s.mem.bytes b)) ∧
    (let waits (x : HostHeld) : Prop := x ∈ s.hostHeld ∧ x.ld = n ∧ (x.bi0 = true ∨ x.bi1 = true);
      (s.partEntry n = some e → (∃ x, waits x ∧ 100000000 ≤ (s.time - x.asked).toNat) → frozen (exec (.snoopTimeout n) s)) ∧
      ((∀ x, waits x → (s.time - x.asked).toNat < 10000) → exec (.snoopTimeout n) s = .next s) ∧
      (s.partEntry n = some e → 10000 ≤ e.snoopTime → e.snoopTime ≤ 100000000 →
        ((∃ x, waits x ∧ e.snoopTime ≤ (s.time - x.asked).toNat) → frozen (exec (.snoopTimeout n) s)) ∧
        ((∀ x, waits x → (s.time - x.asked).toNat < e.snoopTime) → exec (.snoopTimeout n) s = .next s)))

/-- R380, R399, R402: a request of a peer device is served by the partition bound to its issuer and answered; without a binding, or after a
peer's timeout, the peer's traffic is refused, and a refused peer changes nothing; a misaligned request goes back with ALIGN; an atomic is made
at the home (R186, R401). The bounds put on a snoop timeout of the table, and which port of the fabric a peer comes through, are the model's
choice, log entries 128 and 129. -/
def Obligations.PeerRequestsAndTimeouts : Prop :=
  ∀ (s : State) (dev part q va size pa v : Nat),
    let port : CacheAgent := .fabricTlb (Config.fabricPort dev)
    let refused (o : Out) : Prop := ∃ t, o = .next t ∧ (t.peer dev).refused = true ∧ .peerViolation dev ∈ t.mailbox
    let told (t : State) (y : PortMsg) : Prop := (t.peer dev).answers = (s.peer dev).answers ++ [y]
    let free (c : Option CacheAgent) : Prop :=
      (∀ y ∈ s.dir, y.line = pa / 128 * 128 → y.awaited = [] ∧ ∀ z ∈ y.others c, slow z = false) ∧
      ∀ y, s.space q = some y → ∀ k ∈ s.linesFor port y (va % 2 ^ 48), k ≠ pa / 128 * 128
    ((s.peer dev).refused = true → exec (.peerDeviceTimeout dev) s = .next s ∧
      ∀ op, exec (.peerDeviceRequest dev part va size op v) s = .next s) ∧
    ((s.peer dev).refused = false → s.peerOwes dev = true → refused (exec (.peerDeviceTimeout dev) s)) ∧
    (s.peerOwes dev = false → exec (.peerDeviceTimeout dev) s = .next s) ∧
    ((∃ e ∈ s.dir, .fabric dev ∈ e.awaited ∧ 100000000 ≤ (s.time - e.asked).toNat) → s.peerOwes dev = true) ∧
    ((∀ e ∈ s.dir, .fabric dev ∈ e.awaited → (s.time - e.asked).toNat < 10000) → s.peerOwes dev = false) ∧
    ((s.peer dev).refused = false → s.boundTo dev part = none → ∀ op, refused (exec (.peerDeviceRequest dev part va size op v) s)) ∧
    ((s.peer dev).refused = false → s.boundTo dev part = some q → (s.pst q).quiesced = true →
      ∀ op, exec (.peerDeviceRequest dev part va size op v) s =
        .next { s with heldBus := s.heldBus ++ [.peerDeviceRequest dev part va size op v] }) ∧
    ((s.peer dev).refused = false → s.boundTo dev part = some q → (s.pst q).quiesced = false →
      ∀ op, busSized op va size = false → exec (.peerDeviceRequest dev part va size op v) s = .next (s.tellPeer dev (.fault va 3))) ∧
    ((s.peer dev).refused = false → s.boundTo dev part = some q → (s.pst q).quiesced = false → pa < hbmSize →
      pa % 128 = va % 128 → s.heldAt (pa / 128 * 128) = none → s.appendLine pa = none →
      (0 < size → va % 128 + size ≤ 128 →
        (s.translate port q (va % 2 ^ 48) .read = .ok (s, ⟨0, pa⟩) → s.mem.poisoned false pa size = false →
          ∃ t, exec (.peerDeviceRequest dev part va size .read v) s = .next t ∧ t.mem = s.mem ∧
            told t (.value va size (bytesRead s.mem.bytes pa size))) ∧
        (s.translate port q (va % 2 ^ 48) .write = .ok (s, ⟨0, pa⟩) → s.mem.poisoned true pa size = false →
          free (some (.fabric dev)) →
          ∃ t, exec (.peerDeviceRequest dev part va size .write v) s = .next t ∧ told t (.done va) ∧
            (∀ i < size, bytesGet t.mem.bytes (pa + i) = BitVec.ofNat 8 (v / 256 ^ i)) ∧
            ∀ y, ¬(pa ≤ y ∧ y < pa + size) → bytesGet t.mem.bytes y = bytesGet s.mem.bytes y)) ∧
      (∀ o, va % 8 = 0 → s.translate port q (va % 2 ^ 48) .update = .ok (s, ⟨0, pa⟩) →
        s.mem.poisoned false pa 8 = false → free none →
        let old := bytesRead s.mem.bytes pa 8
        ∃ t, exec (.peerDeviceRequest dev part va 8 (.amo o) v) s = .next t ∧ told t (.value va 8 old) ∧
          (∀ i < 8, bytesGet t.mem.bytes (pa + i) =
            BitVec.ofNat 8 ((amoOp o (BitVec.ofNat 64 old) (BitVec.ofNat 64 v)).1.toNat / 256 ^ i)) ∧
          (∀ y, ¬(pa ≤ y ∧ y < pa + 8) → bytesGet t.mem.bytes y = bytesGet s.mem.bytes y) ∧ t.dirAt (pa / 128 * 128) = none))

/-! ### Mirrors, lost stacks and links, soft errors (R411 to R425) -/

/-- R417, R419 to R421: the mirror takes a dirty line's bytes; after a timeout the buddy is asked, and the takeover gives the line the
mirror's bytes, or the home's, or poison where both stacks are gone, and counts the line where the buddy supplies it (R430); a
removed stack holds no unit and serves no partition. R411, R412, R415, R430: a correctable error is counted and has no other effect;
an uncorrectable one is counted, and poisons the line or word, or ends the unit, that it hits, unless a refetch hides it: then
nothing else happens, as for a line that is clean where it is hit; a patrol scrub that finds one poisons its line and reports it.
That an error in a mirror entry poisons its line at once is the model's choice, log entry 93. -/
def Obligations.MirrorsAndSoftErrors : Prop :=
  (∀ (s : State) (line stack : Nat),
    (∃ t, exec (.mirrorUpdate line) s = .next t ∧ t = { s with dir := t.dir } ∧ (∀ k, k ∉ lineKeys line → t.dirAt k = s.dirAt k) ∧
      ∀ e a st, s.dirAt line = some e → e.owner = some (a, st) →
        t.dirAt line = some (if moesiDirty st ∧ s.mirrors (agentStack a) then { e with mirror := some (s.lineBytes line) } else e)) ∧
    (∀ e n, s.dirAt line = some e → e.ownerStack = some n → ∃ t, exec (.takeoverTimeout line) s = .next t ∧
      t.dirAt line = some { e with takeover := true } ∧ t.agenda = s.agenda ++ [.takeoverRequest line] ∧ .stack n ∈ t.mailbox ∧ t.mem = s.mem) ∧
    ((∀ k ∈ lineKeys line, (s.dirAt k).bind (·.ownerStack) = none) → exec (.takeoverTimeout line) s = .next s) ∧
    (∀ e a st, s.dirAt line = some e → e.takeover = true → e.owner = some (a, st) → line < 2 ^ 52 → line % 128 = 0 → isHost line = false →
      ∃ t, exec (.takeoverRequest line) s = .next t ∧
        (∀ x, t.dirAt line = some x → x.owner = none ∧ x.takeover = false ∧ x.mirror = none ∧ x.sharers = e.sharers) ∧
        (moesiDirty st = true → s.mirrors (agentStack a) = true → ∀ l, l.length = 128 → e.mirror = some l ∨ e.mirror = none ∧ e.home = some l →
          ∀ i < 128, bytesGet t.mem.bytes (line + i) = l.getD i 0) ∧
        (moesiDirty st = true → s.mirrors (agentStack a) = false → line ∈ t.mem.poison ∧ t.mem.bytes = s.mem.bytes) ∧
        (moesiDirty st = false → t.mem = s.mem) ∧
        (let n := agentStack a
         let supplied : Prop := moesiDirty st = true ∧ s.mirrors n = true ∧ e.mirror ≠ none
         let count (u : State) : Nat := (smapGet? u.telemetry.takeover n).getD 0;
         (supplied → count t = (count s + 1) % 2 ^ 64) ∧ (¬supplied → t.telemetry.takeover = s.telemetry.takeover)) ∧
        ((∀ l, e.mirror = some l ∨ e.home = some l → l.length = 128) →
          ∀ y, ¬(line ≤ y ∧ y < line + 128) → bytesGet t.mem.bytes y = bytesGet s.mem.bytes y)) ∧
    ((∀ k ∈ lineKeys line, (s.dirAt k).map (·.takeover) ≠ some true) → exec (.takeoverRequest line) s = .next s) ∧
    (4 ≤ stack ∨ stack ∈ s.removed → exec (.stackRemoval stack) s = .next s) ∧
    (stack < 4 → stack ∉ s.removed → ∃ t, exec (.stackRemoval stack) s = .next t ∧ stack ∈ t.removed ∧
      (∀ g, g / 1152 = stack → g < 4608 → (t.coreAt g).unit = none) ∧
      ∀ x ∈ t.parts, (∀ n ∈ x.2.tiles, n / 144 ≠ stack) ∧ ∀ n ∈ x.2.slices, n / 144 ≠ stack)) ∧
  (∀ (s : State) (site : ErrSite) (stack line g : Nat),
    let key (x : ErrSite) : Nat := 8 * errArray x + errStack x stack
    let counted (t : State) (x : ErrSite) : Prop :=
      (smapGet? t.telemetry.uecount (key x)).getD 0 = ((smapGet? s.telemetry.uecount (key x)).getD 0 + 1) % 2 ^ 64
    (∃ t, exec (.correctableError site stack) s = .next t ∧ t = { s with telemetry := { s.telemetry with cecount := t.telemetry.cecount } } ∧
      (smapGet? t.telemetry.cecount (key site)).getD 0 = ((smapGet? s.telemetry.cecount (key site)).getD 0 + 1) % 2 ^ 64) ∧
    (∃ t, exec (.uncorrectableError .refetchOnly stack) s = .next t ∧
      t = { s with telemetry := { s.telemetry with uecount := t.telemetry.uecount } } ∧ counted t .refetchOnly) ∧
    (∃ t, exec (.uncorrectableError (.hbmLine line) stack) s = .next t ∧ counted t (.hbmLine line) ∧ line / 128 * 128 ∈ t.mem.poison ∧
      t.mem.bytes = s.mem.bytes ∧ (∀ u ∈ s.mem.poison, u ∈ t.mem.poison) ∧ .error 0 ∈ t.mailbox) ∧
    (g < 4608 → ∀ off < 0x20000, ∃ t, exec (.uncorrectableError (.spadWord (spadPa g off)) stack) s = .next t ∧
      spadPa g (off / 4 * 4) ∈ t.mem.poison ∧ t.mem.bytes = s.mem.bytes ∧ .error 5 ∈ t.mailbox) ∧
    (∀ l1 : Bool,
      let x : ErrSite := if l1 then .l1Line line else .l2Line line
      let dirty (k : Nat) : Prop := (∃ a st, (s.dirAt k).bind (·.owner) = some (a, st) ∧ moesiDirty st = true ∧ ((∃ c, a = .l1 c) ↔ l1 = true)) ∨
        l1 = false ∧ k ∈ s.caches.l2dirty;
      ((∀ k ∈ lineKeys (keyLine line), ¬dirty k) → ∃ t, exec (.uncorrectableError x stack) s = .next t ∧
        t = { s with telemetry := { s.telemetry with uecount := t.telemetry.uecount } } ∧ counted t x) ∧
      ((∃ k ∈ lineKeys (keyLine line), dirty k) → ∃ t, exec (.uncorrectableError x stack) s = .next t ∧
        (keyLoc (keyLine line)).pa ∈ (t.phys (keyLoc (keyLine line)).dev).poison ∧ .error (errArray x) ∈ t.mailbox)) ∧
    (let k := line / 128 * 128;
      (∃ e l, s.dirAt k = some e ∧ e.mirror = some l) ∨ k ∈ s.caches.l2dirty → ∃ t, exec (.uncorrectableError (.mirrorEntry line) stack) s = .next t ∧
        (keyLoc k).pa ∈ (t.phys (keyLoc k).dev).poison) ∧
    (∃ t, exec (.uncorrectableError (.coreState g) stack) s = .next t ∧ counted t (.coreState g) ∧ t.mem = s.mem ∧
      ((s.coreAt g).unit ≠ none → (s.coreAt g).ending = none → t.coreAt g = { s.coreAt g with ending := some (1, 12) }) ∧
      ((s.coreAt g).unit = none → t.coreAt g = s.coreAt g)) ∧
    (∀ x, ∃ t, exec (.uncorrectableError x stack) s = .next t ∧ counted t x ∧ t.mem.bytes = s.mem.bytes ∧ t.mem.full = s.mem.full) ∧
    exec (.patrolScrub line false) s = .next s ∧
    (∃ t, exec (.patrolScrub line true) s = .next t ∧ line / 128 * 128 ∈ t.mem.poison ∧ t.mem.bytes = s.mem.bytes ∧ t.cores = s.cores ∧
      .error 0 ∈ t.mailbox))

/-- R422 to R425: a link that goes down leaves no half and no device line with its host, and discards the host's requests that wait; a port's loss moves traffic to the others, the
last one's is the link's; the link comes up with all its ports; the quarantine is handed over byte for byte, and the acknowledgement
lifts its poison. -/
def Obligations.HostLinksGoDownAndUp : Prop :=
  ∀ (s : State) (n port buffer : Nat) (e : Partition), s.partEntry n = some e →
    let d := s.ld n
    let lost (o : Out) : Prop := ∃ t, o = .next t ∧ (t.ld n).down = true ∧ (t.ld n).portsUp = [] ∧
      (∀ b ∈ t.bridge, s.ldOf b.line ≠ some n) ∧ (∀ y ∈ t.hostHeld, y.ld ≠ n) ∧ .link n ∈ t.mailbox ∧
      t.heldBus = [] ∧ ∀ i ∈ t.agenda, i ∈ s.agenda ∨ ∀ a z op v, i ≠ .hostCxlMemAccess n a z op v
    (d.down = true →
      exec (.linkDown n) s = .next s ∧ exec (.portLinkLoss n port) s = .next s ∧ exec (.quarantineHandover n buffer) s = .next s ∧
      exec (.hostAcknowledge n) s = .next s ∧
      exec (.linkUp n) s = .next (s.setLd n { d with down := false, portsUp := e.ports })) ∧
    (d.down = false →
      lost (exec (.linkDown n) s) ∧
      exec (.linkUp n) s = .next s ∧
      (port ∉ d.portsUp → exec (.portLinkLoss n port) s = .next s) ∧
      (port ∈ d.portsUp → (∀ q ∈ d.portsUp, q = port) → lost (exec (.portLinkLoss n port) s)) ∧
      (port ∈ d.portsUp → (∃ q ∈ d.portsUp, q ≠ port) →
        exec (.portLinkLoss n port) s = .next (s.setLd n { d with portsUp := d.portsUp.filter (· != port) })) ∧
      (let count := bytesRead s.mem.bytes (e.quarBase + 4) 4
       e.quarBase + 128 * (count + 1) ≤ hostBase + buffer →
        ∃ t : State, exec (.quarantineHandover n buffer) s = .next (t.raiseEvent n 2) ∧ t = { s with mem := { s.mem with bytes := t.mem.bytes } } ∧
          (∀ i < 128 * count, bytesGet t.mem.bytes (hostBase + buffer + i) = bytesGet s.mem.bytes (e.quarBase + 128 + i)) ∧
          ∀ y, ¬(hostBase + buffer ≤ y ∧ y < hostBase + buffer + 128 * count) → bytesGet t.mem.bytes y = bytesGet s.mem.bytes y) ∧
      ∃ t, exec (.hostAcknowledge n) s = .next t ∧ (t.ld n).quarantined = [] ∧
        bytesGet t.mem.bytes (e.quarBase + 16) = bytesGet s.mem.bytes (e.quarBase + 16) ||| 1 ∧
        ∀ y, y ≠ e.quarBase + 16 → bytesGet t.mem.bytes y = bytesGet s.mem.bytes y)

/-! ### The management plane (R3, R263, R370, R403, R404, R426 to R434) -/

/-- R3, R25, R263, R351, R368, R426 to R429: a released core's violating commands go, and its unit is to end with VIOLATION, a released
host's lines are reset, a released peer is served again; the partition table (whose valid entry gives the device number, and powers the tiles of a
fixed partition and keeps their clocks at 1,600 MHz), quiescing (after which no line of the partition is dirty), clocks, the power limit and
the thermal trip change what their rules say. What a released host or peer holds, and clocks that a table write sets at once, are the model's
choice, log entries 94 and 110; that a write of the table from stage 5 on leads to stage 7 is read from R434 by inference, log entry 64. -/
def Obligations.ManagementOfPartitionsAndClocks : Prop :=
  ∀ (s : State) (core part stack point watts : Nat) (entry : Partition) (on : Bool),
    let c := s.coreAt core
    (c.frozen = false → (∀ x ∈ s.cmds, x.core = core → x.st ≠ .frozen) → exec (.masterRelease (.core core)) s = .next s) ∧
    (∃ t, exec (.masterRelease (.core core)) s = .next t ∧ t.cmds = s.cmds.filter fun x => !(x.st == EngSt.frozen && x.core == core)) ∧
    (c.frozen = true → ∃ t, exec (.masterRelease (.core core)) s = .next t ∧ t.mem = s.mem ∧
      (c.unit = none → t.coreAt core = { c with frozen := false }) ∧
      (∀ l, c.unit ≠ none → s.launchOf core = some l →
        t.coreAt core = { c with frozen := false, ending := some (if l.cancelled then 18 else 16, 0) })) ∧
    ((s.ld part).frozen = false → exec (.masterRelease (.host part)) s = .next s) ∧
    ((s.ld part).frozen = true → ∃ t, exec (.masterRelease (.host part)) s = .next t ∧ t.ld part = { s.ld part with frozen := false } ∧
      (∀ x ∈ t.hostHeld, x.ld ≠ part) ∧ (∀ x ∈ s.hostHeld, x.ld ≠ part → x ∈ t.hostHeld) ∧ t.mem.poison = s.mem.poison ∧
      (∀ b ∈ t.bridge, s.ldOf b.line ≠ some part) ∧ ∀ b ∈ s.bridge, s.ldOf b.line ≠ some part → b ∈ t.bridge) ∧
    ((s.peer stack).refused = false → exec (.masterRelease (.peer stack)) s = .next s) ∧
    ((s.peer stack).refused = true → ∃ t, exec (.masterRelease (.peer stack)) s = .next t ∧ t.mem = s.mem ∧ t.cores = s.cores ∧
      t.peer stack = { s.peer stack with bytes := [], full := [], poison := [], refused := false } ∧ ∀ d, d ≠ stack → t.peer d = s.peer d) ∧
    (16 ≤ part → exec (.partitionTableWrite part entry) s = .next s) ∧
    (part < 16 → ∃ t, exec (.partitionTableWrite part entry) s = .next t ∧ smapGet? t.parts part = some { entry with slices := sliceList entry } ∧
      (entry.valid = true → t.device = entry.device) ∧ (entry.valid = false → t.device = s.device) ∧
      (entry.valid = true → entry.fixed = true → ∀ n ∈ entry.tiles, (t.tileAt n).gated = false ∧
        (n < 576 → t.clock (n / 144) = ⟨1600, none, false⟩)) ∧
      (∀ q, q ≠ part → smapGet? t.parts q = smapGet? s.parts q) ∧ t.fw.stage = (if 5 ≤ s.fw.stage then 7 else s.fw.stage) ∧
      t.mem = s.mem ∧ t.cores = s.cores) ∧
    (∃ t, exec (.quiesce part on) s = .next t ∧ (t.pst part).quiesced = on ∧ t.mem = s.mem ∧ t.cores = s.cores ∧
      ∀ e k x, on = true → s.partEntry part = some e → t.dirAt k = some x → t.dirtyOf part e x = false) ∧
    (∀ e t, s.partEntry part = some e → exec (.quiesce part true) s = .next t →
      ∀ k ∈ t.caches.l2dirty, ∀ y, s.lineOwner (keyLoc k).pa = some y → y.1 ≠ part) ∧
    (4 ≤ stack ∨ point ∉ [1600, 1200, 800] ∨ point ≠ 1600 ∧ (∃ k ∈ s.clockGroup stack, s.fixedStack k = true) →
      exec (.clockChangeRequest stack point) s = .next s) ∧
    (stack < 4 → point ∈ [1600, 1200, 800] → point = 1600 ∨ (∀ k ∈ s.clockGroup stack, s.fixedStack k = false) →
      ∃ t, exec (.clockChangeRequest stack point) s = .next t ∧ t = { s with clocks := t.clocks } ∧
        (∀ k ∈ s.clockGroup stack, t.clock k = { s.clock k with req := some point, acked := false }) ∧
        ∀ k, k ∉ s.clockGroup stack → t.clock k = s.clock k) ∧
    (let held := (s.clockGroup stack).filter s.clockHeld
     let locked (k : Nat) : Prop := k < 4 ∧ ∃ q ∈ s.clockGroup k, s.fixedStack q = true
     (stack ∈ held → (∀ k ∈ held, s.clockSafe k = true) → ∃ t, exec (.clockChangeAck stack) s = .next t ∧
       (∀ k ∈ held, t.clock k = { s.clock k with acked := true }) ∧ ∀ k, k ∉ held → t.clock k = s.clock k) ∧
     (stack ∉ held ∨ (∃ k ∈ held, s.clockSafe k = false) → exec (.clockChangeAck stack) s = .next s) ∧
     (stack ∈ held → (∀ k ∈ held, (s.clock k).acked = true) → ∃ t, exec (.clockChangeComplete stack) s = .next t ∧
       (∀ k, locked k → t.clock k = ⟨1600, none, false⟩) ∧
       (∀ k ∈ held, ¬locked k → some (t.clock k).mhz = (s.clock k).req ∧ (t.clock k).req = none) ∧
       ∀ k, k ∉ held → ¬locked k → t.clock k = s.clock k) ∧
     (stack ∉ held ∨ (∃ k ∈ held, (s.clock k).acked = false) → exec (.clockChangeComplete stack) s = .next s)) ∧
    (∃ t, exec (.powerLimit watts) s = .next t ∧ t.watts = min watts 3500 ∧ t.cores = s.cores ∧ t.mem = s.mem ∧
      ∀ x ∈ s.parts, x.2.valid = true → x.2.fixed = false → ∀ n ∈ x.2.tiles, s.tileBusy n = false → (t.tileAt n).gated = true) ∧
    (∃ t, exec .thermalTrip s = .next t ∧ t.stopped = true ∧ (∀ g, smapGet? s.cores g ≠ none → (t.coreAt g).frozen = true) ∧
      .thermal ∈ t.mailbox ∧ t.mem = s.mem) ∧
    (∀ t : State, t.stopped = true → step t = .fault .moduleStopped)

/-- R370, R403, R404, R431 to R434: events become pending under the owner code in force, go to the host's ring and MSI-X, and code 0b11
is refused; Avlyn cores restart at an entry; a reset keeps only the flash, verified, and the stacks out of service; recovery, bring-up and
the attestation protocol follow their rules. The bytes of a record, the order of requests, the result of a self-test, and an entry without
its bit 0 are the model's choice, log entries 59, 62, 65 and 88. -/
def Obligations.EventsFirmwareAndAttestation : Prop :=
  ∀ (s : State) (n cls entry : Nat) (code : BitVec 2) (fwd : Bool) (image : Image) (e : Partition),
    let d := s.ld n
    (∃ t, exec (.eventRaise n cls) s = .next t ∧ (6 ≤ cls → t = s) ∧ (cls < 6 → t = { s with lds := t.lds } ∧
      t.ld n = { d with pending := d.pending ++ [(cls, (smapGet? d.owners cls).getD 0)] })) ∧
    (code = 3 ∨ 6 ≤ cls → exec (.eventOwnerWrite n cls code) s = .next s) ∧
    (code ≠ 3 → cls < 6 → ∃ t, exec (.eventOwnerWrite n cls code) s = .next t ∧ smapGet? (t.ld n).owners cls = some code) ∧
    (∀ ev, s.partEntry n = some e → d.pending.find? (·.1 == cls) = some ev →
      let goes : Prop := ev.2 = 1 ∨ ev.2 = 2 ∧ fwd = true
      (¬goes → exec (.hostEventDelivery n cls fwd) s = .next (s.setLd n { d with pending := d.pending.erase ev })) ∧
      (goes → d.down = true ∨ d.frozen = true → exec (.hostEventDelivery n cls fwd) s =
        .next (s.setLd n { d with pending := (cls, 1) :: d.pending.erase ev })) ∧
      (goes → d.down = false → d.frozen = false → ∃ t, exec (.hostEventDelivery n cls fwd) s = .next t ∧
        t.ld n = { d with pending := d.pending.erase ev, ringHead := d.ringHead + 1, msix := d.msix ++ [e.vectors.getD cls 0] } ∧
        ∀ y, ¬(hostBase + e.eventRing ≤ y ∧ y < hostBase + e.eventRing + 32 * max 1 e.eventSize) →
          bytesGet t.mem.bytes y = bytesGet s.mem.bytes y)) ∧
    (d.pending.find? (·.1 == cls) = none → exec (.hostEventDelivery n cls fwd) s = .next s) ∧
    (n < 32 → ∃ t, exec (.avlynRestart n entry) s = .next t ∧
      (let c := t.coreAt (4608 + n)
       c.stopped = false ∧ c.inHandler = false ∧ c.frozen = false ∧ (c.ctxAt 0).pc = BitVec.ofNat 64 entry &&& 0xFFFFFFFFFFFFFFFE ∧ (c.ctxAt 0).st = .ready ∧
       c.tvec = (s.coreAt (4608 + n)).tvec) ∧ ∀ g, g ≠ 4608 + n → t.coreAt g = s.coreAt g) ∧
    (32 ≤ n → exec (.avlynRestart n entry) s = .next s) ∧
    (∃ t, exec .moduleReset s = .next t ∧ t = { State.reset with fw := t.fw, removed := s.removed } ∧ t.fw.flash = s.fw.flash ∧
      t.fw.recovery = !(s.fw.flash.any imageOk) ∧ (t.fw.recovery = true → t.fw.measured = [] ∧ t.fw.stage = 0)) ∧
    (s.fw.recovery = true → imageOk image = true → ∃ t, exec (.recoveryImage image) s = .next t ∧ t.fw.flash = some image ∧
      t.fw.recovery = false ∧ t.parts = [] ∧ t.cores = []) ∧
    (s.fw.recovery = false ∨ imageOk image = false → exec (.recoveryImage image) s = .next s) ∧
    (s.fw.recovery = false →
      (s.fw.stage = 1 → ∃ t, exec .powerOn s = .next t ∧ t.fw.stage = 2 ∧ t.parts = [] ∧ (∀ k < 576, (t.tileAt k).gated = true) ∧
        t.agenda = s.agenda ++ [.powerOn]) ∧
      (s.fw.stage = 2 → ∃ t, exec .powerOn s = .next t ∧ t.fw.stage = 3 ∧ (∀ a < hbmSize, bytesGet t.mem.bytes a = 0) ∧
        t.agenda = s.agenda ++ [.powerOn]) ∧
      (s.fw.stage = 3 → exec .powerOn s = .next { s with fw := { s.fw with stage := 4 }, agenda := s.agenda ++ [.powerOn] }) ∧
      (s.fw.stage = 4 → ∃ t, exec .powerOn s = .next t ∧ t.fw.stage = 5 ∧ t.agenda = s.agenda ∧
        (∀ p < 16, (t.pst p).pools = smapOf (Config.framePools p)) ∧
        ∀ k < 32, ((t.coreAt (4608 + k)).ctxAt 0).st = .ready ∧ ((t.coreAt (4608 + k)).ctxAt 0).pc = Config.serviceEntry &&& 0xFFFFFFFFFFFFFFFE) ∧
      (5 ≤ s.fw.stage → exec .powerOn s = .next s)) ∧
    (let answers (o : Out) (x : SpdmAnswer) : Prop := ∃ t, o = .next t ∧ t.fw.answers = s.fw.answers ++ [x] ∧ t = { s with fw := t.fw }
     answers (exec .getVersion s) (.version [0x12, 0x13]) ∧
     answers (exec .getCapabilities s) (if s.fw.versionDone then .capabilities false else .error) ∧
     (∀ sm2 sm3, answers (exec (.negotiateAlgorithms sm2 sm3) s) (if s.fw.versionDone then .algorithms (sm2 && sm3) else .error)) ∧
     answers (exec .getDigests s) (if s.fw.algsDone then .digests (Config.sm3 Config.certificate) else .error) ∧
     answers (exec .getCertificate s) (if s.fw.algsDone then .certificate Config.certificate else .error) ∧
     (∀ nonce, ∃ sig, answers (exec (.challenge nonce) s) (if s.fw.algsDone then .challengeAuth sig else .error)) ∧
     ∀ index nonce, ∃ sig, answers (exec (.getMeasurements index nonce) s)
       (match s.fw.algsDone, smapGet? s.fw.measured index with
        | true, some m => .measurements index m sig
        | _, _ => .error))

/-! ### Encodings, the step and invariants (R89 to R109, R12, R28) -/

/-- R89 to R109: decoding the words of a well-formed instruction gives the instruction back with its length, whatever follows. -/
def Obligations.DecodeOfEncodeIsTheInstruction : Prop :=
  ∀ (i : Instr) (rest : List Half), i.wf = true → decode (encode i ++ rest) = some (i, (encode i).length)

/-- R90, R91, R99: what decodes is a well-formed instruction of at most five halfwords (four prefixes and the base), that only its own
halfwords decide. -/
def Obligations.DecodedInstructionsAreWellFormed : Prop :=
  ∀ (hs : List Half) (i : Instr) (n : Nat), decode hs = some (i, n) →
    i.wf = true ∧ i.isEvent = false ∧ 1 ≤ n ∧ n ≤ 5 ∧ n ≤ hs.length ∧ ∀ rest, decode (hs.take n ++ rest) = some (i, n)

/-- Words that the spec writes out (R95, R103, R125, R141, R185, R193, R234, R363) decode to their instructions, and the chain with its
prefixes out of order to none. -/
def Obligations.WordsOfTheSpecDecode : Prop :=
  decode [0x3000] = some (.mov ⟨false, 0⟩ 0 0, 1) ∧ decode [0xE000] = some (.brk ⟨false, 0⟩, 1) ∧
  decode [0xF903, 0xFB75, 0x014C] = some (.fadd ⟨false, 0⟩ 0 0x75 1 2 3, 3) ∧
  decode [0xF950, 0xF81F, 0x4948] = some (.addImm ⟨false, 0⟩ 0 9 10 1000, 3) ∧
  decode [0xF81F, 0xF950, 0x4948] = none ∧
  decode [0xF946, 0xFD18, 0x2368] = some (.amo ⟨false, 0⟩ 0 3 11 3 10, 3) ∧
  decode [0xF903, 0xFD31, 0xFB1D, 0x2942] = some (.fcvt ⟨false, 0⟩ 0x1D 1 6 1 2, 4) ∧
  decode [0xF950, 0x024C] = some (.add ⟨false, 0⟩ 0 10 10 3, 2) ∧ decode [0xBBFE] = some (.loop 3 (-2), 1) ∧
  decode [0xF903, 0x8512] = some (.mfc ⟨false, 0⟩ 5 0x12, 2) ∧ decode [0xF942, 0x4843] = some (.sget ⟨false, 0⟩ 8 2, 2) ∧
  decode [0xF902, 0xFD18, 0x4003] = some (.fence ⟨false, 0⟩ 3 3, 3) ∧ decode [0xF902, 0xFD01, 0x4000] = some (.fence ⟨false, 0⟩ 4 0, 3) ∧
  decode [0xF903, 0x7802] = some (.uret, 2)

/-- R5, R12, R99, R101, R194, R364: a step takes what stands in the agenda first, an action of the management plane before any other, then,
by turns, an event of the device and an instruction; the instruction of the context that issues is the one its halfwords decode to, in the
state in which it is in hand, and what does not decode or cannot be fetched faults. No context whose SUBLAPSE comes first issues. A line
that the instruction cache holds gives the old halfword or the new one. The model's choice: the agenda and the turns (log entries 13, 25),
that a SUBLAPSE comes before an instruction that is not yet in hand (34), what is counted as issued (37, 95), and that only lines of
memory outside the scratchpads stay in the instruction cache, each as first fetched and from where it was fetched (85). -/
def Obligations.StepRunsTheDecodedInstruction : Prop :=
  ∀ (s : State), s.stopped = false →
    (∀ e rest, s.agenda = e :: rest → managed e = true ∨ (∀ x ∈ rest, managed x = false) → step s = exec e { s with agenda := rest }) ∧
    (∀ l e rest, s.agenda = l ++ e :: rest → (∀ x ∈ l, managed x = false) → managed e = true →
      step s = exec e { s with agenda := l ++ rest }) ∧
    (∀ e, s.agenda = [] → s.devTurn = true → s.internal = some e → step s = exec e { s with devTurn := false }) ∧
    (s.agenda = [] → s.devTurn = false ∨ s.internal = none →
      let t := ({ s with devTurn := true } : State).tick
      (t.pick = none → step s = .next { t with pace := t.pace.tail }) ∧
      (∀ g, t.lapseNext g = true → t.pick ≠ some (g, 0)) ∧
      (∀ g n, t.pick = some (g, n) →
        let u : State := { t with pace := t.pace.tail, turn := g }
        let pc := ((u.coreAt g).ctxAt n).pc
        let v : State := { u with hand := ⟨g, n, pc, 1, 0⟩ }
        let half (pa : Nat) : Half := BitVec.ofNat 16 (bytesRead v.mem.bytes pa 2)
        let held : Option ILine := smapGet? v.me.icache (icacheKey n (pc.toNat / 128 * 128))
        (∀ w hs i len, v.fetch pc = .ok (w, hs) → decode hs = some (i, len) →
          (∀ x, exec i (w.begin g n i hs len) = .next x → step s = .next (x.after g n i)) ∧
          (∀ r, exec i (w.begin g n i hs len) = .fault r → step s = .fault r) ∧
          (∀ r, exec i (w.begin g n i hs len) = .refused r → step s = .refused r) ∧
          (w.begin g n i hs len).hand = ⟨g, n, ((w.coreAt g).ctxAt n).pc, len, hs.headD 0⟩) ∧
        (∀ w hs, v.fetch pc = .ok (w, hs) → decode hs = none →
          ∃ x, step s = exec (.illegalEncoding (hs.headD 0)) x ∧ x.hand.core = g ∧ x.hand.ctx = n ∧ x.hand.pc = ((w.coreAt g).ctxAt n).pc) ∧
        (∀ w code info va, v.fetch pc = .error (.inl (w, .flt code info, va)) →
          ∃ x, step s = mapNext (fun y => y.linkTold g n) (exec (.instructionFetchFault (BitVec.ofNat 8 code) (BitVec.ofNat 64 va)) x) ∧
            x.hand.core = g ∧ x.hand.ctx = n ∧ x.hand.pc = pc) ∧
        (∀ w va, v.fetch pc = .error (.inl (w, .violation, va)) → step s = .next w.freezeMaster) ∧
        (∀ w line va, v.fetch pc = .error (.inl (w, .wait line, va)) →
          step s = .next (w.modMy fun x => { x with st := .waiting (.fetching line) })) ∧
        (∀ w c, v.fetch pc = .error (.inr (w, c)) → step s = .next (w.modMy fun x => { x with st := .waiting c.ofFetch })) ∧
        (∀ pa, held = none → v.aperture pc.toNat = false → v.translateMy pc.toNat .fetch = .ok (v, ⟨0, pa⟩) → pa < hbmSize →
          v.mem.poisoned false pa 2 = false → v.heldAt (pa / 128 * 128) = none → v.appendLine pa = none → v.dir.length < 0x8000 →
          isPfx (half pa) = false → ∃ w, v.fetch pc = .ok (w, [half pa]) ∧ w.mem = v.mem) ∧
        (∀ l old, held = some l → l.data.getD (pc.toNat % 128 / 2) none = some old → l.src % 128 = 0 → l.src < hbmSize →
          v.heldAt l.src = none → v.dir.length < 0x8000 →
          let new := half (l.src + pc.toNat % 128)
          isPfx old = false → isPfx new = false → ∃ w h, v.fetch pc = .ok (w, [h]) ∧ w.mem = v.mem ∧ (h = old ∨ h = new))))

/-- Every step keeps memory in its canonical form: addresses strictly rising, no byte listed that reads as an unlisted one (log entry 2),
full and poisoned units strictly rising. -/
def Obligations.StepKeepsMemoryCanonical : Prop :=
  ∀ (s t : State), Memory.wf s.mem = true → step s = .next t → Memory.wf t.mem = true

/-- R20 to R28, R37, R42, R47, R164: the machine right after reset: memory in its canonical form, reading 0, every word empty, nothing
poisoned; registers at the reset values that the spec gives. The model's choice: that memory reads 0, is empty and not poisoned before
its first use (log entry 2), and the values of what the spec gives no reset value, such as TVEC and the state, mode, FFLAGS, UVEC and
UFRAME of a context that holds no unit (log entry 1). -/
def Obligations.ResetState : Prop :=
  let s := State.reset
  Memory.wf s.mem = true ∧ (∀ a, bytesGet s.mem.bytes a = 0) ∧ s.mem.full = [] ∧ s.mem.poison = [] ∧ s.parts = [] ∧ s.launches = [] ∧
  s.time = 0 ∧ s.device = 0 ∧
  ∀ g, let c := s.coreAt g
    c.unit = none ∧ c.shape = 0xFF ∧ c.zero = false ∧ c.weight = 1 ∧ c.scale = 0 ∧ c.half = false ∧ c.cfg = 0 ∧ c.tvec = 0 ∧ c.vq = [] ∧
    ∀ n, let x := c.ctxAt n
      x.st = .free ∧ x.sys = false ∧ x.fflags = 0 ∧ x.uvec = 0 ∧ x.uframe = 0 ∧ ∀ r : Fin 8, x.p.get r = true

/-! ### Meshes: where every mesh instruction completes (R229 to R252) -/

/-- R229, R230, R232, R236, each on memory that may be read and written: `mopen` and `mrefresh` bind a slot to a control block that passes its
checks; `mround` writes the next round to the control block, the snapshot and s_d; `mreserve` on a mesh of dimension 2 with no element yet
takes the first indices of each kind, makes them RESERVED and writes the spawn entries and NEXT; `medge` finds the edge of a vertex that is
its anchor. No line that is written holds the revocation bit of a capability used. -/
def Obligations.MeshInstructionsComplete : Prop :=
  ∀ (s : State) (g : Guard) (m : BitVec 2) (a : BitVec 4) (d b c : BitVec 5) (x : Slot), s.runs false false g →
    let binds (o : Out) (cap : CapBits) (info : Word) : Prop :=
      ∀ va p q, s.ahead.checkCap cap 0 256 permREAD info = .ok va → va % 128 = 0 → Steady s.ahead (va + 128) →
        HbmReady s.ahead (BitVec.ofNat 64 va) 128 .read p → HbmReady s.ahead (BitVec.ofNat 64 (va + 128)) 128 .read q →
        let blk := bytesWrite [] 0 256 (bytesRead s.mem.bytes p 128 + bytesRead s.mem.bytes q 128 * 256 ^ 128)
        mcbOk blk = true → ∃ t, o = .next t ∧ Quiet (s.ahead.setSlot m ⟨blk, cap⟩) t
    binds (exec (.mopen g m a) s) (s.A a) (a.setWidth 64) ∧
    (s.slot m = some x →
      binds (exec (.mrefresh g m) s) x.cap 16 ∧
      (∀ va p, s.ahead.checkCap x.cap 0 8 permRound 16 = .ok va → va % 128 = 0 → HbmReady s.ahead (BitVec.ofNat 64 va) 128 .update p →
        let old := (bytesGet s.mem.bytes (p + 7)).toNat
        let next (k : Nat) : Nat := bytesRead s.mem.bytes (p + 0x3D + 16 * k) 3
        old ≠ 255 → (∀ k o, s.tagLine (capTag x.cap) = some (k, o) → k ≠ p / 128 * 128) →
        ∃ t, exec (.mround g d m) s = .next t ∧
          Written ((s.ahead.setSlot m ⟨(meshKinds x.mcb).foldl (fun y k => bytesWrite y (0x3D + 16 * k) 3 (next k))
            (bytesWrite x.mcb 7 1 (old + 1)), x.cap⟩).setS d (BitVec.ofNat 64 (old + 1))) t [(p + 7, 1, old + 1)]) ∧
      (∀ top len pa p, MeshReady s.ahead x top len pa → RegionReady s.ahead x.cap permRound 128 p → p + 128 ≤ pa ∨ pa + len ≤ p →
        (∀ k o, s.tagLine (capTag x.cap) = some (k, o) → k + 128 ≤ pa ∨ pa + len ≤ k) →
        (∀ k o, s.tagLine (capTag (mcbPool x.mcb)) = some (k, o) → k + 128 ≤ p ∨ p + 128 ≤ k) →
        (∀ k < 3, mcbNext x.mcb k = 0) →
        let n := (s.S b).toNat
        n ≤ 0xFFFFFF → n ≤ top → (∀ k < 3, n * quota 2 k ≤ mcbCap x.mcb k) →
        let gen (k i : Nat) : Nat := pa + mcbStoff x.mcb k + 8 * mcbCap x.mcb k + i
        ∃ t, exec (.mreserve g d m b) s = .next t ∧
          Written ((s.ahead.setSlot m ⟨[0, 1, 2].foldl (fun y k => bytesWrite y (0x3D + 16 * k) 3 (n * quota 2 k)) x.mcb, x.cap⟩).setS d 1) t
            ([0, 1, 2].flatMap fun k => (p + 0x3D + 16 * k, 3, n * quota 2 k) :: (List.range (n * quota 2 k)).flatMap fun i =>
              [(gen k i, 1, (bytesGet s.mem.bytes (gen k i)).toNat / 4 * 4 + 2),
               (pa + spawnOff x.mcb k i, 4, mcbRound x.mcb * 2 ^ 24 + i)])) ∧
      (let v : W32 := (s.S b).setWidth 32
       let u : W32 := (s.S c).setWidth 32
       ∀ e w0 w1 : W32, mcbDim x.mcb = 2 → LiveElem s.ahead x.mcb 0 v → LiveElem s.ahead x.mcb 0 u → RecReads s.ahead x.mcb 0 (hIdx v) 0 e →
        e ≠ 0xFFFFFFFF → RecReads s.ahead x.mcb 1 (hIdx e) 2 0xFFFFFFFF → RecReads s.ahead x.mcb 1 (hIdx e) 3 0xFFFFFFFF →
        RecReads s.ahead x.mcb 1 (hIdx e) 0 w0 → RecReads s.ahead x.mcb 1 (hIdx e) 1 w1 → w0 ≠ 0xFFFFFFFF → w1 ≠ 0xFFFFFFFF →
        (hIdx w0 = hIdx v ∧ hIdx w1 = hIdx u ∨ hIdx w1 = hIdx v ∧ hIdx w0 = hIdx u) →
        ∃ t, exec (.medge g d m b c) s = .next t ∧ Quiet ((s.ahead.setS d (e.setWidth 64)).setP g.p true) t))

/-- R238, R247, R248: the forms of `msplit` and of `mcoll` on an edge of dimension 2 that no face has. The split puts the new vertex between
the two ends: the edge keeps its first end, a new edge takes the second, and a vertex that lost its anchor gets the new edge. The collapse of
an edge at whose removed end no other edge is retires that vertex and the edge; the survivor is the result. That USER of a new vertex or edge
is 0, and which records are taken as consistent, are the model's choice, log entries 41 and 102. -/
def Obligations.SplitsAndCollapsesComplete : Prop :=
  ∀ (s : State) (g : Guard) (m : BitVec 2) (d a b c : BitVec 5) (v1 : Bool) (x : Slot) (top len pa : Nat), s.runs false false g →
    s.slot m = some x → MeshReady s.ahead x top len pa →
    let h : W32 := (s.S a).setWidth 32
    let kw := (s.S c).toNat
    let j := kw / 2 ^ 32
    let key := kw % 2 ^ 32 * 2 ^ 24 + hIdx h
    let word (k i w : Nat) : W32 := BitVec.ofNat 32 (bytesRead s.mem.bytes (pa + wordOff x.mcb k i w) 4)
    let gen (k i : Nat) : Nat := bytesRead s.mem.bytes (pa + genOff x.mcb k i) 1
    let spawned (k q i : Nat) : Prop := bytesRead s.mem.bytes (pa + spawnOff x.mcb k q) 4 = mcbRound x.mcb * 2 ^ 24 + i ∧
      i < mcbCap x.mcb k ∧ gen k i % 4 = 2
    let made (k i : Nat) : W32 := mkHandle k (gen k i / 4) i
    let e := hIdx h
    let e0 := word 1 e 0
    let e1 := word 1 e 1
    let u := hIdx e0
    let v := hIdx e1
    kw < 2 ^ 56 → j < top → hKind h = 1 → e < mcbCap x.mcb 1 → gen 1 e = 4 * hGen h + 1 →
    e0 ≠ 0xFFFFFFFF → e1 ≠ 0xFFFFFFFF → u < mcbCap x.mcb 0 → v < mcbCap x.mcb 0 → u ≠ v →
    word 1 e 2 = 0xFFFFFFFF → word 1 e 3 = 0xFFFFFFFF →
    (∀ i n : Nat, 0 < (s.S b).toNat % 2 ^ 32 → (s.S b).toNat % 2 ^ 32 < 0x3F800000 → hIdx (word 0 u 0) = e → hIdx (word 0 v 0) = e →
      spawned 0 j i → spawned 1 (3 * j) n → i ≠ u → i ≠ v →
      TopoCompletes s g d x pa key (.msplit g m d a b c) (.msplitC g m d a b c) (.msplitX g m d a b c) [(0, u), (0, v), (1, e)]
        (recPieces x.mcb pa 1 e 1 [made 0 i ||| (e1 &&& 0xC0000000)] ++
         recPieces x.mcb pa 1 n 0 [made 0 i ||| (e0 &&& 0xC0000000), e1 &&& 0x3FFFFFFF, 0xFFFFFFFF, 0xFFFFFFFF] ++
         recPieces x.mcb pa 0 i 0 [made 1 n, 0, 0, 0] ++ recPieces x.mcb pa 0 v 0 [made 1 n] ++
         [(pa + genOff x.mcb 0 i, 1, gen 0 i / 4 * 4 + 1), (pa + genOff x.mcb 1 n, 1, gen 1 n / 4 * 4 + 1)])
        (made 0 i)) ∧
    (let keep := if v1 then e1 else e0
     let p := hIdx keep
     let q := if v1 then u else v
     let f := word 0 p 0
     ∀ w : Nat, e0.getLsbD 31 = false → (word 0 q 1).getLsbD 0 = false → hIdx (word 0 q 0) = e → f ≠ 0xFFFFFFFF → hIdx f < mcbCap x.mcb 1 →
      hIdx f ≠ e → word 1 (hIdx f) 2 = 0xFFFFFFFF → word 1 (hIdx f) 3 = 0xFFFFFFFF → word 1 (hIdx f) 0 ≠ 0xFFFFFFFF →
      word 1 (hIdx f) 1 ≠ 0xFFFFFFFF →
      (hIdx (word 1 (hIdx f) 0) = p ∧ hIdx (word 1 (hIdx f) 1) = w ∨ hIdx (word 1 (hIdx f) 0) = w ∧ hIdx (word 1 (hIdx f) 1) = p) →
      w < mcbCap x.mcb 0 → w ≠ p → w ≠ q →
      TopoCompletes s g d x pa key (.mcoll g m v1 d a c) (.mcollC g m v1 d a c) (.mcollX g m v1 d a c)
        [(0, p), (0, q), (0, w), (1, e), (1, hIdx f)]
        [(pa + genOff x.mcb 0 q, 1, (gen 0 q / 4 + 1) % 64 * 4), (pa + genOff x.mcb 1 e, 1, (gen 1 e / 4 + 1) % 64 * 4)]
        (keep &&& 0x3FFFFFFF))

/-- R238, R249, R252: the forms of `mflip` on the edge between two triangles that have no other neighbour, and of `mrefine` on a triangle
that has none, in dimension 2. The flip turns the edge to join the two vertices opposite it; the refinement puts a new vertex into the
triangle, joined by three new edges, and makes it three. That a flip asks for no FIXED part in its cavity, and that USER of a new vertex is
0, are the model's choice, log entries 40 and 102. -/
def Obligations.FlipsAndRefinesComplete : Prop :=
  ∀ (s : State) (g : Guard) (m : BitVec 2) (d a b c : BitVec 5) (x : Slot) (top len pa : Nat), s.runs false false g →
    s.slot m = some x → MeshReady s.ahead x top len pa →
    let h : W32 := (s.S a).setWidth 32
    let kw := (s.S c).toNat
    let j := kw / 2 ^ 32
    let key := kw % 2 ^ 32 * 2 ^ 24 + hIdx h
    let none : W32 := 0xFFFFFFFF
    let word (k i w : Nat) : W32 := BitVec.ofNat 32 (bytesRead s.mem.bytes (pa + wordOff x.mcb k i w) 4)
    let gen (k i : Nat) : Nat := bytesRead s.mem.bytes (pa + genOff x.mcb k i) 1
    let spawned (k q i : Nat) : Prop := bytesRead s.mem.bytes (pa + spawnOff x.mcb k q) 4 = mcbRound x.mcb * 2 ^ 24 + i ∧
      i < mcbCap x.mcb k ∧ gen k i % 4 = 2
    let made (k i : Nat) : W32 := mkHandle k (gen k i / 4) i
    let holds (k : Nat) (r : W32) (l : List W32) : Prop := (List.range l.length).map (word k (hIdx r)) = l
    let within (k : Nat) (l : List W32) : Prop := (l.map hIdx).Nodup ∧ ∀ y ∈ l, hIdx y < mcbCap x.mcb k
    let anchored (y : W32) (l : List W32) : Prop := hIdx (word 0 (hIdx y) 0) ∈ l.map hIdx
    let cells (l : List (Nat × List W32)) : List (Nat × Nat) := l.flatMap fun e => e.2.map fun y => (e.1, hIdx y)
    kw < 2 ^ 56 → gen (hKind h) (hIdx h) = 4 * hGen h + 1 →
    (∀ p q r t ep eq fp fq f0 f1 : W32, hKind h = 1 →
      holds 1 h [p, q, f0, f1] → holds 2 f0 [r, p, q, h, eq, ep, f1, none, none] → holds 2 f1 [t, q, p, h, fp, fq, f0, none, none] →
      holds 1 eq [q, r, f0, none] → holds 1 ep [r, p, f0, none] → holds 1 fp [p, t, f1, none] → holds 1 fq [t, q, f1, none] →
      within 0 [p, q, r, t] → within 1 [h, ep, eq, fp, fq] → within 2 [f0, f1] → (∀ y ∈ [p, q, r, t], y.toNat < 2 ^ 30) →
      (word 2 (hIdx f0) 9).getLsbD 0 = false → (word 2 (hIdx f1) 9).getLsbD 0 = false →
      anchored p [ep, fp] → anchored q [eq, fq] → anchored r [ep, eq] → anchored t [fp, fq] →
      TopoCompletes s g d x pa key (.mflip g m d a c) (.mflipC g m d a c) (.mflipX g m d a c)
        (cells [(0, [p, q, r, t]), (1, [h, ep, eq, fp, fq]), (2, [f0, f1])])
        (recPieces x.mcb pa 2 (hIdx f0) 0 [p, t, r, h, ep, fp, f1, none, none] ++
         recPieces x.mcb pa 2 (hIdx f1) 0 [q, r, t, h, fq, eq, f0, none, none] ++
         recPieces x.mcb pa 1 (hIdx h) 0 [r, t] ++ recPieces x.mcb pa 1 (hIdx fp) 2 [f0] ++ recPieces x.mcb pa 1 (hIdx eq) 2 [f1])
        h) ∧
    (∀ (p q r ep eq er : W32) (w g0 g1 g2 n1 n2 : Nat), hKind h = 2 → j < top →
      holds 2 h [p, q, r, ep, eq, er, none, none, none] → holds 1 ep [q, r, h, none] → holds 1 eq [r, p, h, none] → holds 1 er [p, q, h, none] →
      within 0 [p, q, r] → within 1 [ep, eq, er] → within 2 [h] → (∀ y ∈ [p, q, r], y.toNat < 2 ^ 30) →
      anchored p [eq, er] → anchored q [ep, er] → anchored r [ep, eq] →
      spawned 0 j w → spawned 1 (3 * j) g0 → spawned 1 (3 * j + 1) g1 → spawned 1 (3 * j + 2) g2 → spawned 2 (2 * j) n1 →
      spawned 2 (2 * j + 1) n2 → w ∉ [p, q, r].map hIdx → [g0, g1, g2].Nodup → (∀ i ∈ [g0, g1, g2], i ∉ [ep, eq, er].map hIdx) →
      n1 ≠ n2 →
      RawReady s.ahead false (s.S b) 12 4 →
      (∀ i < 3, let v := bytesRead s.mem.bytes (spadPa s.hand.core ((s.S b).toNat + 4 * i)) 4
        0 < v ∧ v < 0x7F800000) →
      let vw := made 0 w
      let e0 := made 1 g0
      let e1 := made 1 g1
      let e2 := made 1 g2
      let f1 := made 2 n1
      let f2 := made 2 n2
      let attr := (List.range 3).map fun i => word 2 (hIdx h) (9 + i)
      TopoCompletes s g d x pa key (.mrefine g m d a b c) (.mrefineC g m d a b c) (.mrefineX g m d a b c)
        (cells [(0, [p, q, r]), (1, [ep, eq, er]), (2, [h])])
        (recPieces x.mcb pa 2 (hIdx h) 0 [vw, q, r, ep, e2, e1, none, f1, f2] ++
         recPieces x.mcb pa 2 n1 0 ([p, vw, r, e2, eq, e0, h, none, f2] ++ attr) ++
         recPieces x.mcb pa 2 n2 0 ([p, q, vw, e1, e0, er, h, f1, none] ++ attr) ++
         recPieces x.mcb pa 1 g0 0 [vw, p, f1, f2] ++ recPieces x.mcb pa 1 g1 0 [vw, q, h, f2] ++ recPieces x.mcb pa 1 g2 0 [vw, r, h, f1] ++
         recPieces x.mcb pa 1 (hIdx eq) 2 [f1] ++ recPieces x.mcb pa 1 (hIdx er) 2 [f2] ++ recPieces x.mcb pa 0 w 0 [e0, 0, 0, 0] ++
         [(0, w), (1, g0), (1, g1), (1, g2), (2, n1), (2, n2)].map fun e => (pa + genOff x.mcb e.1 e.2, 1, gen e.1 e.2 / 4 * 4 + 1))
        vw)
end

