-- ==== Sys2Proof/Laws/Exec.lean ====
section
/-! SUPPORT. What `exec` does with each instruction and event: its own meaning, and nothing around it. -/

namespace Sys2Proof.Machine

@[simp] theorem exec_add {g mr d a b} (s : State) : exec (.add g mr d a b) s = execAdd g mr d a b s := rfl
@[simp] theorem exec_sub {g mr d a b} (s : State) : exec (.sub g mr d a b) s = execSub g mr d a b s := rfl
@[simp] theorem exec_and {g d a b} (s : State) : exec (.and g d a b) s = execAnd g d a b s := rfl
@[simp] theorem exec_or {g d a b} (s : State) : exec (.or g d a b) s = execOr g d a b s := rfl
@[simp] theorem exec_xor {g d a b} (s : State) : exec (.xor g d a b) s = execXor g d a b s := rfl
@[simp] theorem exec_andn {g d a b} (s : State) : exec (.andn g d a b) s = execAndn g d a b s := rfl
@[simp] theorem exec_min {g u d a b} (s : State) : exec (.min g u d a b) s = execMin g u d a b s := rfl
@[simp] theorem exec_max {g u d a b} (s : State) : exec (.max g u d a b) s = execMax g u d a b s := rfl
@[simp] theorem exec_shl {g mr d a b} (s : State) : exec (.shl g mr d a b) s = execShl g mr d a b s := rfl
@[simp] theorem exec_shr {g d a b} (s : State) : exec (.shr g d a b) s = execShr g d a b s := rfl
@[simp] theorem exec_sra {g d a b} (s : State) : exec (.sra g d a b) s = execSra g d a b s := rfl
@[simp] theorem exec_rol {g d a b} (s : State) : exec (.rol g d a b) s = execRol g d a b s := rfl
@[simp] theorem exec_mul {g mr d a b} (s : State) : exec (.mul g mr d a b) s = execMul g mr d a b s := rfl
@[simp] theorem exec_mulh {g u d a b} (s : State) : exec (.mulh g u d a b) s = execMulh g u d a b s := rfl
@[simp] theorem exec_div {g u d a b} (s : State) : exec (.div g u d a b) s = execDiv g u d a b s := rfl
@[simp] theorem exec_rem {g u d a b} (s : State) : exec (.rem g u d a b) s = execRem g u d a b s := rfl
@[simp] theorem exec_clz {g d a} (s : State) : exec (.clz g d a) s = execClz g d a s := rfl
@[simp] theorem exec_ctz {g d a} (s : State) : exec (.ctz g d a) s = execCtz g d a s := rfl
@[simp] theorem exec_popc {g d a} (s : State) : exec (.popc g d a) s = execPopc g d a s := rfl
@[simp] theorem exec_bswap {g d a} (s : State) : exec (.bswap g d a) s = execBswap g d a s := rfl
@[simp] theorem exec_bext {g sx d a b c} (s : State) : exec (.bext g sx d a b c) s = execBext g sx d a b c s := rfl
@[simp] theorem exec_bins {g d a b c} (s : State) : exec (.bins g d a b c) s = execBins g d a b c s := rfl
@[simp] theorem exec_mov {g d a} (s : State) : exec (.mov g d a) s = execMov g d a s := rfl
@[simp] theorem exec_sel {g d a b c} (s : State) : exec (.sel g d a b c) s = execSel g d a b c s := rfl
@[simp] theorem exec_cmp {g cond d a b} (s : State) : exec (.cmp g cond d a b) s = execCmp g cond d a b s := rfl
@[simp] theorem exec_pand {g d a b} (s : State) : exec (.pand g d a b) s = execPand g d a b s := rfl
@[simp] theorem exec_por {g d a b} (s : State) : exec (.por g d a b) s = execPor g d a b s := rfl
@[simp] theorem exec_pxor {g d a b} (s : State) : exec (.pxor g d a b) s = execPxor g d a b s := rfl
@[simp] theorem exec_addImm {g mr d a imm} (s : State) : exec (.addImm g mr d a imm) s = execAddImm g mr d a imm s := rfl
@[simp] theorem exec_andImm {g d a imm} (s : State) : exec (.andImm g d a imm) s = execAndImm g d a imm s := rfl
@[simp] theorem exec_orImm {g d a imm} (s : State) : exec (.orImm g d a imm) s = execOrImm g d a imm s := rfl
@[simp] theorem exec_xorImm {g d a imm} (s : State) : exec (.xorImm g d a imm) s = execXorImm g d a imm s := rfl
@[simp] theorem exec_shlImm {g mr d a imm} (s : State) : exec (.shlImm g mr d a imm) s = execShlImm g mr d a imm s := rfl
@[simp] theorem exec_shrImm {g d a imm} (s : State) : exec (.shrImm g d a imm) s = execShrImm g d a imm s := rfl
@[simp] theorem exec_sraImm {g d a imm} (s : State) : exec (.sraImm g d a imm) s = execSraImm g d a imm s := rfl
@[simp] theorem exec_li {g d imm} (s : State) : exec (.li g d imm) s = execLi g d imm s := rfl
@[simp] theorem exec_ld {g sz sx d a imm} (s : State) : exec (.ld g sz sx d a imm) s = execLd g sz sx d a imm s := rfl
@[simp] theorem exec_st {g mr sz d a imm} (s : State) : exec (.st g mr sz d a imm) s = execSt g mr sz d a imm s := rfl
@[simp] theorem exec_lds {g d a imm} (s : State) : exec (.lds g d a imm) s = execLds g d a imm s := rfl
@[simp] theorem exec_stf {g d a imm} (s : State) : exec (.stf g d a imm) s = execStf g d a imm s := rfl
@[simp] theorem exec_sete {g a imm} (s : State) : exec (.sete g a imm) s = execSete g a imm s := rfl
@[simp] theorem exec_br {g p off} (s : State) : exec (.br g p off) s = execBr g p off s := rfl
@[simp] theorem exec_loop {c off} (s : State) : exec (.loop c off) s = execLoop c off s := rfl
@[simp] theorem exec_jmp {g off} (s : State) : exec (.jmp g off) s = execJmp g off s := rfl
@[simp] theorem exec_call {g off} (s : State) : exec (.call g off) s = execCall g off s := rfl
@[simp] theorem exec_jr {g a} (s : State) : exec (.jr g a) s = execJr g a s := rfl
@[simp] theorem exec_callr {g a} (s : State) : exec (.callr g a) s = execCallr g a s := rfl
@[simp] theorem exec_ret {g} (s : State) : exec (.ret g) s = execRet g s := rfl
@[simp] theorem exec_hstart {g d a b} (s : State) : exec (.hstart g d a b) s = execHstart g d a b s := rfl
@[simp] theorem exec_hwait {g a} (s : State) : exec (.hwait g a) s = execHwait g a s := rfl
@[simp] theorem exec_retire {g} (s : State) : exec (.retire g) s = execRetire g s := rfl
@[simp] theorem exec_yield {g} (s : State) : exec (.yield g) s = execYield g s := rfl
@[simp] theorem exec_brk {g} (s : State) : exec (.brk g) s = execBrk g s := rfl
@[simp] theorem exec_vadd {g mo mr ty d a b k} (s : State) : exec (.vadd g mo mr ty d a b k) s = execVadd g mo mr ty d a b k s := rfl
@[simp] theorem exec_vsub {g mo mr ty d a b k} (s : State) : exec (.vsub g mo mr ty d a b k) s = execVsub g mo mr ty d a b k s := rfl
@[simp] theorem exec_vmul {g mo mr ty d a b k} (s : State) : exec (.vmul g mo mr ty d a b k) s = execVmul g mo mr ty d a b k s := rfl
@[simp] theorem exec_vmin {g mo mr ty d a b k} (s : State) : exec (.vmin g mo mr ty d a b k) s = execVmin g mo mr ty d a b k s := rfl
@[simp] theorem exec_vmax {g mo mr ty d a b k} (s : State) : exec (.vmax g mo mr ty d a b k) s = execVmax g mo mr ty d a b k s := rfl
@[simp] theorem exec_vand {g d a b k} (s : State) : exec (.vand g d a b k) s = execVand g d a b k s := rfl
@[simp] theorem exec_vor {g d a b k} (s : State) : exec (.vor g d a b k) s = execVor g d a b k s := rfl
@[simp] theorem exec_vxor {g d a b k} (s : State) : exec (.vxor g d a b k) s = execVxor g d a b k s := rfl
@[simp] theorem exec_vshl {g ty d a b k} (s : State) : exec (.vshl g ty d a b k) s = execVshl g ty d a b k s := rfl
@[simp] theorem exec_vshr {g ty d a b k} (s : State) : exec (.vshr g ty d a b k) s = execVshr g ty d a b k s := rfl
@[simp] theorem exec_vrot {g d a b k} (s : State) : exec (.vrot g d a b k) s = execVrot g d a b k s := rfl
@[simp] theorem exec_vperm {g d a b k} (s : State) : exec (.vperm g d a b k) s = execVperm g d a b k s := rfl
@[simp] theorem exec_vfma {g mo mr d a b c k} (s : State) : exec (.vfma g mo mr d a b c k) s = execVfma g mo mr d a b c k s := rfl
@[simp] theorem exec_vcmp {g mo cond d a b} (s : State) : exec (.vcmp g mo cond d a b) s = execVcmp g mo cond d a b s := rfl
@[simp] theorem exec_vsel {g d a b k} (s : State) : exec (.vsel g d a b k) s = execVsel g d a b k s := rfl
@[simp] theorem exec_kand {g d a b} (s : State) : exec (.kand g d a b) s = execKand g d a b s := rfl
@[simp] theorem exec_kor {g d a b} (s : State) : exec (.kor g d a b) s = execKor g d a b s := rfl
@[simp] theorem exec_knot {g d a} (s : State) : exec (.knot g d a) s = execKnot g d a s := rfl
@[simp] theorem exec_kpop {g d a} (s : State) : exec (.kpop g d a) s = execKpop g d a s := rfl
@[simp] theorem exec_vmov {g d a k} (s : State) : exec (.vmov g d a k) s = execVmov g d a k s := rfl
@[simp] theorem exec_vbcast {g d a k} (s : State) : exec (.vbcast g d a k) s = execVbcast g d a k s := rfl
@[simp] theorem exec_vext {g sx d a b} (s : State) : exec (.vext g sx d a b) s = execVext g sx d a b s := rfl
@[simp] theorem exec_vins {g d a b} (s : State) : exec (.vins g d a b) s = execVins g d a b s := rfl
@[simp] theorem exec_vcvt {g mr fr tgt d a k} (s : State) : exec (.vcvt g mr fr tgt d a k) s = execVcvt g mr fr tgt d a k s := rfl
@[simp] theorem exec_vnarrow {g rnd fmt nosat d a k} (s : State) : exec (.vnarrow g rnd fmt nosat d a k) s = execVnarrow g rnd fmt nosat d a k s := rfl
@[simp] theorem exec_vscale {g a} (s : State) : exec (.vscale g a) s = execVscale g a s := rfl
@[simp] theorem exec_vtrans {g d a k} (s : State) : exec (.vtrans g d a k) s = execVtrans g d a k s := rfl
@[simp] theorem exec_vred {g mo mr op ty d a k} (s : State) : exec (.vred g mo mr op ty d a k) s = execVred g mo mr op ty d a k s := rfl
@[simp] theorem exec_vscan {g mo mr op ty d a k} (s : State) : exec (.vscan g mo mr op ty d a k) s = execVscan g mo mr op ty d a k s := rfl
@[simp] theorem exec_vtbl {g half a} (s : State) : exec (.vtbl g half a) s = execVtbl g half a s := rfl
@[simp] theorem exec_vshape {g a b} (s : State) : exec (.vshape g a b) s = execVshape g a b s := rfl
@[simp] theorem exec_vsf {g mr fn d a k} (s : State) : exec (.vsf g mr fn d a k) s = execVsf g mr fn d a k s := rfl
@[simp] theorem exec_vld {g code rs d a imm k} (s : State) : exec (.vld g code rs d a imm k) s = execVld g code rs d a imm k s := rfl
@[simp] theorem exec_vst {g mr code rs d a imm k} (s : State) : exec (.vst g mr code rs d a imm k) s = execVst g mr code rs d a imm k s := rfl
@[simp] theorem exec_vldb {g code d a imm k} (s : State) : exec (.vldb g code d a imm k) s = execVldb g code d a imm k s := rfl
@[simp] theorem exec_gang {g a} (s : State) : exec (.gang g a) s = execGang g a s := rfl
@[simp] theorem exec_mldb {g a b c} (s : State) : exec (.mldb g a b c) s = execMldb g a b c s := rfl
@[simp] theorem exec_mstc {g a} (s : State) : exec (.mstc g a) s = execMstc g a s := rfl
@[simp] theorem exec_mzc {g} (s : State) : exec (.mzc g) s = execMzc g s := rfl
@[simp] theorem exec_ecfg {g a} (s : State) : exec (.ecfg g a) s = execEcfg g a s := rfl
@[simp] theorem exec_tsave {g t a} (s : State) : exec (.tsave g t a) s = execTsave g t a s := rfl
@[simp] theorem exec_trest {g t a} (s : State) : exec (.trest g t a) s = execTrest g t a s := rfl
@[simp] theorem exec_ldg {g sz sx capb byp na d a imm} (s : State) : exec (.ldg g sz sx capb byp na d a imm) s = execLdg g sz sx capb byp na d a imm s := rfl
@[simp] theorem exec_stg {g sz capb byp na d a imm} (s : State) : exec (.stg g sz capb byp na d a imm) s = execStg g sz capb byp na d a imm s := rfl
@[simp] theorem exec_ldc {g d a imm} (s : State) : exec (.ldc g d a imm) s = execLdc g d a imm s := rfl
@[simp] theorem exec_stc {g d a imm} (s : State) : exec (.stc g d a imm) s = execStc g d a imm s := rfl
@[simp] theorem exec_amo {g op scope d a b} (s : State) : exec (.amo g op scope d a b) s = execAmo g op scope d a b s := rfl
@[simp] theorem exec_cas {g scope d a b c} (s : State) : exec (.cas g scope d a b c) s = execCas g scope d a b c s := rfl
@[simp] theorem exec_prf {g l2 w a} (s : State) : exec (.prf g l2 w a) s = execPrf g l2 w a s := rfl
@[simp] theorem exec_cclean {g a} (s : State) : exec (.cclean g a) s = execCclean g a s := rfl
@[simp] theorem exec_cflush {g a} (s : State) : exec (.cflush g a) s = execCflush g a s := rfl
@[simp] theorem exec_lease {g d a b c} (s : State) : exec (.lease g d a b c) s = execLease g d a b c s := rfl
@[simp] theorem exec_unlease {g a} (s : State) : exec (.unlease g a) s = execUnlease g a s := rfl
@[simp] theorem exec_alloc {g d a} (s : State) : exec (.alloc g d a) s = execAlloc g d a s := rfl
@[simp] theorem exec_free {g a} (s : State) : exec (.free g a) s = execFree g a s := rfl
@[simp] theorem exec_fence {g kind scope} (s : State) : exec (.fence g kind scope) s = execFence g kind scope s := rfl
@[simp] theorem exec_sopen {g h a} (s : State) : exec (.sopen g h a) s = execSopen g h a s := rfl
@[simp] theorem exec_sadv {g h b} (s : State) : exec (.sadv g h b) s = execSadv g h b s := rfl
@[simp] theorem exec_stest {g d h} (s : State) : exec (.stest g d h) s = execStest g d h s := rfl
@[simp] theorem exec_sget {g d h} (s : State) : exec (.sget g d h) s = execSget g d h s := rfl
@[simp] theorem exec_sgetv {g d h b} (s : State) : exec (.sgetv g d h b) s = execSgetv g d h b s := rfl
@[simp] theorem exec_sclose {g h} (s : State) : exec (.sclose g h) s = execSclose g h s := rfl
@[simp] theorem exec_send {g d a} (s : State) : exec (.send g d a) s = execSend g d a s := rfl
@[simp] theorem exec_fetch {g d a} (s : State) : exec (.fetch g d a) s = execFetch g d a s := rfl
@[simp] theorem exec_gath {g d a} (s : State) : exec (.gath g d a) s = execGath g d a s := rfl
@[simp] theorem exec_scat {g d a} (s : State) : exec (.scat g d a) s = execScat g d a s := rfl
@[simp] theorem exec_bnew {g a b} (s : State) : exec (.bnew g a b) s = execBnew g a b s := rfl
@[simp] theorem exec_barv {g d a} (s : State) : exec (.barv g d a) s = execBarv g d a s := rfl
@[simp] theorem exec_bexp {g a b} (s : State) : exec (.bexp g a b) s = execBexp g a b s := rfl
@[simp] theorem exec_bwait {g d a b} (s : State) : exec (.bwait g d a b) s = execBwait g d a b s := rfl
@[simp] theorem exec_step {g} (s : State) : exec (.step g) s = execStep g s := rfl
@[simp] theorem exec_stepCable {g} (s : State) : exec (.stepCable g) s = execStepCable g s := rfl
@[simp] theorem exec_subsync {g} (s : State) : exec (.subsync g) s = execSubsync g s := rfl
@[simp] theorem exec_rsw {g a b c} (s : State) : exec (.rsw g a b c) s = execRsw g a b c s := rfl
@[simp] theorem exec_rfin {g d a c} (s : State) : exec (.rfin g d a c) s = execRfin g d a c s := rfl
@[simp] theorem exec_xsend {g a} (s : State) : exec (.xsend g a) s = execXsend g a s := rfl
@[simp] theorem exec_xsel {g a} (s : State) : exec (.xsel g a) s = execXsel g a s := rfl
@[simp] theorem exec_xrecv {g d} (s : State) : exec (.xrecv g d) s = execXrecv g d s := rfl
@[simp] theorem exec_subSubscription {g d a c} (s : State) : exec (.subSubscription g d a c) s = execSubSubscription g d a c s := rfl
@[simp] theorem exec_unsub {g a} (s : State) : exec (.unsub g a) s = execUnsub g a s := rfl
@[simp] theorem exec_fadd {g mo mr d a b} (s : State) : exec (.fadd g mo mr d a b) s = execFadd g mo mr d a b s := rfl
@[simp] theorem exec_fsub {g mo mr d a b} (s : State) : exec (.fsub g mo mr d a b) s = execFsub g mo mr d a b s := rfl
@[simp] theorem exec_fmul {g mo mr d a b} (s : State) : exec (.fmul g mo mr d a b) s = execFmul g mo mr d a b s := rfl
@[simp] theorem exec_fdiv {g mo mr d a b} (s : State) : exec (.fdiv g mo mr d a b) s = execFdiv g mo mr d a b s := rfl
@[simp] theorem exec_faddD {g mo mr d a b} (s : State) : exec (.faddD g mo mr d a b) s = execFaddD g mo mr d a b s := rfl
@[simp] theorem exec_fsubD {g mo mr d a b} (s : State) : exec (.fsubD g mo mr d a b) s = execFsubD g mo mr d a b s := rfl
@[simp] theorem exec_fmulD {g mo mr d a b} (s : State) : exec (.fmulD g mo mr d a b) s = execFmulD g mo mr d a b s := rfl
@[simp] theorem exec_fdivD {g mo mr d a b} (s : State) : exec (.fdivD g mo mr d a b) s = execFdivD g mo mr d a b s := rfl
@[simp] theorem exec_fmin {g mo d a b} (s : State) : exec (.fmin g mo d a b) s = execFmin g mo d a b s := rfl
@[simp] theorem exec_fmax {g mo d a b} (s : State) : exec (.fmax g mo d a b) s = execFmax g mo d a b s := rfl
@[simp] theorem exec_fsqrt {g mo mr d a} (s : State) : exec (.fsqrt g mo mr d a) s = execFsqrt g mo mr d a s := rfl
@[simp] theorem exec_fclass {g d a} (s : State) : exec (.fclass g d a) s = execFclass g d a s := rfl
@[simp] theorem exec_fminD {g mo d a b} (s : State) : exec (.fminD g mo d a b) s = execFminD g mo d a b s := rfl
@[simp] theorem exec_fmaxD {g mo d a b} (s : State) : exec (.fmaxD g mo d a b) s = execFmaxD g mo d a b s := rfl
@[simp] theorem exec_fsqrtD {g mo mr d a} (s : State) : exec (.fsqrtD g mo mr d a) s = execFsqrtD g mo mr d a s := rfl
@[simp] theorem exec_fclassD {g d a} (s : State) : exec (.fclassD g d a) s = execFclassD g d a s := rfl
@[simp] theorem exec_fma {g mo mr d a b c} (s : State) : exec (.fma g mo mr d a b c) s = execFma g mo mr d a b c s := rfl
@[simp] theorem exec_fmaD {g mo mr d a b c} (s : State) : exec (.fmaD g mo mr d a b c) s = execFmaD g mo mr d a b c s := rfl
@[simp] theorem exec_fcmp {g mo cond d a b} (s : State) : exec (.fcmp g mo cond d a b) s = execFcmp g mo cond d a b s := rfl
@[simp] theorem exec_fcmpD {g mo cond d a b} (s : State) : exec (.fcmpD g mo cond d a b) s = execFcmpD g mo cond d a b s := rfl
@[simp] theorem exec_fcvt {g mr fr tgt d a} (s : State) : exec (.fcvt g mr fr tgt d a) s = execFcvt g mr fr tgt d a s := rfl
@[simp] theorem exec_cbound {g d a b c} (s : State) : exec (.cbound g d a b c) s = execCbound g d a b c s := rfl
@[simp] theorem exec_cadd {g d a b} (s : State) : exec (.cadd g d a b) s = execCadd g d a b s := rfl
@[simp] theorem exec_cget {g fld d a} (s : State) : exec (.cget g fld d a) s = execCget g fld d a s := rfl
@[simp] theorem exec_cchk {g perms d a b c} (s : State) : exec (.cchk g perms d a b c) s = execCchk g perms d a b c s := rfl
@[simp] theorem exec_cmov {g d a b} (s : State) : exec (.cmov g d a b) s = execCmov g d a b s := rfl
@[simp] theorem exec_cnull {g d} (s : State) : exec (.cnull g d) s = execCnull g d s := rfl
@[simp] theorem exec_mopen {g m a} (s : State) : exec (.mopen g m a) s = execMopen g m a s := rfl
@[simp] theorem exec_mrefresh {g m} (s : State) : exec (.mrefresh g m) s = execMrefresh g m s := rfl
@[simp] theorem exec_mround {g d m} (s : State) : exec (.mround g d m) s = execMround g d m s := rfl
@[simp] theorem exec_mreserve {g d m b} (s : State) : exec (.mreserve g d m b) s = execMreserve g d m b s := rfl
@[simp] theorem exec_mget {g raw first cnt d m b} (s : State) : exec (.mget g raw first cnt d m b) s = execMget g raw first cnt d m b s := rfl
@[simp] theorem exec_mfld {g fid comp d m b} (s : State) : exec (.mfld g fid comp d m b) s = execMfld g fid comp d m b s := rfl
@[simp] theorem exec_mfst {g fid comp d m b} (s : State) : exec (.mfst g fid comp d m b) s = execMfst g fid comp d m b s := rfl
@[simp] theorem exec_medge {g d m b c} (s : State) : exec (.medge g d m b c) s = execMedge g d m b c s := rfl
@[simp] theorem exec_mstar {g kind h m b} (s : State) : exec (.mstar g kind h m b) s = execMstar g kind h m b s := rfl
@[simp] theorem exec_mvalid {g d m b} (s : State) : exec (.mvalid g d m b) s = execMvalid g d m b s := rfl
@[simp] theorem exec_msplit {g m d a b c} (s : State) : exec (.msplit g m d a b c) s = execMsplit g m d a b c s := rfl
@[simp] theorem exec_msplitC {g m d a b c} (s : State) : exec (.msplitC g m d a b c) s = execMsplitC g m d a b c s := rfl
@[simp] theorem exec_msplitX {g m d a b c} (s : State) : exec (.msplitX g m d a b c) s = execMsplitX g m d a b c s := rfl
@[simp] theorem exec_mcoll {g m v1 d a c} (s : State) : exec (.mcoll g m v1 d a c) s = execMcoll g m v1 d a c s := rfl
@[simp] theorem exec_mcollC {g m v1 d a c} (s : State) : exec (.mcollC g m v1 d a c) s = execMcollC g m v1 d a c s := rfl
@[simp] theorem exec_mcollX {g m v1 d a c} (s : State) : exec (.mcollX g m v1 d a c) s = execMcollX g m v1 d a c s := rfl
@[simp] theorem exec_mflip {g m d a c} (s : State) : exec (.mflip g m d a c) s = execMflip g m d a c s := rfl
@[simp] theorem exec_mflipC {g m d a c} (s : State) : exec (.mflipC g m d a c) s = execMflipC g m d a c s := rfl
@[simp] theorem exec_mflipX {g m d a c} (s : State) : exec (.mflipX g m d a c) s = execMflipX g m d a c s := rfl
@[simp] theorem exec_mrefine {g m d a b c} (s : State) : exec (.mrefine g m d a b c) s = execMrefine g m d a b c s := rfl
@[simp] theorem exec_mrefineC {g m d a b c} (s : State) : exec (.mrefineC g m d a b c) s = execMrefineC g m d a b c s := rfl
@[simp] theorem exec_mrefineX {g m d a b c} (s : State) : exec (.mrefineX g m d a b c) s = execMrefineX g m d a b c s := rfl
@[simp] theorem exec_trap {g a} (s : State) : exec (.trap g a) s = execTrap g a s := rfl
@[simp] theorem exec_eret (s : State) : exec (.eret) s = execEret s := rfl
@[simp] theorem exec_uret (s : State) : exec (.uret) s = execUret s := rfl
@[simp] theorem exec_mfc {g d cr} (s : State) : exec (.mfc g d cr) s = execMfc g d cr s := rfl
@[simp] theorem exec_mtc {g d cr} (s : State) : exec (.mtc g d cr) s = execMtc g d cr s := rfl
@[simp] theorem exec_sleep {g d a b} (s : State) : exec (.sleep g d a b) s = execSleep g d a b s := rfl
@[simp] theorem exec_wake {g a} (s : State) : exec (.wake g a) s = execWake g a s := rfl
@[simp] theorem exec_launch {g d a b} (s : State) : exec (.launch g d a b) s = execLaunch g d a b s := rfl
@[simp] theorem exec_cancel {g a} (s : State) : exec (.cancel g a) s = execCancel g a s := rfl
@[simp] theorem exec_rdcnt {g d n} (s : State) : exec (.rdcnt g d n) s = execRdcnt g d n s := rfl
@[simp] theorem exec_vectorArbiterBind {tile} (s : State) : exec (.vectorArbiterBind tile) s = execVectorArbiterBind tile s := rfl
@[simp] theorem exec_vectorQueueHead {core} (s : State) : exec (.vectorQueueHead core) s = execVectorQueueHead core s := rfl
@[simp] theorem exec_gangMatch {row} (s : State) : exec (.gangMatch row) s = execGangMatch row s := rfl
@[simp] theorem exec_rowArrayStart {row} (s : State) : exec (.rowArrayStart row) s = execRowArrayStart row s := rfl
@[simp] theorem exec_rowArrayComplete {row} (s : State) : exec (.rowArrayComplete row) s = execRowArrayComplete row s := rfl
@[simp] theorem exec_loadReply {core ctx} (s : State) : exec (.loadReply core ctx) s = execLoadReply core ctx s := rfl
@[simp] theorem exec_waitConditionMet {core ctx} (s : State) : exec (.waitConditionMet core ctx) s = execWaitConditionMet core ctx s := rfl
@[simp] theorem exec_sleepDeadline {core ctx} (s : State) : exec (.sleepDeadline core ctx) s = execSleepDeadline core ctx s := rfl
@[simp] theorem exec_wiredBarrierRelease {launch} (s : State) : exec (.wiredBarrierRelease launch) s = execWiredBarrierRelease launch s := rfl
@[simp] theorem exec_cableStepTimeout {launch} (s : State) : exec (.cableStepTimeout launch) s = execCableStepTimeout launch s := rfl
@[simp] theorem exec_unitEnd {core} (s : State) : exec (.unitEnd core) s = execUnitEnd core s := rfl
@[simp] theorem exec_engineSlotFill {tile gs} (s : State) : exec (.engineSlotFill tile gs) s = execEngineSlotFill tile gs s := rfl
@[simp] theorem exec_engineTransfer {cmd} (s : State) : exec (.engineTransfer cmd) s = execEngineTransfer cmd s := rfl
@[simp] theorem exec_gatherElement {cmd} (s : State) : exec (.gatherElement cmd) s = execGatherElement cmd s := rfl
@[simp] theorem exec_completionRecord {cmd} (s : State) : exec (.completionRecord cmd) s = execCompletionRecord cmd s := rfl
@[simp] theorem exec_engineFaultReply {cmd} (s : State) : exec (.engineFaultReply cmd) s = execEngineFaultReply cmd s := rfl
@[simp] theorem exec_requestRingRetry {part} (s : State) : exec (.requestRingRetry part) s = execRequestRingRetry part s := rfl
@[simp] theorem exec_updateFlitClose {core entry} (s : State) : exec (.updateFlitClose core entry) s = execUpdateFlitClose core entry s := rfl
@[simp] theorem exec_subscriptionUpdateApply {core entry} (s : State) : exec (.subscriptionUpdateApply core entry) s = execSubscriptionUpdateApply core entry s := rfl
@[simp] theorem exec_sublapse {core} (s : State) : exec (.sublapse core) s = execSublapse core s := rfl
@[simp] theorem exec_leaseExpiry {part id} (s : State) : exec (.leaseExpiry part id) s = execLeaseExpiry part id s := rfl
@[simp] theorem exec_append {part prio size value} (s : State) : exec (.append part prio size value) s = execAppend part prio size value s := rfl
@[simp] theorem exec_launchDequeue {part} (s : State) : exec (.launchDequeue part) s = execLaunchDequeue part s := rfl
@[simp] theorem exec_predecessorTest {launch} (s : State) : exec (.predecessorTest launch) s = execPredecessorTest launch s := rfl
@[simp] theorem exec_placement {part} (s : State) : exec (.placement part) s = execPlacement part s := rfl
@[simp] theorem exec_ageLimitExpiry {launch} (s : State) : exec (.ageLimitExpiry launch) s = execAgeLimitExpiry launch s := rfl
@[simp] theorem exec_spanningTreeMessage {launch tile} (s : State) : exec (.spanningTreeMessage launch tile) s = execSpanningTreeMessage launch tile s := rfl
@[simp] theorem exec_preempt {part} (s : State) : exec (.preempt part) s = execPreempt part s := rfl
@[simp] theorem exec_unitSave {core} (s : State) : exec (.unitSave core) s = execUnitSave core s := rfl
@[simp] theorem exec_unitRestore {launch unit core} (s : State) : exec (.unitRestore launch unit core) s = execUnitRestore launch unit core s := rfl
@[simp] theorem exec_cancellation {part ctr} (s : State) : exec (.cancellation part ctr) s = execCancellation part ctr s := rfl
@[simp] theorem exec_unitCancel {launch unit} (s : State) : exec (.unitCancel launch unit) s = execUnitCancel launch unit s := rfl
@[simp] theorem exec_tilePowerGate {tile} (s : State) : exec (.tilePowerGate tile) s = execTilePowerGate tile s := rfl
@[simp] theorem exec_tileWake {tile} (s : State) : exec (.tileWake tile) s = execTileWake tile s := rfl
@[simp] theorem exec_invalidation {line agent} (s : State) : exec (.invalidation line agent) s = execInvalidation line agent s := rfl
@[simp] theorem exec_forward {line requester} (s : State) : exec (.forward line requester) s = execForward line requester s := rfl
@[simp] theorem exec_translationInvalidateAck {line agent} (s : State) : exec (.translationInvalidateAck line agent) s = execTranslationInvalidateAck line agent s := rfl
@[simp] theorem exec_snpInv {line half} (s : State) : exec (.snpInv line half) s = execSnpInv line half s := rfl
@[simp] theorem exec_snpData {line half} (s : State) : exec (.snpData line half) s = execSnpData line half s := rfl
@[simp] theorem exec_snpCur {line half} (s : State) : exec (.snpCur line half) s = execSnpCur line half s := rfl
@[simp] theorem exec_hostResponse {line answer} (s : State) : exec (.hostResponse line answer) s = execHostResponse line answer s := rfl
@[simp] theorem exec_hostCxlMemAccess {ld addr size op value} (s : State) : exec (.hostCxlMemAccess ld addr size op value) s = execHostCxlMemAccess ld addr size op value s := rfl
@[simp] theorem exec_bisnpResponse {line answer} (s : State) : exec (.bisnpResponse line answer) s = execBisnpResponse line answer s := rfl
@[simp] theorem exec_snoopTimeout {ld} (s : State) : exec (.snoopTimeout ld) s = execSnoopTimeout ld s := rfl
@[simp] theorem exec_peerDeviceTimeout {dev} (s : State) : exec (.peerDeviceTimeout dev) s = execPeerDeviceTimeout dev s := rfl
@[simp] theorem exec_mirrorUpdate {line} (s : State) : exec (.mirrorUpdate line) s = execMirrorUpdate line s := rfl
@[simp] theorem exec_takeoverTimeout {line} (s : State) : exec (.takeoverTimeout line) s = execTakeoverTimeout line s := rfl
@[simp] theorem exec_takeoverRequest {line} (s : State) : exec (.takeoverRequest line) s = execTakeoverRequest line s := rfl
@[simp] theorem exec_stackRemoval {stack} (s : State) : exec (.stackRemoval stack) s = execStackRemoval stack s := rfl
@[simp] theorem exec_linkDown {ld} (s : State) : exec (.linkDown ld) s = execLinkDown ld s := rfl
@[simp] theorem exec_linkUp {ld} (s : State) : exec (.linkUp ld) s = execLinkUp ld s := rfl
@[simp] theorem exec_quarantineHandover {ld buffer} (s : State) : exec (.quarantineHandover ld buffer) s = execQuarantineHandover ld buffer s := rfl
@[simp] theorem exec_hostAcknowledge {ld} (s : State) : exec (.hostAcknowledge ld) s = execHostAcknowledge ld s := rfl
@[simp] theorem exec_correctableError {site stack} (s : State) : exec (.correctableError site stack) s = execCorrectableError site stack s := rfl
@[simp] theorem exec_uncorrectableError {site stack} (s : State) : exec (.uncorrectableError site stack) s = execUncorrectableError site stack s := rfl
@[simp] theorem exec_patrolScrub {line bad} (s : State) : exec (.patrolScrub line bad) s = execPatrolScrub line bad s := rfl
@[simp] theorem exec_masterRelease {master} (s : State) : exec (.masterRelease master) s = execMasterRelease master s := rfl
@[simp] theorem exec_partitionTableWrite {part entry} (s : State) : exec (.partitionTableWrite part entry) s = execPartitionTableWrite part entry s := rfl
@[simp] theorem exec_quiesce {part on} (s : State) : exec (.quiesce part on) s = execQuiesce part on s := rfl
@[simp] theorem exec_clockChangeRequest {stack point} (s : State) : exec (.clockChangeRequest stack point) s = execClockChangeRequest stack point s := rfl
@[simp] theorem exec_clockChangeAck {stack} (s : State) : exec (.clockChangeAck stack) s = execClockChangeAck stack s := rfl
@[simp] theorem exec_clockChangeComplete {stack} (s : State) : exec (.clockChangeComplete stack) s = execClockChangeComplete stack s := rfl
@[simp] theorem exec_powerLimit {watts} (s : State) : exec (.powerLimit watts) s = execPowerLimit watts s := rfl
@[simp] theorem exec_thermalTrip (s : State) : exec (.thermalTrip) s = execThermalTrip s := rfl
@[simp] theorem exec_eventRaise {ld cls} (s : State) : exec (.eventRaise ld cls) s = execEventRaise ld cls s := rfl
@[simp] theorem exec_hostEventDelivery {ld cls fwd} (s : State) : exec (.hostEventDelivery ld cls fwd) s = execHostEventDelivery ld cls fwd s := rfl
@[simp] theorem exec_eventOwnerWrite {ld cls code} (s : State) : exec (.eventOwnerWrite ld cls code) s = execEventOwnerWrite ld cls code s := rfl
@[simp] theorem exec_avlynRestart {n entry} (s : State) : exec (.avlynRestart n entry) s = execAvlynRestart n entry s := rfl
@[simp] theorem exec_moduleReset (s : State) : exec (.moduleReset) s = execModuleReset s := rfl
@[simp] theorem exec_recoveryImage {image} (s : State) : exec (.recoveryImage image) s = execRecoveryImage image s := rfl
@[simp] theorem exec_powerOn (s : State) : exec (.powerOn) s = execPowerOn s := rfl
@[simp] theorem exec_getVersion (s : State) : exec (.getVersion) s = execGetVersion s := rfl
@[simp] theorem exec_getCapabilities (s : State) : exec (.getCapabilities) s = execGetCapabilities s := rfl
@[simp] theorem exec_negotiateAlgorithms {sm2 sm3} (s : State) : exec (.negotiateAlgorithms sm2 sm3) s = execNegotiateAlgorithms sm2 sm3 s := rfl
@[simp] theorem exec_getDigests (s : State) : exec (.getDigests) s = execGetDigests s := rfl
@[simp] theorem exec_getCertificate (s : State) : exec (.getCertificate) s = execGetCertificate s := rfl
@[simp] theorem exec_challenge {nonce} (s : State) : exec (.challenge nonce) s = execChallenge nonce s := rfl
@[simp] theorem exec_getMeasurements {index nonce} (s : State) : exec (.getMeasurements index nonce) s = execGetMeasurements index nonce s := rfl
@[simp] theorem exec_illegalEncoding {hw} (s : State) : exec (.illegalEncoding hw) s = execIllegalEncoding hw s := rfl
@[simp] theorem exec_instructionFetchFault {cause addr} (s : State) : exec (.instructionFetchFault cause addr) s = execInstructionFetchFault cause addr s := rfl
@[simp] theorem exec_peerDeviceRequest {dev part va size op value} (s : State) : exec (.peerDeviceRequest dev part va size op value) s = execPeerDeviceRequest dev part va size op value s := rfl
@[simp] theorem exec_portLinkLoss {ld port} (s : State) : exec (.portLinkLoss ld port) s = execPortLinkLoss ld port s := rfl

end Sys2Proof.Machine
end

