-- ==== Sys2Proof/Laws/SMap.lean ====
section
/-! SUPPORT. Laws of the sparse maps, sets and byte stores: reading after writing, and that writing keeps the canonical form. -/

namespace Sys2Proof.Machine

/-! ### Maps -/

@[simp] theorem smapGet?_smapSet_same {α : Type} (m : SMap α) (k : Nat) (v : α) : smapGet? (smapSet m k v) k = some v := by
  induction m with
  | nil => simp [smapSet, smapGet?]
  | cons e t ih =>
    unfold smapSet
    split
    · simp [smapGet?]
    · split
      · simp [smapGet?]
      · rename_i h _; simp [smapGet?, h, ih]

theorem smapGet?_smapSet_ne {α : Type} (m : SMap α) {k j : Nat} (v : α) (h : k ≠ j) :
    smapGet? (smapSet m k v) j = smapGet? m j := by
  induction m with
  | nil => simp [smapSet, smapGet?, h]
  | cons e t ih =>
    unfold smapSet
    split
    · rename_i e1; subst e1; simp [smapGet?, h]
    · split
      · simp [smapGet?, h]
      · simp [smapGet?, ih]

theorem smapGet?_smapSet {α : Type} (m : SMap α) (k j : Nat) (v : α) :
    smapGet? (smapSet m k v) j = if j = k then some v else smapGet? m j := by
  split
  · rename_i h; subst h; simp
  · rename_i h; exact smapGet?_smapSet_ne m v (Ne.symm h)

@[simp] theorem smapSet_smapSet {α : Type} (m : SMap α) (k : Nat) (v w : α) : smapSet (smapSet m k v) k w = smapSet m k w := by
  induction m with
  | nil => simp [smapSet]
  | cons e t ih =>
    obtain ⟨a, x⟩ := e
    by_cases h1 : a = k
    · simp [smapSet, h1]
    · by_cases h2 : k < a
      · simp [smapSet, h1, h2]
      · simp [smapSet, h1, h2, ih]

theorem smapGet?_smapErase {α : Type} (m : SMap α) (k j : Nat) :
    smapGet? (smapErase m k) j = if j = k then none else smapGet? m j := by
  induction m with
  | nil => simp [smapErase, smapGet?]
  | cons e t ih =>
    obtain ⟨a, x⟩ := e
    unfold smapErase at *
    by_cases h : a = k
    · subst h
      by_cases hj : j = a
      · subst hj; simpa using ih
      · simp [ih, smapGet?, hj, Ne.symm hj]
    · by_cases hj : a = j
      · subst hj; simp [h, smapGet?]
      · simp [h, smapGet?, hj, ih]

/-! ### The byte store -/

/-- Reading one byte after writing one. -/
theorem bytesGet_bytesSet (m : Bytes) (a b : Nat) (v : Byte) : bytesGet (bytesSet m a v) b = if b = a then v else bytesGet m b := by
  unfold bytesGet bytesSet
  by_cases hv : v = 0
  · subst hv
    by_cases h : b = a <;> simp [smapGet?_smapErase, h]
  · rw [if_neg hv, smapGet?_smapSet]
    by_cases h : b = a <;> simp [h]

/-- Reading one byte after a write of `n` bytes: inside the written range its byte of the value, outside what was there. -/
theorem bytesGet_bytesWrite (m : Bytes) (a n v b : Nat) :
    bytesGet (bytesWrite m a n v) b = if a ≤ b ∧ b < a + n then BitVec.ofNat 8 (v / 256 ^ (b - a)) else bytesGet m b := by
  induction n generalizing m a v with
  | zero => simp [bytesWrite]
  | succ n ih =>
    rw [bytesWrite, ih, bytesGet_bytesSet]
    by_cases h0 : b = a
    · subst h0; simp
    · by_cases h1 : a + 1 ≤ b ∧ b < a + 1 + n
      · have h2 : a ≤ b ∧ b < a + (n + 1) := by omega
        have h3 : b - a = (b - (a + 1)) + 1 := by omega
        rw [if_pos h1, if_pos h2, h3, Nat.pow_succ, Nat.mul_comm, Nat.div_div_eq_div_mul]
      · have h2 : ¬(a ≤ b ∧ b < a + (n + 1)) := by omega
        rw [if_neg h1, if_neg h2, if_neg h0]

theorem bytesRead_lt (m : Bytes) (a n : Nat) : bytesRead m a n < 256 ^ n := by
  induction n generalizing a with
  | zero => simp [bytesRead]
  | succ n ih =>
    have h := ih (a + 1)
    have hb := (bytesGet m a).isLt
    rw [bytesRead, Nat.pow_succ]
    omega

theorem bytesRead_congr {m m' : Bytes} {a n : Nat} (h : ∀ b, a ≤ b → b < a + n → bytesGet m b = bytesGet m' b) :
    bytesRead m a n = bytesRead m' a n := by
  induction n generalizing a with
  | zero => rfl
  | succ n ih =>
    rw [bytesRead, bytesRead, h a (by omega) (by omega), ih fun b h1 h2 => h b (by omega) (by omega)]

/-- Reading back what was written. -/
theorem bytesRead_bytesWrite_same (m : Bytes) (a n v : Nat) : bytesRead (bytesWrite m a n v) a n = v % 256 ^ n := by
  induction n generalizing m a v with
  | zero => simp [bytesRead, Nat.mod_one]
  | succ n ih =>
    rw [bytesRead, bytesGet_bytesWrite, if_pos (by omega), bytesWrite, ih]
    simp only [Nat.sub_self, Nat.pow_zero, Nat.div_one, BitVec.toNat_ofNat]
    rw [show (2 : Nat) ^ 8 = 256 from rfl, Nat.pow_succ, Nat.mul_comm (256 ^ n) 256, Nat.mod_mul]

/-- A write leaves what lies apart from it. -/
theorem bytesRead_bytesWrite_apart (m : Bytes) {a n b k : Nat} (v : Nat) (h : b + k ≤ a ∨ a + n ≤ b) :
    bytesRead (bytesWrite m a n v) b k = bytesRead m b k :=
  bytesRead_congr fun c _ _ => by rw [bytesGet_bytesWrite, if_neg (by omega)]

/-! ### The canonical form -/

/-- The canonical form of the byte store, as propositions. -/
theorem bytesWf_iff (m : Bytes) : bytesWf m = true ↔ (m.map (·.1)).Pairwise (· < ·) ∧ ∀ e ∈ m, e.2 ≠ 0 := by
  simp [bytesWf]

theorem mem_smapSet {α : Type} {m : SMap α} {k : Nat} {v : α} {e : Nat × α} (h : e ∈ smapSet m k v) : e = (k, v) ∨ e ∈ m := by
  induction m with
  | nil => simpa [smapSet] using h
  | cons x t ih =>
    unfold smapSet at h
    split at h
    · simp at h; tauto
    · split at h
      · simpa using h
      · simp at h
        rcases h with h | h
        · simp [h]
        · rcases ih h with h | h <;> simp [h]

theorem smapSet_sorted {α : Type} {m : SMap α} (h : (m.map (·.1)).Pairwise (· < ·)) (k : Nat) (v : α) :
    ((smapSet m k v).map (·.1)).Pairwise (· < ·) := by
  induction m with
  | nil => simp [smapSet]
  | cons x t ih =>
    obtain ⟨a, y⟩ := x
    simp only [List.map_cons, List.pairwise_cons] at h
    unfold smapSet
    split
    · rename_i e; subst e; simpa using h
    · split
      · rename_i hk
        simp only [List.map_cons, List.pairwise_cons]
        refine ⟨fun b hb => ?_, h⟩
        rcases List.mem_cons.mp hb with hb | hb
        · omega
        · have := h.1 b hb; omega
      · rename_i hne hk
        simp only [List.map_cons, List.pairwise_cons]
        refine ⟨fun b hb => ?_, ih h.2⟩
        obtain ⟨e, he, rfl⟩ := List.mem_map.mp hb
        rcases mem_smapSet he with rfl | he
        · simp only; omega
        · exact h.1 _ (List.mem_map_of_mem he)

theorem bytesSet_wf {m : Bytes} (h : bytesWf m = true) (a : Nat) (v : Byte) : bytesWf (bytesSet m a v) = true := by
  rw [bytesWf_iff] at *
  unfold bytesSet
  split
  · exact ⟨h.1.sublist ((List.filter_sublist).map _), fun e he => h.2 e (List.mem_of_mem_filter he)⟩
  · rename_i hv
    refine ⟨smapSet_sorted h.1 a v, fun e he => ?_⟩
    rcases mem_smapSet he with rfl | he
    · exact hv
    · exact h.2 e he

theorem bytesWrite_wf {m : Bytes} (h : bytesWf m = true) (a n v : Nat) : bytesWf (bytesWrite m a n v) = true := by
  induction n generalizing m a v with
  | zero => exact h
  | succ n ih => exact ih (bytesSet_wf h _ _) _ _

theorem bytesFilter_wf {m : Bytes} (h : bytesWf m = true) (p : Nat × Byte → Bool) : bytesWf (m.filter p) = true := by
  rw [bytesWf_iff] at *
  exact ⟨h.1.sublist ((List.filter_sublist).map _), fun e he => h.2 e (List.mem_of_mem_filter he)⟩

/-- Two stores in canonical form that read alike are equal. -/
theorem bytes_ext {m m' : Bytes} (h : bytesWf m = true) (h' : bytesWf m' = true) (e : ∀ a, bytesGet m a = bytesGet m' a) : m = m' := by
  have gone : ∀ {l : Bytes} {a : Nat}, (∀ x ∈ l, a < x.1) → bytesGet l a = 0 := by
    intro l a hl
    induction l with
    | nil => rfl
    | cons x t ih =>
      have h1 := hl x (by simp)
      have h2 := ih fun y hy => hl y (by simp [hy])
      unfold bytesGet at *
      rw [smapGet?, if_neg (by omega)]
      exact h2
  induction m generalizing m' with
  | nil =>
    cases m' with
    | nil => rfl
    | cons x t =>
      have h1 := e x.1
      rw [bytesWf_iff] at h'
      exact absurd (by simpa [bytesGet, smapGet?] using h1.symm) (h'.2 x (by simp))
  | cons x t ih =>
    cases m' with
    | nil =>
      have h1 := e x.1
      rw [bytesWf_iff] at h
      exact absurd (by simpa [bytesGet, smapGet?] using h1) (h.2 x (by simp))
    | cons y u =>
      rw [bytesWf_iff] at h h'
      simp only [List.map_cons, List.pairwise_cons] at h h'
      have hx := h.2 x (by simp)
      have hy := h'.2 y (by simp)
      have tail (l : Bytes) (z : Nat × Byte) (hz : ∀ b ∈ l.map (·.1), z.1 < b) : ∀ w ∈ l, z.1 < w.1 :=
        fun w hw => hz _ (List.mem_map_of_mem hw)
      have hxy : x.1 = y.1 := by
        rcases Nat.lt_trichotomy x.1 y.1 with hl | hl | hl
        · have h1 := e x.1
          rw [gone (l := y :: u) (a := x.1)] at h1
          · exact absurd (by simpa [bytesGet, smapGet?] using h1) hx
          · intro w hw
            rcases List.mem_cons.mp hw with rfl | hw
            · exact hl
            · have := tail u y h'.1.1 w hw; omega
        · exact hl
        · have h1 := e y.1
          rw [gone (l := x :: t) (a := y.1)] at h1
          · exact absurd (by simpa [bytesGet, smapGet?] using h1.symm) hy
          · intro w hw
            rcases List.mem_cons.mp hw with rfl | hw
            · exact hl
            · have := tail t x h.1.1 w hw; omega
      have hv : x.2 = y.2 := by
        have h1 := e x.1
        simpa [bytesGet, smapGet?, hxy] using h1
      have : t = u := by
        refine ih ((bytesWf_iff t).mpr ⟨h.1.2, fun w hw => h.2 w (by simp [hw])⟩)
          ((bytesWf_iff u).mpr ⟨h'.1.2, fun w hw => h'.2 w (by simp [hw])⟩) fun a => ?_
        by_cases ha : x.1 = a
        · rw [gone (l := t), gone (l := u)]
          · subst ha; rw [hxy]; exact tail u y h'.1.1
          · subst ha; exact tail t x h.1.1
        · have h1 := e a
          simpa [bytesGet, smapGet?, ha, ← hxy] using h1
      rw [this, Prod.ext hxy hv]

/-! ### Sets -/

theorem setWf_iff (l : NatSet) : setWf l = true ↔ l.Pairwise (· < ·) := by simp [setWf]

theorem mem_setInsert {l : NatSet} {n m : Nat} : m ∈ setInsert l n ↔ m = n ∨ m ∈ l := by
  induction l with
  | nil => simp [setInsert]
  | cons h t ih =>
    unfold setInsert
    split
    · rename_i e; subst e; simp
    · split
      · simp
      · simp [ih]; tauto

theorem mem_setErase {l : NatSet} {n m : Nat} : m ∈ setErase l n ↔ m ∈ l ∧ m ≠ n := by simp [setErase]

theorem setInsert_wf {l : NatSet} (h : setWf l = true) (n : Nat) : setWf (setInsert l n) = true := by
  rw [setWf_iff] at *
  induction l with
  | nil => simp [setInsert]
  | cons a t ih =>
    rw [List.pairwise_cons] at h
    unfold setInsert
    split
    · exact List.pairwise_cons.mpr h
    · split
      · refine List.pairwise_cons.mpr ⟨fun b hb => ?_, List.pairwise_cons.mpr h⟩
        rcases List.mem_cons.mp hb with rfl | hb
        · assumption
        · have := h.1 b hb; omega
      · refine List.pairwise_cons.mpr ⟨fun b hb => ?_, ih h.2⟩
        rcases mem_setInsert.mp hb with rfl | hb
        · omega
        · exact h.1 b hb

theorem setFilter_wf {l : NatSet} (h : setWf l = true) (p : Nat → Bool) : setWf (l.filter p) = true := by
  rw [setWf_iff] at *
  exact h.sublist List.filter_sublist

theorem setErase_wf {l : NatSet} (h : setWf l = true) (n : Nat) : setWf (setErase l n) = true := setFilter_wf h _

theorem foldl_setInsert_wf {l : NatSet} (h : setWf l = true) (xs : List Nat) : setWf (xs.foldl setInsert l) = true := by
  induction xs generalizing l with
  | nil => exact h
  | cons x t ih => exact ih (setInsert_wf h x)

end Sys2Proof.Machine
end

