-- ==== Sys2Proof/Laws/State.lean ====
section
/-! SUPPORT. What each update of the state leaves: one law per field. -/

namespace Sys2Proof.Machine

/-! ### `setCore` -/

@[simp] theorem State.setCore_mem (s : State) (n : Nat) (c : Core) : (s.setCore n c).mem = s.mem := rfl
@[simp] theorem State.setCore_sram (s : State) (n : Nat) (c : Core) : (s.setCore n c).sram = s.sram := rfl
@[simp] theorem State.setCore_rows (s : State) (n : Nat) (c : Core) : (s.setCore n c).rows = s.rows := rfl
@[simp] theorem State.setCore_cmds (s : State) (n : Nat) (c : Core) : (s.setCore n c).cmds = s.cmds := rfl
@[simp] theorem State.setCore_lastServed (s : State) (n : Nat) (c : Core) : (s.setCore n c).lastServed = s.lastServed := rfl
@[simp] theorem State.setCore_parts (s : State) (n : Nat) (c : Core) : (s.setCore n c).parts = s.parts := rfl
@[simp] theorem State.setCore_pstate (s : State) (n : Nat) (c : Core) : (s.setCore n c).pstate = s.pstate := rfl
@[simp] theorem State.setCore_device (s : State) (n : Nat) (c : Core) : (s.setCore n c).device = s.device := rfl
@[simp] theorem State.setCore_launches (s : State) (n : Nat) (c : Core) : (s.setCore n c).launches = s.launches := rfl
@[simp] theorem State.setCore_tree (s : State) (n : Nat) (c : Core) : (s.setCore n c).tree = s.tree := rfl
@[simp] theorem State.setCore_tiles (s : State) (n : Nat) (c : Core) : (s.setCore n c).tiles = s.tiles := rfl
@[simp] theorem State.setCore_mailbox (s : State) (n : Nat) (c : Core) : (s.setCore n c).mailbox = s.mailbox := rfl
@[simp] theorem State.setCore_time (s : State) (n : Nat) (c : Core) : (s.setCore n c).time = s.time := rfl
@[simp] theorem State.setCore_dir (s : State) (n : Nat) (c : Core) : (s.setCore n c).dir = s.dir := rfl
@[simp] theorem State.setCore_bridge (s : State) (n : Nat) (c : Core) : (s.setCore n c).bridge = s.bridge := rfl
@[simp] theorem State.setCore_hostHeld (s : State) (n : Nat) (c : Core) : (s.setCore n c).hostHeld = s.hostHeld := rfl
@[simp] theorem State.setCore_lds (s : State) (n : Nat) (c : Core) : (s.setCore n c).lds = s.lds := rfl
@[simp] theorem State.setCore_peers (s : State) (n : Nat) (c : Core) : (s.setCore n c).peers = s.peers := rfl
@[simp] theorem State.setCore_clocks (s : State) (n : Nat) (c : Core) : (s.setCore n c).clocks = s.clocks := rfl
@[simp] theorem State.setCore_watts (s : State) (n : Nat) (c : Core) : (s.setCore n c).watts = s.watts := rfl
@[simp] theorem State.setCore_stopped (s : State) (n : Nat) (c : Core) : (s.setCore n c).stopped = s.stopped := rfl
@[simp] theorem State.setCore_removed (s : State) (n : Nat) (c : Core) : (s.setCore n c).removed = s.removed := rfl
@[simp] theorem State.setCore_caches (s : State) (n : Nat) (c : Core) : (s.setCore n c).caches = s.caches := rfl
@[simp] theorem State.setCore_heldBus (s : State) (n : Nat) (c : Core) : (s.setCore n c).heldBus = s.heldBus := rfl
@[simp] theorem State.setCore_telemetry (s : State) (n : Nat) (c : Core) : (s.setCore n c).telemetry = s.telemetry := rfl
@[simp] theorem State.setCore_fw (s : State) (n : Nat) (c : Core) : (s.setCore n c).fw = s.fw := rfl
@[simp] theorem State.setCore_hand (s : State) (n : Nat) (c : Core) : (s.setCore n c).hand = s.hand := rfl
@[simp] theorem State.setCore_agenda (s : State) (n : Nat) (c : Core) : (s.setCore n c).agenda = s.agenda := rfl
@[simp] theorem State.setCore_devTurn (s : State) (n : Nat) (c : Core) : (s.setCore n c).devTurn = s.devTurn := rfl
@[simp] theorem State.setCore_turn (s : State) (n : Nat) (c : Core) : (s.setCore n c).turn = s.turn := rfl
@[simp] theorem State.setCore_beat (s : State) (n : Nat) (c : Core) : (s.setCore n c).beat = s.beat := rfl
@[simp] theorem State.setCore_pace (s : State) (n : Nat) (c : Core) : (s.setCore n c).pace = s.pace := rfl
@[simp] theorem State.setCore_fresh (s : State) (n : Nat) (c : Core) : (s.setCore n c).fresh = s.fresh := rfl
@[simp] theorem State.setCore_nextId (s : State) (n : Nat) (c : Core) : (s.setCore n c).nextId = s.nextId := rfl

/-! ### `modMe` -/

@[simp] theorem State.modMe_mem (s : State) (f : Core → Core) : (s.modMe f).mem = s.mem := rfl
@[simp] theorem State.modMe_sram (s : State) (f : Core → Core) : (s.modMe f).sram = s.sram := rfl
@[simp] theorem State.modMe_rows (s : State) (f : Core → Core) : (s.modMe f).rows = s.rows := rfl
@[simp] theorem State.modMe_cmds (s : State) (f : Core → Core) : (s.modMe f).cmds = s.cmds := rfl
@[simp] theorem State.modMe_lastServed (s : State) (f : Core → Core) : (s.modMe f).lastServed = s.lastServed := rfl
@[simp] theorem State.modMe_parts (s : State) (f : Core → Core) : (s.modMe f).parts = s.parts := rfl
@[simp] theorem State.modMe_pstate (s : State) (f : Core → Core) : (s.modMe f).pstate = s.pstate := rfl
@[simp] theorem State.modMe_device (s : State) (f : Core → Core) : (s.modMe f).device = s.device := rfl
@[simp] theorem State.modMe_launches (s : State) (f : Core → Core) : (s.modMe f).launches = s.launches := rfl
@[simp] theorem State.modMe_tree (s : State) (f : Core → Core) : (s.modMe f).tree = s.tree := rfl
@[simp] theorem State.modMe_tiles (s : State) (f : Core → Core) : (s.modMe f).tiles = s.tiles := rfl
@[simp] theorem State.modMe_mailbox (s : State) (f : Core → Core) : (s.modMe f).mailbox = s.mailbox := rfl
@[simp] theorem State.modMe_time (s : State) (f : Core → Core) : (s.modMe f).time = s.time := rfl
@[simp] theorem State.modMe_dir (s : State) (f : Core → Core) : (s.modMe f).dir = s.dir := rfl
@[simp] theorem State.modMe_bridge (s : State) (f : Core → Core) : (s.modMe f).bridge = s.bridge := rfl
@[simp] theorem State.modMe_hostHeld (s : State) (f : Core → Core) : (s.modMe f).hostHeld = s.hostHeld := rfl
@[simp] theorem State.modMe_lds (s : State) (f : Core → Core) : (s.modMe f).lds = s.lds := rfl
@[simp] theorem State.modMe_peers (s : State) (f : Core → Core) : (s.modMe f).peers = s.peers := rfl
@[simp] theorem State.modMe_clocks (s : State) (f : Core → Core) : (s.modMe f).clocks = s.clocks := rfl
@[simp] theorem State.modMe_watts (s : State) (f : Core → Core) : (s.modMe f).watts = s.watts := rfl
@[simp] theorem State.modMe_stopped (s : State) (f : Core → Core) : (s.modMe f).stopped = s.stopped := rfl
@[simp] theorem State.modMe_removed (s : State) (f : Core → Core) : (s.modMe f).removed = s.removed := rfl
@[simp] theorem State.modMe_caches (s : State) (f : Core → Core) : (s.modMe f).caches = s.caches := rfl
@[simp] theorem State.modMe_heldBus (s : State) (f : Core → Core) : (s.modMe f).heldBus = s.heldBus := rfl
@[simp] theorem State.modMe_telemetry (s : State) (f : Core → Core) : (s.modMe f).telemetry = s.telemetry := rfl
@[simp] theorem State.modMe_fw (s : State) (f : Core → Core) : (s.modMe f).fw = s.fw := rfl
@[simp] theorem State.modMe_hand (s : State) (f : Core → Core) : (s.modMe f).hand = s.hand := rfl
@[simp] theorem State.modMe_agenda (s : State) (f : Core → Core) : (s.modMe f).agenda = s.agenda := rfl
@[simp] theorem State.modMe_devTurn (s : State) (f : Core → Core) : (s.modMe f).devTurn = s.devTurn := rfl
@[simp] theorem State.modMe_turn (s : State) (f : Core → Core) : (s.modMe f).turn = s.turn := rfl
@[simp] theorem State.modMe_beat (s : State) (f : Core → Core) : (s.modMe f).beat = s.beat := rfl
@[simp] theorem State.modMe_pace (s : State) (f : Core → Core) : (s.modMe f).pace = s.pace := rfl
@[simp] theorem State.modMe_fresh (s : State) (f : Core → Core) : (s.modMe f).fresh = s.fresh := rfl
@[simp] theorem State.modMe_nextId (s : State) (f : Core → Core) : (s.modMe f).nextId = s.nextId := rfl

/-! ### `modMy` -/

@[simp] theorem State.modMy_mem (s : State) (f : Context → Context) : (s.modMy f).mem = s.mem := rfl
@[simp] theorem State.modMy_sram (s : State) (f : Context → Context) : (s.modMy f).sram = s.sram := rfl
@[simp] theorem State.modMy_rows (s : State) (f : Context → Context) : (s.modMy f).rows = s.rows := rfl
@[simp] theorem State.modMy_cmds (s : State) (f : Context → Context) : (s.modMy f).cmds = s.cmds := rfl
@[simp] theorem State.modMy_lastServed (s : State) (f : Context → Context) : (s.modMy f).lastServed = s.lastServed := rfl
@[simp] theorem State.modMy_parts (s : State) (f : Context → Context) : (s.modMy f).parts = s.parts := rfl
@[simp] theorem State.modMy_pstate (s : State) (f : Context → Context) : (s.modMy f).pstate = s.pstate := rfl
@[simp] theorem State.modMy_device (s : State) (f : Context → Context) : (s.modMy f).device = s.device := rfl
@[simp] theorem State.modMy_launches (s : State) (f : Context → Context) : (s.modMy f).launches = s.launches := rfl
@[simp] theorem State.modMy_tree (s : State) (f : Context → Context) : (s.modMy f).tree = s.tree := rfl
@[simp] theorem State.modMy_tiles (s : State) (f : Context → Context) : (s.modMy f).tiles = s.tiles := rfl
@[simp] theorem State.modMy_mailbox (s : State) (f : Context → Context) : (s.modMy f).mailbox = s.mailbox := rfl
@[simp] theorem State.modMy_time (s : State) (f : Context → Context) : (s.modMy f).time = s.time := rfl
@[simp] theorem State.modMy_dir (s : State) (f : Context → Context) : (s.modMy f).dir = s.dir := rfl
@[simp] theorem State.modMy_bridge (s : State) (f : Context → Context) : (s.modMy f).bridge = s.bridge := rfl
@[simp] theorem State.modMy_hostHeld (s : State) (f : Context → Context) : (s.modMy f).hostHeld = s.hostHeld := rfl
@[simp] theorem State.modMy_lds (s : State) (f : Context → Context) : (s.modMy f).lds = s.lds := rfl
@[simp] theorem State.modMy_peers (s : State) (f : Context → Context) : (s.modMy f).peers = s.peers := rfl
@[simp] theorem State.modMy_clocks (s : State) (f : Context → Context) : (s.modMy f).clocks = s.clocks := rfl
@[simp] theorem State.modMy_watts (s : State) (f : Context → Context) : (s.modMy f).watts = s.watts := rfl
@[simp] theorem State.modMy_stopped (s : State) (f : Context → Context) : (s.modMy f).stopped = s.stopped := rfl
@[simp] theorem State.modMy_removed (s : State) (f : Context → Context) : (s.modMy f).removed = s.removed := rfl
@[simp] theorem State.modMy_caches (s : State) (f : Context → Context) : (s.modMy f).caches = s.caches := rfl
@[simp] theorem State.modMy_heldBus (s : State) (f : Context → Context) : (s.modMy f).heldBus = s.heldBus := rfl
@[simp] theorem State.modMy_telemetry (s : State) (f : Context → Context) : (s.modMy f).telemetry = s.telemetry := rfl
@[simp] theorem State.modMy_fw (s : State) (f : Context → Context) : (s.modMy f).fw = s.fw := rfl
@[simp] theorem State.modMy_hand (s : State) (f : Context → Context) : (s.modMy f).hand = s.hand := rfl
@[simp] theorem State.modMy_agenda (s : State) (f : Context → Context) : (s.modMy f).agenda = s.agenda := rfl
@[simp] theorem State.modMy_devTurn (s : State) (f : Context → Context) : (s.modMy f).devTurn = s.devTurn := rfl
@[simp] theorem State.modMy_turn (s : State) (f : Context → Context) : (s.modMy f).turn = s.turn := rfl
@[simp] theorem State.modMy_beat (s : State) (f : Context → Context) : (s.modMy f).beat = s.beat := rfl
@[simp] theorem State.modMy_pace (s : State) (f : Context → Context) : (s.modMy f).pace = s.pace := rfl
@[simp] theorem State.modMy_fresh (s : State) (f : Context → Context) : (s.modMy f).fresh = s.fresh := rfl
@[simp] theorem State.modMy_nextId (s : State) (f : Context → Context) : (s.modMy f).nextId = s.nextId := rfl

/-! ### `setPc` -/

@[simp] theorem State.setPc_mem (s : State) (pc : Word) : (s.setPc pc).mem = s.mem := rfl
@[simp] theorem State.setPc_sram (s : State) (pc : Word) : (s.setPc pc).sram = s.sram := rfl
@[simp] theorem State.setPc_rows (s : State) (pc : Word) : (s.setPc pc).rows = s.rows := rfl
@[simp] theorem State.setPc_cmds (s : State) (pc : Word) : (s.setPc pc).cmds = s.cmds := rfl
@[simp] theorem State.setPc_lastServed (s : State) (pc : Word) : (s.setPc pc).lastServed = s.lastServed := rfl
@[simp] theorem State.setPc_parts (s : State) (pc : Word) : (s.setPc pc).parts = s.parts := rfl
@[simp] theorem State.setPc_pstate (s : State) (pc : Word) : (s.setPc pc).pstate = s.pstate := rfl
@[simp] theorem State.setPc_device (s : State) (pc : Word) : (s.setPc pc).device = s.device := rfl
@[simp] theorem State.setPc_launches (s : State) (pc : Word) : (s.setPc pc).launches = s.launches := rfl
@[simp] theorem State.setPc_tree (s : State) (pc : Word) : (s.setPc pc).tree = s.tree := rfl
@[simp] theorem State.setPc_tiles (s : State) (pc : Word) : (s.setPc pc).tiles = s.tiles := rfl
@[simp] theorem State.setPc_mailbox (s : State) (pc : Word) : (s.setPc pc).mailbox = s.mailbox := rfl
@[simp] theorem State.setPc_time (s : State) (pc : Word) : (s.setPc pc).time = s.time := rfl
@[simp] theorem State.setPc_dir (s : State) (pc : Word) : (s.setPc pc).dir = s.dir := rfl
@[simp] theorem State.setPc_bridge (s : State) (pc : Word) : (s.setPc pc).bridge = s.bridge := rfl
@[simp] theorem State.setPc_hostHeld (s : State) (pc : Word) : (s.setPc pc).hostHeld = s.hostHeld := rfl
@[simp] theorem State.setPc_lds (s : State) (pc : Word) : (s.setPc pc).lds = s.lds := rfl
@[simp] theorem State.setPc_peers (s : State) (pc : Word) : (s.setPc pc).peers = s.peers := rfl
@[simp] theorem State.setPc_clocks (s : State) (pc : Word) : (s.setPc pc).clocks = s.clocks := rfl
@[simp] theorem State.setPc_watts (s : State) (pc : Word) : (s.setPc pc).watts = s.watts := rfl
@[simp] theorem State.setPc_stopped (s : State) (pc : Word) : (s.setPc pc).stopped = s.stopped := rfl
@[simp] theorem State.setPc_removed (s : State) (pc : Word) : (s.setPc pc).removed = s.removed := rfl
@[simp] theorem State.setPc_caches (s : State) (pc : Word) : (s.setPc pc).caches = s.caches := rfl
@[simp] theorem State.setPc_heldBus (s : State) (pc : Word) : (s.setPc pc).heldBus = s.heldBus := rfl
@[simp] theorem State.setPc_telemetry (s : State) (pc : Word) : (s.setPc pc).telemetry = s.telemetry := rfl
@[simp] theorem State.setPc_fw (s : State) (pc : Word) : (s.setPc pc).fw = s.fw := rfl
@[simp] theorem State.setPc_hand (s : State) (pc : Word) : (s.setPc pc).hand = s.hand := rfl
@[simp] theorem State.setPc_agenda (s : State) (pc : Word) : (s.setPc pc).agenda = s.agenda := rfl
@[simp] theorem State.setPc_devTurn (s : State) (pc : Word) : (s.setPc pc).devTurn = s.devTurn := rfl
@[simp] theorem State.setPc_turn (s : State) (pc : Word) : (s.setPc pc).turn = s.turn := rfl
@[simp] theorem State.setPc_beat (s : State) (pc : Word) : (s.setPc pc).beat = s.beat := rfl
@[simp] theorem State.setPc_pace (s : State) (pc : Word) : (s.setPc pc).pace = s.pace := rfl
@[simp] theorem State.setPc_fresh (s : State) (pc : Word) : (s.setPc pc).fresh = s.fresh := rfl
@[simp] theorem State.setPc_nextId (s : State) (pc : Word) : (s.setPc pc).nextId = s.nextId := rfl

/-! ### `orFlags` -/

@[simp] theorem State.orFlags_mem (s : State) (f : FFlags) : (s.orFlags f).mem = s.mem := rfl
@[simp] theorem State.orFlags_sram (s : State) (f : FFlags) : (s.orFlags f).sram = s.sram := rfl
@[simp] theorem State.orFlags_rows (s : State) (f : FFlags) : (s.orFlags f).rows = s.rows := rfl
@[simp] theorem State.orFlags_cmds (s : State) (f : FFlags) : (s.orFlags f).cmds = s.cmds := rfl
@[simp] theorem State.orFlags_lastServed (s : State) (f : FFlags) : (s.orFlags f).lastServed = s.lastServed := rfl
@[simp] theorem State.orFlags_parts (s : State) (f : FFlags) : (s.orFlags f).parts = s.parts := rfl
@[simp] theorem State.orFlags_pstate (s : State) (f : FFlags) : (s.orFlags f).pstate = s.pstate := rfl
@[simp] theorem State.orFlags_device (s : State) (f : FFlags) : (s.orFlags f).device = s.device := rfl
@[simp] theorem State.orFlags_launches (s : State) (f : FFlags) : (s.orFlags f).launches = s.launches := rfl
@[simp] theorem State.orFlags_tree (s : State) (f : FFlags) : (s.orFlags f).tree = s.tree := rfl
@[simp] theorem State.orFlags_tiles (s : State) (f : FFlags) : (s.orFlags f).tiles = s.tiles := rfl
@[simp] theorem State.orFlags_mailbox (s : State) (f : FFlags) : (s.orFlags f).mailbox = s.mailbox := rfl
@[simp] theorem State.orFlags_time (s : State) (f : FFlags) : (s.orFlags f).time = s.time := rfl
@[simp] theorem State.orFlags_dir (s : State) (f : FFlags) : (s.orFlags f).dir = s.dir := rfl
@[simp] theorem State.orFlags_bridge (s : State) (f : FFlags) : (s.orFlags f).bridge = s.bridge := rfl
@[simp] theorem State.orFlags_hostHeld (s : State) (f : FFlags) : (s.orFlags f).hostHeld = s.hostHeld := rfl
@[simp] theorem State.orFlags_lds (s : State) (f : FFlags) : (s.orFlags f).lds = s.lds := rfl
@[simp] theorem State.orFlags_peers (s : State) (f : FFlags) : (s.orFlags f).peers = s.peers := rfl
@[simp] theorem State.orFlags_clocks (s : State) (f : FFlags) : (s.orFlags f).clocks = s.clocks := rfl
@[simp] theorem State.orFlags_watts (s : State) (f : FFlags) : (s.orFlags f).watts = s.watts := rfl
@[simp] theorem State.orFlags_stopped (s : State) (f : FFlags) : (s.orFlags f).stopped = s.stopped := rfl
@[simp] theorem State.orFlags_removed (s : State) (f : FFlags) : (s.orFlags f).removed = s.removed := rfl
@[simp] theorem State.orFlags_caches (s : State) (f : FFlags) : (s.orFlags f).caches = s.caches := rfl
@[simp] theorem State.orFlags_heldBus (s : State) (f : FFlags) : (s.orFlags f).heldBus = s.heldBus := rfl
@[simp] theorem State.orFlags_telemetry (s : State) (f : FFlags) : (s.orFlags f).telemetry = s.telemetry := rfl
@[simp] theorem State.orFlags_fw (s : State) (f : FFlags) : (s.orFlags f).fw = s.fw := rfl
@[simp] theorem State.orFlags_hand (s : State) (f : FFlags) : (s.orFlags f).hand = s.hand := rfl
@[simp] theorem State.orFlags_agenda (s : State) (f : FFlags) : (s.orFlags f).agenda = s.agenda := rfl
@[simp] theorem State.orFlags_devTurn (s : State) (f : FFlags) : (s.orFlags f).devTurn = s.devTurn := rfl
@[simp] theorem State.orFlags_turn (s : State) (f : FFlags) : (s.orFlags f).turn = s.turn := rfl
@[simp] theorem State.orFlags_beat (s : State) (f : FFlags) : (s.orFlags f).beat = s.beat := rfl
@[simp] theorem State.orFlags_pace (s : State) (f : FFlags) : (s.orFlags f).pace = s.pace := rfl
@[simp] theorem State.orFlags_fresh (s : State) (f : FFlags) : (s.orFlags f).fresh = s.fresh := rfl
@[simp] theorem State.orFlags_nextId (s : State) (f : FFlags) : (s.orFlags f).nextId = s.nextId := rfl

/-! ### `setS` -/

@[simp] theorem State.setS_mem (s : State) (r : BitVec 5) (v : Word) : (s.setS r v).mem = s.mem := by unfold State.setS; split <;> rfl
@[simp] theorem State.setS_sram (s : State) (r : BitVec 5) (v : Word) : (s.setS r v).sram = s.sram := by unfold State.setS; split <;> rfl
@[simp] theorem State.setS_rows (s : State) (r : BitVec 5) (v : Word) : (s.setS r v).rows = s.rows := by unfold State.setS; split <;> rfl
@[simp] theorem State.setS_cmds (s : State) (r : BitVec 5) (v : Word) : (s.setS r v).cmds = s.cmds := by unfold State.setS; split <;> rfl
@[simp] theorem State.setS_lastServed (s : State) (r : BitVec 5) (v : Word) : (s.setS r v).lastServed = s.lastServed := by unfold State.setS; split <;> rfl
@[simp] theorem State.setS_parts (s : State) (r : BitVec 5) (v : Word) : (s.setS r v).parts = s.parts := by unfold State.setS; split <;> rfl
@[simp] theorem State.setS_pstate (s : State) (r : BitVec 5) (v : Word) : (s.setS r v).pstate = s.pstate := by unfold State.setS; split <;> rfl
@[simp] theorem State.setS_device (s : State) (r : BitVec 5) (v : Word) : (s.setS r v).device = s.device := by unfold State.setS; split <;> rfl
@[simp] theorem State.setS_launches (s : State) (r : BitVec 5) (v : Word) : (s.setS r v).launches = s.launches := by unfold State.setS; split <;> rfl
@[simp] theorem State.setS_tree (s : State) (r : BitVec 5) (v : Word) : (s.setS r v).tree = s.tree := by unfold State.setS; split <;> rfl
@[simp] theorem State.setS_tiles (s : State) (r : BitVec 5) (v : Word) : (s.setS r v).tiles = s.tiles := by unfold State.setS; split <;> rfl
@[simp] theorem State.setS_mailbox (s : State) (r : BitVec 5) (v : Word) : (s.setS r v).mailbox = s.mailbox := by unfold State.setS; split <;> rfl
@[simp] theorem State.setS_time (s : State) (r : BitVec 5) (v : Word) : (s.setS r v).time = s.time := by unfold State.setS; split <;> rfl
@[simp] theorem State.setS_dir (s : State) (r : BitVec 5) (v : Word) : (s.setS r v).dir = s.dir := by unfold State.setS; split <;> rfl
@[simp] theorem State.setS_bridge (s : State) (r : BitVec 5) (v : Word) : (s.setS r v).bridge = s.bridge := by unfold State.setS; split <;> rfl
@[simp] theorem State.setS_hostHeld (s : State) (r : BitVec 5) (v : Word) : (s.setS r v).hostHeld = s.hostHeld := by unfold State.setS; split <;> rfl
@[simp] theorem State.setS_lds (s : State) (r : BitVec 5) (v : Word) : (s.setS r v).lds = s.lds := by unfold State.setS; split <;> rfl
@[simp] theorem State.setS_peers (s : State) (r : BitVec 5) (v : Word) : (s.setS r v).peers = s.peers := by unfold State.setS; split <;> rfl
@[simp] theorem State.setS_clocks (s : State) (r : BitVec 5) (v : Word) : (s.setS r v).clocks = s.clocks := by unfold State.setS; split <;> rfl
@[simp] theorem State.setS_watts (s : State) (r : BitVec 5) (v : Word) : (s.setS r v).watts = s.watts := by unfold State.setS; split <;> rfl
@[simp] theorem State.setS_stopped (s : State) (r : BitVec 5) (v : Word) : (s.setS r v).stopped = s.stopped := by unfold State.setS; split <;> rfl
@[simp] theorem State.setS_removed (s : State) (r : BitVec 5) (v : Word) : (s.setS r v).removed = s.removed := by unfold State.setS; split <;> rfl
@[simp] theorem State.setS_caches (s : State) (r : BitVec 5) (v : Word) : (s.setS r v).caches = s.caches := by unfold State.setS; split <;> rfl
@[simp] theorem State.setS_heldBus (s : State) (r : BitVec 5) (v : Word) : (s.setS r v).heldBus = s.heldBus := by unfold State.setS; split <;> rfl
@[simp] theorem State.setS_telemetry (s : State) (r : BitVec 5) (v : Word) : (s.setS r v).telemetry = s.telemetry := by unfold State.setS; split <;> rfl
@[simp] theorem State.setS_fw (s : State) (r : BitVec 5) (v : Word) : (s.setS r v).fw = s.fw := by unfold State.setS; split <;> rfl
@[simp] theorem State.setS_hand (s : State) (r : BitVec 5) (v : Word) : (s.setS r v).hand = s.hand := by unfold State.setS; split <;> rfl
@[simp] theorem State.setS_agenda (s : State) (r : BitVec 5) (v : Word) : (s.setS r v).agenda = s.agenda := by unfold State.setS; split <;> rfl
@[simp] theorem State.setS_devTurn (s : State) (r : BitVec 5) (v : Word) : (s.setS r v).devTurn = s.devTurn := by unfold State.setS; split <;> rfl
@[simp] theorem State.setS_turn (s : State) (r : BitVec 5) (v : Word) : (s.setS r v).turn = s.turn := by unfold State.setS; split <;> rfl
@[simp] theorem State.setS_beat (s : State) (r : BitVec 5) (v : Word) : (s.setS r v).beat = s.beat := by unfold State.setS; split <;> rfl
@[simp] theorem State.setS_pace (s : State) (r : BitVec 5) (v : Word) : (s.setS r v).pace = s.pace := by unfold State.setS; split <;> rfl
@[simp] theorem State.setS_fresh (s : State) (r : BitVec 5) (v : Word) : (s.setS r v).fresh = s.fresh := by unfold State.setS; split <;> rfl
@[simp] theorem State.setS_nextId (s : State) (r : BitVec 5) (v : Word) : (s.setS r v).nextId = s.nextId := by unfold State.setS; split <;> rfl

/-! ### `setP` -/

@[simp] theorem State.setP_mem (s : State) (r : BitVec 3) (v : Bool) : (s.setP r v).mem = s.mem := by unfold State.setP; split <;> rfl
@[simp] theorem State.setP_sram (s : State) (r : BitVec 3) (v : Bool) : (s.setP r v).sram = s.sram := by unfold State.setP; split <;> rfl
@[simp] theorem State.setP_rows (s : State) (r : BitVec 3) (v : Bool) : (s.setP r v).rows = s.rows := by unfold State.setP; split <;> rfl
@[simp] theorem State.setP_cmds (s : State) (r : BitVec 3) (v : Bool) : (s.setP r v).cmds = s.cmds := by unfold State.setP; split <;> rfl
@[simp] theorem State.setP_lastServed (s : State) (r : BitVec 3) (v : Bool) : (s.setP r v).lastServed = s.lastServed := by unfold State.setP; split <;> rfl
@[simp] theorem State.setP_parts (s : State) (r : BitVec 3) (v : Bool) : (s.setP r v).parts = s.parts := by unfold State.setP; split <;> rfl
@[simp] theorem State.setP_pstate (s : State) (r : BitVec 3) (v : Bool) : (s.setP r v).pstate = s.pstate := by unfold State.setP; split <;> rfl
@[simp] theorem State.setP_device (s : State) (r : BitVec 3) (v : Bool) : (s.setP r v).device = s.device := by unfold State.setP; split <;> rfl
@[simp] theorem State.setP_launches (s : State) (r : BitVec 3) (v : Bool) : (s.setP r v).launches = s.launches := by unfold State.setP; split <;> rfl
@[simp] theorem State.setP_tree (s : State) (r : BitVec 3) (v : Bool) : (s.setP r v).tree = s.tree := by unfold State.setP; split <;> rfl
@[simp] theorem State.setP_tiles (s : State) (r : BitVec 3) (v : Bool) : (s.setP r v).tiles = s.tiles := by unfold State.setP; split <;> rfl
@[simp] theorem State.setP_mailbox (s : State) (r : BitVec 3) (v : Bool) : (s.setP r v).mailbox = s.mailbox := by unfold State.setP; split <;> rfl
@[simp] theorem State.setP_time (s : State) (r : BitVec 3) (v : Bool) : (s.setP r v).time = s.time := by unfold State.setP; split <;> rfl
@[simp] theorem State.setP_dir (s : State) (r : BitVec 3) (v : Bool) : (s.setP r v).dir = s.dir := by unfold State.setP; split <;> rfl
@[simp] theorem State.setP_bridge (s : State) (r : BitVec 3) (v : Bool) : (s.setP r v).bridge = s.bridge := by unfold State.setP; split <;> rfl
@[simp] theorem State.setP_hostHeld (s : State) (r : BitVec 3) (v : Bool) : (s.setP r v).hostHeld = s.hostHeld := by unfold State.setP; split <;> rfl
@[simp] theorem State.setP_lds (s : State) (r : BitVec 3) (v : Bool) : (s.setP r v).lds = s.lds := by unfold State.setP; split <;> rfl
@[simp] theorem State.setP_peers (s : State) (r : BitVec 3) (v : Bool) : (s.setP r v).peers = s.peers := by unfold State.setP; split <;> rfl
@[simp] theorem State.setP_clocks (s : State) (r : BitVec 3) (v : Bool) : (s.setP r v).clocks = s.clocks := by unfold State.setP; split <;> rfl
@[simp] theorem State.setP_watts (s : State) (r : BitVec 3) (v : Bool) : (s.setP r v).watts = s.watts := by unfold State.setP; split <;> rfl
@[simp] theorem State.setP_stopped (s : State) (r : BitVec 3) (v : Bool) : (s.setP r v).stopped = s.stopped := by unfold State.setP; split <;> rfl
@[simp] theorem State.setP_removed (s : State) (r : BitVec 3) (v : Bool) : (s.setP r v).removed = s.removed := by unfold State.setP; split <;> rfl
@[simp] theorem State.setP_caches (s : State) (r : BitVec 3) (v : Bool) : (s.setP r v).caches = s.caches := by unfold State.setP; split <;> rfl
@[simp] theorem State.setP_heldBus (s : State) (r : BitVec 3) (v : Bool) : (s.setP r v).heldBus = s.heldBus := by unfold State.setP; split <;> rfl
@[simp] theorem State.setP_telemetry (s : State) (r : BitVec 3) (v : Bool) : (s.setP r v).telemetry = s.telemetry := by unfold State.setP; split <;> rfl
@[simp] theorem State.setP_fw (s : State) (r : BitVec 3) (v : Bool) : (s.setP r v).fw = s.fw := by unfold State.setP; split <;> rfl
@[simp] theorem State.setP_hand (s : State) (r : BitVec 3) (v : Bool) : (s.setP r v).hand = s.hand := by unfold State.setP; split <;> rfl
@[simp] theorem State.setP_agenda (s : State) (r : BitVec 3) (v : Bool) : (s.setP r v).agenda = s.agenda := by unfold State.setP; split <;> rfl
@[simp] theorem State.setP_devTurn (s : State) (r : BitVec 3) (v : Bool) : (s.setP r v).devTurn = s.devTurn := by unfold State.setP; split <;> rfl
@[simp] theorem State.setP_turn (s : State) (r : BitVec 3) (v : Bool) : (s.setP r v).turn = s.turn := by unfold State.setP; split <;> rfl
@[simp] theorem State.setP_beat (s : State) (r : BitVec 3) (v : Bool) : (s.setP r v).beat = s.beat := by unfold State.setP; split <;> rfl
@[simp] theorem State.setP_pace (s : State) (r : BitVec 3) (v : Bool) : (s.setP r v).pace = s.pace := by unfold State.setP; split <;> rfl
@[simp] theorem State.setP_fresh (s : State) (r : BitVec 3) (v : Bool) : (s.setP r v).fresh = s.fresh := by unfold State.setP; split <;> rfl
@[simp] theorem State.setP_nextId (s : State) (r : BitVec 3) (v : Bool) : (s.setP r v).nextId = s.nextId := by unfold State.setP; split <;> rfl

/-! ### `setA` -/

@[simp] theorem State.setA_mem (s : State) (r : BitVec 4) (v : CapBits) : (s.setA r v).mem = s.mem := by unfold State.setA; split <;> rfl
@[simp] theorem State.setA_sram (s : State) (r : BitVec 4) (v : CapBits) : (s.setA r v).sram = s.sram := by unfold State.setA; split <;> rfl
@[simp] theorem State.setA_rows (s : State) (r : BitVec 4) (v : CapBits) : (s.setA r v).rows = s.rows := by unfold State.setA; split <;> rfl
@[simp] theorem State.setA_cmds (s : State) (r : BitVec 4) (v : CapBits) : (s.setA r v).cmds = s.cmds := by unfold State.setA; split <;> rfl
@[simp] theorem State.setA_lastServed (s : State) (r : BitVec 4) (v : CapBits) : (s.setA r v).lastServed = s.lastServed := by unfold State.setA; split <;> rfl
@[simp] theorem State.setA_parts (s : State) (r : BitVec 4) (v : CapBits) : (s.setA r v).parts = s.parts := by unfold State.setA; split <;> rfl
@[simp] theorem State.setA_pstate (s : State) (r : BitVec 4) (v : CapBits) : (s.setA r v).pstate = s.pstate := by unfold State.setA; split <;> rfl
@[simp] theorem State.setA_device (s : State) (r : BitVec 4) (v : CapBits) : (s.setA r v).device = s.device := by unfold State.setA; split <;> rfl
@[simp] theorem State.setA_launches (s : State) (r : BitVec 4) (v : CapBits) : (s.setA r v).launches = s.launches := by unfold State.setA; split <;> rfl
@[simp] theorem State.setA_tree (s : State) (r : BitVec 4) (v : CapBits) : (s.setA r v).tree = s.tree := by unfold State.setA; split <;> rfl
@[simp] theorem State.setA_tiles (s : State) (r : BitVec 4) (v : CapBits) : (s.setA r v).tiles = s.tiles := by unfold State.setA; split <;> rfl
@[simp] theorem State.setA_mailbox (s : State) (r : BitVec 4) (v : CapBits) : (s.setA r v).mailbox = s.mailbox := by unfold State.setA; split <;> rfl
@[simp] theorem State.setA_time (s : State) (r : BitVec 4) (v : CapBits) : (s.setA r v).time = s.time := by unfold State.setA; split <;> rfl
@[simp] theorem State.setA_dir (s : State) (r : BitVec 4) (v : CapBits) : (s.setA r v).dir = s.dir := by unfold State.setA; split <;> rfl
@[simp] theorem State.setA_bridge (s : State) (r : BitVec 4) (v : CapBits) : (s.setA r v).bridge = s.bridge := by unfold State.setA; split <;> rfl
@[simp] theorem State.setA_hostHeld (s : State) (r : BitVec 4) (v : CapBits) : (s.setA r v).hostHeld = s.hostHeld := by unfold State.setA; split <;> rfl
@[simp] theorem State.setA_lds (s : State) (r : BitVec 4) (v : CapBits) : (s.setA r v).lds = s.lds := by unfold State.setA; split <;> rfl
@[simp] theorem State.setA_peers (s : State) (r : BitVec 4) (v : CapBits) : (s.setA r v).peers = s.peers := by unfold State.setA; split <;> rfl
@[simp] theorem State.setA_clocks (s : State) (r : BitVec 4) (v : CapBits) : (s.setA r v).clocks = s.clocks := by unfold State.setA; split <;> rfl
@[simp] theorem State.setA_watts (s : State) (r : BitVec 4) (v : CapBits) : (s.setA r v).watts = s.watts := by unfold State.setA; split <;> rfl
@[simp] theorem State.setA_stopped (s : State) (r : BitVec 4) (v : CapBits) : (s.setA r v).stopped = s.stopped := by unfold State.setA; split <;> rfl
@[simp] theorem State.setA_removed (s : State) (r : BitVec 4) (v : CapBits) : (s.setA r v).removed = s.removed := by unfold State.setA; split <;> rfl
@[simp] theorem State.setA_caches (s : State) (r : BitVec 4) (v : CapBits) : (s.setA r v).caches = s.caches := by unfold State.setA; split <;> rfl
@[simp] theorem State.setA_heldBus (s : State) (r : BitVec 4) (v : CapBits) : (s.setA r v).heldBus = s.heldBus := by unfold State.setA; split <;> rfl
@[simp] theorem State.setA_telemetry (s : State) (r : BitVec 4) (v : CapBits) : (s.setA r v).telemetry = s.telemetry := by unfold State.setA; split <;> rfl
@[simp] theorem State.setA_fw (s : State) (r : BitVec 4) (v : CapBits) : (s.setA r v).fw = s.fw := by unfold State.setA; split <;> rfl
@[simp] theorem State.setA_hand (s : State) (r : BitVec 4) (v : CapBits) : (s.setA r v).hand = s.hand := by unfold State.setA; split <;> rfl
@[simp] theorem State.setA_agenda (s : State) (r : BitVec 4) (v : CapBits) : (s.setA r v).agenda = s.agenda := by unfold State.setA; split <;> rfl
@[simp] theorem State.setA_devTurn (s : State) (r : BitVec 4) (v : CapBits) : (s.setA r v).devTurn = s.devTurn := by unfold State.setA; split <;> rfl
@[simp] theorem State.setA_turn (s : State) (r : BitVec 4) (v : CapBits) : (s.setA r v).turn = s.turn := by unfold State.setA; split <;> rfl
@[simp] theorem State.setA_beat (s : State) (r : BitVec 4) (v : CapBits) : (s.setA r v).beat = s.beat := by unfold State.setA; split <;> rfl
@[simp] theorem State.setA_pace (s : State) (r : BitVec 4) (v : CapBits) : (s.setA r v).pace = s.pace := by unfold State.setA; split <;> rfl
@[simp] theorem State.setA_fresh (s : State) (r : BitVec 4) (v : CapBits) : (s.setA r v).fresh = s.fresh := by unfold State.setA; split <;> rfl
@[simp] theorem State.setA_nextId (s : State) (r : BitVec 4) (v : CapBits) : (s.setA r v).nextId = s.nextId := by unfold State.setA; split <;> rfl

/-! ### `setH` -/

@[simp] theorem State.setH_mem (s : State) (r : BitVec 4) (v : Option Strand) : (s.setH r v).mem = s.mem := rfl
@[simp] theorem State.setH_sram (s : State) (r : BitVec 4) (v : Option Strand) : (s.setH r v).sram = s.sram := rfl
@[simp] theorem State.setH_rows (s : State) (r : BitVec 4) (v : Option Strand) : (s.setH r v).rows = s.rows := rfl
@[simp] theorem State.setH_cmds (s : State) (r : BitVec 4) (v : Option Strand) : (s.setH r v).cmds = s.cmds := rfl
@[simp] theorem State.setH_lastServed (s : State) (r : BitVec 4) (v : Option Strand) : (s.setH r v).lastServed = s.lastServed := rfl
@[simp] theorem State.setH_parts (s : State) (r : BitVec 4) (v : Option Strand) : (s.setH r v).parts = s.parts := rfl
@[simp] theorem State.setH_pstate (s : State) (r : BitVec 4) (v : Option Strand) : (s.setH r v).pstate = s.pstate := rfl
@[simp] theorem State.setH_device (s : State) (r : BitVec 4) (v : Option Strand) : (s.setH r v).device = s.device := rfl
@[simp] theorem State.setH_launches (s : State) (r : BitVec 4) (v : Option Strand) : (s.setH r v).launches = s.launches := rfl
@[simp] theorem State.setH_tree (s : State) (r : BitVec 4) (v : Option Strand) : (s.setH r v).tree = s.tree := rfl
@[simp] theorem State.setH_tiles (s : State) (r : BitVec 4) (v : Option Strand) : (s.setH r v).tiles = s.tiles := rfl
@[simp] theorem State.setH_mailbox (s : State) (r : BitVec 4) (v : Option Strand) : (s.setH r v).mailbox = s.mailbox := rfl
@[simp] theorem State.setH_time (s : State) (r : BitVec 4) (v : Option Strand) : (s.setH r v).time = s.time := rfl
@[simp] theorem State.setH_dir (s : State) (r : BitVec 4) (v : Option Strand) : (s.setH r v).dir = s.dir := rfl
@[simp] theorem State.setH_bridge (s : State) (r : BitVec 4) (v : Option Strand) : (s.setH r v).bridge = s.bridge := rfl
@[simp] theorem State.setH_hostHeld (s : State) (r : BitVec 4) (v : Option Strand) : (s.setH r v).hostHeld = s.hostHeld := rfl
@[simp] theorem State.setH_lds (s : State) (r : BitVec 4) (v : Option Strand) : (s.setH r v).lds = s.lds := rfl
@[simp] theorem State.setH_peers (s : State) (r : BitVec 4) (v : Option Strand) : (s.setH r v).peers = s.peers := rfl
@[simp] theorem State.setH_clocks (s : State) (r : BitVec 4) (v : Option Strand) : (s.setH r v).clocks = s.clocks := rfl
@[simp] theorem State.setH_watts (s : State) (r : BitVec 4) (v : Option Strand) : (s.setH r v).watts = s.watts := rfl
@[simp] theorem State.setH_stopped (s : State) (r : BitVec 4) (v : Option Strand) : (s.setH r v).stopped = s.stopped := rfl
@[simp] theorem State.setH_removed (s : State) (r : BitVec 4) (v : Option Strand) : (s.setH r v).removed = s.removed := rfl
@[simp] theorem State.setH_caches (s : State) (r : BitVec 4) (v : Option Strand) : (s.setH r v).caches = s.caches := rfl
@[simp] theorem State.setH_heldBus (s : State) (r : BitVec 4) (v : Option Strand) : (s.setH r v).heldBus = s.heldBus := rfl
@[simp] theorem State.setH_telemetry (s : State) (r : BitVec 4) (v : Option Strand) : (s.setH r v).telemetry = s.telemetry := rfl
@[simp] theorem State.setH_fw (s : State) (r : BitVec 4) (v : Option Strand) : (s.setH r v).fw = s.fw := rfl
@[simp] theorem State.setH_hand (s : State) (r : BitVec 4) (v : Option Strand) : (s.setH r v).hand = s.hand := rfl
@[simp] theorem State.setH_agenda (s : State) (r : BitVec 4) (v : Option Strand) : (s.setH r v).agenda = s.agenda := rfl
@[simp] theorem State.setH_devTurn (s : State) (r : BitVec 4) (v : Option Strand) : (s.setH r v).devTurn = s.devTurn := rfl
@[simp] theorem State.setH_turn (s : State) (r : BitVec 4) (v : Option Strand) : (s.setH r v).turn = s.turn := rfl
@[simp] theorem State.setH_beat (s : State) (r : BitVec 4) (v : Option Strand) : (s.setH r v).beat = s.beat := rfl
@[simp] theorem State.setH_pace (s : State) (r : BitVec 4) (v : Option Strand) : (s.setH r v).pace = s.pace := rfl
@[simp] theorem State.setH_fresh (s : State) (r : BitVec 4) (v : Option Strand) : (s.setH r v).fresh = s.fresh := rfl
@[simp] theorem State.setH_nextId (s : State) (r : BitVec 4) (v : Option Strand) : (s.setH r v).nextId = s.nextId := rfl

/-! ### `setPhys` -/

@[simp] theorem State.setPhys_sram (s : State) (dev : Nat) (m : Phys) : (s.setPhys dev m).sram = s.sram := by unfold State.setPhys; split <;> rfl
@[simp] theorem State.setPhys_cores (s : State) (dev : Nat) (m : Phys) : (s.setPhys dev m).cores = s.cores := by unfold State.setPhys; split <;> rfl
@[simp] theorem State.setPhys_rows (s : State) (dev : Nat) (m : Phys) : (s.setPhys dev m).rows = s.rows := by unfold State.setPhys; split <;> rfl
@[simp] theorem State.setPhys_cmds (s : State) (dev : Nat) (m : Phys) : (s.setPhys dev m).cmds = s.cmds := by unfold State.setPhys; split <;> rfl
@[simp] theorem State.setPhys_lastServed (s : State) (dev : Nat) (m : Phys) : (s.setPhys dev m).lastServed = s.lastServed := by unfold State.setPhys; split <;> rfl
@[simp] theorem State.setPhys_parts (s : State) (dev : Nat) (m : Phys) : (s.setPhys dev m).parts = s.parts := by unfold State.setPhys; split <;> rfl
@[simp] theorem State.setPhys_pstate (s : State) (dev : Nat) (m : Phys) : (s.setPhys dev m).pstate = s.pstate := by unfold State.setPhys; split <;> rfl
@[simp] theorem State.setPhys_device (s : State) (dev : Nat) (m : Phys) : (s.setPhys dev m).device = s.device := by unfold State.setPhys; split <;> rfl
@[simp] theorem State.setPhys_launches (s : State) (dev : Nat) (m : Phys) : (s.setPhys dev m).launches = s.launches := by unfold State.setPhys; split <;> rfl
@[simp] theorem State.setPhys_tree (s : State) (dev : Nat) (m : Phys) : (s.setPhys dev m).tree = s.tree := by unfold State.setPhys; split <;> rfl
@[simp] theorem State.setPhys_tiles (s : State) (dev : Nat) (m : Phys) : (s.setPhys dev m).tiles = s.tiles := by unfold State.setPhys; split <;> rfl
@[simp] theorem State.setPhys_mailbox (s : State) (dev : Nat) (m : Phys) : (s.setPhys dev m).mailbox = s.mailbox := by unfold State.setPhys; split <;> rfl
@[simp] theorem State.setPhys_time (s : State) (dev : Nat) (m : Phys) : (s.setPhys dev m).time = s.time := by unfold State.setPhys; split <;> rfl
@[simp] theorem State.setPhys_dir (s : State) (dev : Nat) (m : Phys) : (s.setPhys dev m).dir = s.dir := by unfold State.setPhys; split <;> rfl
@[simp] theorem State.setPhys_bridge (s : State) (dev : Nat) (m : Phys) : (s.setPhys dev m).bridge = s.bridge := by unfold State.setPhys; split <;> rfl
@[simp] theorem State.setPhys_hostHeld (s : State) (dev : Nat) (m : Phys) : (s.setPhys dev m).hostHeld = s.hostHeld := by unfold State.setPhys; split <;> rfl
@[simp] theorem State.setPhys_lds (s : State) (dev : Nat) (m : Phys) : (s.setPhys dev m).lds = s.lds := by unfold State.setPhys; split <;> rfl
@[simp] theorem State.setPhys_clocks (s : State) (dev : Nat) (m : Phys) : (s.setPhys dev m).clocks = s.clocks := by unfold State.setPhys; split <;> rfl
@[simp] theorem State.setPhys_watts (s : State) (dev : Nat) (m : Phys) : (s.setPhys dev m).watts = s.watts := by unfold State.setPhys; split <;> rfl
@[simp] theorem State.setPhys_stopped (s : State) (dev : Nat) (m : Phys) : (s.setPhys dev m).stopped = s.stopped := by unfold State.setPhys; split <;> rfl
@[simp] theorem State.setPhys_removed (s : State) (dev : Nat) (m : Phys) : (s.setPhys dev m).removed = s.removed := by unfold State.setPhys; split <;> rfl
@[simp] theorem State.setPhys_caches (s : State) (dev : Nat) (m : Phys) : (s.setPhys dev m).caches = s.caches := by unfold State.setPhys; split <;> rfl
@[simp] theorem State.setPhys_heldBus (s : State) (dev : Nat) (m : Phys) : (s.setPhys dev m).heldBus = s.heldBus := by unfold State.setPhys; split <;> rfl
@[simp] theorem State.setPhys_telemetry (s : State) (dev : Nat) (m : Phys) : (s.setPhys dev m).telemetry = s.telemetry := by unfold State.setPhys; split <;> rfl
@[simp] theorem State.setPhys_fw (s : State) (dev : Nat) (m : Phys) : (s.setPhys dev m).fw = s.fw := by unfold State.setPhys; split <;> rfl
@[simp] theorem State.setPhys_hand (s : State) (dev : Nat) (m : Phys) : (s.setPhys dev m).hand = s.hand := by unfold State.setPhys; split <;> rfl
@[simp] theorem State.setPhys_agenda (s : State) (dev : Nat) (m : Phys) : (s.setPhys dev m).agenda = s.agenda := by unfold State.setPhys; split <;> rfl
@[simp] theorem State.setPhys_devTurn (s : State) (dev : Nat) (m : Phys) : (s.setPhys dev m).devTurn = s.devTurn := by unfold State.setPhys; split <;> rfl
@[simp] theorem State.setPhys_turn (s : State) (dev : Nat) (m : Phys) : (s.setPhys dev m).turn = s.turn := by unfold State.setPhys; split <;> rfl
@[simp] theorem State.setPhys_beat (s : State) (dev : Nat) (m : Phys) : (s.setPhys dev m).beat = s.beat := by unfold State.setPhys; split <;> rfl
@[simp] theorem State.setPhys_pace (s : State) (dev : Nat) (m : Phys) : (s.setPhys dev m).pace = s.pace := by unfold State.setPhys; split <;> rfl
@[simp] theorem State.setPhys_fresh (s : State) (dev : Nat) (m : Phys) : (s.setPhys dev m).fresh = s.fresh := by unfold State.setPhys; split <;> rfl
@[simp] theorem State.setPhys_nextId (s : State) (dev : Nat) (m : Phys) : (s.setPhys dev m).nextId = s.nextId := by unfold State.setPhys; split <;> rfl

/-! ### `writeAt` -/

@[simp] theorem State.writeAt_sram (s : State) (l : Loc) (n v : Nat) : (s.writeAt l n v).sram = s.sram := by simp [State.writeAt]
@[simp] theorem State.writeAt_cores (s : State) (l : Loc) (n v : Nat) : (s.writeAt l n v).cores = s.cores := by simp [State.writeAt]
@[simp] theorem State.writeAt_rows (s : State) (l : Loc) (n v : Nat) : (s.writeAt l n v).rows = s.rows := by simp [State.writeAt]
@[simp] theorem State.writeAt_cmds (s : State) (l : Loc) (n v : Nat) : (s.writeAt l n v).cmds = s.cmds := by simp [State.writeAt]
@[simp] theorem State.writeAt_lastServed (s : State) (l : Loc) (n v : Nat) : (s.writeAt l n v).lastServed = s.lastServed := by simp [State.writeAt]
@[simp] theorem State.writeAt_parts (s : State) (l : Loc) (n v : Nat) : (s.writeAt l n v).parts = s.parts := by simp [State.writeAt]
@[simp] theorem State.writeAt_pstate (s : State) (l : Loc) (n v : Nat) : (s.writeAt l n v).pstate = s.pstate := by simp [State.writeAt]
@[simp] theorem State.writeAt_device (s : State) (l : Loc) (n v : Nat) : (s.writeAt l n v).device = s.device := by simp [State.writeAt]
@[simp] theorem State.writeAt_launches (s : State) (l : Loc) (n v : Nat) : (s.writeAt l n v).launches = s.launches := by simp [State.writeAt]
@[simp] theorem State.writeAt_tree (s : State) (l : Loc) (n v : Nat) : (s.writeAt l n v).tree = s.tree := by simp [State.writeAt]
@[simp] theorem State.writeAt_tiles (s : State) (l : Loc) (n v : Nat) : (s.writeAt l n v).tiles = s.tiles := by simp [State.writeAt]
@[simp] theorem State.writeAt_mailbox (s : State) (l : Loc) (n v : Nat) : (s.writeAt l n v).mailbox = s.mailbox := by simp [State.writeAt]
@[simp] theorem State.writeAt_time (s : State) (l : Loc) (n v : Nat) : (s.writeAt l n v).time = s.time := by simp [State.writeAt]
@[simp] theorem State.writeAt_dir (s : State) (l : Loc) (n v : Nat) : (s.writeAt l n v).dir = s.dir := by simp [State.writeAt]
@[simp] theorem State.writeAt_bridge (s : State) (l : Loc) (n v : Nat) : (s.writeAt l n v).bridge = s.bridge := by simp [State.writeAt]
@[simp] theorem State.writeAt_hostHeld (s : State) (l : Loc) (n v : Nat) : (s.writeAt l n v).hostHeld = s.hostHeld := by simp [State.writeAt]
@[simp] theorem State.writeAt_lds (s : State) (l : Loc) (n v : Nat) : (s.writeAt l n v).lds = s.lds := by simp [State.writeAt]
@[simp] theorem State.writeAt_clocks (s : State) (l : Loc) (n v : Nat) : (s.writeAt l n v).clocks = s.clocks := by simp [State.writeAt]
@[simp] theorem State.writeAt_watts (s : State) (l : Loc) (n v : Nat) : (s.writeAt l n v).watts = s.watts := by simp [State.writeAt]
@[simp] theorem State.writeAt_stopped (s : State) (l : Loc) (n v : Nat) : (s.writeAt l n v).stopped = s.stopped := by simp [State.writeAt]
@[simp] theorem State.writeAt_removed (s : State) (l : Loc) (n v : Nat) : (s.writeAt l n v).removed = s.removed := by simp [State.writeAt]
@[simp] theorem State.writeAt_caches (s : State) (l : Loc) (n v : Nat) : (s.writeAt l n v).caches = s.caches := by simp [State.writeAt]
@[simp] theorem State.writeAt_heldBus (s : State) (l : Loc) (n v : Nat) : (s.writeAt l n v).heldBus = s.heldBus := by simp [State.writeAt]
@[simp] theorem State.writeAt_telemetry (s : State) (l : Loc) (n v : Nat) : (s.writeAt l n v).telemetry = s.telemetry := by simp [State.writeAt]
@[simp] theorem State.writeAt_fw (s : State) (l : Loc) (n v : Nat) : (s.writeAt l n v).fw = s.fw := by simp [State.writeAt]
@[simp] theorem State.writeAt_hand (s : State) (l : Loc) (n v : Nat) : (s.writeAt l n v).hand = s.hand := by simp [State.writeAt]
@[simp] theorem State.writeAt_agenda (s : State) (l : Loc) (n v : Nat) : (s.writeAt l n v).agenda = s.agenda := by simp [State.writeAt]
@[simp] theorem State.writeAt_devTurn (s : State) (l : Loc) (n v : Nat) : (s.writeAt l n v).devTurn = s.devTurn := by simp [State.writeAt]
@[simp] theorem State.writeAt_turn (s : State) (l : Loc) (n v : Nat) : (s.writeAt l n v).turn = s.turn := by simp [State.writeAt]
@[simp] theorem State.writeAt_beat (s : State) (l : Loc) (n v : Nat) : (s.writeAt l n v).beat = s.beat := by simp [State.writeAt]
@[simp] theorem State.writeAt_pace (s : State) (l : Loc) (n v : Nat) : (s.writeAt l n v).pace = s.pace := by simp [State.writeAt]
@[simp] theorem State.writeAt_fresh (s : State) (l : Loc) (n v : Nat) : (s.writeAt l n v).fresh = s.fresh := by simp [State.writeAt]
@[simp] theorem State.writeAt_nextId (s : State) (l : Loc) (n v : Nat) : (s.writeAt l n v).nextId = s.nextId := by simp [State.writeAt]

/-! ### `report` -/

@[simp] theorem State.report_mem (s : State) (r : Report) : (s.report r).mem = s.mem := rfl
@[simp] theorem State.report_sram (s : State) (r : Report) : (s.report r).sram = s.sram := rfl
@[simp] theorem State.report_cores (s : State) (r : Report) : (s.report r).cores = s.cores := rfl
@[simp] theorem State.report_rows (s : State) (r : Report) : (s.report r).rows = s.rows := rfl
@[simp] theorem State.report_cmds (s : State) (r : Report) : (s.report r).cmds = s.cmds := rfl
@[simp] theorem State.report_lastServed (s : State) (r : Report) : (s.report r).lastServed = s.lastServed := rfl
@[simp] theorem State.report_parts (s : State) (r : Report) : (s.report r).parts = s.parts := rfl
@[simp] theorem State.report_pstate (s : State) (r : Report) : (s.report r).pstate = s.pstate := rfl
@[simp] theorem State.report_device (s : State) (r : Report) : (s.report r).device = s.device := rfl
@[simp] theorem State.report_launches (s : State) (r : Report) : (s.report r).launches = s.launches := rfl
@[simp] theorem State.report_tree (s : State) (r : Report) : (s.report r).tree = s.tree := rfl
@[simp] theorem State.report_tiles (s : State) (r : Report) : (s.report r).tiles = s.tiles := rfl
@[simp] theorem State.report_time (s : State) (r : Report) : (s.report r).time = s.time := rfl
@[simp] theorem State.report_dir (s : State) (r : Report) : (s.report r).dir = s.dir := rfl
@[simp] theorem State.report_bridge (s : State) (r : Report) : (s.report r).bridge = s.bridge := rfl
@[simp] theorem State.report_hostHeld (s : State) (r : Report) : (s.report r).hostHeld = s.hostHeld := rfl
@[simp] theorem State.report_lds (s : State) (r : Report) : (s.report r).lds = s.lds := rfl
@[simp] theorem State.report_peers (s : State) (r : Report) : (s.report r).peers = s.peers := rfl
@[simp] theorem State.report_clocks (s : State) (r : Report) : (s.report r).clocks = s.clocks := rfl
@[simp] theorem State.report_watts (s : State) (r : Report) : (s.report r).watts = s.watts := rfl
@[simp] theorem State.report_stopped (s : State) (r : Report) : (s.report r).stopped = s.stopped := rfl
@[simp] theorem State.report_removed (s : State) (r : Report) : (s.report r).removed = s.removed := rfl
@[simp] theorem State.report_caches (s : State) (r : Report) : (s.report r).caches = s.caches := rfl
@[simp] theorem State.report_heldBus (s : State) (r : Report) : (s.report r).heldBus = s.heldBus := rfl
@[simp] theorem State.report_telemetry (s : State) (r : Report) : (s.report r).telemetry = s.telemetry := rfl
@[simp] theorem State.report_fw (s : State) (r : Report) : (s.report r).fw = s.fw := rfl
@[simp] theorem State.report_hand (s : State) (r : Report) : (s.report r).hand = s.hand := rfl
@[simp] theorem State.report_agenda (s : State) (r : Report) : (s.report r).agenda = s.agenda := rfl
@[simp] theorem State.report_devTurn (s : State) (r : Report) : (s.report r).devTurn = s.devTurn := rfl
@[simp] theorem State.report_turn (s : State) (r : Report) : (s.report r).turn = s.turn := rfl
@[simp] theorem State.report_beat (s : State) (r : Report) : (s.report r).beat = s.beat := rfl
@[simp] theorem State.report_pace (s : State) (r : Report) : (s.report r).pace = s.pace := rfl
@[simp] theorem State.report_fresh (s : State) (r : Report) : (s.report r).fresh = s.fresh := rfl
@[simp] theorem State.report_nextId (s : State) (r : Report) : (s.report r).nextId = s.nextId := rfl

/-! ### `setPst` -/

@[simp] theorem State.setPst_mem (s : State) (p : Nat) (x : PartState) : (s.setPst p x).mem = s.mem := rfl
@[simp] theorem State.setPst_sram (s : State) (p : Nat) (x : PartState) : (s.setPst p x).sram = s.sram := rfl
@[simp] theorem State.setPst_cores (s : State) (p : Nat) (x : PartState) : (s.setPst p x).cores = s.cores := rfl
@[simp] theorem State.setPst_rows (s : State) (p : Nat) (x : PartState) : (s.setPst p x).rows = s.rows := rfl
@[simp] theorem State.setPst_cmds (s : State) (p : Nat) (x : PartState) : (s.setPst p x).cmds = s.cmds := rfl
@[simp] theorem State.setPst_lastServed (s : State) (p : Nat) (x : PartState) : (s.setPst p x).lastServed = s.lastServed := rfl
@[simp] theorem State.setPst_parts (s : State) (p : Nat) (x : PartState) : (s.setPst p x).parts = s.parts := rfl
@[simp] theorem State.setPst_device (s : State) (p : Nat) (x : PartState) : (s.setPst p x).device = s.device := rfl
@[simp] theorem State.setPst_launches (s : State) (p : Nat) (x : PartState) : (s.setPst p x).launches = s.launches := rfl
@[simp] theorem State.setPst_tree (s : State) (p : Nat) (x : PartState) : (s.setPst p x).tree = s.tree := rfl
@[simp] theorem State.setPst_tiles (s : State) (p : Nat) (x : PartState) : (s.setPst p x).tiles = s.tiles := rfl
@[simp] theorem State.setPst_mailbox (s : State) (p : Nat) (x : PartState) : (s.setPst p x).mailbox = s.mailbox := rfl
@[simp] theorem State.setPst_time (s : State) (p : Nat) (x : PartState) : (s.setPst p x).time = s.time := rfl
@[simp] theorem State.setPst_dir (s : State) (p : Nat) (x : PartState) : (s.setPst p x).dir = s.dir := rfl
@[simp] theorem State.setPst_bridge (s : State) (p : Nat) (x : PartState) : (s.setPst p x).bridge = s.bridge := rfl
@[simp] theorem State.setPst_hostHeld (s : State) (p : Nat) (x : PartState) : (s.setPst p x).hostHeld = s.hostHeld := rfl
@[simp] theorem State.setPst_lds (s : State) (p : Nat) (x : PartState) : (s.setPst p x).lds = s.lds := rfl
@[simp] theorem State.setPst_peers (s : State) (p : Nat) (x : PartState) : (s.setPst p x).peers = s.peers := rfl
@[simp] theorem State.setPst_clocks (s : State) (p : Nat) (x : PartState) : (s.setPst p x).clocks = s.clocks := rfl
@[simp] theorem State.setPst_watts (s : State) (p : Nat) (x : PartState) : (s.setPst p x).watts = s.watts := rfl
@[simp] theorem State.setPst_stopped (s : State) (p : Nat) (x : PartState) : (s.setPst p x).stopped = s.stopped := rfl
@[simp] theorem State.setPst_removed (s : State) (p : Nat) (x : PartState) : (s.setPst p x).removed = s.removed := rfl
@[simp] theorem State.setPst_caches (s : State) (p : Nat) (x : PartState) : (s.setPst p x).caches = s.caches := rfl
@[simp] theorem State.setPst_heldBus (s : State) (p : Nat) (x : PartState) : (s.setPst p x).heldBus = s.heldBus := rfl
@[simp] theorem State.setPst_telemetry (s : State) (p : Nat) (x : PartState) : (s.setPst p x).telemetry = s.telemetry := rfl
@[simp] theorem State.setPst_fw (s : State) (p : Nat) (x : PartState) : (s.setPst p x).fw = s.fw := rfl
@[simp] theorem State.setPst_hand (s : State) (p : Nat) (x : PartState) : (s.setPst p x).hand = s.hand := rfl
@[simp] theorem State.setPst_agenda (s : State) (p : Nat) (x : PartState) : (s.setPst p x).agenda = s.agenda := rfl
@[simp] theorem State.setPst_devTurn (s : State) (p : Nat) (x : PartState) : (s.setPst p x).devTurn = s.devTurn := rfl
@[simp] theorem State.setPst_turn (s : State) (p : Nat) (x : PartState) : (s.setPst p x).turn = s.turn := rfl
@[simp] theorem State.setPst_beat (s : State) (p : Nat) (x : PartState) : (s.setPst p x).beat = s.beat := rfl
@[simp] theorem State.setPst_pace (s : State) (p : Nat) (x : PartState) : (s.setPst p x).pace = s.pace := rfl
@[simp] theorem State.setPst_fresh (s : State) (p : Nat) (x : PartState) : (s.setPst p x).fresh = s.fresh := rfl
@[simp] theorem State.setPst_nextId (s : State) (p : Nat) (x : PartState) : (s.setPst p x).nextId = s.nextId := rfl

/-! ### `setLd` -/

@[simp] theorem State.setLd_mem (s : State) (n : Nat) (d : LogDev) : (s.setLd n d).mem = s.mem := rfl
@[simp] theorem State.setLd_sram (s : State) (n : Nat) (d : LogDev) : (s.setLd n d).sram = s.sram := rfl
@[simp] theorem State.setLd_cores (s : State) (n : Nat) (d : LogDev) : (s.setLd n d).cores = s.cores := rfl
@[simp] theorem State.setLd_rows (s : State) (n : Nat) (d : LogDev) : (s.setLd n d).rows = s.rows := rfl
@[simp] theorem State.setLd_cmds (s : State) (n : Nat) (d : LogDev) : (s.setLd n d).cmds = s.cmds := rfl
@[simp] theorem State.setLd_lastServed (s : State) (n : Nat) (d : LogDev) : (s.setLd n d).lastServed = s.lastServed := rfl
@[simp] theorem State.setLd_parts (s : State) (n : Nat) (d : LogDev) : (s.setLd n d).parts = s.parts := rfl
@[simp] theorem State.setLd_pstate (s : State) (n : Nat) (d : LogDev) : (s.setLd n d).pstate = s.pstate := rfl
@[simp] theorem State.setLd_device (s : State) (n : Nat) (d : LogDev) : (s.setLd n d).device = s.device := rfl
@[simp] theorem State.setLd_launches (s : State) (n : Nat) (d : LogDev) : (s.setLd n d).launches = s.launches := rfl
@[simp] theorem State.setLd_tree (s : State) (n : Nat) (d : LogDev) : (s.setLd n d).tree = s.tree := rfl
@[simp] theorem State.setLd_tiles (s : State) (n : Nat) (d : LogDev) : (s.setLd n d).tiles = s.tiles := rfl
@[simp] theorem State.setLd_mailbox (s : State) (n : Nat) (d : LogDev) : (s.setLd n d).mailbox = s.mailbox := rfl
@[simp] theorem State.setLd_time (s : State) (n : Nat) (d : LogDev) : (s.setLd n d).time = s.time := rfl
@[simp] theorem State.setLd_dir (s : State) (n : Nat) (d : LogDev) : (s.setLd n d).dir = s.dir := rfl
@[simp] theorem State.setLd_bridge (s : State) (n : Nat) (d : LogDev) : (s.setLd n d).bridge = s.bridge := rfl
@[simp] theorem State.setLd_hostHeld (s : State) (n : Nat) (d : LogDev) : (s.setLd n d).hostHeld = s.hostHeld := rfl
@[simp] theorem State.setLd_peers (s : State) (n : Nat) (d : LogDev) : (s.setLd n d).peers = s.peers := rfl
@[simp] theorem State.setLd_clocks (s : State) (n : Nat) (d : LogDev) : (s.setLd n d).clocks = s.clocks := rfl
@[simp] theorem State.setLd_watts (s : State) (n : Nat) (d : LogDev) : (s.setLd n d).watts = s.watts := rfl
@[simp] theorem State.setLd_stopped (s : State) (n : Nat) (d : LogDev) : (s.setLd n d).stopped = s.stopped := rfl
@[simp] theorem State.setLd_removed (s : State) (n : Nat) (d : LogDev) : (s.setLd n d).removed = s.removed := rfl
@[simp] theorem State.setLd_caches (s : State) (n : Nat) (d : LogDev) : (s.setLd n d).caches = s.caches := rfl
@[simp] theorem State.setLd_heldBus (s : State) (n : Nat) (d : LogDev) : (s.setLd n d).heldBus = s.heldBus := rfl
@[simp] theorem State.setLd_telemetry (s : State) (n : Nat) (d : LogDev) : (s.setLd n d).telemetry = s.telemetry := rfl
@[simp] theorem State.setLd_fw (s : State) (n : Nat) (d : LogDev) : (s.setLd n d).fw = s.fw := rfl
@[simp] theorem State.setLd_hand (s : State) (n : Nat) (d : LogDev) : (s.setLd n d).hand = s.hand := rfl
@[simp] theorem State.setLd_agenda (s : State) (n : Nat) (d : LogDev) : (s.setLd n d).agenda = s.agenda := rfl
@[simp] theorem State.setLd_devTurn (s : State) (n : Nat) (d : LogDev) : (s.setLd n d).devTurn = s.devTurn := rfl
@[simp] theorem State.setLd_turn (s : State) (n : Nat) (d : LogDev) : (s.setLd n d).turn = s.turn := rfl
@[simp] theorem State.setLd_beat (s : State) (n : Nat) (d : LogDev) : (s.setLd n d).beat = s.beat := rfl
@[simp] theorem State.setLd_pace (s : State) (n : Nat) (d : LogDev) : (s.setLd n d).pace = s.pace := rfl
@[simp] theorem State.setLd_fresh (s : State) (n : Nat) (d : LogDev) : (s.setLd n d).fresh = s.fresh := rfl
@[simp] theorem State.setLd_nextId (s : State) (n : Nat) (d : LogDev) : (s.setLd n d).nextId = s.nextId := rfl

/-! ### `modLaunch` -/

@[simp] theorem State.modLaunch_mem (s : State) (id : Nat) (f : Launch → Launch) : (s.modLaunch id f).mem = s.mem := rfl
@[simp] theorem State.modLaunch_sram (s : State) (id : Nat) (f : Launch → Launch) : (s.modLaunch id f).sram = s.sram := rfl
@[simp] theorem State.modLaunch_cores (s : State) (id : Nat) (f : Launch → Launch) : (s.modLaunch id f).cores = s.cores := rfl
@[simp] theorem State.modLaunch_rows (s : State) (id : Nat) (f : Launch → Launch) : (s.modLaunch id f).rows = s.rows := rfl
@[simp] theorem State.modLaunch_cmds (s : State) (id : Nat) (f : Launch → Launch) : (s.modLaunch id f).cmds = s.cmds := rfl
@[simp] theorem State.modLaunch_lastServed (s : State) (id : Nat) (f : Launch → Launch) : (s.modLaunch id f).lastServed = s.lastServed := rfl
@[simp] theorem State.modLaunch_parts (s : State) (id : Nat) (f : Launch → Launch) : (s.modLaunch id f).parts = s.parts := rfl
@[simp] theorem State.modLaunch_pstate (s : State) (id : Nat) (f : Launch → Launch) : (s.modLaunch id f).pstate = s.pstate := rfl
@[simp] theorem State.modLaunch_device (s : State) (id : Nat) (f : Launch → Launch) : (s.modLaunch id f).device = s.device := rfl
@[simp] theorem State.modLaunch_tree (s : State) (id : Nat) (f : Launch → Launch) : (s.modLaunch id f).tree = s.tree := rfl
@[simp] theorem State.modLaunch_tiles (s : State) (id : Nat) (f : Launch → Launch) : (s.modLaunch id f).tiles = s.tiles := rfl
@[simp] theorem State.modLaunch_mailbox (s : State) (id : Nat) (f : Launch → Launch) : (s.modLaunch id f).mailbox = s.mailbox := rfl
@[simp] theorem State.modLaunch_time (s : State) (id : Nat) (f : Launch → Launch) : (s.modLaunch id f).time = s.time := rfl
@[simp] theorem State.modLaunch_dir (s : State) (id : Nat) (f : Launch → Launch) : (s.modLaunch id f).dir = s.dir := rfl
@[simp] theorem State.modLaunch_bridge (s : State) (id : Nat) (f : Launch → Launch) : (s.modLaunch id f).bridge = s.bridge := rfl
@[simp] theorem State.modLaunch_hostHeld (s : State) (id : Nat) (f : Launch → Launch) : (s.modLaunch id f).hostHeld = s.hostHeld := rfl
@[simp] theorem State.modLaunch_lds (s : State) (id : Nat) (f : Launch → Launch) : (s.modLaunch id f).lds = s.lds := rfl
@[simp] theorem State.modLaunch_peers (s : State) (id : Nat) (f : Launch → Launch) : (s.modLaunch id f).peers = s.peers := rfl
@[simp] theorem State.modLaunch_clocks (s : State) (id : Nat) (f : Launch → Launch) : (s.modLaunch id f).clocks = s.clocks := rfl
@[simp] theorem State.modLaunch_watts (s : State) (id : Nat) (f : Launch → Launch) : (s.modLaunch id f).watts = s.watts := rfl
@[simp] theorem State.modLaunch_stopped (s : State) (id : Nat) (f : Launch → Launch) : (s.modLaunch id f).stopped = s.stopped := rfl
@[simp] theorem State.modLaunch_removed (s : State) (id : Nat) (f : Launch → Launch) : (s.modLaunch id f).removed = s.removed := rfl
@[simp] theorem State.modLaunch_caches (s : State) (id : Nat) (f : Launch → Launch) : (s.modLaunch id f).caches = s.caches := rfl
@[simp] theorem State.modLaunch_heldBus (s : State) (id : Nat) (f : Launch → Launch) : (s.modLaunch id f).heldBus = s.heldBus := rfl
@[simp] theorem State.modLaunch_telemetry (s : State) (id : Nat) (f : Launch → Launch) : (s.modLaunch id f).telemetry = s.telemetry := rfl
@[simp] theorem State.modLaunch_fw (s : State) (id : Nat) (f : Launch → Launch) : (s.modLaunch id f).fw = s.fw := rfl
@[simp] theorem State.modLaunch_hand (s : State) (id : Nat) (f : Launch → Launch) : (s.modLaunch id f).hand = s.hand := rfl
@[simp] theorem State.modLaunch_agenda (s : State) (id : Nat) (f : Launch → Launch) : (s.modLaunch id f).agenda = s.agenda := rfl
@[simp] theorem State.modLaunch_devTurn (s : State) (id : Nat) (f : Launch → Launch) : (s.modLaunch id f).devTurn = s.devTurn := rfl
@[simp] theorem State.modLaunch_turn (s : State) (id : Nat) (f : Launch → Launch) : (s.modLaunch id f).turn = s.turn := rfl
@[simp] theorem State.modLaunch_beat (s : State) (id : Nat) (f : Launch → Launch) : (s.modLaunch id f).beat = s.beat := rfl
@[simp] theorem State.modLaunch_pace (s : State) (id : Nat) (f : Launch → Launch) : (s.modLaunch id f).pace = s.pace := rfl
@[simp] theorem State.modLaunch_fresh (s : State) (id : Nat) (f : Launch → Launch) : (s.modLaunch id f).fresh = s.fresh := rfl
@[simp] theorem State.modLaunch_nextId (s : State) (id : Nat) (f : Launch → Launch) : (s.modLaunch id f).nextId = s.nextId := rfl

/-! ### `raiseEvent` -/

@[simp] theorem State.raiseEvent_mem (s : State) (ld cls : Nat) : (s.raiseEvent ld cls).mem = s.mem := rfl
@[simp] theorem State.raiseEvent_sram (s : State) (ld cls : Nat) : (s.raiseEvent ld cls).sram = s.sram := rfl
@[simp] theorem State.raiseEvent_cores (s : State) (ld cls : Nat) : (s.raiseEvent ld cls).cores = s.cores := rfl
@[simp] theorem State.raiseEvent_rows (s : State) (ld cls : Nat) : (s.raiseEvent ld cls).rows = s.rows := rfl
@[simp] theorem State.raiseEvent_cmds (s : State) (ld cls : Nat) : (s.raiseEvent ld cls).cmds = s.cmds := rfl
@[simp] theorem State.raiseEvent_lastServed (s : State) (ld cls : Nat) : (s.raiseEvent ld cls).lastServed = s.lastServed := rfl
@[simp] theorem State.raiseEvent_parts (s : State) (ld cls : Nat) : (s.raiseEvent ld cls).parts = s.parts := rfl
@[simp] theorem State.raiseEvent_pstate (s : State) (ld cls : Nat) : (s.raiseEvent ld cls).pstate = s.pstate := rfl
@[simp] theorem State.raiseEvent_device (s : State) (ld cls : Nat) : (s.raiseEvent ld cls).device = s.device := rfl
@[simp] theorem State.raiseEvent_launches (s : State) (ld cls : Nat) : (s.raiseEvent ld cls).launches = s.launches := rfl
@[simp] theorem State.raiseEvent_tree (s : State) (ld cls : Nat) : (s.raiseEvent ld cls).tree = s.tree := rfl
@[simp] theorem State.raiseEvent_tiles (s : State) (ld cls : Nat) : (s.raiseEvent ld cls).tiles = s.tiles := rfl
@[simp] theorem State.raiseEvent_mailbox (s : State) (ld cls : Nat) : (s.raiseEvent ld cls).mailbox = s.mailbox := rfl
@[simp] theorem State.raiseEvent_time (s : State) (ld cls : Nat) : (s.raiseEvent ld cls).time = s.time := rfl
@[simp] theorem State.raiseEvent_dir (s : State) (ld cls : Nat) : (s.raiseEvent ld cls).dir = s.dir := rfl
@[simp] theorem State.raiseEvent_bridge (s : State) (ld cls : Nat) : (s.raiseEvent ld cls).bridge = s.bridge := rfl
@[simp] theorem State.raiseEvent_hostHeld (s : State) (ld cls : Nat) : (s.raiseEvent ld cls).hostHeld = s.hostHeld := rfl
@[simp] theorem State.raiseEvent_peers (s : State) (ld cls : Nat) : (s.raiseEvent ld cls).peers = s.peers := rfl
@[simp] theorem State.raiseEvent_clocks (s : State) (ld cls : Nat) : (s.raiseEvent ld cls).clocks = s.clocks := rfl
@[simp] theorem State.raiseEvent_watts (s : State) (ld cls : Nat) : (s.raiseEvent ld cls).watts = s.watts := rfl
@[simp] theorem State.raiseEvent_stopped (s : State) (ld cls : Nat) : (s.raiseEvent ld cls).stopped = s.stopped := rfl
@[simp] theorem State.raiseEvent_removed (s : State) (ld cls : Nat) : (s.raiseEvent ld cls).removed = s.removed := rfl
@[simp] theorem State.raiseEvent_caches (s : State) (ld cls : Nat) : (s.raiseEvent ld cls).caches = s.caches := rfl
@[simp] theorem State.raiseEvent_heldBus (s : State) (ld cls : Nat) : (s.raiseEvent ld cls).heldBus = s.heldBus := rfl
@[simp] theorem State.raiseEvent_telemetry (s : State) (ld cls : Nat) : (s.raiseEvent ld cls).telemetry = s.telemetry := rfl
@[simp] theorem State.raiseEvent_fw (s : State) (ld cls : Nat) : (s.raiseEvent ld cls).fw = s.fw := rfl
@[simp] theorem State.raiseEvent_hand (s : State) (ld cls : Nat) : (s.raiseEvent ld cls).hand = s.hand := rfl
@[simp] theorem State.raiseEvent_agenda (s : State) (ld cls : Nat) : (s.raiseEvent ld cls).agenda = s.agenda := rfl
@[simp] theorem State.raiseEvent_devTurn (s : State) (ld cls : Nat) : (s.raiseEvent ld cls).devTurn = s.devTurn := rfl
@[simp] theorem State.raiseEvent_turn (s : State) (ld cls : Nat) : (s.raiseEvent ld cls).turn = s.turn := rfl
@[simp] theorem State.raiseEvent_beat (s : State) (ld cls : Nat) : (s.raiseEvent ld cls).beat = s.beat := rfl
@[simp] theorem State.raiseEvent_pace (s : State) (ld cls : Nat) : (s.raiseEvent ld cls).pace = s.pace := rfl
@[simp] theorem State.raiseEvent_fresh (s : State) (ld cls : Nat) : (s.raiseEvent ld cls).fresh = s.fresh := rfl
@[simp] theorem State.raiseEvent_nextId (s : State) (ld cls : Nat) : (s.raiseEvent ld cls).nextId = s.nextId := rfl

/-! ### `endUnit` -/

@[simp] theorem State.endUnit_mem (s : State) (core : Nat) (err : BitVec 16) (fcode : Nat) : (s.endUnit core err fcode).mem = s.mem := rfl
@[simp] theorem State.endUnit_sram (s : State) (core : Nat) (err : BitVec 16) (fcode : Nat) : (s.endUnit core err fcode).sram = s.sram := rfl
@[simp] theorem State.endUnit_rows (s : State) (core : Nat) (err : BitVec 16) (fcode : Nat) : (s.endUnit core err fcode).rows = s.rows := rfl
@[simp] theorem State.endUnit_cmds (s : State) (core : Nat) (err : BitVec 16) (fcode : Nat) : (s.endUnit core err fcode).cmds = s.cmds := rfl
@[simp] theorem State.endUnit_lastServed (s : State) (core : Nat) (err : BitVec 16) (fcode : Nat) : (s.endUnit core err fcode).lastServed = s.lastServed := rfl
@[simp] theorem State.endUnit_parts (s : State) (core : Nat) (err : BitVec 16) (fcode : Nat) : (s.endUnit core err fcode).parts = s.parts := rfl
@[simp] theorem State.endUnit_pstate (s : State) (core : Nat) (err : BitVec 16) (fcode : Nat) : (s.endUnit core err fcode).pstate = s.pstate := rfl
@[simp] theorem State.endUnit_device (s : State) (core : Nat) (err : BitVec 16) (fcode : Nat) : (s.endUnit core err fcode).device = s.device := rfl
@[simp] theorem State.endUnit_launches (s : State) (core : Nat) (err : BitVec 16) (fcode : Nat) : (s.endUnit core err fcode).launches = s.launches := rfl
@[simp] theorem State.endUnit_tree (s : State) (core : Nat) (err : BitVec 16) (fcode : Nat) : (s.endUnit core err fcode).tree = s.tree := rfl
@[simp] theorem State.endUnit_tiles (s : State) (core : Nat) (err : BitVec 16) (fcode : Nat) : (s.endUnit core err fcode).tiles = s.tiles := rfl
@[simp] theorem State.endUnit_mailbox (s : State) (core : Nat) (err : BitVec 16) (fcode : Nat) : (s.endUnit core err fcode).mailbox = s.mailbox := rfl
@[simp] theorem State.endUnit_time (s : State) (core : Nat) (err : BitVec 16) (fcode : Nat) : (s.endUnit core err fcode).time = s.time := rfl
@[simp] theorem State.endUnit_dir (s : State) (core : Nat) (err : BitVec 16) (fcode : Nat) : (s.endUnit core err fcode).dir = s.dir := rfl
@[simp] theorem State.endUnit_bridge (s : State) (core : Nat) (err : BitVec 16) (fcode : Nat) : (s.endUnit core err fcode).bridge = s.bridge := rfl
@[simp] theorem State.endUnit_hostHeld (s : State) (core : Nat) (err : BitVec 16) (fcode : Nat) : (s.endUnit core err fcode).hostHeld = s.hostHeld := rfl
@[simp] theorem State.endUnit_lds (s : State) (core : Nat) (err : BitVec 16) (fcode : Nat) : (s.endUnit core err fcode).lds = s.lds := rfl
@[simp] theorem State.endUnit_peers (s : State) (core : Nat) (err : BitVec 16) (fcode : Nat) : (s.endUnit core err fcode).peers = s.peers := rfl
@[simp] theorem State.endUnit_clocks (s : State) (core : Nat) (err : BitVec 16) (fcode : Nat) : (s.endUnit core err fcode).clocks = s.clocks := rfl
@[simp] theorem State.endUnit_watts (s : State) (core : Nat) (err : BitVec 16) (fcode : Nat) : (s.endUnit core err fcode).watts = s.watts := rfl
@[simp] theorem State.endUnit_stopped (s : State) (core : Nat) (err : BitVec 16) (fcode : Nat) : (s.endUnit core err fcode).stopped = s.stopped := rfl
@[simp] theorem State.endUnit_removed (s : State) (core : Nat) (err : BitVec 16) (fcode : Nat) : (s.endUnit core err fcode).removed = s.removed := rfl
@[simp] theorem State.endUnit_caches (s : State) (core : Nat) (err : BitVec 16) (fcode : Nat) : (s.endUnit core err fcode).caches = s.caches := rfl
@[simp] theorem State.endUnit_heldBus (s : State) (core : Nat) (err : BitVec 16) (fcode : Nat) : (s.endUnit core err fcode).heldBus = s.heldBus := rfl
@[simp] theorem State.endUnit_telemetry (s : State) (core : Nat) (err : BitVec 16) (fcode : Nat) : (s.endUnit core err fcode).telemetry = s.telemetry := rfl
@[simp] theorem State.endUnit_fw (s : State) (core : Nat) (err : BitVec 16) (fcode : Nat) : (s.endUnit core err fcode).fw = s.fw := rfl
@[simp] theorem State.endUnit_hand (s : State) (core : Nat) (err : BitVec 16) (fcode : Nat) : (s.endUnit core err fcode).hand = s.hand := rfl
@[simp] theorem State.endUnit_agenda (s : State) (core : Nat) (err : BitVec 16) (fcode : Nat) : (s.endUnit core err fcode).agenda = s.agenda := rfl
@[simp] theorem State.endUnit_devTurn (s : State) (core : Nat) (err : BitVec 16) (fcode : Nat) : (s.endUnit core err fcode).devTurn = s.devTurn := rfl
@[simp] theorem State.endUnit_turn (s : State) (core : Nat) (err : BitVec 16) (fcode : Nat) : (s.endUnit core err fcode).turn = s.turn := rfl
@[simp] theorem State.endUnit_beat (s : State) (core : Nat) (err : BitVec 16) (fcode : Nat) : (s.endUnit core err fcode).beat = s.beat := rfl
@[simp] theorem State.endUnit_pace (s : State) (core : Nat) (err : BitVec 16) (fcode : Nat) : (s.endUnit core err fcode).pace = s.pace := rfl
@[simp] theorem State.endUnit_fresh (s : State) (core : Nat) (err : BitVec 16) (fcode : Nat) : (s.endUnit core err fcode).fresh = s.fresh := rfl
@[simp] theorem State.endUnit_nextId (s : State) (core : Nat) (err : BitVec 16) (fcode : Nat) : (s.endUnit core err fcode).nextId = s.nextId := rfl

/-! ### A core with one context set -/

@[simp] theorem Core.setCtx_v (c : Core) (n : Nat) (x : Context) : (c.setCtx n x).v = c.v := rfl
@[simp] theorem Core.setCtx_k (c : Core) (n : Nat) (x : Context) : (c.setCtx n x).k = c.k := rfl
@[simp] theorem Core.setCtx_m (c : Core) (n : Nat) (x : Context) : (c.setCtx n x).m = c.m := rfl
@[simp] theorem Core.setCtx_t0 (c : Core) (n : Nat) (x : Context) : (c.setCtx n x).t0 = c.t0 := rfl
@[simp] theorem Core.setCtx_t1 (c : Core) (n : Nat) (x : Context) : (c.setCtx n x).t1 = c.t1 := rfl
@[simp] theorem Core.setCtx_recovery (c : Core) (n : Nat) (x : Context) : (c.setCtx n x).recovery = c.recovery := rfl
@[simp] theorem Core.setCtx_shape (c : Core) (n : Nat) (x : Context) : (c.setCtx n x).shape = c.shape := rfl
@[simp] theorem Core.setCtx_zero (c : Core) (n : Nat) (x : Context) : (c.setCtx n x).zero = c.zero := rfl
@[simp] theorem Core.setCtx_weight (c : Core) (n : Nat) (x : Context) : (c.setCtx n x).weight = c.weight := rfl
@[simp] theorem Core.setCtx_scale (c : Core) (n : Nat) (x : Context) : (c.setCtx n x).scale = c.scale := rfl
@[simp] theorem Core.setCtx_half (c : Core) (n : Nat) (x : Context) : (c.setCtx n x).half = c.half := rfl
@[simp] theorem Core.setCtx_nmono0 (c : Core) (n : Nat) (x : Context) : (c.setCtx n x).nmono0 = c.nmono0 := rfl
@[simp] theorem Core.setCtx_nmono1 (c : Core) (n : Nat) (x : Context) : (c.setCtx n x).nmono1 = c.nmono1 := rfl
@[simp] theorem Core.setCtx_table (c : Core) (n : Nat) (x : Context) : (c.setCtx n x).table = c.table := rfl
@[simp] theorem Core.setCtx_cfg (c : Core) (n : Nat) (x : Context) : (c.setCtx n x).cfg = c.cfg := rfl
@[simp] theorem Core.setCtx_shadow (c : Core) (n : Nat) (x : Context) : (c.setCtx n x).shadow = c.shadow := rfl
@[simp] theorem Core.setCtx_tvec (c : Core) (n : Nat) (x : Context) : (c.setCtx n x).tvec = c.tvec := rfl
@[simp] theorem Core.setCtx_splo (c : Core) (n : Nat) (x : Context) : (c.setCtx n x).splo = c.splo := rfl
@[simp] theorem Core.setCtx_sphi (c : Core) (n : Nat) (x : Context) : (c.setCtx n x).sphi = c.sphi := rfl
@[simp] theorem Core.setCtx_part (c : Core) (n : Nat) (x : Context) : (c.setCtx n x).part = c.part := rfl
@[simp] theorem Core.setCtx_svcpart (c : Core) (n : Nat) (x : Context) : (c.setCtx n x).svcpart = c.svcpart := rfl
@[simp] theorem Core.setCtx_inHandler (c : Core) (n : Nat) (x : Context) : (c.setCtx n x).inHandler = c.inHandler := rfl
@[simp] theorem Core.setCtx_stopped (c : Core) (n : Nat) (x : Context) : (c.setCtx n x).stopped = c.stopped := rfl
@[simp] theorem Core.setCtx_vq (c : Core) (n : Nat) (x : Context) : (c.setCtx n x).vq = c.vq := rfl
@[simp] theorem Core.setCtx_last (c : Core) (n : Nat) (x : Context) : (c.setCtx n x).last = c.last := rfl
@[simp] theorem Core.setCtx_cycles (c : Core) (n : Nat) (x : Context) : (c.setCtx n x).cycles = c.cycles := rfl
@[simp] theorem Core.setCtx_vqbusy (c : Core) (n : Nat) (x : Context) : (c.setCtx n x).vqbusy = c.vqbusy := rfl
@[simp] theorem Core.setCtx_laneUse (c : Core) (n : Nat) (x : Context) : (c.setCtx n x).laneUse = c.laneUse := rfl
@[simp] theorem Core.setCtx_laneWait (c : Core) (n : Nat) (x : Context) : (c.setCtx n x).laneWait = c.laneWait := rfl
@[simp] theorem Core.setCtx_unit (c : Core) (n : Nat) (x : Context) : (c.setCtx n x).unit = c.unit := rfl
@[simp] theorem Core.setCtx_lastHeld (c : Core) (n : Nat) (x : Context) : (c.setCtx n x).lastHeld = c.lastHeld := rfl
@[simp] theorem Core.setCtx_ending (c : Core) (n : Nat) (x : Context) : (c.setCtx n x).ending = c.ending := rfl
@[simp] theorem Core.setCtx_frozen (c : Core) (n : Nat) (x : Context) : (c.setCtx n x).frozen = c.frozen := rfl
@[simp] theorem Core.setCtx_inc (c : Core) (n : Nat) (x : Context) : (c.setCtx n x).inc = c.inc := rfl
@[simp] theorem Core.setCtx_out (c : Core) (n : Nat) (x : Context) : (c.setCtx n x).out = c.out := rfl
@[simp] theorem Core.setCtx_flits (c : Core) (n : Nat) (x : Context) : (c.setCtx n x).flits = c.flits := rfl
@[simp] theorem Core.setCtx_lapse (c : Core) (n : Nat) (x : Context) : (c.setCtx n x).lapse = c.lapse := rfl
@[simp] theorem Core.setCtx_wires (c : Core) (n : Nat) (x : Context) : (c.setCtx n x).wires = c.wires := rfl
@[simp] theorem Core.setCtx_sel (c : Core) (n : Nat) (x : Context) : (c.setCtx n x).sel = c.sel := rfl
@[simp] theorem Core.setCtx_cable (c : Core) (n : Nat) (x : Context) : (c.setCtx n x).cable = c.cable := rfl
@[simp] theorem Core.setCtx_loaded (c : Core) (n : Nat) (x : Context) : (c.setCtx n x).loaded = c.loaded := rfl
@[simp] theorem Core.setCtx_saving (c : Core) (n : Nat) (x : Context) : (c.setCtx n x).saving = c.saving := rfl
@[simp] theorem Core.setCtx_freed (c : Core) (n : Nat) (x : Context) : (c.setCtx n x).freed = c.freed := rfl
@[simp] theorem Core.setCtx_epoch (c : Core) (n : Nat) (x : Context) : (c.setCtx n x).epoch = c.epoch := rfl
@[simp] theorem Core.setCtx_icache (c : Core) (n : Nat) (x : Context) : (c.setCtx n x).icache = c.icache := rfl

end Sys2Proof.Machine
end

