-- ==== Sys2Proof/Laws/Regs.lean ====
section
/-! SUPPORT. Registers after each operation on the context in hand, and what the operations leave. -/

namespace Sys2Proof.Machine

/-! ### Cores and contexts -/

@[simp] theorem Core.ctxAt_setCtx (c : Core) (n m : Nat) (x : Context) :
    (c.setCtx n x).ctxAt m = if m = n then x else c.ctxAt m := by
  unfold Core.ctxAt Core.setCtx
  simp only [smapGet?_smapSet]
  split <;> rfl

@[simp] theorem Core.setCtx_setCtx (c : Core) (n : Nat) (x y : Context) : (c.setCtx n x).setCtx n y = c.setCtx n y := by
  simp [Core.setCtx]

@[simp] theorem State.coreAt_setCore (s : State) (n m : Nat) (c : Core) :
    (s.setCore n c).coreAt m = if m = n then c else s.coreAt m := by
  unfold State.coreAt State.setCore
  simp only [smapGet?_smapSet]
  split <;> rfl

@[simp] theorem State.setCore_setCore (s : State) (n : Nat) (c d : Core) : (s.setCore n c).setCore n d = s.setCore n d := by
  simp [State.setCore]

@[simp] theorem State.me_modMe (s : State) (f : Core → Core) : (s.modMe f).me = f s.me := by simp [State.me, State.modMe]

theorem State.coreAt_modMe (s : State) (f : Core → Core) (g : Nat) :
    (s.modMe f).coreAt g = if g = s.hand.core then f s.me else s.coreAt g := by simp [State.modMe]

@[simp] theorem State.me_modMy (s : State) (f : Context → Context) :
    (s.modMy f).me = s.me.setCtx s.hand.ctx (f s.my) := by
  simp [State.modMy, State.my]

theorem State.coreAt_modMy (s : State) (f : Context → Context) (g : Nat) :
    (s.modMy f).coreAt g = if g = s.hand.core then s.me.setCtx s.hand.ctx (f s.my) else s.coreAt g := by
  simp [State.modMy, State.coreAt_modMe, State.my]

@[simp] theorem State.my_modMy (s : State) (f : Context → Context) : (s.modMy f).my = f s.my := by
  rw [State.my, State.me_modMy]
  simp

@[simp] theorem State.modMy_modMy (s : State) (f h : Context → Context) : (s.modMy f).modMy h = s.modMy fun x => h (f x) := by
  show (s.modMy f).setCore s.hand.core _ = _
  rw [State.me_modMy]
  simp [State.modMy, State.modMe, State.my]

theorem State.my_modMe (s : State) (f : Core → Core) : (s.modMe f).my = (f s.me).ctxAt s.hand.ctx := by
  simp [State.my]

/-! ### Reading one register after writing another -/

@[simp] theorem State.my_setPc (s : State) (pc : Word) : (s.setPc pc).my = { s.my with pc := pc } := by simp [State.setPc]

@[simp] theorem State.my_orFlags (s : State) (f : FFlags) : (s.orFlags f).my = { s.my with fflags := s.my.fflags ||| f } := by
  simp [State.orFlags]

theorem State.my_setS (s : State) (r : BitVec 5) (v : Word) :
    (s.setS r v).my = if r = 0 then s.my else { s.my with s := s.my.s.set r.toNat v r.isLt } := by
  unfold State.setS; split <;> simp

theorem State.my_setP (s : State) (r : BitVec 3) (v : Bool) :
    (s.setP r v).my = if r = 0 then s.my else { s.my with p := s.my.p.set r.toNat v r.isLt } := by
  unfold State.setP; split <;> simp

theorem State.my_setA (s : State) (r : BitVec 4) (v : CapBits) :
    (s.setA r v).my = if r = 0 then s.my else { s.my with a := s.my.a.set r.toNat v r.isLt } := by
  unfold State.setA; split <;> simp

@[simp] theorem State.my_setH (s : State) (r : BitVec 4) (v : Option Strand) :
    (s.setH r v).my = { s.my with h := s.my.h.set r.toNat v r.isLt } := by
  simp [State.setH]

/-- A register of a file after a write to the file. -/
theorem vector_get_set {α : Type} {k w : Nat} (v : Vector α k) (h : k = 2 ^ w) (r q : BitVec w) (hr : r.toNat < k) (x : α) :
    (v.set r.toNat x hr).get (Fin.cast h.symm q.toFin) = if q = r then x else v.get (Fin.cast h.symm q.toFin) := by
  simp only [Vector.get_eq_getElem, Vector.getElem_set, Fin.val_cast, BitVec.val_toFin, ← BitVec.toNat_inj, eq_comm]

@[simp] theorem get_set32 {α : Type} (v : Vector α 32) (r q : BitVec 5) (x : α) :
    (v.set r.toNat x r.isLt).get q.toFin = if q = r then x else v.get q.toFin := vector_get_set v rfl r q r.isLt x
@[simp] theorem get_set8 {α : Type} (v : Vector α 8) (r q : BitVec 3) (x : α) :
    (v.set r.toNat x r.isLt).get q.toFin = if q = r then x else v.get q.toFin := vector_get_set v rfl r q r.isLt x
@[simp] theorem get_set16 {α : Type} (v : Vector α 16) (r q : BitVec 4) (x : α) :
    (v.set r.toNat x r.isLt).get q.toFin = if q = r then x else v.get q.toFin := vector_get_set v rfl r q r.isLt x

@[simp] theorem State.my_setS_p (s : State) (r : BitVec 5) (v : Word) : (s.setS r v).my.p = s.my.p := by rw [State.my_setS]; split <;> rfl
@[simp] theorem State.my_setS_a (s : State) (r : BitVec 5) (v : Word) : (s.setS r v).my.a = s.my.a := by rw [State.my_setS]; split <;> rfl
@[simp] theorem State.my_setS_h (s : State) (r : BitVec 5) (v : Word) : (s.setS r v).my.h = s.my.h := by rw [State.my_setS]; split <;> rfl
@[simp] theorem State.my_setS_pc (s : State) (r : BitVec 5) (v : Word) : (s.setS r v).my.pc = s.my.pc := by rw [State.my_setS]; split <;> rfl
@[simp] theorem State.my_setS_fflags (s : State) (r : BitVec 5) (v : Word) : (s.setS r v).my.fflags = s.my.fflags := by rw [State.my_setS]; split <;> rfl
@[simp] theorem State.my_setS_epc (s : State) (r : BitVec 5) (v : Word) : (s.setS r v).my.epc = s.my.epc := by rw [State.my_setS]; split <;> rfl
@[simp] theorem State.my_setS_ecause (s : State) (r : BitVec 5) (v : Word) : (s.setS r v).my.ecause = s.my.ecause := by rw [State.my_setS]; split <;> rfl
@[simp] theorem State.my_setS_eaddr (s : State) (r : BitVec 5) (v : Word) : (s.setS r v).my.eaddr = s.my.eaddr := by rw [State.my_setS]; split <;> rfl
@[simp] theorem State.my_setS_einfo (s : State) (r : BitVec 5) (v : Word) : (s.setS r v).my.einfo = s.my.einfo := by rw [State.my_setS]; split <;> rfl
@[simp] theorem State.my_setS_uvec (s : State) (r : BitVec 5) (v : Word) : (s.setS r v).my.uvec = s.my.uvec := by rw [State.my_setS]; split <;> rfl
@[simp] theorem State.my_setS_uframe (s : State) (r : BitVec 5) (v : Word) : (s.setS r v).my.uframe = s.my.uframe := by rw [State.my_setS]; split <;> rfl
@[simp] theorem State.my_setS_sys (s : State) (r : BitVec 5) (v : Word) : (s.setS r v).my.sys = s.my.sys := by rw [State.my_setS]; split <;> rfl
@[simp] theorem State.my_setS_st (s : State) (r : BitVec 5) (v : Word) : (s.setS r v).my.st = s.my.st := by rw [State.my_setS]; split <;> rfl
@[simp] theorem State.my_setS_wake (s : State) (r : BitVec 5) (v : Word) : (s.setS r v).my.wake = s.my.wake := by rw [State.my_setS]; split <;> rfl
@[simp] theorem State.my_setS_issued (s : State) (r : BitVec 5) (v : Word) : (s.setS r v).my.issued = s.my.issued := by rw [State.my_setS]; split <;> rfl
@[simp] theorem State.my_setS_waited (s : State) (r : BitVec 5) (v : Word) : (s.setS r v).my.waited = s.my.waited := by rw [State.my_setS]; split <;> rfl
@[simp] theorem State.my_setS_replies (s : State) (r : BitVec 5) (v : Word) : (s.setS r v).my.replies = s.my.replies := by rw [State.my_setS]; split <;> rfl
@[simp] theorem State.my_setS_yielded (s : State) (r : BitVec 5) (v : Word) : (s.setS r v).my.yielded = s.my.yielded := by rw [State.my_setS]; split <;> rfl
@[simp] theorem State.my_setS_inHand (s : State) (r : BitVec 5) (v : Word) : (s.setS r v).my.inHand = s.my.inHand := by rw [State.my_setS]; split <;> rfl
@[simp] theorem State.my_setS_loaded (s : State) (r : BitVec 5) (v : Word) : (s.setS r v).my.loaded = s.my.loaded := by rw [State.my_setS]; split <;> rfl
@[simp] theorem State.my_setS_linkLost (s : State) (r : BitVec 5) (v : Word) : (s.setS r v).my.linkLost = s.my.linkLost := by rw [State.my_setS]; split <;> rfl

@[simp] theorem State.my_setP_s (s : State) (r : BitVec 3) (v : Bool) : (s.setP r v).my.s = s.my.s := by rw [State.my_setP]; split <;> rfl
@[simp] theorem State.my_setP_a (s : State) (r : BitVec 3) (v : Bool) : (s.setP r v).my.a = s.my.a := by rw [State.my_setP]; split <;> rfl
@[simp] theorem State.my_setP_h (s : State) (r : BitVec 3) (v : Bool) : (s.setP r v).my.h = s.my.h := by rw [State.my_setP]; split <;> rfl
@[simp] theorem State.my_setP_pc (s : State) (r : BitVec 3) (v : Bool) : (s.setP r v).my.pc = s.my.pc := by rw [State.my_setP]; split <;> rfl
@[simp] theorem State.my_setP_fflags (s : State) (r : BitVec 3) (v : Bool) : (s.setP r v).my.fflags = s.my.fflags := by rw [State.my_setP]; split <;> rfl
@[simp] theorem State.my_setP_epc (s : State) (r : BitVec 3) (v : Bool) : (s.setP r v).my.epc = s.my.epc := by rw [State.my_setP]; split <;> rfl
@[simp] theorem State.my_setP_ecause (s : State) (r : BitVec 3) (v : Bool) : (s.setP r v).my.ecause = s.my.ecause := by rw [State.my_setP]; split <;> rfl
@[simp] theorem State.my_setP_eaddr (s : State) (r : BitVec 3) (v : Bool) : (s.setP r v).my.eaddr = s.my.eaddr := by rw [State.my_setP]; split <;> rfl
@[simp] theorem State.my_setP_einfo (s : State) (r : BitVec 3) (v : Bool) : (s.setP r v).my.einfo = s.my.einfo := by rw [State.my_setP]; split <;> rfl
@[simp] theorem State.my_setP_uvec (s : State) (r : BitVec 3) (v : Bool) : (s.setP r v).my.uvec = s.my.uvec := by rw [State.my_setP]; split <;> rfl
@[simp] theorem State.my_setP_uframe (s : State) (r : BitVec 3) (v : Bool) : (s.setP r v).my.uframe = s.my.uframe := by rw [State.my_setP]; split <;> rfl
@[simp] theorem State.my_setP_sys (s : State) (r : BitVec 3) (v : Bool) : (s.setP r v).my.sys = s.my.sys := by rw [State.my_setP]; split <;> rfl
@[simp] theorem State.my_setP_st (s : State) (r : BitVec 3) (v : Bool) : (s.setP r v).my.st = s.my.st := by rw [State.my_setP]; split <;> rfl
@[simp] theorem State.my_setP_wake (s : State) (r : BitVec 3) (v : Bool) : (s.setP r v).my.wake = s.my.wake := by rw [State.my_setP]; split <;> rfl
@[simp] theorem State.my_setP_issued (s : State) (r : BitVec 3) (v : Bool) : (s.setP r v).my.issued = s.my.issued := by rw [State.my_setP]; split <;> rfl
@[simp] theorem State.my_setP_waited (s : State) (r : BitVec 3) (v : Bool) : (s.setP r v).my.waited = s.my.waited := by rw [State.my_setP]; split <;> rfl
@[simp] theorem State.my_setP_replies (s : State) (r : BitVec 3) (v : Bool) : (s.setP r v).my.replies = s.my.replies := by rw [State.my_setP]; split <;> rfl
@[simp] theorem State.my_setP_yielded (s : State) (r : BitVec 3) (v : Bool) : (s.setP r v).my.yielded = s.my.yielded := by rw [State.my_setP]; split <;> rfl
@[simp] theorem State.my_setP_inHand (s : State) (r : BitVec 3) (v : Bool) : (s.setP r v).my.inHand = s.my.inHand := by rw [State.my_setP]; split <;> rfl
@[simp] theorem State.my_setP_loaded (s : State) (r : BitVec 3) (v : Bool) : (s.setP r v).my.loaded = s.my.loaded := by rw [State.my_setP]; split <;> rfl
@[simp] theorem State.my_setP_linkLost (s : State) (r : BitVec 3) (v : Bool) : (s.setP r v).my.linkLost = s.my.linkLost := by rw [State.my_setP]; split <;> rfl

@[simp] theorem State.my_setA_s (s : State) (r : BitVec 4) (v : CapBits) : (s.setA r v).my.s = s.my.s := by rw [State.my_setA]; split <;> rfl
@[simp] theorem State.my_setA_p (s : State) (r : BitVec 4) (v : CapBits) : (s.setA r v).my.p = s.my.p := by rw [State.my_setA]; split <;> rfl
@[simp] theorem State.my_setA_h (s : State) (r : BitVec 4) (v : CapBits) : (s.setA r v).my.h = s.my.h := by rw [State.my_setA]; split <;> rfl
@[simp] theorem State.my_setA_pc (s : State) (r : BitVec 4) (v : CapBits) : (s.setA r v).my.pc = s.my.pc := by rw [State.my_setA]; split <;> rfl
@[simp] theorem State.my_setA_fflags (s : State) (r : BitVec 4) (v : CapBits) : (s.setA r v).my.fflags = s.my.fflags := by rw [State.my_setA]; split <;> rfl
@[simp] theorem State.my_setA_epc (s : State) (r : BitVec 4) (v : CapBits) : (s.setA r v).my.epc = s.my.epc := by rw [State.my_setA]; split <;> rfl
@[simp] theorem State.my_setA_ecause (s : State) (r : BitVec 4) (v : CapBits) : (s.setA r v).my.ecause = s.my.ecause := by rw [State.my_setA]; split <;> rfl
@[simp] theorem State.my_setA_eaddr (s : State) (r : BitVec 4) (v : CapBits) : (s.setA r v).my.eaddr = s.my.eaddr := by rw [State.my_setA]; split <;> rfl
@[simp] theorem State.my_setA_einfo (s : State) (r : BitVec 4) (v : CapBits) : (s.setA r v).my.einfo = s.my.einfo := by rw [State.my_setA]; split <;> rfl
@[simp] theorem State.my_setA_uvec (s : State) (r : BitVec 4) (v : CapBits) : (s.setA r v).my.uvec = s.my.uvec := by rw [State.my_setA]; split <;> rfl
@[simp] theorem State.my_setA_uframe (s : State) (r : BitVec 4) (v : CapBits) : (s.setA r v).my.uframe = s.my.uframe := by rw [State.my_setA]; split <;> rfl
@[simp] theorem State.my_setA_sys (s : State) (r : BitVec 4) (v : CapBits) : (s.setA r v).my.sys = s.my.sys := by rw [State.my_setA]; split <;> rfl
@[simp] theorem State.my_setA_st (s : State) (r : BitVec 4) (v : CapBits) : (s.setA r v).my.st = s.my.st := by rw [State.my_setA]; split <;> rfl
@[simp] theorem State.my_setA_wake (s : State) (r : BitVec 4) (v : CapBits) : (s.setA r v).my.wake = s.my.wake := by rw [State.my_setA]; split <;> rfl
@[simp] theorem State.my_setA_issued (s : State) (r : BitVec 4) (v : CapBits) : (s.setA r v).my.issued = s.my.issued := by rw [State.my_setA]; split <;> rfl
@[simp] theorem State.my_setA_waited (s : State) (r : BitVec 4) (v : CapBits) : (s.setA r v).my.waited = s.my.waited := by rw [State.my_setA]; split <;> rfl
@[simp] theorem State.my_setA_replies (s : State) (r : BitVec 4) (v : CapBits) : (s.setA r v).my.replies = s.my.replies := by rw [State.my_setA]; split <;> rfl
@[simp] theorem State.my_setA_yielded (s : State) (r : BitVec 4) (v : CapBits) : (s.setA r v).my.yielded = s.my.yielded := by rw [State.my_setA]; split <;> rfl
@[simp] theorem State.my_setA_inHand (s : State) (r : BitVec 4) (v : CapBits) : (s.setA r v).my.inHand = s.my.inHand := by rw [State.my_setA]; split <;> rfl
@[simp] theorem State.my_setA_loaded (s : State) (r : BitVec 4) (v : CapBits) : (s.setA r v).my.loaded = s.my.loaded := by rw [State.my_setA]; split <;> rfl
@[simp] theorem State.my_setA_linkLost (s : State) (r : BitVec 4) (v : CapBits) : (s.setA r v).my.linkLost = s.my.linkLost := by rw [State.my_setA]; split <;> rfl

@[simp] theorem State.S_setS (s : State) (r q : BitVec 5) (v : Word) :
    (s.setS r v).S q = if q = r then orZero r v else s.S q := by
  unfold State.S orZero
  rw [State.my_setS]
  by_cases h0 : r = 0
  · subst h0; by_cases hq : q = 0#5 <;> simp [hq]
  · rw [if_neg h0]
    by_cases hq : q = r
    · subst hq; simp
    · simp [hq]

@[simp] theorem State.P_setP (s : State) (r q : BitVec 3) (v : Bool) :
    (s.setP r v).P q = if q = r then (r = 0 || v) else s.P q := by
  unfold State.P
  rw [State.my_setP]
  by_cases h0 : r = 0
  · subst h0; by_cases hq : q = 0 <;> simp [hq]
  · rw [if_neg h0]
    by_cases hq : q = r
    · subst hq; simp
    · simp [hq]

@[simp] theorem State.A_setA (s : State) (r q : BitVec 4) (v : CapBits) :
    (s.setA r v).A q = if q = r then orZero r v else s.A q := by
  unfold State.A orZero
  rw [State.my_setA]
  by_cases h0 : r = 0
  · subst h0; by_cases hq : q = 0#4 <;> simp [hq]
  · rw [if_neg h0]
    by_cases hq : q = r
    · subst hq; simp
    · simp [hq]

@[simp] theorem State.H_setH (s : State) (r q : BitVec 4) (v : Option Strand) :
    (s.setH r v).H q = if q = r then v else s.H q := by
  simp [State.H]

@[simp] theorem State.S_setPc (s : State) (pc : Word) (q : BitVec 5) : (s.setPc pc).S q = s.S q := by simp [State.S]
@[simp] theorem State.P_setPc (s : State) (pc : Word) (q : BitVec 3) : (s.setPc pc).P q = s.P q := by simp [State.P]
@[simp] theorem State.A_setPc (s : State) (pc : Word) (q : BitVec 4) : (s.setPc pc).A q = s.A q := by simp [State.A]
@[simp] theorem State.H_setPc (s : State) (pc : Word) (q : BitVec 4) : (s.setPc pc).H q = s.H q := by simp [State.H]

@[simp] theorem State.S_orFlags (s : State) (f : FFlags) (q : BitVec 5) : (s.orFlags f).S q = s.S q := by simp [State.S]
@[simp] theorem State.P_orFlags (s : State) (f : FFlags) (q : BitVec 3) : (s.orFlags f).P q = s.P q := by simp [State.P]
@[simp] theorem State.A_orFlags (s : State) (f : FFlags) (q : BitVec 4) : (s.orFlags f).A q = s.A q := by simp [State.A]
@[simp] theorem State.H_orFlags (s : State) (f : FFlags) (q : BitVec 4) : (s.orFlags f).H q = s.H q := by simp [State.H]

@[simp] theorem State.P_setS (s : State) (r : BitVec 5) (v : Word) (q : BitVec 3) : (s.setS r v).P q = s.P q := by simp [State.P]
@[simp] theorem State.A_setS (s : State) (r : BitVec 5) (v : Word) (q : BitVec 4) : (s.setS r v).A q = s.A q := by simp [State.A]
@[simp] theorem State.H_setS (s : State) (r : BitVec 5) (v : Word) (q : BitVec 4) : (s.setS r v).H q = s.H q := by simp [State.H]

@[simp] theorem State.S_setP (s : State) (r : BitVec 3) (v : Bool) (q : BitVec 5) : (s.setP r v).S q = s.S q := by simp [State.S]
@[simp] theorem State.A_setP (s : State) (r : BitVec 3) (v : Bool) (q : BitVec 4) : (s.setP r v).A q = s.A q := by simp [State.A]
@[simp] theorem State.H_setP (s : State) (r : BitVec 3) (v : Bool) (q : BitVec 4) : (s.setP r v).H q = s.H q := by simp [State.H]

@[simp] theorem State.S_setA (s : State) (r : BitVec 4) (v : CapBits) (q : BitVec 5) : (s.setA r v).S q = s.S q := by simp [State.S]
@[simp] theorem State.P_setA (s : State) (r : BitVec 4) (v : CapBits) (q : BitVec 3) : (s.setA r v).P q = s.P q := by simp [State.P]
@[simp] theorem State.H_setA (s : State) (r : BitVec 4) (v : CapBits) (q : BitVec 4) : (s.setA r v).H q = s.H q := by simp [State.H]

@[simp] theorem State.S_setH (s : State) (r : BitVec 4) (v : Option Strand) (q : BitVec 5) : (s.setH r v).S q = s.S q := by simp [State.S]
@[simp] theorem State.P_setH (s : State) (r : BitVec 4) (v : Option Strand) (q : BitVec 3) : (s.setH r v).P q = s.P q := by simp [State.P]
@[simp] theorem State.A_setH (s : State) (r : BitVec 4) (v : Option Strand) (q : BitVec 4) : (s.setH r v).A q = s.A q := by simp [State.A]

end Sys2Proof.Machine
end

