-- ==== Sys2Proof/Laws/Frame.lean ====
section
/-! SUPPORT. How the frames of the statements compose, and what running an instruction can do. -/

namespace Sys2Proof.Machine

theorem SameMemory.of_eq {s t : State} (h : t.mem = s.mem) (h' : t.peers = s.peers) : SameMemory s t := by
  have e : ∀ dev, t.phys dev = s.phys dev := fun dev => by simp [State.phys, State.peer, h, h']
  exact ⟨fun dev a => by rw [e], fun dev => by rw [e], fun dev => by rw [e]⟩

theorem SameMemory.trans {s t u : State} (h : SameMemory s t) (h' : SameMemory t u) : SameMemory s u :=
  ⟨fun d a => (h'.bytes d a).trans (h.bytes d a), fun d => (h'.full d).trans (h.full d), fun d => (h'.poison d).trans (h.poison d)⟩

theorem SameSystem.refl (x : Context) : SameSystem x x := rfl

theorem SameSystem.trans {x y z : Context} (h : SameSystem x y) (h' : SameSystem y z) : SameSystem x z := by
  cases x; cases y; cases z
  simp_all [SameSystem]

theorem OnlyContext.modMy (s : State) (f : Context → Context) : OnlyContext s (s.modMy f) := by
  unfold OnlyContext
  simp [State.modMy, State.modMe, State.my, State.me]

theorem OnlyContext.step {s t : State} (h : OnlyContext s t) (f : Context → Context) : OnlyContext s (t.modMy f) := by
  have e : t.modMy f = s.modMy fun _ => f t.my := by
    conv_lhs => rw [h]
    simp
  unfold OnlyContext
  rw [e, State.my_modMy]

theorem OnlyContext.mem {s t : State} (h : OnlyContext s t) : t.mem = s.mem := by rw [h]; rfl
theorem OnlyContext.peers {s t : State} (h : OnlyContext s t) : t.peers = s.peers := by rw [h]; rfl
theorem OnlyContext.hand {s t : State} (h : OnlyContext s t) : t.hand = s.hand := by rw [h]; rfl

theorem OnlyContext.setS {s t : State} (h : OnlyContext s t) (r : BitVec 5) (v : Word) : OnlyContext s (t.setS r v) := by
  unfold State.setS; split
  · exact h
  · exact h.step _

theorem OnlyContext.setP {s t : State} (h : OnlyContext s t) (r : BitVec 3) (v : Bool) : OnlyContext s (t.setP r v) := by
  unfold State.setP; split
  · exact h
  · exact h.step _

theorem OnlyContext.setA {s t : State} (h : OnlyContext s t) (r : BitVec 4) (v : CapBits) : OnlyContext s (t.setA r v) := by
  unfold State.setA; split
  · exact h
  · exact h.step _

/-- A change of the context in hand that keeps its registers and system registers. -/
theorem RegFrame.step {s t : State} {ds ps as hs} (h : RegFrame s t ds ps as hs) (f : Context → Context)
    (h1 : (f t.my).s = t.my.s) (h2 : (f t.my).p = t.my.p) (h3 : (f t.my).a = t.my.a) (h4 : (f t.my).h = t.my.h)
    (h5 : SameSystem t.my (f t.my)) : RegFrame s (t.modMy f) ds ps as hs := by
  have o := h.only.step f
  refine ⟨⟨fun r hr => ?_, fun r hr => ?_, fun r hr => ?_, fun r hr => ?_, ?_⟩, o, .of_eq o.mem o.peers⟩
  · rw [← h.regs.S r hr]; simp [State.S, h1]
  · rw [← h.regs.P r hr]; simp [State.P, h2]
  · rw [← h.regs.A r hr]; simp [State.A, h3]
  · rw [← h.regs.H r hr]; simp [State.H, h4]
  · rw [State.my_modMy]
    exact h.regs.rest.trans h5

/-- What the pc's move leaves. -/
theorem RegFrame.pc (s : State) (pc : Word) : RegFrame s (s.setPc pc) [] [] [] [] := by
  have o : OnlyContext s (s.setPc pc) := .modMy s _
  refine ⟨⟨fun r _ => by simp, fun r _ => by simp, fun r _ => by simp, fun r _ => by simp, ?_⟩, o, .of_eq o.mem o.peers⟩
  simp only [State.my_setPc]
  rfl

theorem RegFrame.setPc {s t : State} {ds ps as hs} (h : RegFrame s t ds ps as hs) (pc : Word) : RegFrame s (t.setPc pc) ds ps as hs :=
  h.step _ rfl rfl rfl rfl rfl

theorem RegFrame.orFlags {s t : State} {ds ps as hs} (h : RegFrame s t ds ps as hs) (f : FFlags) :
    RegFrame s (t.orFlags f) ds ps as hs :=
  h.step _ rfl rfl rfl rfl rfl

theorem RegFrame.setS {s t : State} {ds ps as hs} (h : RegFrame s t ds ps as hs) (r : BitVec 5) (v : Word) :
    RegFrame s (t.setS r v) (r :: ds) ps as hs := by
  have o := h.only.setS r v
  refine ⟨⟨fun q hq => ?_, fun q hq => ?_, fun q hq => ?_, fun q hq => ?_, h.regs.rest.trans ?_⟩, o, .of_eq o.mem o.peers⟩
  · simp only [List.mem_cons, not_or] at hq; rw [State.S_setS, if_neg hq.1, h.regs.S q hq.2]
  · simp [h.regs.P q hq]
  · simp [h.regs.A q hq]
  · simp [h.regs.H q hq]
  · rw [State.my_setS]
    split <;> rfl

theorem RegFrame.setP {s t : State} {ds ps as hs} (h : RegFrame s t ds ps as hs) (r : BitVec 3) (v : Bool) :
    RegFrame s (t.setP r v) ds (r :: ps) as hs := by
  have o := h.only.setP r v
  refine ⟨⟨fun q hq => ?_, fun q hq => ?_, fun q hq => ?_, fun q hq => ?_, h.regs.rest.trans ?_⟩, o, .of_eq o.mem o.peers⟩
  · simp [h.regs.S q hq]
  · simp only [List.mem_cons, not_or] at hq; rw [State.P_setP, if_neg hq.1, h.regs.P q hq.2]
  · simp [h.regs.A q hq]
  · simp [h.regs.H q hq]
  · rw [State.my_setP]
    split <;> rfl

theorem RegFrame.setA {s t : State} {ds ps as hs} (h : RegFrame s t ds ps as hs) (r : BitVec 4) (v : CapBits) :
    RegFrame s (t.setA r v) ds ps (r :: as) hs := by
  have o := h.only.setA r v
  refine ⟨⟨fun q hq => ?_, fun q hq => ?_, fun q hq => ?_, fun q hq => ?_, h.regs.rest.trans ?_⟩, o, .of_eq o.mem o.peers⟩
  · simp [h.regs.S q hq]
  · simp [h.regs.P q hq]
  · simp only [List.mem_cons, not_or] at hq; rw [State.A_setA, if_neg hq.1, h.regs.A q hq.2]
  · simp [h.regs.H q hq]
  · rw [State.my_setA]
    split <;> rfl

theorem RegFrame.setH {s t : State} {ds ps as hs} (h : RegFrame s t ds ps as hs) (r : BitVec 4) (v : Option Strand) :
    RegFrame s (t.setH r v) ds ps as (r :: hs) := by
  have o : OnlyContext s (t.setH r v) := h.only.step _
  refine ⟨⟨fun q hq => ?_, fun q hq => ?_, fun q hq => ?_, fun q hq => ?_, h.regs.rest.trans ?_⟩, o, .of_eq o.mem o.peers⟩
  · simp [h.regs.S q hq]
  · simp [h.regs.P q hq]
  · simp [h.regs.A q hq]
  · simp only [List.mem_cons, not_or] at hq; rw [State.H_setH, if_neg hq.1, h.regs.H q hq.2]
  · simp only [State.setH, State.my_modMy]
    rfl

/-! ### Running an instruction -/

/-- The body's outcome is always a next state: an instruction never stops the machine. -/
theorem finish_next (r : Res State) : ∃ t, finish r = .next t := by
  unfold finish; split <;> exact ⟨_, rfl⟩

/-- The core has what it may issue. -/
theorem State.coreHas_of_issuable {s : State} {av cable : Bool} (h : s.issuable av cable = true) : s.coreHas av = true := by
  simp only [State.issuable, Bool.and_eq_true] at h; exact h.1

/-- Under a guard that holds, what may issue runs its body with the pc at the next instruction. -/
theorem guarded_body {s : State} {av cable : Bool} {g : Guard} (h : s.runs av cable g) (body : State → Res State) :
    s.guarded cable g body = body (s.setPc s.nextPc) := by
  have hc := h.1
  simp only [State.issuable, Bool.and_eq_true] at hc
  simp [State.guarded, h.2, hc.2]

/-- An instruction that may run and whose guard holds runs its body with the pc at the next instruction. -/
theorem run_body {s : State} {av cable : Bool} {g : Guard} (h : s.runs av cable g) (body : State → Res State) :
    run av cable g s body = finish (body (s.setPc s.nextPc)) := by
  simp [run, s.coreHas_of_issuable h.1, guarded_body h]

/-- With a guard that does not hold only the pc moves, in a cable step too (R97, R99). -/
theorem run_skip {s : State} {av cable : Bool} {g : Guard} (h : s.coreHas av = true) (hg : s.guard g = false)
    (body : State → Res State) : run av cable g s body = .next (s.setPc s.nextPc) := by
  simp [run, h, hg, State.guarded, finish]

/-- On a core that lacks it an instruction is ILLEGAL whatever its guard (R99, R370). -/
theorem run_illegal {s : State} {av cable : Bool} (g : Guard) (h : s.coreHas av = false) (body : State → Res State) :
    run av cable g s body = finish s.illegal := by
  simp [run, h]

/-- In a cable step that does not allow it, an instruction whose guard holds is ILLEGAL (R215). -/
theorem run_cable_illegal {s : State} {av : Bool} {g : Guard} (h : s.coreHas av = true) (hc : s.inCable = true)
    (hg : s.guard g = true) (body : State → Res State) : run av false g s body = finish s.illegal := by
  simp [run, h, hg, hc, State.guarded]

/-- A privileged instruction in user mode faults PRIV whatever its guard (R99). -/
theorem runPriv_user {s : State} {av cable : Bool} (g : Guard) (h : s.coreHas av = true) (hs : s.inSys = false)
    (body : State → Res State) : runPriv av cable g s body = finish (s.fault cPRIV 0 (s.hand.hw.setWidth 64)) := by
  simp [runPriv, h, hs]

theorem runPriv_body {s : State} {av cable : Bool} {g : Guard} (h : s.runs av cable g) (hs : s.inSys = true)
    (body : State → Res State) : runPriv av cable g s body = finish (body (s.setPc s.nextPc)) := by
  simp [runPriv, s.coreHas_of_issuable h.1, hs, guarded_body h]

end Sys2Proof.Machine
end

