-- ==== Sys2Proof/Laws/Memory.lean ====
section
/-! SUPPORT. Memory keeps its canonical form under every operation that writes it, and each says what it leaves. -/

namespace Sys2Proof.Machine

theorem memory_wf_iff (m : Phys) : Memory.wf m = true ↔ bytesWf m.bytes = true ∧ setWf m.full = true ∧ setWf m.poison = true := by
  simp [Memory.wf, and_assoc]

theorem memory_wf_reset : Memory.wf State.reset.mem = true := by decide

/-! ### Operations on one memory -/

theorem memory_wf_bytes {m : Phys} (h : Memory.wf m = true) (a n v : Nat) :
    Memory.wf { m with bytes := bytesWrite m.bytes a n v } = true := by
  rw [memory_wf_iff] at *
  exact ⟨bytesWrite_wf h.1 a n v, h.2⟩

theorem memory_wf_insertPoison {m : Phys} (h : Memory.wf m = true) (a : Nat) :
    Memory.wf { m with poison := setInsert m.poison a } = true := by
  rw [memory_wf_iff] at *
  exact ⟨h.1, h.2.1, setInsert_wf h.2.2 a⟩

theorem memory_wf_eraseFull {m : Phys} (h : Memory.wf m = true) (a : Nat) :
    Memory.wf { m with full := setErase m.full a } = true := by
  rw [memory_wf_iff] at *
  exact ⟨h.1, setErase_wf h.2.1 a, h.2.2⟩

theorem memory_wf_filter {m : Phys} (h : Memory.wf m = true) (b : Nat × Byte → Bool) (f p : Nat → Bool) :
    Memory.wf ⟨m.bytes.filter b, m.full.filter f, m.poison.filter p⟩ = true := by
  rw [memory_wf_iff] at *
  exact ⟨bytesFilter_wf h.1 b, setFilter_wf h.2.1 f, setFilter_wf h.2.2 p⟩

@[simp] theorem Phys.cleanse_bytes (m : Phys) (pa n : Nat) : (m.cleanse pa n).bytes = m.bytes := by
  unfold Phys.cleanse; split <;> rfl

@[simp] theorem Phys.cleanse_full (m : Phys) (pa n : Nat) : (m.cleanse pa n).full = m.full := by
  unfold Phys.cleanse; split <;> rfl

/-- Poison is left but in the units that the range covers whole. -/
theorem Phys.mem_cleanse_poison (m : Phys) (pa n u : Nat) :
    u ∈ (m.cleanse pa n).poison ↔ u ∈ m.poison ∧ ¬(pa ≤ u ∧ u + (if isSpad pa then 4 else 128) ≤ pa + n) := by
  unfold Phys.cleanse
  split
  · rename_i h; simp [List.isEmpty_iff.mp h]
  · simp [imp_iff_not_or]

theorem memory_wf_cleanse {m : Phys} (h : Memory.wf m = true) (pa n : Nat) : Memory.wf (m.cleanse pa n) = true := by
  rw [memory_wf_iff] at *
  refine ⟨by simpa using h.1, by simpa using h.2.1, ?_⟩
  unfold Phys.cleanse
  split
  · exact h.2.2
  · exact setFilter_wf h.2.2 _

@[simp] theorem Phys.setFull_bytes (m : Phys) (pa n : Nat) : (m.setFull pa n).bytes = m.bytes := rfl
@[simp] theorem Phys.setFull_poison (m : Phys) (pa n : Nat) : (m.setFull pa n).poison = m.poison := rfl

theorem mem_foldl_setInsert (xs : List Nat) (l : NatSet) (u : Nat) : u ∈ xs.foldl setInsert l ↔ u ∈ l ∨ u ∈ xs := by
  induction xs generalizing l with
  | nil => simp
  | cons x t ih => simp [ih, mem_setInsert]; tauto

theorem Phys.mem_setFull (m : Phys) (pa n u : Nat) : u ∈ (m.setFull pa n).full ↔ u ∈ m.full ∨ u ∈ unitsOf 4 pa n :=
  mem_foldl_setInsert _ _ _

theorem memory_wf_setFull {m : Phys} (h : Memory.wf m = true) (pa n : Nat) : Memory.wf (m.setFull pa n) = true := by
  rw [memory_wf_iff] at *
  exact ⟨h.1, foldl_setInsert_wf h.2.1 _, h.2.2⟩

@[simp] theorem Phys.feWrite_bytes (m : Phys) (g off n v : Nat) : (m.feWrite g off n v).bytes = m.bytes := rfl
@[simp] theorem Phys.feWrite_poison (m : Phys) (g off n v : Nat) : (m.feWrite g off n v).poison = m.poison := rfl

theorem memory_wf_feWrite {m : Phys} (h : Memory.wf m = true) (g off n v : Nat) : Memory.wf (m.feWrite g off n v) = true := by
  rw [memory_wf_iff] at *
  refine ⟨h.1, ?_, h.2.2⟩
  unfold Phys.feWrite
  generalize List.range (8 * n) = js
  have h2 := h.2.1
  generalize m.full = f at h2 ⊢
  induction js generalizing f with
  | nil => exact h2
  | cons j t ih => exact ih _ (by dsimp only; split <;> [exact setInsert_wf h2 _; exact setErase_wf h2 _])

/-! ### Operations on the state -/

@[simp] theorem State.phys_setPhys_same (s : State) (dev : Nat) (m : Phys) : (s.setPhys dev m).phys dev = m := by
  unfold State.setPhys State.phys State.peer
  split <;> simp_all

theorem State.setPhys_mem (s : State) (dev : Nat) (m : Phys) : (s.setPhys dev m).mem = if dev = 0 then m else s.mem := by
  unfold State.setPhys; split <;> rfl

theorem State.phys_zero (s : State) : s.phys 0 = s.mem := rfl

theorem memory_wf_setPhys {s : State} {dev : Nat} {m : Phys} (h : Memory.wf s.mem = true) (hm : dev = 0 → Memory.wf m = true) :
    Memory.wf (s.setPhys dev m).mem = true := by
  rw [State.setPhys_mem]
  split
  · exact hm ‹_›
  · exact h

theorem memory_wf_writeAt {s : State} (h : Memory.wf s.mem = true) (l : Loc) (n v : Nat) : Memory.wf (s.writeAt l n v).mem = true :=
  memory_wf_setPhys h fun e => by
    have : s.phys l.dev = s.mem := by rw [e]; rfl
    rw [this]
    exact memory_wf_bytes h _ _ _

/-- What a write at a location leaves to be read there. -/
theorem State.readAt_writeAt (s : State) (l : Loc) (n v : Nat) : (s.writeAt l n v).readAt l n = v % 256 ^ n := by
  simp [State.readAt, State.writeAt, bytesRead_bytesWrite_same]

@[simp] theorem State.forwardWrite_mem (s : State) (g off n v : Nat) : (s.forwardWrite g off n v).mem = s.mem := by
  unfold State.forwardWrite; dsimp only; split <;> rfl

/-- What a scratchpad write leaves in memory. -/
theorem State.spWrite_mem (s : State) (g off n v : Nat) (full fwd : Bool) :
    (s.spWrite g off n v full fwd).mem =
      let m := { s.mem with bytes := bytesWrite s.mem.bytes (spadPa g off) n v }.cleanse (spadPa g off) n
      if full then m.setFull (spadPa g off) n else m := by
  unfold State.spWrite
  cases fwd <;> simp

theorem memory_wf_spWrite {s : State} (h : Memory.wf s.mem = true) (g off n v : Nat) (full fwd : Bool) :
    Memory.wf (s.spWrite g off n v full fwd).mem = true := by
  rw [State.spWrite_mem]
  have h1 := memory_wf_cleanse (memory_wf_bytes h (spadPa g off) n v) (spadPa g off) n
  cases full
  · exact h1
  · exact memory_wf_setFull h1 _ _

theorem memory_wf_winWriteAs {s : State} (h : Memory.wf s.mem = true) (half : Bool) (g w off size v : Nat) (mr : BitVec 8) :
    Memory.wf (s.winWriteAs half g w off size v mr).1.mem = true := by
  unfold State.winWriteAs
  split
  · exact memory_wf_feWrite h _ _ _ _
  · exact memory_wf_spWrite h _ _ _ _ _ _

theorem memory_wf_winWrite {s : State} (h : Memory.wf s.mem = true) (g w off size v : Nat) (mr : BitVec 8) :
    Memory.wf (s.winWrite g w off size v mr).1.mem = true := memory_wf_winWriteAs h _ _ _ _ _ _ _

theorem memory_wf_zeroSpad {s : State} (h : Memory.wf s.mem = true) (g : Nat) : Memory.wf (s.zeroSpad g).mem = true :=
  memory_wf_filter h _ _ _

theorem memory_wf_poisonLine {s : State} (h : Memory.wf s.mem = true) (l : Loc) : Memory.wf (s.poisonLine l).mem = true := by
  have hp := memory_wf_setPhys (dev := l.dev) (m := { s.phys l.dev with poison := setInsert (s.phys l.dev).poison (l.pa / 128 * 128) }) h
    fun e => by simpa [State.phys, e] using memory_wf_insertPoison h (l.pa / 128 * 128)
  unfold State.poisonLine
  dsimp only
  split <;> exact hp

theorem memory_wf_spWriteWords {s : State} (h : Memory.wf s.mem = true) (g off : Nat) (ws : List Word) :
    Memory.wf (s.spWriteWords g off ws).mem = true := by
  induction ws generalizing s off with
  | nil => exact h
  | cons w t ih => exact ih (memory_wf_spWrite h _ _ _ _ _ _) _

/-- Placing a word from outside keeps the canonical form too. -/
theorem memory_wf_withProbe {s : State} (h : Memory.wf s.mem = true) (code : List Byte) :
    Memory.wf (s.withProbe code).mem = true := by
  rw [memory_wf_iff] at *
  refine ⟨?_, h.2⟩
  show bytesWf (bytesWrite (probeTables s.mem.bytes) _ _ _) = true
  exact bytesWrite_wf (bytesWrite_wf (bytesWrite_wf (bytesWrite_wf (bytesWrite_wf h.1 _ _ _) _ _ _) _ _ _) _ _ _) _ _ _

end Sys2Proof.Machine
end

