-- ==== Sys2Proof/Laws/Writes.lean ====
section
/-! SUPPORT. The outcomes of the instructions that write one register. -/

namespace Sys2Proof.Machine

theorem nextPc_setPc (s : State) (pc : Word) : (s.setPc pc).nextPc = s.nextPc := rfl

/-- A body that writes one scalar register and flags. -/
theorem writesS_run {s : State} {av cable : Bool} {g : Guard} {body : State → Res State} {d : BitVec 5} {v : Word} {fl : FFlags}
    (h : s.runs av cable g) (hb : body (s.setPc s.nextPc) = .ok (((s.setPc s.nextPc).setS d v).orFlags fl)) :
    WritesS (run av cable g s body) s d v fl := by
  refine ⟨_, by rw [run_body h, hb]; rfl, by simp, by simp, by simp, ((RegFrame.pc s s.nextPc).setS d v).orFlags fl⟩

/-- A body that writes one scalar register. -/
theorem writesS_run' {s : State} {av cable : Bool} {g : Guard} {body : State → Res State} {d : BitVec 5} {v : Word}
    (h : s.runs av cable g) (hb : body (s.setPc s.nextPc) = .ok ((s.setPc s.nextPc).setS d v)) :
    WritesS (run av cable g s body) s d v 0 := by
  refine ⟨_, by rw [run_body h, hb]; rfl, by simp, by simp, by simp, (RegFrame.pc s s.nextPc).setS d v⟩

/-- A body that writes one predicate and flags. -/
theorem writesP_run {s : State} {av cable : Bool} {g : Guard} {body : State → Res State} {d : BitVec 3} {v : Bool} {fl : FFlags}
    (h : s.runs av cable g) (hb : body (s.setPc s.nextPc) = .ok (((s.setPc s.nextPc).setP d v).orFlags fl)) :
    WritesP (run av cable g s body) s d v fl := by
  refine ⟨_, by rw [run_body h, hb]; rfl, by simp, by simp, by simp, ((RegFrame.pc s s.nextPc).setP d v).orFlags fl⟩

/-- A body that writes one predicate. -/
theorem writesP_run' {s : State} {av cable : Bool} {g : Guard} {body : State → Res State} {d : BitVec 3} {v : Bool}
    (h : s.runs av cable g) (hb : body (s.setPc s.nextPc) = .ok ((s.setPc s.nextPc).setP d v)) :
    WritesP (run av cable g s body) s d v 0 := by
  refine ⟨_, by rw [run_body h, hb]; rfl, by simp, by simp, by simp, (RegFrame.pc s s.nextPc).setP d v⟩

/-- A body that writes one capability register. -/
theorem writesA_run {s : State} {av cable : Bool} {g : Guard} {body : State → Res State} {d : BitVec 4} {v : CapBits}
    (h : s.runs av cable g) (hb : body (s.setPc s.nextPc) = .ok ((s.setPc s.nextPc).setA d v)) :
    WritesA (run av cable g s body) s d v := by
  refine ⟨_, by rw [run_body h, hb]; rfl, by simp, by simp, by simp, (RegFrame.pc s s.nextPc).setA d v⟩

/-- A body that writes one strand register. -/
theorem writesH_run {s : State} {av cable : Bool} {g : Guard} {body : State → Res State} {h : BitVec 4} {v : Option Strand}
    (hr : s.runs av cable g) (hb : body (s.setPc s.nextPc) = .ok ((s.setPc s.nextPc).setH h v)) :
    WritesH (run av cable g s body) s h v := by
  refine ⟨_, by rw [run_body hr, hb]; rfl, by simp, by simp, by simp, (RegFrame.pc s s.nextPc).setH h v⟩

/-- A body that moves the pc. -/
theorem jumpsTo_run {s : State} {av cable : Bool} {g : Guard} {body : State → Res State} {pc : Word}
    (h : s.runs av cable g) (hb : body (s.setPc s.nextPc) = .ok ((s.setPc s.nextPc).setPc pc)) :
    JumpsTo (run av cable g s body) s pc := by
  refine ⟨_, by rw [run_body h, hb]; rfl, by simp, by simp, (RegFrame.pc s s.nextPc).setPc pc⟩

/-- With a guard that does not hold an instruction only moves the pc. -/
theorem jumpsTo_skip {s : State} {av cable : Bool} {g : Guard} (h : s.coreHas av = true) (hg : s.guard g = false)
    (body : State → Res State) : JumpsTo (run av cable g s body) s s.nextPc := by
  refine ⟨_, run_skip h hg body, by simp, by simp, .pc s s.nextPc⟩

/-- A body that faults at the instruction. -/
theorem traps_run {s : State} {av cable : Bool} {g : Guard} {body : State → Res State} {code : Nat} {addr info : Word}
    (h : s.runs av cable g) (hb : body (s.setPc s.nextPc) = (s.setPc s.nextPc).fault code addr info) :
    Traps (run av cable g s body) s code addr info s.hand.pc := by
  refine ⟨_, by rw [run_body h, hb]; rfl, .inr rfl⟩

end Sys2Proof.Machine
end

