-- ==== Sys2Proof/Tests/Slice0.lean ====
section
/-! SUPPORT. Tests: well-formedness and decoding against words written out from the spec, single steps on a small state, and a witness for
the hypotheses of each statement. -/

set_option maxRecDepth 100000
set_option Elab.async false

namespace Sys2Proof.Tests

open Sys2Proof Sys2Proof.Machine

/-- The guard that is always true. -/
abbrev G : Guard := ⟨false, 0⟩

/-! ### Decoding: one word per constructor, written out from its encoding -/

/-- R112 to R122: page, major, f and fields as the opcode map of R103 to R106 gives them. -/
theorem test_decode_scalar_register : ∀ e ∈ ([
    ([0x014C], .add G 0 1 2 3),
    ([0x014D], .sub G 0 1 2 3),
    ([0x014E], .and G 1 2 3),
    ([0x014F], .or G 1 2 3),
    ([0x094C], .xor G 1 2 3),
    ([0x094D], .andn G 1 2 3),
    ([0x094E], .min G false 1 2 3),
    ([0x094F], .max G false 1 2 3),
    ([0x114C], .shl G 0 1 2 3),
    ([0x114D], .shr G 1 2 3),
    ([0x114E], .sra G 1 2 3),
    ([0x114F], .rol G 1 2 3),
    ([0x194C], .mul G 0 1 2 3),
    ([0x194D], .mulh G false 1 2 3),
    ([0x194E], .div G false 1 2 3),
    ([0x194F], .rem G false 1 2 3),
    ([0x2140], .clz G 1 2),
    ([0x2141], .ctz G 1 2),
    ([0x2142], .popc G 1 2),
    ([0x2143], .bswap G 1 2),
    ([0xFD21, 0x294C], .bext G true 1 2 3 4),
    ([0xFD20, 0x294D], .bins G 1 2 3 4),
    ([0x3140], .mov G 1 2),
    ([0xFD20, 0x314D], .sel G 1 2 3 4),
    ([0x394C], .cmp G 0 1 2 3),
    ([0x414C], .pand G 1 2 3),
    ([0x414D], .por G 1 2 3),
    ([0x414E], .pxor G 1 2 3)] : List (List Half × Instr)),
    decode e.1 = some (e.2, e.1.length) ∧ encode e.2 = e.1 := by decide

/-- R114, R119, R176, R177: page, major, f and fields as the opcode map of R103 to R106 gives them. -/
theorem test_decode_scalar_immediate_and_local : ∀ e ∈ ([
    ([0x495D], .addImm G 0 1 2 (-3)),
    ([0x515D], .andImm G 1 2 (-3)),
    ([0x595D], .orImm G 1 2 (-3)),
    ([0x615D], .xorImm G 1 2 (-3)),
    ([0x6945], .shlImm G 0 1 2 5),
    ([0x7145], .shrImm G 1 2 5),
    ([0x7945], .sraImm G 1 2 5),
    ([0x811D], .li G 1 (-3)),
    ([0x895D], .ld G 0 false 1 2 (-3)),
    ([0x915D], .st G 0 0 1 2 (-3)),
    ([0x995D], .lds G 1 2 (-3)),
    ([0xA15D], .stf G 1 2 (-3)),
    ([0xA85D], .sete G 2 (-3))] : List (List Half × Instr)),
    decode e.1 = some (e.2, e.1.length) ∧ encode e.2 = e.1 := by decide

/-- R123 to R130: page, major, f and fields as the opcode map of R103 to R106 gives them. -/
theorem test_decode_control : ∀ e ∈ ([
    ([0xB5FD], .br G 5 (-3)),
    ([0xBCFD], .loop 4 (-3)),
    ([0xC7FD], .jmp G (-3)),
    ([0xCFFD], .call G (-3)),
    ([0xD040], .jr G 2),
    ([0xD041], .callr G 2),
    ([0xD002], .ret G),
    ([0xD94C], .hstart G 1 2 3),
    ([0xD841], .hwait G 2),
    ([0xD802], .retire G),
    ([0xD803], .yield G),
    ([0xE000], .brk G)] : List (List Half × Instr)),
    decode e.1 = some (e.2, e.1.length) ∧ encode e.2 = e.1 := by decide

/-- R143 to R152: page, major, f and fields as the opcode map of R103 to R106 gives them. -/
theorem test_decode_vector_arithmetic : ∀ e ∈ ([
    ([0xF955, 0x014C], .vadd G 0 0 0 9 10 11 0),
    ([0xF955, 0x014D], .vsub G 0 0 0 9 10 11 0),
    ([0xF955, 0x014E], .vmul G 0 0 0 9 10 11 0),
    ([0xF955, 0x014F], .vmin G 0 0 0 9 10 11 0),
    ([0xF955, 0x094C], .vmax G 0 0 0 9 10 11 0),
    ([0xF955, 0x094D], .vand G 9 10 11 0),
    ([0xF955, 0x094E], .vor G 9 10 11 0),
    ([0xF955, 0x094F], .vxor G 9 10 11 0),
    ([0xF955, 0x114E], .vrot G 9 10 11 0),
    ([0xF955, 0x114F], .vperm G 9 10 11 0),
    ([0xF915, 0x214C], .vcmp G 0 0 1 10 11),
    ([0xF901, 0x314C], .kand G 1 2 3),
    ([0xF901, 0x314D], .kor G 1 2 3),
    ([0xF901, 0x3142], .knot G 1 2),
    ([0xF941, 0x3143], .kpop G 9 2)] : List (List Half × Instr)),
    decode e.1 = some (e.2, e.1.length) ∧ encode e.2 = e.1 := by decide

/-- R153 to R162: page, major, f and fields as the opcode map of R103 to R106 gives them. -/
theorem test_decode_vector_moves_and_loads : ∀ e ∈ ([
    ([0xF951, 0x3940], .vmov G 9 10 0),
    ([0xF951, 0x3941], .vbcast G 9 10 0),
    ([0xF955, 0x394E], .vext G false 9 10 11),
    ([0xF955, 0x394F], .vins G 9 10 11),
    ([0xF951, 0x4141], .vnarrow G 0 0 false 9 10 0),
    ([0xF911, 0x4042], .vscale G 10),
    ([0xF951, 0x4143], .vtrans G 9 10 0),
    ([0xF951, 0x4940], .vred G 0 0 0 0 9 10 0),
    ([0xF951, 0x4941], .vscan G 0 0 0 0 9 10 0),
    ([0xF915, 0x484F], .vshape G 10 11),
    ([0xF951, 0x5140], .vsf G 0 0 9 10 0),
    ([0xF951, 0x595D], .vld G false 0 9 10 (-3) 0),
    ([0xF951, 0x615D], .vst G 0 false 0 9 10 (-3) 0),
    ([0xF951, 0x695D], .vldb G false 9 10 (-3) 0)] : List (List Half × Instr)),
    decode e.1 = some (e.2, e.1.length) ∧ encode e.2 = e.1 := by decide

/-- R166 to R174: page, major, f and fields as the opcode map of R103 to R106 gives them. -/
theorem test_decode_matrix : ∀ e ∈ ([
    ([0xF911, 0x7040], .gang G 10),
    ([0xF915, 0x704D], .mldb G 10 11 0),
    ([0xF911, 0x7042], .mstc G 10),
    ([0xF901, 0x7003], .mzc G),
    ([0xF911, 0x7840], .ecfg G 10),
    ([0xF911, 0x7941], .tsave G 1 10),
    ([0xF911, 0x7942], .trest G 1 10)] : List (List Half × Instr)),
    decode e.1 = some (e.2, e.1.length) ∧ encode e.2 = e.1 := by decide

/-- R179 to R193: page, major, f and fields as the opcode map of R103 to R106 gives them. -/
theorem test_decode_global_memory : ∀ e ∈ ([
    ([0xF952, 0x015D], .ldg G 0 false false false false 9 10 (-3)),
    ([0xF952, 0x095D], .stg G 0 false false false 9 10 (-3)),
    ([0xF952, 0x115D], .ldc G 9 10 (-3)),
    ([0xF952, 0x195D], .stc G 9 10 (-3)),
    ([0xF912, 0x3040], .prf G false false 10),
    ([0xF912, 0x3041], .cclean G 10),
    ([0xF912, 0x3042], .cflush G 10),
    ([0xF956, 0x394C], .lease G 9 10 11 0),
    ([0xF912, 0x3841], .unlease G 10),
    ([0xF952, 0x3942], .alloc G 9 10),
    ([0xF912, 0x3843], .free G 10),
    ([0xF902, 0x4000], .fence G 0 0)] : List (List Half × Instr)),
    decode e.1 = some (e.2, e.1.length) ∧ encode e.2 = e.1 := by decide

/-- R195 to R200: page, major, f and fields as the opcode map of R103 to R106 gives them. -/
theorem test_decode_strands_and_engines : ∀ e ∈ ([
    ([0xF952, 0x4940], .sopen G 9 10),
    ([0xF946, 0x490D], .sadv G 9 11),
    ([0xF912, 0x4942], .stest G 1 10),
    ([0xF952, 0x4943], .sget G 9 10),
    ([0xF956, 0x514C], .sgetv G 9 10 11),
    ([0xF942, 0x5101], .sclose G 9),
    ([0xF912, 0x5940], .send G 1 10),
    ([0xF912, 0x5941], .fetch G 1 10),
    ([0xF912, 0x5942], .gath G 1 10),
    ([0xF912, 0x5943], .scat G 1 10)] : List (List Half × Instr)),
    decode e.1 = some (e.2, e.1.length) ∧ encode e.2 = e.1 := by decide

/-- R210 to R222: page, major, f and fields as the opcode map of R103 to R106 gives them. -/
theorem test_decode_barriers_cable_subscriptions : ∀ e ∈ ([
    ([0xF916, 0x604C], .bnew G 10 11),
    ([0xF952, 0x6141], .barv G 9 10),
    ([0xF916, 0x604E], .bexp G 10 11),
    ([0xF916, 0x614F], .bwait G 1 10 11),
    ([0xF902, 0x6800], .step G),
    ([0xF902, 0x6801], .subsync G),
    ([0xF916, 0x684E], .rsw G 10 11 0),
    ([0xF952, 0x6943], .rfin G 9 10 0),
    ([0xF912, 0x7040], .xsend G 10),
    ([0xF912, 0x7041], .xsel G 10),
    ([0xF942, 0x7102], .xrecv G 9),
    ([0xF952, 0x7940], .subSubscription G 9 10 0),
    ([0xF912, 0x7841], .unsub G 10)] : List (List Half × Instr)),
    decode e.1 = some (e.2, e.1.length) ∧ encode e.2 = e.1 := by decide

/-- R137 to R141: page, major, f and fields as the opcode map of R103 to R106 gives them. -/
theorem test_decode_floating_point : ∀ e ∈ ([
    ([0xF957, 0x014C], .fadd G 0 0 9 10 11),
    ([0xF957, 0x014D], .fsub G 0 0 9 10 11),
    ([0xF957, 0x014E], .fmul G 0 0 9 10 11),
    ([0xF957, 0x014F], .fdiv G 0 0 9 10 11),
    ([0xF957, 0x094C], .faddD G 0 0 9 10 11),
    ([0xF957, 0x094D], .fsubD G 0 0 9 10 11),
    ([0xF957, 0x094E], .fmulD G 0 0 9 10 11),
    ([0xF957, 0x094F], .fdivD G 0 0 9 10 11),
    ([0xF957, 0x114C], .fmin G 0 9 10 11),
    ([0xF957, 0x114D], .fmax G 0 9 10 11),
    ([0xF953, 0x1142], .fsqrt G 0 0 9 10),
    ([0xF953, 0x1143], .fclass G 9 10),
    ([0xF957, 0x194C], .fminD G 0 9 10 11),
    ([0xF957, 0x194D], .fmaxD G 0 9 10 11),
    ([0xF953, 0x1942], .fsqrtD G 0 0 9 10),
    ([0xF953, 0x1943], .fclassD G 9 10),
    ([0xF917, 0x294C], .fcmp G 0 0 1 10 11),
    ([0xF917, 0x294D], .fcmpD G 0 0 1 10 11),
    ([0xF953, 0x2942], .fcvt G 0 0 0 9 10)] : List (List Half × Instr)),
    decode e.1 = some (e.2, e.1.length) ∧ encode e.2 = e.1 := by decide

/-- R132 to R135, R226: page, major, f and fields as the opcode map of R103 to R106 gives them. -/
theorem test_decode_capabilities_and_mesh : ∀ e ∈ ([
    ([0xF957, 0xFD60, 0x314C], .cbound G 9 10 11 12),
    ([0xF957, 0x314D], .cadd G 9 10 11),
    ([0xF953, 0x3142], .cget G 0 9 10),
    ([0xF917, 0x314F], .cchk G 0 1 10 11 0),
    ([0xF957, 0x394C], .cmov G 9 10 11),
    ([0xF943, 0x3901], .cnull G 9),
    ([0xF913, 0x4140], .mopen G 1 10),
    ([0xF903, 0x4101], .mrefresh G 1),
    ([0xF943, 0x4142], .mround G 9 2),
    ([0xF947, 0x414F], .mreserve G 9 2 11),
    ([0xF947, 0x494C], .mget G false 0 0 9 2 11),
    ([0xF947, 0x494D], .mfld G 0 0 9 2 11),
    ([0xF947, 0x494E], .mfst G 0 0 9 2 11),
    ([0xF947, 0x494F], .medge G 9 2 11 0),
    ([0xF947, 0x514C], .mstar G 0 9 2 11),
    ([0xF907, 0x514D], .mvalid G 1 2 11)] : List (List Half × Instr)),
    decode e.1 = some (e.2, e.1.length) ∧ encode e.2 = e.1 := by decide

/-- R253 to R260: page, major, f and fields as the opcode map of R103 to R106 gives them. -/
theorem test_decode_system : ∀ e ∈ ([
    ([0xF913, 0x7840], .trap G 10),
    ([0xF903, 0x7801], .eret ),
    ([0xF903, 0x7802], .uret ),
    ([0xF943, 0x8104], .mfc G 9 4),
    ([0xF943, 0x8904], .mtc G 9 4),
    ([0xF917, 0x914C], .sleep G 1 10 11),
    ([0xF913, 0x9041], .wake G 10),
    ([0xF917, 0x914E], .launch G 1 10 11),
    ([0xF913, 0x9043], .cancel G 10),
    ([0xF943, 0x9900], .rdcnt G 9 0)] : List (List Half × Instr)),
    decode e.1 = some (e.2, e.1.length) ∧ encode e.2 = e.1 := by decide

/-- R103 to R107: page, major, f and fields as the opcode map of R103 to R106 gives them. -/
theorem test_decode_w_required : ∀ e ∈ ([
    ([0xF955, 0xFD08, 0x114C], .vshl G 1 9 10 11 0),
    ([0xF955, 0xFD15, 0x114D], .vshr G 2 9 10 11 5),
    ([0xF941, 0xFD21, 0xFB01, 0x194C], .vfma G 0 1 9 2 3 4 1),
    ([0xF955, 0xFD18, 0x294C], .vsel G 9 10 11 3),
    ([0xF951, 0xFD0A, 0x4140], .vcvt G 0 1 0 9 10 2),
    ([0xF911, 0xFD01, 0x4842], .vtbl G 1 10),
    ([0xF946, 0xFD18, 0x2368], .amo G 0 3 11 3 10),
    ([0xF956, 0xFD63, 0x294C], .cas G 3 9 10 11 12),
    ([0xF902, 0xFD01, 0x6800], .stepCable G),
    ([0xF957, 0xFD60, 0xFA28, 0x214C], .fma G 0x28 0 9 10 11 12),
    ([0xF957, 0xFD60, 0x214D], .fmaD G 0 0 9 10 11 12)] : List (List Half × Instr)),
    decode e.1 = some (e.2, e.1.length) ∧ encode e.2 = e.1 := by decide

/-- R226: page, major, f and fields as the opcode map of R103 to R106 gives them. -/
theorem test_decode_topology : ∀ e ∈ ([
    ([0xF957, 0xFD61, 0x594C], .msplit G 1 9 10 11 12),
    ([0xF957, 0xFD61, 0x594D], .msplitC G 1 9 10 11 12),
    ([0xF957, 0xFD61, 0x594E], .msplitX G 1 9 10 11 12),
    ([0xF953, 0xFD65, 0x6140], .mcoll G 1 true 9 10 12),
    ([0xF953, 0xFD61, 0x6141], .mcollC G 1 false 9 10 12),
    ([0xF953, 0xFD61, 0x6142], .mcollX G 1 false 9 10 12),
    ([0xF953, 0xFD61, 0x6940], .mflip G 1 9 10 12),
    ([0xF953, 0xFD61, 0x6941], .mflipC G 1 9 10 12),
    ([0xF953, 0xFD61, 0x6942], .mflipX G 1 9 10 12),
    ([0xF957, 0xFD61, 0x714C], .mrefine G 1 9 10 11 12),
    ([0xF957, 0xFD61, 0x714D], .mrefineC G 1 9 10 11 12),
    ([0xF957, 0xFD61, 0x714E], .mrefineX G 1 9 10 11 12)] : List (List Half × Instr)),
    decode e.1 = some (e.2, e.1.length) ∧ encode e.2 = e.1 := by decide

/-- The encodings that the spec itself writes out (R98, R118, R123, R139, R141, R147, R187, R196, R200, R238, R363 and its programs). -/
theorem test_decode_words_of_the_spec : ∀ e ∈ ([
    ([0x3000], .mov G 0 0), ([0xE000], .brk G),
    ([0xF903, 0xFB75, 0x014C], .fadd G 0 0x75 1 2 3), ([0xF950, 0xF81F, 0x4948], .addImm G 0 9 10 1000),
    ([0xF800, 0x8618], .li G 6 24), ([0x8706], .li G 7 6), ([0xFD38, 0x2D98], .bext G false 5 4 6 7),
    ([0xF950, 0x024C], .add G 0 10 10 3), ([0xBBFE], .loop 3 (-2)),
    ([0xF903, 0xFD31, 0xFB1D, 0x2942], .fcvt G 0x1D 1 6 1 2),
    ([0xF941, 0xFD21, 0xFB01, 0x194C], .vfma G 0 1 9 2 3 4 1), ([0xF946, 0xFD18, 0x2368], .amo G 0 3 11 3 10),
    ([0xF942, 0x4843], .sget G 8 2), ([0xF982, 0x4E43], .sget G 22 2), ([0xF92B, 0xFD18, 0x23DC], .fma G 0 0 3 22 23 3),
    ([0xF902, 0x5902], .gath G 1 0), ([0xF902, 0xFD18, 0x4003], .fence G 3 3), ([0xF902, 0xFD01, 0x4000], .fence G 4 0),
    ([0xF902, 0xFD20, 0x4001], .fence G 1 4), ([0xF902, 0xFD03, 0x0D80], .stg G 3 false false false 5 4 0)] : List (List Half × Instr)),
    decode e.1 = some (e.2, e.1.length) ∧ encode e.2 = e.1 := by decide

theorem test_decode_words_of_the_programs : ∀ e ∈ ([
    ([0xF907, 0xFD60, 0x322C], .cbound G 2 1 11 12), ([0xF902, 0xFD10, 0x7AA0], .subSubscription G 2 5 2),
    ([0xF902, 0x6800], .step G), ([0xF902, 0x7801], .unsub G 0), ([0xF903, 0x451B], .mreserve G 5 0 6),
    ([0xF903, 0x8512], .mfc G 5 0x12), ([0xF903, 0x7802], .uret),
    ([0xFC03, 0xF903, 0xFD40, 0x5DDD], .msplitC ⟨false, 3⟩ 0 5 6 7 8), ([0xFC03, 0xF903, 0xFD40, 0x5DDE], .msplitX ⟨false, 3⟩ 0 5 6 7 8),
    ([0xFC05, 0xF993, 0xFD80, 0x69E2], .mflipX ⟨false, 5⟩ 0 17 15 16),
    ([0xFC07, 0xF983, 0xFD90, 0x63E2], .mcollX ⟨false, 7⟩ 0 false 19 7 18)] : List (List Half × Instr)),
    decode e.1 = some (e.2, e.1.length) ∧ encode e.2 = e.1 := by decide

/-- R175, R121, R107, R185, R95: the coded fields of W, and a negated guard. -/
theorem test_decode_coded_fields : ∀ e ∈ ([
    ([0xFD05, 0x8940], .ld G 1 true 1 2 0), ([0xFD03, 0x9140], .st G 0 3 1 2 0), ([0xFD01, 0x394D], .cmp G 5 1 2 3),
    ([0xF951, 0xFD07, 0x5140], .vsf G 0 7 9 10 0), ([0xF956, 0xFD22, 0x214C], .amo G 8 4 9 10 11),
    ([0xFC0B, 0x014C], .add ⟨true, 3⟩ 0 1 2 3), ([0xFB40, 0x014C], .add G 0x40 1 2 3)] : List (List Half × Instr)),
    decode e.1 = some (e.2, e.1.length) ∧ encode e.2 = e.1 := by decide

/-- R91, R92, R94 to R98, R103, R107, R113, R175: what no instruction is encoded as. -/
theorem test_decode_refuses : ∀ w ∈ ([
    [0xF81F, 0xF950, 0x4948],              -- prefixes out of rank
    [0xF950, 0xF950, 0x4948],              -- a prefix twice
    [0xF950, 0xFD00, 0xFA01, 0xFB01, 0xF800, 0x4948],
    [0xFE00, 0x014C], [0xFF00, 0x014C],    -- prefix kinds that do not exist
    [0xFC10, 0x014C],                      -- reserved bits of G
    [0xF800, 0x014C],                      -- K on a form without an immediate
    [0xFA01, 0x014C],                      -- MO on an integer instruction
    [0xFB41, 0x014C],                      -- a rounding mode on an integer instruction
    [0xFB40, 0x014E],                      -- `sat` on `and`
    [0xFC03, 0xBBFE],                      -- a guard on `loop`
    [0xB8FE],                              -- `loop` on s0
    [0xE004],                              -- a field that `brk` does not use
    [0x294C],                              -- `bext` without W
    [0xFD22, 0x294C],                      -- EXT[1] on `bext`
    [0xFD02, 0x394D], [0xFD01, 0x394F],    -- EXT[1] on `cmp`, and a condition that does not exist
    [0xFD04, 0x8940],                      -- `.s` without a size
    [0x715F],                              -- a shift by -1
    [0xF802, 0x7140]                       -- a shift by 64
    ] : List (List Half)), decode w = none := by decide

/-- R103: a shift by an immediate reaches 63. -/
theorem test_decode_shift_63 : decode [0xF801, 0x715F] = some (.shrImm G 1 2 63, 2) := by decide

/-- A table row's word: the halfword that stands first is the highest (log entry 7). -/
theorem test_decode_table_word : decodeTableWord 32 0xF9038512 = some (.mfc G 5 0x12) ∧ decodeTableWord 16 0xE000 = some (.brk G) := by
  decide

/-! ### Well-formedness: an ill-formed term for each check -/

theorem test_wf_result_modes_and_modifiers : ∀ i ∈ [
    Instr.add G 0x80 1 2 3, .sub G 1 1 2 3, .shl G 4 1 2 3, .mul G 0x44 1 2 3,          -- MR on an integer instruction: `sat` only
    .addImm G 0x80 1 2 0, .shlImm G 0x80 1 2 0,
    .st G 0x80 0 1 2 0, .st G 4 0 1 2 0, .vst G 0x80 false 0 1 2 0 0, .vst G 1 true 0 1 2 0 0,
    .vadd G 0 0 3 1 2 3 0, .vsub G 0 0x40 2 1 2 3 0, .vmul G 1 0 1 1 2 3 0, .vmax G 0x20 0 0 1 2 3 0,
    .vshl G 0 1 2 3 0, .vshr G 3 1 2 3 0, .vcmp G 0 11 1 2 3, .vcmp G 0x10 0 1 2 3, .vcmp G 1 4 1 2 3,
    .vcvt G 0 1 1 1 2 0, .vcvt G 0 3 0 1 2 0, .vcvt G 0x40 0 1 1 2 0,
    .vred G 0 0 3 0 1 2 0, .vred G 0 4 0 0 1 2 0, .vscan G 0 0 0 3 1 2 0, .vscan G 4 0 0 0 1 2 0,
    .fadd G 0x10 0 1 2 3, .fdivD G 0x20 0 1 2 3, .fmin G 0x30 1 2 3, .fsqrt G 4 0 1 2, .fcmp G 0x10 0 1 2 3,
    .fcvt G 0 4 4 1 2, .fcvt G 0x40 0 4 1 2], i.wf = false := by decide

theorem test_wf_coded_fields : ∀ i ∈ [
    Instr.cmp G 7 1 2 3, .ld G 0 true 1 2 0, .ldg G 0 true false false false 1 2 0, .ldg G 1 false false true true 1 2 0,
    .ldg G 0 false true false false 1 16 0, .stg G 0 false true true 1 2 0, .stg G 0 true false false 1 16 0,
    .vtbl G 0 1, .amo G 9 0 1 2 3, .amo G 0 5 1 2 3, .cas G 5 1 2 3 4, .fence G 6 0, .fence G 4 1, .fence G 0 6,
    .cget G 6 1 2, .mget G false 0 1 31 0 2, .mget ⟨true, 1⟩ false 0 0 1 0 2, .mfld ⟨true, 1⟩ 0 0 1 0 2, .mfst ⟨true, 1⟩ 0 0 1 0 2,
    .medge ⟨true, 1⟩ 1 0 2 3, .mstar ⟨true, 1⟩ 0 1 0 2, .msplit ⟨true, 1⟩ 0 1 2 3 4, .mcollC ⟨true, 1⟩ 0 false 1 2 4,
    .mflipX ⟨true, 1⟩ 0 1 2 4, .mrefine ⟨true, 1⟩ 0 1 2 3 4], i.wf = false := by decide

theorem test_wf_immediates_and_prefixes : ∀ i ∈ [
    Instr.shlImm G 0 1 2 64, .shrImm G 1 2 64, .sraImm G 1 2 (-1),                       -- a shift of 0 to 63
    .li G 1 0x1000000000, .addImm G 0x40 1 2 0x10000000, .andImm ⟨false, 1⟩ 1 2 0x10000000, .ld G 1 false 9 2 0x100000,
    .st G 0 1 9 2 0x100000, .lds G 9 2 0x10000000, .sete G 9 0x10000000, .br ⟨true, 1⟩ 1 0x80000000, .jmp G 0x40000000000,
    .loop 0 4, .loop 9 0x80000000, .ldc G 1 2 0x10000000, .ldg G 1 false false false false 1 2 0x100000,
    .stg G 1 false false false 1 2 0x100000, .vld G true 0 1 2 0x100000 0, .vldb G true 1 2 0x100000 0,
    .vst G 0x40 false 1 1 2 0x1000 0, .vadd ⟨false, 1⟩ 1 1 0 1 2 3 1, .vfma ⟨false, 1⟩ 1 1 1 2 3 4 0, .fma ⟨false, 1⟩ 1 1 1 2 3 4,
    .vred ⟨false, 1⟩ 1 1 0 0 1 2 1, .vectorQueueHead 0, .powerOn], i.wf = false := by decide

/-- And the widest that fit. -/
theorem test_wf_limits : ∀ i ∈ [
    Instr.shrImm G 1 2 63, .li G 1 0xFFFFFFFFF, .li G 9 0xFFFFFFF, .br G 1 0x7FFFFFFFFF, .amo G 8 4 1 2 3, .fence G 5 0, .cget G 5 1 2,
    .mget G false 0 0 31 0 2, .vfma G 1 1 1 2 3 4 0, .vadd ⟨false, 1⟩ 0 1 0 1 2 3 1, .loop 9 0x3FFFFFFF], i.wf = true := by decide

/-! ### A small state, and the forms of hypotheses as checks -/

/-- Core 0 runs a unit, context 0 in user mode, with a one-halfword instruction in hand; 4 MiB of memory are mapped. -/
def w0 : State := { State.reset.withProbe [] with hand := ⟨0, 0, 0x10000, 1, 0x1234⟩ }

/-- The same with these scalar registers. -/
def regs (rs : List (BitVec 5 × Word)) : State := rs.foldl (fun s r => s.setS r.1 r.2) w0

/-- Bytes written at an address of device memory. -/
def poke (s : State) (a n v : Nat) : State := { s with mem := { s.mem with bytes := bytesWrite s.mem.bytes a n v } }

/-- The next state, and whether there is one. -/
def after (o : Out) : State :=
  match o with
  | .next s => s
  | _ => State.reset

/-- The cause of a fault taken in system mode: code, address, information and saved pc. -/
def taken (o : Out) : Nat × Word × Word × Word := let x := (after o).my; (x.ecause.toNat % 256, x.eaddr, x.einfo, x.epc)

theorem runs_of {s : State} {av cable : Bool} {g : Guard} (h : (s.issuable av cable && s.guard g) = true) : s.runs av cable g := by
  simpa [State.runs] using h

theorem rawOk_of {s : State} {write : Bool} {x : Word} {n align : Nat}
    (h : decide (x.toNat < 0x20000 ∧ x.toNat % align = 0 ∧ s.me.splo.toNat ≤ x.toNat ∧ x.toNat + n ≤ s.me.sphi.toNat ∧ x.toNat + n ≤ 0x20000 ∧
      s.spPoison write s.hand.core x.toNat n = false) = true) : RawOk s write x n align := by
  obtain ⟨a, b, c, d, e, f⟩ := of_decide_eq_true h
  exact ⟨a, b, c, d, e, f⟩

theorem rawReady_of {s : State} {write : Bool} {x : Word} {n align : Nat}
    (h : decide (x.toNat < 0x20000 ∧ x.toNat % align = 0 ∧ s.me.splo.toNat ≤ x.toNat ∧ x.toNat + n ≤ s.me.sphi.toNat ∧ x.toNat + n ≤ 0x20000 ∧
      s.spPoison write s.hand.core x.toNat n = false) = true) (t : s.localBlocked write 0 x.toNat n = false) : RawReady s write x n align :=
  ⟨rawOk_of h, t⟩

theorem rangeOk_of {s : State} {a : Word} {n align : Nat}
    (h : decide (a.toNat < 0x20000 ∧ a.toNat % align = 0 ∧ n % align = 0 ∧ s.me.splo.toNat ≤ a.toNat ∧ a.toNat + n ≤ s.me.sphi.toNat ∧
      a.toNat + n ≤ 0x20000 ∧ s.me.splo.toNat < s.me.sphi.toNat) = true) : RangeOk s a n align := by
  obtain ⟨a, b, c, d, e, f, g⟩ := of_decide_eq_true h
  exact ⟨a, ⟨b, c⟩, d, e, f, g⟩

theorem hbmReady_of {s : State} {va : Word} {n : Nat} {acc : Acc} {pa : Nat}
    (h : decide (va.toNat < 2 ^ 57 ∧ s.aperture va.toNat = false ∧ va.toNat % 128 + n ≤ 128 ∧ 0 < n ∧
      s.translateMy va.toNat acc = .ok (s, ⟨0, pa⟩) ∧ pa < hbmSize ∧ pa % 128 = va.toNat % 128 ∧
      s.mem.poisoned (acc == .write) pa n = false ∧ s.dir.length < 0x8000 ∧
      s.heldAt (pa / 128 * 128) = none ∧
      (acc.writes = true → ∀ e ∈ s.dir, e.line = pa / 128 * 128 → e.awaited = [] ∧ ∀ a ∈ e.others none, slow a = false) ∧
      s.appendLine pa = none) = true) :
    HbmReady s va n acc pa := by
  obtain ⟨a, b, c, d, e, f, g, i, j, k, l, m⟩ := of_decide_eq_true h
  exact ⟨a, b, c, d, e, f, g, i, j, k, l, m⟩

theorem winReady_of {s : State} {write : Bool} {x : Word} {n w off : Nat}
    (h : decide (s.localCheck x n n false = .ok (w, off) ∧ s.winPoison write s.hand.core w off n = false ∧
      s.localBlocked write w off n = false) = true) : WinReady s write x n w off := by
  obtain ⟨a, b, c⟩ := of_decide_eq_true h
  exact ⟨a, b, c⟩

/-- The ranges of a descriptor, as checks. -/
def rangeOkB (s : State) (a : Word) (n align : Nat) : Bool :=
  decide (a.toNat < 0x20000 ∧ (a.toNat % align = 0 ∧ n % align = 0) ∧ s.me.splo.toNat ≤ a.toNat ∧ a.toNat + n ≤ s.me.sphi.toNat ∧
    a.toNat + n ≤ 0x20000 ∧ s.me.splo.toNat < s.me.sphi.toNat)

theorem rangeOk_iff {s : State} {a : Word} {n align : Nat} : RangeOk s a n align ↔ rangeOkB s a n align = true := by
  simp only [rangeOkB, decide_eq_true_eq]
  exact ⟨fun h => ⟨h.window, h.aligned, h.low, h.high, h.inside, h.nonempty⟩, fun ⟨a, b, c, d, e, f⟩ => ⟨a, b, c, d, e, f⟩⟩

def rangeBadB (s : State) (a : Word) (n align code : Nat) : Bool :=
  if a.toNat / 0x20000 % 8 ≠ 0 then decide (code = 4)
  else if a.toNat % align ≠ 0 ∨ n % align ≠ 0 then decide (code = 3)
  else decide (code = 5 ∧ (0x100000 ≤ a.toNat ∨ s.me.sphi.toNat ≤ s.me.splo.toNat ∨ 0x20000 ≤ s.me.splo.toNat ∨
    a.toNat % 0x20000 < s.me.splo.toNat ∨ s.me.sphi.toNat < a.toNat % 0x20000 + n ∨ 0x20000 < a.toNat % 0x20000 + n))

theorem rangeBad_iff {s : State} {a : Word} {n align code : Nat} : RangeBad s a n align code ↔ rangeBadB s a n align code = true := by
  unfold RangeBad rangeBadB
  split
  · simp
  · split <;> simp

def rawReadyB (s : State) (write : Bool) (x : Word) (n align : Nat) : Bool :=
  decide (x.toNat < 0x20000 ∧ x.toNat % align = 0 ∧ s.me.splo.toNat ≤ x.toNat ∧ x.toNat + n ≤ s.me.sphi.toNat ∧ x.toNat + n ≤ 0x20000 ∧
    s.spPoison write s.hand.core x.toNat n = false ∧ s.localBlocked write 0 x.toNat n = false)

theorem rawReady_iff {s : State} {write : Bool} {x : Word} {n align : Nat} : RawReady s write x n align ↔ rawReadyB s write x n align = true := by
  simp only [rawReadyB, decide_eq_true_eq]
  exact ⟨fun h => ⟨h.ok.window, h.ok.aligned, h.ok.low, h.ok.high, h.ok.inside, h.ok.clean, h.turn⟩,
    fun ⟨a, b, c, d, e, f, t⟩ => ⟨⟨a, b, c, d, e, f⟩, t⟩⟩

/-- No host holds a line, and no copy is kept. -/
theorem linesFree_of {s : State} {pa n : Nat} (h : (s.hostHeld.isEmpty && s.dir.isEmpty) = true) : LinesFree s pa n := by
  simp only [Bool.and_eq_true, List.isEmpty_iff] at h
  exact ⟨by simp [h.1], by simp [h.2]⟩

theorem tagFree_of {s : State} {tag : Nat} (h : s.hostHeld = []) : TagFree s tag := by
  intro k _
  simp [State.heldAt, h]

theorem allFree_of {s : State} (h : (s.hostHeld.isEmpty && s.dir.isEmpty) = true) : AllFree s := by
  simp only [Bool.and_eq_true, List.isEmpty_iff] at h
  exact ⟨h.1, by simp [h.2]⟩

/-- Doublewords written at addresses of device memory, or at offsets of core 0's scratchpad. -/
def pokes (s : State) (l : List (Nat × Nat)) : State := l.foldl (fun s x => poke s x.1 8 x.2) s
def local0 (s : State) (l : List (Nat × Nat)) : State := pokes s (l.map fun x => (spadPa 0 x.1, x.2))

theorem noQueueIn_of {s : State} {pa n : Nat} (h : (s.parts.all fun e => e.2.queueBase.isNone) = true) : NoQueueIn s pa n := by
  intro b _ i _
  unfold State.appendLine
  split
  · rfl
  · simp only [Option.map_eq_none_iff, List.find?_eq_none]
    rintro ⟨p, e⟩ m
    have q : e.queueBase = none := by simpa using List.all_eq_true.mp h ⟨p, e⟩ m
    simp [q]

/-! ### Scalar instructions and control -/

/-- s1 the least number, s2 −1, s4 5, s5 −5, s6 64. -/
def wS : State := regs [(1, 0x8000000000000000), (2, -1), (4, 5), (5, -5), (6, 64)]

theorem witness_ScalarArithmeticAndDivision :
    wS.runs true true G ∧ wS.runs true false G ∧ (63 : Word) < 64#64 ∧ wS.S 3 = 0 ∧
    ((wS.S 1).toInt = -(2 ^ 63) ∧ wS.S 2 = BitVec.allOnes 64) ∧
    (wS.S 4 ≠ 0 ∧ ¬((wS.S 5).toInt = -(2 ^ 63) ∧ wS.S 4 = BitVec.allOnes 64)) :=
  ⟨runs_of (by decide +kernel), runs_of (by decide +kernel), by decide +kernel⟩

theorem witness_ScalarLogicMovesAndComparisons : wS.runs true true G := runs_of (by decide +kernel)

/-- An offset of 64 leaves no field, one of 60 a short one. -/
theorem witness_ScalarShiftsCountsAndFields :
    wS.runs true true G ∧ (0 : Word) < 64#64 ∧ (63 : Word) < 64#64 ∧ min (wS.S 4).toNat (64 - (wS.S 6).toNat) = 0 :=
  ⟨runs_of (by decide +kernel), by decide +kernel⟩

/-- R112, R113: the sum wraps, and saturates with SAT. -/
theorem test_add : (after (exec (.add G 0 7 1 2) wS)).S 7 = 0x7FFFFFFFFFFFFFFF ∧
    (after (exec (.add G 0x40 7 1 2) wS)).S 7 = 0x8000000000000000 ∧ (after (exec (.add G 0x40 7 1 2) wS)).my.fflags = fSAT := by
  decide +kernel

/-- R116: division by zero, overflow, and the sign of the remainder. -/
theorem test_div_rem : (after (exec (.div G false 7 4 3) wS)).S 7 = -1 ∧ (after (exec (.rem G false 7 4 3) wS)).S 7 = 5 ∧
    (after (exec (.div G false 7 1 2) wS)).S 7 = 0x8000000000000000 ∧ (after (exec (.rem G false 7 1 2) wS)).S 7 = 0 ∧
    (after (exec (.rem G false 7 5 4) wS)).S 7 = 0 ∧ (after (exec (.div G false 7 5 4) wS)).S 7 = -1 := by decide +kernel

/-- The table of R118: x = 0x8000_0000_0000_00FF in s1, offset s2, width s3. -/
theorem test_bext_bins :
    let b (sx : Bool) (o w : Word) : Word := (after (exec (.bext G sx 7 1 2 3) (regs [(1, 0x80000000000000FF), (2, o), (3, w)]))).S 7
    let i (d o w : Word) : Word := (after (exec (.bins G 7 1 2 3) (regs [(1, 0xFFFF), (2, o), (3, w), (7, d)]))).S 7
    b false 0 8 = 0xFF ∧ b true 0 8 = 0xFFFFFFFFFFFFFFFF ∧ b false 60 8 = 8 ∧ b true 60 8 = 0xFFFFFFFFFFFFFFF8 ∧ b false 64 4 = 0 ∧
    b false 4 0 = 0 ∧ i 0 60 8 = 0xF000000000000000 ∧ i 0x1234 70 8 = 0x1234 := by decide +kernel

/-- R17: s0 discards, p0 stays true. -/
theorem test_hardwired : (after (exec (.addImm G 0 0 4 7) wS)).S 0 = 0 ∧ (after (exec (.cmp G 0 0 4 5) wS)).P 0 = true := by decide +kernel

/-- R124: `loop` branches while its counter has not reached 0. -/
theorem test_loop : (after (exec (.loop 4 (-2)) wS)).S 4 = 4 ∧ (after (exec (.loop 4 (-2)) wS)).my.pc = 0xFFFC ∧
    (after (exec (.loop 4 (-2)) (regs [(4, 1)]))).my.pc = 0x10002 := by decide +kernel

/-- The same core in system mode, and with a handler. -/
def wSys : State := w0.modMy fun c => { c with sys := true, epc := 0x4000, ecause := 0x115 }
def wTvec : State := (regs [(4, 0x4001), (31, 0x4001)]).modMe fun c => { c with tvec := 0x8000 }
def wAvlyn : State := { w0 with hand := ⟨4608, 0, 0x10000, 1, 0x1234⟩ }
def wCable : State := { w0 with launches := [{ probeLaunch with stepK := .cable }] }

theorem witness_ChecksOfDecodingAndPrivilegeFault :
    (Instr.ld G 0 false 1 2 0).isEvent = false ∧ passesDecode wAvlyn (.ld G 0 false 1 2 0) = false ∧
    (stepAllows wCable (.mul G 0 1 2 3) = false ∧ passesDecode wCable (.mul G 0 1 2 3) = true ∧ passesPriv wCable (.mul G 0 1 2 3) = true ∧
      wCable.P (0 : BitVec 3) ≠ false) ∧
    (stepAllows w0 (.xsend G 1) = false ∧ passesDecode w0 (.xsend G 1) = true) ∧ passesDecode w0 (.mfc G 1 7) = false ∧
    passesDecode w0 (.mtc G 1 16) = false ∧ passesDecode w0 (.mget G false 0 7 31 0 2) = false ∧
    (passesDecode w0 .eret = true ∧ passesPriv w0 .eret = false) ∧ (passesDecode w0 (.mfc G 1 8) = true ∧ passesPriv w0 (.mfc G 1 8) = false) ∧
    (passesDecode w0 (.mtc G 1 12) = true ∧ passesPriv w0 (.mtc G 1 12) = false) ∧
    (passesDecode w0 (.tsave G 0 2) = true ∧ passesPriv w0 (.tsave G 0 2) = false) := by decide +kernel

theorem witness_FalseGuardOnlyMovesPc :
    guardOf (.ldg ⟨true, 0⟩ 0 false false false false 1 2 0) = some ⟨true, 0⟩ ∧ passesDecode w0 (.ldg ⟨true, 0⟩ 0 false false false false 1 2 0) = true ∧
    passesPriv w0 (.ldg ⟨true, 0⟩ 0 false false false false 1 2 0) = true ∧ w0.P (⟨true, 0⟩ : Guard).p = (⟨true, 0⟩ : Guard).neg := by
  decide +kernel

theorem witness_ControlTransfers : wS.runs true true G ∧ (wS.issuable true true = true ∧ (4 : BitVec 5) ≠ 0) ∧ wS.runs true false G ∧
    (wS.S 6).getLsbD 0 = false ∧ (wS.S 4).getLsbD 0 = true ∧ (wS.S 31).getLsbD 0 = false ∧ (wTvec.S 31).getLsbD 0 = true :=
  ⟨runs_of (by decide +kernel), by decide +kernel, runs_of (by decide +kernel), by decide +kernel⟩

/-- R130, R357: `brk` saves its own address, `trap` the next. -/
theorem test_brk_trap : taken (exec (.brk G) wTvec) = (20, 0, 0, 0x10000) ∧ taken (exec (.trap G 4) wTvec) = (21, 0, 0x4001, 0x10002) := by
  decide +kernel

theorem test_ret_odd : taken (exec (.ret G) wTvec) = (3, 0x4001, 0, 0x10000) := by decide +kernel

theorem witness_BrkFaultsAtItself : w0.runs true false G := runs_of (by decide +kernel)

theorem witness_TrapEntersSystemMode : wTvec.runs true false G ∧ wTvec.isAvlyn = false ∧ wTvec.inCable = false ∧ wTvec.my.sys = false ∧
    wTvec.me.tvec ≠ 0 ∧ wTvec.settled = true := ⟨runs_of (by decide +kernel), by decide +kernel⟩

/-- A reply is outstanding: the context is not settled. -/
def wLate : State := wTvec.modMy fun c => { c with replies := [⟨.none, 0, 0, []⟩] }

/-- A pc that is even and one that is odd; every earlier instruction has taken its effect, or one has not. -/
theorem witness_HandlersAreEnteredAndReturnedFrom :
    (wSys.issuable true false = true ∧ wSys.inSys = true ∧ wSys.my.epc.getLsbD 0 = false ∧
      (wSys.modMy fun c => { c with epc := 0x4001 }).my.epc.getLsbD 0 = true) ∧
    (wTvec.isAvlyn = false ∧ wTvec.inCable = false ∧ wTvec.my.sys = false ∧ wTvec.me.tvec ≠ 0 ∧ (⟨20, 0, 0⟩ : Flt).code < 256 ∧
      ((⟨20, 0, 0⟩ : Flt).code ≠ 10 ∧ (⟨20, 0, 0⟩ : Flt).code ≠ 11 ∧ (⟨20, 0, 0⟩ : Flt).code ≠ 19 ∨ wTvec.my.uvec = 0 ∨
        wTvec.my.uframe.getLsbD 0 = true) ∧ (0x10000 : Word).getLsbD 0 = false ∧ wTvec.settled = true) ∧
    (wLate.isAvlyn = false ∧ wLate.inCable = false ∧ wLate.my.sys = false ∧ wLate.me.tvec ≠ 0 ∧ wLate.settled = false) := by decide +kernel

/-- R254, R358: `eret` goes back in the mode PMODE. -/
theorem test_eret : (after (exec .eret wSys)).my.pc = 0x4000 ∧ (after (exec .eret wSys)).my.sys = true ∧
    taken (exec .eret wTvec) = (2, 0, 0x1234, 0x10000) := by decide +kernel

/-- In system mode, and in user mode without a handler. -/
theorem witness_HandlersAreEnteredAndReturnedFrom_end :
    (wSys.isAvlyn = false ∧ wSys.inCable = false ∧ wSys.settled = true ∧ wSys.my.sys = true) ∧
    (w0.isAvlyn = false ∧ w0.inCable = false ∧ w0.settled = true ∧ w0.me.tvec = 0 ∧ w0.my.uvec = 0) := by decide +kernel

/-- A context with UVEC and UFRAME set; the frame ends at the end of the scratchpad. -/
def wUp : State := ((regs [(1, 77), (31, 78)]).setH 2 (some ⟨0x100, 1, 4, 8, 2, true, false, []⟩)).modMy
  fun c => { c with uvec := 0x9000, uframe := 0x1EBC0 }

theorem witness_UpcallsAndTheirReturn : wUp.isAvlyn = false ∧ wUp.inCable = false ∧ wUp.settled = true ∧ wUp.my.sys = false ∧
    ((⟨19, 0x123, 0⟩ : Flt).code = 10 ∨ (⟨19, 0x123, 0⟩ : Flt).code = 11 ∨ (⟨19, 0x123, 0⟩ : Flt).code = 19) ∧ wUp.my.uvec ≠ 0 ∧ wUp.my.uframe.getLsbD 0 = false ∧
    (let A := (wUp.my.uframe &&& 0xFFFC0).toNat
     A < 0x20000 ∧ wUp.me.splo.toNat ≤ A ∧ A + 0x1420 ≤ wUp.me.sphi.toNat ∧ A + 0x1420 ≤ 0x20000) := by decide +kernel

theorem witness_UpcallsAndTheirReturn_uret : (0x10000 : Word).getLsbD 0 = false ∧
    wUp.localBlocked false 0 (wUp.my.uframe &&& 0xFFFC0).toNat 0x1420 = false ∧
    (∀ r ∈ List.range 16, ∀ x, wUp.H (BitVec.ofNat 4 r) = some x → x.wf = true) := by
  refine ⟨by decide, by decide +kernel, fun r _ x h => ?_⟩
  by_cases e : BitVec.ofNat 4 r = 2
  · rw [e] at h
    have : wUp.H 2 = some ⟨0x100, 1, 4, 8, 2, true, false, []⟩ := by decide +kernel
    rw [this] at h; cases h; decide
  · have : ∀ q : BitVec 4, q ≠ 2 → wUp.H q = none := by decide +kernel
    rw [this _ e] at h; cases h

/-- R361: the frame holds the pc of the faulting instruction and s1, and the context goes to UVEC with ACTIVE set. -/
theorem test_upcall : let t := wUp.deliver ⟨10, 0x123, 1⟩ 0x10000
    (t.my.pc, t.my.uframe, t.spRead 0 0x1EBC0 8, t.spRead 0 0x1EBD0 8, t.spRead 0 0x1EBF0 8) = (0x9000, 0x1EBC1, 0x10000, 0x123, 77) := by
  decide +kernel

/-- A store of core 0 to the line at 0x100000 awaits an acknowledgement of another core. -/
def unperformed (s : State) : State := { s with dir := [⟨0x100000, some (.l1 0, .m), [], none, none, [.tlb 1], false, [0], [], 0⟩] }

/-- Context 1 free, 2 ready; then all ten taken; and a helper at work. -/
def wHelp : State := (regs [(1, 0x10100), (2, 9), (3, 0x10101)]).modCtx 0 2 fun x => { x with st := .ready }
def wFull : State := (List.range 11).foldl (fun s n => s.modCtx 0 n fun x => { x with st := .ready }) wHelp
def wHelper : State := { wHelp with hand := ⟨0, 2, 0x10000, 1, 0x1234⟩ }
/-- Its core's vector queue holds an entry of the context in hand. -/
def busy (s : State) : State := s.modMe fun c => { c with vq := [⟨0, .mzc, ⟨s.hand.ctx, 0xFF, false, false, 0⟩⟩] }

theorem witness_HelpersStartAndEnd :
    (wHelp.runs false false G ∧ wHelp.hand.ctx = 0 ∧ wHelp.queueQuiet 0 0 = true ∧ (busy wHelp).queueQuiet 0 0 = false ∧ (wHelp.S 1).getLsbD 0 = false ∧ (wHelp.S 3).getLsbD 0 = true ∧
      1 ≤ wHelp.budget ∧ wHelp.storesPerformed = true ∧ (unperformed wHelp).queueQuiet 0 0 = true ∧ (unperformed wHelp).storesPerformed = false ∧
      (wHelp.me.ctxAt 1).st = .free ∧ (wHelp.me.ctxAt 2).st ≠ .free) ∧
    ((unperformed wHelp).runs false false G ∧ ∀ n ∈ List.range 11, n ≠ 0 → n ≠ 2 → ((unperformed wHelp).me.ctxAt n).st = .free ∧
      wHelp.queueQuiet 0 (orphan n) = true ∧ (unperformed wHelp).queueQuiet 0 (orphan n) = true) ∧
    (wHelp.modMe fun c => { c with vq := [⟨0, .mzc, ⟨orphan 1, 0xFF, false, false, 0⟩⟩] }).queueQuiet 0 (orphan 1) = false ∧
    (wFull.runs false false G ∧ wFull.queueQuiet 0 0 = true ∧ wFull.storesPerformed = true ∧ ∀ n ∈ List.range 11, (wFull.me.ctxAt n).st ≠ .free) ∧
    (wHelper.runs false false G ∧ wHelper.hand.ctx ≠ 0 ∧ wHelper.my.replies = [] ∧ (busy wHelper).my.replies = [] ∧ (busy wHelper).me.vq ≠ [] ∧
      (wHelper.modMy fun c => { c with replies := [⟨.none, 0, 0, []⟩] }).my.replies ≠ []) :=
  ⟨⟨runs_of (by decide +kernel), by decide +kernel⟩, ⟨runs_of (by decide +kernel), by decide +kernel⟩, by decide +kernel,
    ⟨runs_of (by decide +kernel), by decide +kernel⟩, runs_of (by decide +kernel), by decide +kernel⟩

/-- R128, R29: what a helper queued stays in the queue when it retires, and writes none of its registers. -/
theorem test_retire_orphans : ((after (exec (.retire G) (busy wHelper))).me.vq.map (·.cap.ctx)) = [orphan 2] := by decide +kernel

/-- R127, R128: `hwait` awaits what a retired helper has queued. -/
theorem test_hwait_orphans : let s := wHelp.modMe fun c => { c with vq := [⟨0, .mzc, ⟨orphan 1, 0xFF, false, false, 0⟩⟩] }
    (after (exec (.hwait G 4) (s.setS 4 2))).my.st = .waiting (.helpers 2) ∧ (after (exec (.hwait G 4) (wHelp.setS 4 2))).my.pc = wHelp.nextPc := by
  decide +kernel

/-- R126: the helper's number, its pc and its argument; R127. -/
theorem test_hstart : let t := after (exec (.hstart G 7 1 2) wHelp)
    (t.S 7, (t.me.ctxAt 1).pc, (t.me.ctxAt 1).s.get 1, (t.me.ctxAt 1).s.get 2) = (1, 0x10100, 9, 1) ∧
    (after (exec (.hstart G 7 1 2) wFull)).S 7 = 0 ∧ (after (exec (.hwait G 0) wHelp)).my.st = .waiting (.helpers 0x7FE) ∧
    ((after (exec (.retire G) wHelper)).me.ctxAt 2).st = .free := by decide +kernel

/-! ### Local memory, vectors, matrices -/

/-- Local addresses in s1 to s8, one in each window that a load takes; the word at 0x200 full, that at 0x300 poisoned. -/
def wLoc : State :=
  let s := regs [(1, 0x1FFF8), (2, 0x200), (3, 0x300), (4, 0x20003), (5, 0x40004), (6, 0x60002), (7, 0x80002), (8, 0xA0FF8), (9, 0x3FC00000), (10, 0x400)]
  { s with mem := { s.mem with full := [spadPa 0 0x200], poison := [spadPa 0 0x300] } }

/-- The queue of core 0 holds a store of the word at 0x200 (two by one elements, of which the mask takes the first). -/
def wPend : State := wLoc.modMe fun c => { c with shape := 0, vq := [⟨0, .st 0 false 0 3 0x200 0, ⟨0, 0, false, false, 0⟩⟩] }

/-- The last doubleword of the scratchpad, a word in it, and each window; a word that a queued store writes. -/
theorem witness_LocalLoadsAndStores :
    wLoc.runs false true G ∧ wLoc.runs false false G ∧
    RawReady wLoc false (wLoc.S 1 + 0) 8 8 ∧ RawReady wLoc true (wLoc.S 1 + 7) 1 1 ∧ RawReady wLoc true (wLoc.S 1 + 4) 4 4 ∧
    WinReady wLoc false (wLoc.S 4 + 0) 8 1 3 ∧ WinReady wLoc true (wLoc.S 5 + 0) 8 2 4 ∧ WinReady wLoc true (wLoc.S 6 + 0) 2 3 2 ∧
    WinReady wLoc false (wLoc.S 7 + 0) 4 4 2 ∧ WinReady wLoc true (wLoc.S 8 + 0) 8 5 0xFF8 ∧
    (RawOk wLoc false (wLoc.S 2 + 0) 4 4 ∧ spadPa 0 0x200 ∈ wLoc.mem.full ∧ wLoc.localBlocked false 0 0x200 4 = false ∧
      wLoc.localBlocked true 0 0x200 4 = false) ∧
    (wPend.runs false false G ∧ RawOk wPend false (wPend.S 2 + 0) 4 4 ∧ wPend.localBlocked false 0 0x200 4 = true) ∧
    (RawOk wLoc false (wLoc.S 10 + 0) 4 4 ∧ spadPa 0 0x400 ∉ wLoc.mem.full ∧ wLoc.localBlocked false 0 0x400 4 = false) :=
  ⟨runs_of (by decide +kernel), runs_of (by decide +kernel), rawReady_of (by decide +kernel) (by decide +kernel),
    rawReady_of (by decide +kernel) (by decide +kernel), rawReady_of (by decide +kernel) (by decide +kernel), winReady_of (by decide +kernel),
    winReady_of (by decide +kernel), winReady_of (by decide +kernel), winReady_of (by decide +kernel), winReady_of (by decide +kernel),
    ⟨rawOk_of (by decide +kernel), by decide +kernel⟩, ⟨runs_of (by decide +kernel), rawOk_of (by decide +kernel), by decide +kernel⟩,
    rawOk_of (by decide +kernel), by decide +kernel⟩

/-- R57, R176, R414: a store writes its bytes little-endian and a load reads them back, sign-extended under `.s`; poison faults a load. -/
theorem test_st_ld : let t := after (exec (.st G 0 2 9 10 0) (regs [(9, 0x12345), (10, 0x400)]))
    (t.spRead 0 0x400 1, t.spRead 0 0x401 1, t.spRead 0 0x402 1) = (0x45, 0x23, 0) ∧
    (after (exec (.ld G 2 true 7 1 0) (poke (regs [(1, 0x400)]) (spadPa 0 0x400) 2 0xFF80))).S 7 = 0xFFFFFFFFFFFFFF80 ∧
    taken (exec (.ld G 3 false 7 3 0) (wLoc.modMe fun c => { c with tvec := 0x8000 })) = (12, 0x300, 0, 0x10000) := by decide +kernel

/-- R57: B16 holds the upper half of an f32, whose 1.5 is 0x3FC0. -/
theorem test_st_ld_b16 : let t := after (exec (.st G 0 0 9 7 0) (wLoc.setS 9 0x3FC00000))
    t.spRead 0 2 2 = 0x3FC0 ∧ (after (exec (.ld G 0 false 11 7 0) t)).S 11 = 0x3FC00000 := by decide +kernel

/-- R177: `lds` waits for a full word; `stf` fills, `sete` empties. -/
theorem test_sync_words : (after (exec (.lds G 7 10 0) wLoc)).my.st = .waiting (.wordFull (spadPa 0 0x400)) ∧
    (after (exec (.stf G 9 10 0) wLoc)).mem.full = [spadPa 0 0x200, spadPa 0 0x400] ∧ (after (exec (.sete G 2 0) wLoc)).mem.full = [] := by
  decide +kernel

/-- Reserved windows, FE past its end, misaligned addresses, both ends of SPLIM, poison; and where one check stands before another. -/
theorem witness_LocalFaultsInOrder :
    let w (x : Word) : Nat := x.toNat / 0x20000 % 8
    let off (x : Word) : Nat := x.toNat % 0x20000
    let s := wLoc.modMe fun c => { c with splo := 0x100, sphi := 0x400 }
    s.runs false true G ∧ s.runs false false G ∧ 6 ≤ w 0xC0000 ∧ (w 0xA1000 = 5 ∧ 0x1000 ≤ off 0xA1000) ∧
    (w 0x201 = 0 ∧ off 0x201 % 8 ≠ 0) ∧ (w 0x60001 = 3 ∧ off 0x60001 % 2 ≠ 0) ∧
    (w 0xF8 < 5 ∧ off 0xF8 % 8 = 0 ∧ (storedBytes 0 0xF8 8).1 < s.me.splo.toNat) ∧
    (off 0x3F9 % 1 = 0 ∧ min s.me.sphi.toNat 0x20000 < (storedBytes 0 0x3FC 8).1 + (storedBytes 0 0x3FC 8).2) ∧
    (0x100000 : Word).toNat / 0x20000 % 8 = 0 ∧ (w 0xA0200 = 5 ∧ off 0xA0200 + 8 ≤ 0x1000) ∧
    s.winPoison false 0 0 0x300 4 = true ∧ s.winPoison true 0 0 0x300 2 = true ∧ s.spPoison false 0 0x300 4 = true ∧
    s.localBlocked false 0 0x300 4 = false ∧ s.localBlocked true 0 0x300 2 = false ∧ s.localBlocked true 0 0x300 4 = false :=
  ⟨runs_of (by decide +kernel), runs_of (by decide +kernel), by decide +kernel⟩

/-- Core 0 of a row whose four cores hold units of one launch; its queue holds `n` entries that clear the tile registers. -/
def wRow (n : Nat) (rs : List (BitVec 5 × Word)) : State :=
  let s := (List.range 4).foldl (fun (s : State) g => s.setCore g { s.coreAt g with unit := some ⟨0, g, 10⟩ }) (regs rs)
  s.modMe fun c => { c with vq := (List.range n).map fun i => ⟨i, .mzc, ⟨0, 0xFF, false, false, 0⟩⟩ }

/-- Room for the last entry, and none. -/
theorem witness_VectorAndMatrixEnterTheQueue :
    ((wRow 7 []).runs false false G ∧ (wRow 7 []).me.vq.length < 8) ∧ ((wRow 8 []).runs false false G ∧ 8 ≤ (wRow 8 []).me.vq.length) ∧
    (let s := wRow 0 [(1, 0x180), (2, 0x7FF80), (3, 0x80)]
     s.runs false false G ∧ (s.S 1).toNat / 0x20000 % 8 = 0 ∧ (s.S 1).toNat % 128 = 0 ∧ (s.S 2).toNat % 128 = 0 ∧ (s.S 3).toNat % 128 = 0 ∧
       (s.S 2).toNat + (s.S 3).toNat ≤ 0x80000 ∧ s.me.splo.toNat ≤ (s.S 1).toNat ∧ (s.S 1).toNat + (s.S 3).toNat ≤ s.me.sphi.toNat ∧
       s.spPoison false 0 0x180 0x80 = false ∧ (∀ j < 4, ((s.coreAt (4 * (0 / 4) + j)).unit.map (·.launch)) = some 0)) ∧
    RawOk (wRow 0 [(1, 0x1F000)]) true 0x1F000 4096 64 ∧
    (let s := (wRow 0 [(1, 0x1EC00)]).modMe fun c => { c with recovery := true }
     s.me.recovery = true ∧ RawOk s true (s.S 1) 5120 64 ∧ RawOk s false (s.S 1) 5120 64) ∧
    (let A : Word := 0x007FF8007C020000
     cfgAWin A = 1 ∧ cfgK A = 4096 ∧ cfgAOff A + 32 * cfgK A * 1 ≤ 0x20000 ∧ cfgBOff A + cfgK A * cfgBw A ≤ 0x80000 ∧ cfgCOff A + 4096 ≤ 0x20000) :=
  ⟨⟨runs_of (by decide +kernel), by decide +kernel⟩, ⟨runs_of (by decide +kernel), by decide +kernel⟩,
    ⟨runs_of (by decide +kernel), by decide +kernel⟩, rawOk_of (by decide +kernel),
    ⟨by decide +kernel, rawOk_of (by decide +kernel), rawOk_of (by decide +kernel)⟩, by decide +kernel⟩

/-! ### Vector accesses, queue heads, the row array -/

theorem vecReady_of {s : State} {write code bcast : Bool} {rs k : BitVec 3} {x : Word}
    (h : decide ((k = 0 ∨ ∀ e ∈ s.me.vq, e.op.maskDest ≠ k) ∧ x.toNat < 0xA0000 ∧ (code = true → 0x20000 ≤ x.toNat) ∧ s.me.vq.length < 8) = true)
    (e : ∀ e ∈ regionElems s.me.shape, (s.me.mask k).getLsbD e = true →
      let w := x.toNat / 0x20000
      let off := elemOff (x.toNat % 0x20000) w s.me.shape rs bcast e
      (w = 0 → off % 4 = 0) ∧ (w = 3 ∨ w = 4 → off % 2 = 0) ∧
      (w = 2 → elemOff (x.toNat % 0x20000) w s.me.shape rs bcast (e / 16 * 16) % 4 = 0) ∧ off < 0x20000 ∧
      s.me.splo.toNat ≤ (storedBytes w off 4).1 ∧ (storedBytes w off 4).1 + (storedBytes w off 4).2 ≤ s.me.sphi.toNat ∧
      (storedBytes w off 4).1 + (storedBytes w off 4).2 ≤ 0x20000 ∧ s.winPoison write s.hand.core w off 4 = false) :
    VecReady s write code bcast rs k x := by
  obtain ⟨a, b, c, d⟩ := of_decide_eq_true h
  exact ⟨a, b, c, e, d⟩

/-- A region of 2 by 2; a queued instruction writes k3; h1 is a local strand and h2 a ring. -/
def wVec : State := ((regs [(1, 0x1FFF0), (2, 0x1FFF2), (3, 0x1FFF8), (4, 0x40004)]).modMe fun c => { c with
    shape := 0x11
    vq := [⟨0, .kbin .and 3 1 2, ⟨0, 0x11, false, false, 0⟩⟩] }).setH 1 (some ⟨0x100, 0, 2, 4, 2, true, false, []⟩)

/-- The last 16 bytes in RAW, codes through Q6, a broadcast; strands; a mask that is still to be written; and an element that is
misaligned at once, or out of range after two that are in. -/
theorem witness_VectorAccessesEnterOrFault :
    wVec.runs false false G ∧ VecReady wVec false false false 0 0 (wVec.S 1) ∧ VecReady wVec true true false 1 0 (wVec.S 4) ∧
    VecReady wVec false false true 0 0 (wVec.S 3) ∧
    (wVec.H 1 = some ⟨0x100, 0, 2, 4, 2, true, false, []⟩ ∧ ∀ i < 2, (wVec.localCheck (0x100 + 4 * BitVec.ofNat 64 i) 4 4 false).toOption =
      some (0, 0x100 + 4 * i) ∧ wVec.winPoison false 0 0 (0x100 + 4 * i) 4 = false) ∧
    ((3 : BitVec 3) ≠ 0 ∧ ∃ e ∈ wVec.me.vq, e.op.maskDest = 3) ∧
    (wVec.me.splo.toNat < min wVec.me.sphi.toNat 0x20000 ∧ regionElems wVec.me.shape = [] ++ 0 :: [1, 16, 17] ∧
      elemOff 0x1FFF2 0 wVec.me.shape 0 false 0 % 4 ≠ 0) ∧
    (regionElems wVec.me.shape = [0, 1] ++ 16 :: [17] ∧ elemOff 0x1FFF8 0 wVec.me.shape 0 false 1 % 4 = 0 ∧
      (storedBytes 0 (elemOff 0x1FFF8 0 wVec.me.shape 0 false 1) 4).1 + 4 ≤ 0x20000 ∧
      0x20000 ≤ elemOff 0x1FFF8 0 wVec.me.shape 0 false 16) :=
  ⟨runs_of (by decide +kernel), vecReady_of (by decide +kernel) (by decide +kernel), vecReady_of (by decide +kernel) (by decide +kernel),
    vecReady_of (by decide +kernel) (by decide +kernel), by decide +kernel⟩

/-- The second active element meets poison, for a load and, of its codes in Q8, for a store. -/
theorem witness_VectorAccessesEnterOrFault_poison :
    let s := { (wVec.modMe fun c => { c with vq := [], k := c.k.set 1 6 }) with mem := { wVec.mem with poison := [spadPa 0 0x110] } }
    let els := (regionElems s.me.shape).filter fun e => (s.me.mask 1).getLsbD e
    s.runs false false G ∧ (∀ e ∈ s.me.vq, e.op.maskDest ≠ 1) ∧ els = [1] ++ [] ∧ (regionElems s.me.shape).length = 4 ∧
    s.me.splo.toNat < min s.me.sphi.toNat 0x20000 ∧
    (elemOff 0x10C 0 s.me.shape 0 false 1 = 0x110 ∧ s.winPoison false 0 0 0x110 4 = true ∧ s.localBlocked false 0 0x110 4 = false) ∧
    (elemOff 0x10F 1 s.me.shape 0 false 1 = 0x110 ∧ s.winPoison true 0 1 0x110 4 = true ∧ s.localBlocked true 1 0x110 4 = false) :=
  ⟨runs_of (by decide +kernel), by decide +kernel⟩

/-- R161: the first failing element faults with its own address. -/
theorem test_vld_faults : let s := wVec.modMe fun c => { c with tvec := 0x8000, vq := [] }
    taken (exec (.vld G false 0 5 2 0 0) s) = (3, 0x1FFF2, 0, 0x10000) ∧
    taken (exec (.vld G false 0 5 3 0 0) s) = (5, 0x20000, 0, 0x10000) := by decide +kernel

/-- One entry at the head of core 0's queue; v1 holds 5 and -1, v2 holds 7 and 1. -/
def wHead (op : VOp) : State := (w0.modMe fun c => { c with
  vq := [⟨1, op, ⟨0, 0x10, false, false, 0⟩⟩], v := (c.v.set 1 [5, 0xFFFFFFFF]).set 2 [7, 1], k := c.k.set 1 2 })

theorem witness_QueueHeadsExecute :
    (((wHead (.bin .add 0 0 1 3 1 2 1)).coreAt 0).vq = ⟨1, .bin .add 0 0 1 3 1 2 1, ⟨0, 0x10, false, false, 0⟩⟩ :: [] ∧
      ∀ g ∈ List.range 8, g ≠ 0 → ((wHead (.bin .add 0 0 1 3 1 2 1)).coreAt g).vq = []) ∧
    (wHead (.bin .add 0 0 1 3 1 2 1)).freeLanes 0 ≠ 0 ∧
    ∀ op ∈ [VOp.kbin .and 3 1 2, .kbin .or 0 1 2, .knot 2 1, .kpop 4 1, .ins 3 9 255, .bcast 3 9 1, .sel 3 1 2 1, .ecfg 0x20000, .mzc,
      .ld false false 0 3 0x1FFF8 1, .fma 0 0 3 1 2 1 1, .sf 0 0 3 1 1, .cvt 0 0 1 3 1 1, .narrow 0 0 false 3 1 1, .cmp 0 4 0 1 2, .ext true 4 1 256,
      .mov 3 1 1, .rot 3 1 1 1, .perm 3 1 2 1, .trans 3 1 1, .red 0 0 0 1 4 1 1, .scan 0 0 0 1 3 1 1, .tbl 3 1, .st 0 true 0 3 0x40000 1,
      .sgetv 3 ⟨0x100, 0, 2, 4, 2, true, false, []⟩ 0, .mldb 0x100 0 128, .mstc 0x1F000, .tsave 1 0x1EC00, .trest 0 0x1EC00],
      ((wHead op).coreAt 0).vq = ⟨1, op, ⟨0, 0x10, false, false, 0⟩⟩ :: [] ∧
        (wHead op).headReady 0 ⟨1, op, ⟨0, 0x10, false, false, 0⟩⟩ = true := by decide +kernel

/-- R146, R143, R23: a masked-off element stays; R152. -/
theorem test_vector_head : let t := after (exec (.vectorQueueHead 0) (wHead (.bin .add 0 0 1 3 1 2 0)))
    ((t.coreAt 0).vElem 3 0, (t.coreAt 0).vElem 3 1, (t.coreAt 0).vq) = (12, 0, []) ∧
    (let t := after (exec (.vectorQueueHead 0) (wHead (.bin .sub 0 0 1 3 1 2 1)))
     ((t.coreAt 0).vElem 3 0, (t.coreAt 0).vElem 3 1) = (0, 0xFFFFFFFE)) ∧
    ((after (exec (.vectorQueueHead 0) (wHead (.kpop 4 1)))).S 4) = 1 := by decide +kernel

/-- Four gangs with these words, the cores' units of one launch. -/
def wGangs (words : List Word) : State :=
  (List.range 4).foldl (fun (s : State) g => s.setCore g { s.coreAt g with
    unit := some ⟨0, g, 10⟩
    tvec := 0x8000
    vq := [⟨g, .gang (words.getD g 0) 0x10002, ⟨0, 0xFF, false, false, 0⟩⟩] }) w0
def wGang (word : Word) : State := wGangs (List.replicate 4 word)

/-- One word (K 1, from window Q8) without and with participants; words that differ; a core whose unit is ending; an operation matched, and
one that runs. -/
theorem witness_RowArrayMatchesStartsCompletes :
    (let s := wGang 0x100
     (s.row 0).matched = none ∧ (s.row 0).broken = false ∧ (s.row 0).left = [] ∧
      (∀ g ∈ [0, 1, 2, 3], (s.coreAt g).frozen = false ∧ (s.coreAt g).unit.map (·.launch) = some 0 ∧ (s.coreAt g).ending = none ∧
        (s.coreAt g).vq = ⟨g, .gang 0x100 0x10002, ⟨0, 0xFF, false, false, 0⟩⟩ :: []) ∧
      ((after (exec (.gangMatch 0) s)).row 0).running = none ∧ (after (exec (.gangMatch 0) s)).clockHeld (0 / 288) = false) ∧
    (let s := wGang 0x106
     (s.row 0).matched = none ∧ (s.row 0).broken = false ∧ (s.row 0).left = [] ∧
      (∀ g ∈ [0, 1, 2, 3], (s.coreAt g).frozen = false ∧ (s.coreAt g).unit.map (·.launch) = some 0 ∧ (s.coreAt g).ending = none ∧
        (s.coreAt g).vq = ⟨g, .gang 0x106 0x10002, ⟨0, 0xFF, false, false, 0⟩⟩ :: []) ∧
      ((after (exec (.gangMatch 0) s)).row 0).running = none ∧ (after (exec (.gangMatch 0) s)).clockHeld (0 / 288) = false) ∧
    ((0x100 : Word) &&& 0xFFFFFFFFFFFF00FF = 0) ∧
    ((0x106 : Word) &&& 0xFFFFFFFFFFFF00F0 = 0 ∧ (0x106 : Word).getLsbD 1 = true ∧ (∀ j < 1, (0x106 : Word).getLsbD j = false) ∧
      ∀ g ∈ [0, 1, 2, 3], (wGang 0x106).badRange 1 6 g = false) ∧
    (let s := wGangs [0x101, 0x101, 0x100, 0x101]
     (s.row 0).matched = none ∧ (s.row 0).broken = false ∧ (s.row 0).left = [] ∧
     (∀ g ∈ [0, 1, 2, 3], (s.coreAt g).frozen = false ∧ (s.coreAt g).ending = none ∧ s.gangSettled g = true ∧ s.coreInCable g = false ∧ ((s.coreAt g).ctxAt 0).sys = false ∧
       (s.coreAt g).tvec ≠ 0) ∧ (0x100 : Word) ≠ 0x101) ∧
    (0x10100 : Word) &&& 0xFFFFFFFFFFFF00F0 ≠ 0 ∧
    (let s := (wGang 0x100).setCore 3 { (wGang 0x100).coreAt 3 with ending := some (0, 0), vq := [] }
     (s.coreAt 3).ending.isSome = true ∧ (s.coreAt 0).unit.map (·.launch) = some 0 ∧ (s.row 0).matched = none ∧ (s.row 0).broken = false ∧
       (s.row 0).left = [] ∧ ∀ g ∈ [0, 1, 2, 3], s.gangSettled g = true ∧ (s.coreAt g).frozen = false) ∧
    (let s := (wGang 0x100).setCore 3 { (wGang 0x100).coreAt 3 with frozen := true }
     (s.row 0).matched = none ∧ (s.row 0).broken = false ∧ (s.row 0).left = [] ∧
       (∀ g ∈ [0, 1, 2, 3], (s.coreAt g).unit.map (·.launch) = some 0 ∧ (s.coreAt g).ending = none) ∧ (s.coreAt 3).frozen = true) ∧
    (let s := after (exec (.gangMatch 0) (wGang 0x106))
     let s : State := { s with cores := s.cores.map fun x => (x.1, { x.2 with cycles := x.2.cycles + 2#64 }) }
     (s.row 0).matched.any s.rowDue = true ∧ (s.row 0).running = none ∧ s.clockHeld (0 / 288) = false ∧ s.rowHalted 0 = false) ∧
    (let s := (wGang 0x100).setRow 0 { (wGang 0x100).row 0 with running := some ⟨9, 1, 0, 6, 0x20100, false, [], 0⟩ }
     (s.row 0).running = some ⟨9, 1, 0, 6, 0x20100, false, [], 0⟩) := by decide +kernel

/-- R168: words that differ fault all four with GANGABORT; a missing core gives EINFO 1. -/
theorem test_gang_abort : let f (s : State) (g : Nat) : Word × Word := (((s.coreAt g).ctxAt 0).ecause, ((s.coreAt g).ctxAt 0).einfo)
    f (after (exec (.gangMatch 0) (wGangs [0x101, 0x101, 0x100, 0x101]))) 2 = (16, 0) ∧
    f (after (exec (.gangMatch 0) ((wGang 0x100).setCore 3 { (wGang 0x100).coreAt 3 with ending := some (0, 0), vq := [] }))) 1 = (16, 1) := by
  decide +kernel

/-! ### Global memory -/

/-- Base addresses in s1 (a line's last doubleword) and s2 (the mapped page's last line), s6 unaligned; a1 the whole first page. -/
def wMem : State := (regs [(1, 0x100078), (2, 0x3FFF80), (3, 0x100000), (4, 0x100), (5, 0x0000000A00000001), (6, 0x100001), (7, 77), (8, 5)]).setA 1
  (mkCap 0 0x3F 0x200000 0)

theorem witness_GlobalLoadsAndTheirReplies :
    wMem.runs true false G ∧ BaseIs wMem false 1 0 0x100078 8 1 ∧ HbmReady wMem.ahead 0x100078 8 .read 0x100078 ∧
    (BaseIs wMem true 1 0x1FFFFF 0x1FFFFF 1 1 ∧ HbmReady wMem.ahead 0x1FFFFF 1 .read 0x1FFFFF) ∧
    (TagFree wMem (capTag (wMem.A 1)) ∧ wMem.checkCap (wMem.A 1) (0x1FFFF0 : Word).toInt 16 1 ((1 : BitVec 4).setWidth 64) = .ok (0x1FFFF0 : Word).toNat ∧
      (0x1FFFF0 : Word).toNat % 16 = 0 ∧ HbmReady wMem.ahead 0x1FFFF0 16 .read 0x1FFFF0) ∧
    (let s := wMem.modMy fun c => { c with replies := [⟨.s 3, 7, 0, []⟩, ⟨.a 2, 8, 0, []⟩] }
     ((s.coreAt 0).ctxAt 0).replies = ⟨.s 3, 7, 0, []⟩ :: [⟨.a 2, 8, 0, []⟩]) :=
  ⟨runs_of (by decide +kernel), by simp only [BaseIs, Bool.false_eq_true, if_false]; decide +kernel, hbmReady_of (by decide +kernel),
    ⟨by simp only [BaseIs, if_true]; exact ⟨tagFree_of (by decide +kernel), by decide +kernel⟩, hbmReady_of (by decide +kernel)⟩,
    ⟨tagFree_of (by decide +kernel), by decide +kernel, by decide +kernel, hbmReady_of (by decide +kernel)⟩, by decide +kernel⟩

theorem witness_GlobalStoresAndAtomics :
    wMem.runs true false G ∧ HbmReady wMem.ahead 0x3FFF80 8 .write 0x3FFF80 ∧
    (TagFree wMem (capTag (wMem.A 1)) ∧ wMem.checkCap (wMem.A 1) (0x1FFFF0 : Word).toInt 16 2 ((1 : BitVec 4).setWidth 64) = .ok (0x1FFFF0 : Word).toNat ∧
      HbmReady wMem.ahead 0x1FFFF0 16 .write 0x1FFFF0) ∧
    ((wMem.S 1).toNat % 8 = 0 ∧ HbmReady wMem.ahead (wMem.S 1) 8 .update 0x100078) ∧
    ((BitVec.ofNat 64 (bytesRead wMem.mem.bytes 0x100078 8) : Word) = wMem.S 9 ∧
      (BitVec.ofNat 64 (bytesRead wMem.mem.bytes 0x100078 8) : Word) ≠ wMem.S 7) :=
  ⟨runs_of (by decide +kernel), hbmReady_of (by decide +kernel), ⟨tagFree_of (by decide +kernel), by decide +kernel, hbmReady_of (by decide +kernel)⟩,
    ⟨by decide +kernel, hbmReady_of (by decide +kernel)⟩, by decide +kernel⟩

/-- R12, R175: a load's value arrives with its reply. -/
theorem test_ldg : let s := poke wMem 0x100078 8 0xFEDCBA9876543280
    let t := after (exec (.loadReply 0 0) (after (exec (.ldg G 1 true false false false 9 1 0) s)))
    t.S 9 = 0xFFFFFFFFFFFFFF80 ∧ t.my.pc = 0x10002 ∧ t.my.replies = [] := by decide +kernel

/-- R65, R185: of equal priorities the smaller handle wins; `add` wraps; the reply is the old value. -/
theorem test_amo : let s := poke wMem 0x100078 8 0x0700000000000009
    let t := after (exec (.amo G 8 3 9 1 10) (s.setS 10 0x0700000000000005))
    bytesRead t.mem.bytes 0x100078 8 = 0x0700000000000005 ∧ (t.my.replies.map (·.value)) = [0x0700000000000009] ∧
    bytesRead (after (exec (.amo G 0 3 9 1 2) (s.setS 2 (-9)))).mem.bytes 0x100078 8 = 0x0700000000000000 := by decide +kernel

/-- The aperture's window 0 of core 0 starts at 0xF000_0000_0000 (R56). -/
theorem witness_CapabilityAndGlobalFaultsInOrder :
    (∀ tag, TagFree wMem tag) ∧ wMem.runs true false G ∧ wMem.A 2 = 0 ∧
    (let c := mkCap 0 2 0x100 0x1000
     c ≠ 0 ∧ c.getLsbD 97 = false) ∧
    (let c := mkCap 0 1 0x100 0x1000
     let len : Nat := c.toNat / 2 ^ 57 % 2 ^ 40
     c ≠ 0 ∧ c.getLsbD 103 = false ∧ c.getLsbD 97 = true ∧ (-1 : Word).toInt < 0 ∧ (len : Int) < (0xF1 : Word).toInt + 16 ∧
       0 ≤ (0xF0 : Word).toInt ∧ (0xF0 : Word).toInt + 16 ≤ len ∧ c.toNat % 2 ^ 57 + (0xF0 : Word).toNat < 2 ^ 57) ∧
    (let c := mkCap 0 1 0x20 0x1FFFFFFFFFFFFF0
     0 ≤ (0x10 : Word).toInt ∧ 2 ^ 57 ≤ c.toNat % 2 ^ 57 + (0x10 : Word).toNat) ∧
    (let c := mkCap 9 1 0x100 0x1000
     c.toNat / 2 ^ 104 ≠ 0 ∧ (poke wMem 0x200001 1 2).revoked (c.toNat / 2 ^ 104) = true ∧
       (poke wMem 0x200001 1 2).tagPoisoned (c.toNat / 2 ^ 104) = false ∧
       ({ wMem with mem := { wMem.mem with poison := [0x200000] } } : State).tagPoisoned (c.toNat / 2 ^ 104) = true) ∧
    2 ^ 57 ≤ (0x200000000000000 : Word).toNat ∧
    (wMem.aperture 0xF000000C0000 = true ∧ 6 ≤ 0xF000000C0000 / 0x20000 % 8) ∧
    (wMem.aperture 0xF00000000004 = true ∧ 0xF00000000004 / 0x20000 % 8 = 0 ∧ 0xF00000000004 % 8 ≠ 0) ∧
    (wMem.aperture 0xF00000060001 = true ∧ 0xF00000060001 / 0x20000 % 8 = 3 ∧ 0xF00000060001 % 2 ≠ 0) ∧
    (wMem.aperture 0x400000 = false ∧ wMem.ahead.translateMy 0x400000 .read = .error (wMem.ahead, .flt 10 0) ∧
      wMem.ahead.translateMy 0x400000 .write = .error (wMem.ahead, .flt 10 1)) ∧
    (let s := { wMem with mem := { wMem.mem with poison := [0x100000] } }
     0x100078 % 128 + 8 ≤ 128 ∧ s.ahead.translateMy 0x100078 .read = .ok (s.ahead, ⟨0, 0x100078⟩) ∧
       s.ahead.translateMy 0x100078 .write = .ok (s.ahead, ⟨0, 0x100078⟩) ∧ s.mem.poisoned true 0x100078 8 = true) :=
  ⟨fun _ => tagFree_of (by decide +kernel), runs_of (by decide +kernel), by decide +kernel⟩

/-- A lease that is over and one that is not. -/
def wLease : State := { wMem with time := 10, pstate := [(0, { PartState.none with leases := [⟨1, 0, 128, 1, 80, []⟩, ⟨2, 0, 128, 1, 81, []⟩] })] }

/-- Leases 1 and 3, of 1 way each, over the range that is asked for; and one of 16 ways. -/
def wLeases : State := { wMem with time := 10, pstate := [(0, { PartState.none with
  leases := [⟨1, 0x100000, 0x100100, 1, 81, []⟩, ⟨3, 0x100000, 0x100100, 1, 81, []⟩] })] }
def wFullWays : State := { wMem with time := 10, pstate := [(0, { PartState.none with leases := [⟨1, 0x100000, 0x100100, 16, 81, []⟩] })] }

/-- The reserved ways of a set of L2 with one more lease of a way. -/
def waysWith (s : State) (k : Nat) : Nat :=
  1 + (s.pstate.map fun x => ((x.2.leases.filter fun l => (setsOf (((s.partEntry x.1).map sliceList).getD []) l.lo l.hi).contains k).map
    (·.ways)).sum).sum

theorem witness_CachesFencesAndLeases_leases :
    (wLeases.runs true false G ∧ HbmReady wLeases.ahead (wLeases.S 3) 1 .read 0x100000 ∧ (wLeases.S 3).toNat % 128 = 0 ∧
      (wLeases.S 4).toNat % 128 = 0 ∧ (wLeases.S 3).toNat % (4096 * 2 ^ ((wLeases.ahead.leafOf (wLeases.S 3).toNat).map pteSize).getD 40) +
        (wLeases.S 4).toNat ≤ 4096 * 2 ^ ((wLeases.ahead.leafOf (wLeases.S 3).toNat).map pteSize).getD 40) ∧
    HbmReady wFullWays.ahead (wFullWays.S 3) 1 .read 0x100000 ∧
    (((wLeases.S 5).setWidth 5 : BitVec 5).toNat = 1 ∧ (wLeases.S 4).toNat ≤ 0x4000000 ∧ (∀ l ∈ (wLeases.pst 0).leases, l.id ≠ 2) ∧
      (∃ l ∈ (wLeases.pst 0).leases, l.id = 1) ∧
      ∀ k ∈ setsOf (((wLeases.partEntry wLeases.partNo).map sliceList).getD []) 0x100000 0x100100, waysWith wLeases k ≤ 16) ∧
    ∃ k ∈ setsOf (((wFullWays.partEntry wFullWays.partNo).map sliceList).getD []) 0x100000 0x100100, 16 < waysWith wFullWays k :=
  ⟨⟨runs_of (by decide +kernel), hbmReady_of (by decide +kernel), by decide +kernel⟩, hbmReady_of (by decide +kernel), by decide +kernel⟩

theorem witness_CachesFencesAndLeases :
    wMem.runs true false G ∧ (HbmReady wMem.ahead (wMem.S 1) 1 .read 0x100078 ∧ (wMem.ahead.leafOf (wMem.S 1).toNat).any pteRdup = false) ∧
    (wMem.dir = [] ∧ HbmReady (unperformed wMem).ahead ((unperformed wMem).S 1) 1 .read 0x100078 ∧
      ((unperformed wMem).ahead.leafOf (wMem.S 1).toNat).any pteRdup = false ∧
      ((unperformed wMem).dirAt 0x100000).any (fun e => !e.awaited.isEmpty) = true) ∧ (busy wMem).queueQuiet 0 0 = false ∧
    (wMem.queueQuiet wMem.hand.core wMem.hand.ctx = true ∧ (3 : BitVec 3) ≠ 0 ∧ (∀ e ∈ wMem.dir, e.awaited = []) ∧ wMem.me.freed = []) ∧
    (HbmReady wMem.ahead (wMem.S 3) 1 .read 0x100000 ∧ (wMem.S 3).toNat % 128 = 0 ∧ (wMem.S 4).toNat % 128 = 0 ∧
      (wMem.S 3).toNat % (4096 * 2 ^ ((wMem.ahead.leafOf (wMem.S 3).toNat).map pteSize).getD 40) + (wMem.S 4).toNat ≤
        4096 * 2 ^ ((wMem.ahead.leafOf (wMem.S 3).toNat).map pteSize).getD 40) ∧
    (wMem.S 0).extractLsb' 32 32 = 0 ∧
    ((wMem.S 5).extractLsb' 32 32 ≠ 0 ∧ (wMem.S 5).setWidth 5 ≠ (0 : BitVec 5) ∧ ((wMem.S 5).setWidth 5 : BitVec 5).toNat ≤ 16 ∧
      (wMem.S 5).extractLsb' 5 27 = 0 ∧ (wMem.S 4).toNat ≠ 0 ∧ ∀ e ∈ wMem.pstate, e.2.leases = []) ∧
    (∃ l ∈ (wLease.pst wLease.partNo).leases, l.id = 1 ∧ l.expiry ≤ wLease.time.toNat * 8) ∧
    (∀ l ∈ (wLease.pst wLease.partNo).leases, l.id = 2 → wLease.time.toNat * 8 < l.expiry) :=
  ⟨runs_of (by decide +kernel), ⟨hbmReady_of (by decide +kernel), by decide +kernel⟩,
    ⟨by decide +kernel, hbmReady_of (by decide +kernel), by decide +kernel⟩, by decide +kernel, by decide +kernel,
    ⟨hbmReady_of (by decide +kernel), by decide +kernel⟩, by decide +kernel⟩

/-- R189: a free id, and an end 10 units after TIME; 0 where the ways of a set are taken. -/
theorem test_lease : let t := after (exec (.lease G 9 3 4 5) wMem)
    t.S 9 = 1 ∧ (t.pst 0).leases = [⟨1, 0x100000, 0x100100, 1, 50, []⟩] ∧ (after (exec (.lease G 9 3 4 0) wMem)).S 9 = 0 ∧
    (after (exec (.lease G 9 3 4 5) wLeases)).S 9 = 2 ∧ (after (exec (.lease G 9 3 4 5) wFullWays)).S 9 = 0 := by decide +kernel

/-- Class 4 holds a free block; a1 is a capability with tag 5, a2 the same with its tag revoked. -/
def wHeap : State := ((((regs [(1, 0x100000), (2, 0x100001), (3, 200)]).setA 1 (mkCap 5 0x3F 0x100 0x1000)).setA 2 (mkCap 9 0x3F 0x100 0x1000)).setA 3
  (mkCap 0 0x3F 0x100 0x1000)).setPst 0 { PartState.none with slabs := [(4, [0x300000, 0x300100])], nextTag := 0xFFFFFF }

theorem witness_AllocAndFree :
    let s := poke wHeap 0x200001 1 2
    s.runs true false G ∧ (s.S 0).toNat = 0 ∧ 0x100000 < (s.S 2).toNat ∧
    ((s.S 3).toNat ≠ 0 ∧ (s.S 3).toNat ≤ 16 * 2 ^ 4 ∧ 16 * 2 ^ (4 - 1) < (s.S 3).toNat ∧
      smapGet? (s.pst s.partNo).slabs 4 = some (0x300000 :: [0x300100]) ∧ (0x300000 < 2 ^ 57) ∧ (s.pst s.partNo).nextTag = 0xFFFFFF ∧
      0 < 0xFFFFFF ∧ 0xFFFFFF < 2 ^ 24 ∧ s.revokedHome 0xFFFFFF = false ∧ s.bitPoisoned 0xFFFFFF = false ∧
      (∀ i < 256, s.ahead.translate .distributor s.partNo (0x300000 + i) .read = .ok (s.ahead, ⟨0, 0x300000 + i⟩)) ∧
      s.mem.poisoned false 0x300000 256 = false ∧ LinesFree s 0x300000 256) ∧
    s.A 4 = 0 ∧ (s.A 3 ≠ 0 ∧ (s.A 3).toNat / 2 ^ 104 = 0) ∧
    (s.A 2 ≠ 0 ∧ (s.A 2).getLsbD 103 = false ∧ (s.A 2).getLsbD 98 = true ∧ (s.A 2).toNat / 2 ^ 104 = 9 ∧
      s.partEntry s.partNo = some probePartition ∧ probePartition.bitmap = 0x200000 ∧ (bytesGet s.mem.bytes 0x200001).getLsbD 1 = true ∧
      s.mem.poisoned false 0x200000 1 = false ∧ s.heldAt 0x200000 = none ∧ LinesFree s 0x200000 1) ∧
    (s.A 1 ≠ 0 ∧ (s.A 1).toNat / 2 ^ 104 = 5 ∧ (bytesGet s.mem.bytes 0x200000).getLsbD 5 = false) ∧
    (let u : State := { s with dir := [{ DirEntry.empty 0x200000 with sharers := [.revoke 0] }] }
     u.runs true false G ∧ u.heldAt 0x200000 = none ∧ ∃ x, u.dirAt 0x200000 = some x ∧ ∃ y ∈ x.others none, slow y = true) :=
  ⟨runs_of (by decide +kernel), by decide +kernel, by decide +kernel,
    ⟨by decide +kernel, by decide +kernel, by decide +kernel, by decide +kernel, by decide +kernel, by decide +kernel, by decide +kernel,
      by decide +kernel, by decide +kernel, by decide +kernel, by decide +kernel, by decide +kernel, linesFree_of (by decide +kernel)⟩,
    by decide +kernel, by decide +kernel,
    ⟨by decide +kernel, by decide +kernel, by decide +kernel, by decide +kernel, by decide +kernel, by decide +kernel, by decide +kernel,
      by decide +kernel, by decide +kernel, linesFree_of (by decide +kernel)⟩, by decide +kernel,
    runs_of (by decide +kernel), by decide +kernel, ⟨_, rfl, .revoke 0, by decide +kernel, rfl⟩⟩

/-- R191, R192: a block of the class that holds 200 bytes; the revocation bit of tag 5. -/
theorem test_alloc_free : capBase ((after (exec (.alloc G 6 3) wHeap)).A 6) = 0x300000 ∧ capLen ((after (exec (.alloc G 6 3) wHeap)).A 6) = 200 ∧
    bytesGet (after (exec (.free G 1) wHeap)).mem.bytes 0x200000 = 0x20 := by decide +kernel

/-! ### Strands and engine commands -/

/-- A descriptor at 0x400, one with a reserved bit at 0x500; h1 at its last element, h2 at the end, h3 a ring, h4 in device memory. -/
def wStr : State := ((((local0 (regs [(1, 0x400), (2, 0x500), (3, 0x1FFF0)]) [(0x400, 0x1000), (0x408, 0x400000000), (0x410, 0x400000021),
  (0x510, 0x100)]).setH 1 (some ⟨0x100, 3, 4, 4, 6, true, false, []⟩)).setH 2 (some ⟨0x100, 4, 4, 4, 6, true, false, []⟩)).setH 3
  (some ⟨0, 0, 1, 0, 2, false, true, [0x40000002]⟩)).setH 4 (some ⟨0x100000, 0, 4, 8, 3, false, false, []⟩)

theorem witness_StrandsAndTheirElements :
    wStr.runs false false G ∧ RawReady wStr false (wStr.S 1) 32 8 ∧ RawReady wStr false (wStr.S 2) 32 8 ∧
    (let w (a i : Nat) : Word := wStr.dword (a + 8 * i)
     let invalid (a : Nat) : Prop := (w a 2).extractLsb' 8 24 ≠ 0 ∨ (w a 2).extractLsb' 1 3 ≠ 0 ∨ w a 3 ≠ 0 ∨ 7 ≤ ((w a 2).extractLsb' 4 4).toNat
     ¬invalid 0x400 ∧ invalid 0x500) ∧
    wStr.H 1 = some ⟨0x100, 3, 4, 4, 6, true, false, []⟩ ∧ wStr.H 5 = none ∧ (6 : BitVec 4).toNat < 7 ∧
    (4 : W32).toNat ≤ (4 : W32).toNat ∧ (3 : W32).toNat < (4 : W32).toNat ∧
    RawReady wStr false ((0x100 : Word) + BitVec.ofNat 64 3 * (4 : W32).signExtend 64) 4 4 ∧
    HbmReady wStr.ahead ((0x100000 : Word) + BitVec.ofNat 64 0 * (8 : W32).signExtend 64) 8 .read 0x100000 :=
  ⟨runs_of (by decide +kernel), rawReady_of (by decide +kernel) (by decide +kernel), rawReady_of (by decide +kernel) (by decide +kernel),
    by decide +kernel, by decide +kernel, by decide +kernel, by decide, by decide, by decide, rawReady_of (by decide +kernel) (by decide +kernel),
    hbmReady_of (by decide +kernel)⟩

/-- R195, R196: the fields of the descriptor, and a 32-bit signed element. -/
theorem test_sopen_sget : (after (exec (.sopen G 6 1) wStr)).H 6 = some ⟨0x1000, 0, 4, 4, 2, true, false, []⟩ ∧
    (after (exec (.sget G 9 1) (local0 wStr [(0x108, 0xFFFFFFFE00000000)]))).S 9 = 0xFFFFFFFFFFFFFFFE ∧
    (after (exec (.sget G 9 2) wStr)).S 9 = 0 ∧ (after (exec (.stest G 1 1) wStr)).P 1 = false := by decide +kernel

/-- Descriptors of a `send` at 0x400, a `fetch` at 0x420 (both of 16 bytes, records at 0x800), and of a gather or scatter of two elements at
0x440; queue entries of core 0 and of its tile. -/
def wEng (own shared : Nat) : State :=
  let s := local0 (regs [(1, 0x400), (2, 0x420), (3, 0x440), (4, 0x1FFF0)]) [
    (0x400, 0x1FFF0), (0x408, 0x100000), (0x410, 16 * 2 ^ 39 + 7 * 2 ^ 20 + 0x800), (0x418, 2 ^ 61),
    (0x420, 0x100000), (0x428, 0x1FFF0), (0x430, 16 * 2 ^ 39 + 7 * 2 ^ 20 + 0x800), (0x438, 2 ^ 62),
    (0x440, (mkCap 0 0x3F 0x100 0x100000).toNat % 2 ^ 64), (0x448, (mkCap 0 0x3F 0x100 0x100000).toNat / 2 ^ 64), (0x470, 99),
    (0x478, 1 * 2 ^ 56 + 1 * 2 ^ 54 + 0x500 * 2 ^ 20 + 0x600), (0x480, 7 * 2 ^ 20 + 0x800), (0x488, 0), (0x500, 0x4000000001)]
  { s with cmds := (List.range own).map (fun i => { Cmd.blank .send with id := i }) ++
      (List.range shared).map fun i => { Cmd.blank .send with id := 10 + i, core := 1, shared := true } }

theorem witness_EngineCommandsAreAcceptedOrRefused : QueueFree (wEng 1 16) ∧ QueueFree (wEng 2 15) ∧ ¬QueueFree (wEng 2 16) := by
  unfold QueueFree; decide +kernel

/-- A copy's descriptor at 0x400: source, destination, bytes, slot, and the last doubleword. -/
def wCopy (src dst bytes slot w3 : Nat) : State :=
  local0 (regs [(1, 0x400), (2, 0x408)]) [(0x400, src), (0x408, dst), (0x410, bytes * 2 ^ 39 + 7 * 2 ^ 20 + slot), (0x418, w3)]

/-- What the statement asks of the descriptor of a `send` or a `fetch`, check by check. -/
abbrev dRaw (va : Word) : Prop := inAperture va.toNat = true → va.toNat / 0x20000 % 8 = 0
abbrev dw (s : State) (i : Nat) : Word := s.dword (0x400 + 8 * i)
abbrev dSrcl (s : State) : Bool := (dw s 3).getLsbD 61
abbrev dDstl (s : State) : Bool := (dw s 3).getLsbD 62
abbrev dBytes (s : State) : Nat := ((dw s 2).extractLsb' 39 25).toNat
abbrev dSlot (s : State) : Word := ((dw s 2).extractLsb' 0 20).setWidth 64
abbrev dLegal (s : State) (fetch : Bool) : Prop :=
  (dw s 2).extractLsb' 36 3 = 0 ∧ (dw s 3).extractLsb' 57 4 = 0 ∧ dBytes s ≤ 0x1000000 ∧ (if fetch then dSrcl s else dDstl s) = false
abbrev dRanges (s : State) : Prop :=
  (dSrcl s = true → RangeOk s (dw s 0) (dBytes s) 4) ∧ (dDstl s = true → RangeOk s (dw s 1) (dBytes s) 4) ∧ RangeOk s (dSlot s) 16 16
abbrev dWindows (s : State) : Prop := (dSrcl s = false → dRaw (dw s 0)) ∧ (dDstl s = false → dRaw (dw s 1)) ∧
  ((dw s 3).getLsbD 63 = true → dRaw (((dw s 3).extractLsb' 0 57).setWidth 64))
abbrev dAllowed (s : State) (fetch : Bool) : Prop := (dSrcl s = false → inAperture (dw s 0).toNat = false) ∧
  (fetch = true → dDstl s = false → dw s 1 = 0 ∧ (dw s 0).toNat % 128 = 0 ∧ dBytes s % 128 = 0)
abbrev dReady (s : State) (fetch : Bool) : Prop :=
  (s.issuable false false && s.guard G) = true ∧ RawReady s false 0x400 32 16 ∧ dLegal s fetch ∧ dRanges s ∧ dWindows s ∧ dAllowed s fetch

/-- Each check of `send` and `fetch` with a descriptor that fails it and passes those before it. -/
theorem witness_EngineCommandsAreAcceptedOrRefused_copies :
    (RangeBad (wCopy 0 0 16 0x800 0) ((wCopy 0 0 16 0x800 0).S 2) 32 16 3) ∧
    (let s := wCopy 0x1FFF0 0x100000 16 0x800 (2 ^ 61 + 2 ^ 57)
     RawReady s false 0x400 32 16 ∧ ¬dLegal s false) ∧
    (let s := wCopy 0x1FFF0 0x100000 20 0x800 (2 ^ 61)
     dLegal s false ∧ dSrcl s = true ∧ RangeBad s (dw s 0) (dBytes s) 4 5) ∧
    (let s := wCopy 0x100000 0x20000 16 0x800 (2 ^ 62)
     dLegal s true ∧ dSrcl s = false ∧ dDstl s = true ∧ RangeBad s (dw s 1) (dBytes s) 4 4) ∧
    (let s := wCopy 0x1FFF0 0x100000 16 0x808 (2 ^ 61)
     dLegal s false ∧ RangeOk s (dw s 0) (dBytes s) 4 ∧ dDstl s = false ∧ RangeBad s (dSlot s) 16 16 3) ∧
    (let s := wCopy 0xF00000020000 0x1FFF0 16 0x800 (2 ^ 62)
     dLegal s true ∧ dRanges s ∧ dSrcl s = false ∧ ¬dRaw (dw s 0)) ∧
    (let s := wCopy 0x1FFF0 0xF00000020000 16 0x800 (2 ^ 61)
     dLegal s false ∧ dRanges s ∧ dDstl s = false ∧ ¬dRaw (dw s 1)) ∧
    (let s := wCopy 0x1FFF0 0x100000 16 0x800 (2 ^ 63 + 2 ^ 61 + 0xF00000020000)
     dLegal s false ∧ dRanges s ∧ dRaw (dw s 1) ∧ (dw s 3).getLsbD 63 = true ∧ ¬dRaw (((dw s 3).extractLsb' 0 57).setWidth 64)) ∧
    (let s := wCopy 0xF00000000000 0x100000 16 0x800 0
     dLegal s false ∧ dRanges s ∧ dWindows s ∧ ¬dAllowed s false) ∧
    (let s := wCopy 0x100000 0x80 128 0x800 0
     dLegal s true ∧ dRanges s ∧ dWindows s ∧ ¬dAllowed s true) := by
  simp only [dRanges, rangeOk_iff, rawReady_iff, rangeBad_iff]
  refine ⟨?_, ?_, ?_, ?_, ?_, ?_, ?_, ?_, ?_, ?_⟩ <;> decide +kernel

/-- The four forms that are accepted, and what their alignment checks turn away. -/
theorem witness_EngineCommandsAreAcceptedOrRefused_accepted :
    (let s := wCopy 0x1FFF0 0x100000 16 0x800 (2 ^ 61)
     dReady s false ∧ (dw s 1).toNat % 4 = 0 ∧ s.localBlocked false 0 0x1FFF0 16 = false) ∧
    (let s := wCopy 0x100000 0x100100 16 0x800 0
     dReady s false ∧ (dw s 0).toNat % 4 = 0 ∧ (dw s 1).toNat % 4 = 0 ∧ dBytes s % 4 = 0) ∧
    (let s := wCopy 0x100000 0x1FFF0 16 0x800 (2 ^ 62)
     dReady s true ∧ (dw s 0).toNat % 4 = 0) ∧
    (let s := wCopy 0x100000 0 128 0x800 0
     dReady s true ∧ (dw s 0).toNat % 4 = 0 ∧ dBytes s % 4 = 0) ∧
    (let s := wCopy 0x100002 0x100100 16 0x800 0
     dReady s false ∧ dSrcl s = false ∧ (dw s 0).toNat % 4 ≠ 0) ∧
    (let s := wCopy 0x1FFF0 0x100002 16 0x800 (2 ^ 61)
     dReady s false ∧ dDstl s = false ∧ (dw s 1).toNat % 4 ≠ 0) ∧
    (let s := wCopy 0x100000 0x100100 15 0x800 0
     dReady s false ∧ (dw s 0).toNat % 4 = 0 ∧ (dw s 1).toNat % 4 = 0 ∧ dSrcl s = false ∧ dDstl s = false ∧ dBytes s % 4 ≠ 0) := by
  simp only [dReady, dRanges, rangeOk_iff, rawReady_iff]
  refine ⟨?_, ?_, ?_, ?_, ?_, ?_, ?_⟩ <;> decide +kernel

/-- A gather's or scatter's descriptor at 0x400: its capabilities, and its last three doublewords. -/
def wList (caps : List CapBits) (w7 w8 w9 : Nat) : State :=
  local0 (regs [(1, 0x400), (2, 0x408)]) ((List.range caps.length).flatMap (fun j =>
      [(0x400 + 16 * j, (caps.getD j 0).toNat % 2 ^ 64), (0x408 + 16 * j, (caps.getD j 0).toNat / 2 ^ 64)]) ++
    [(0x430, 99), (0x438, w7), (0x440, w8), (0x448, w9), (0x500, 0x4000000001)])

/-- Doubleword 7 of a descriptor of two elements at a depth, with the lists at these places. -/
def dList (depth idx data : Nat) : Nat := 1 * 2 ^ 56 + depth * 2 ^ 54 + idx * 2 ^ 20 + data

/-- What the statement asks of it, check by check. -/
abbrev gDepth (s : State) : Nat := ((dw s 7).extractLsb' 54 2).toNat
abbrev gCap (s : State) (j : Nat) : CapBits := dw s (2 * j + 1) ++ dw s (2 * j)
abbrev gLegal (s : State) : Prop :=
  gDepth s ≠ 0 ∧ (dw s 7).extractLsb' 40 13 = 0 ∧ (dw s 8).extractLsb' 36 28 = 0 ∧ (dw s 9).extractLsb' 57 6 = 0
abbrev gIdx (s : State) : Word := ((dw s 7).extractLsb' 20 20).setWidth 64
abbrev gData (s : State) : Word := ((dw s 7).extractLsb' 0 20).setWidth 64
abbrev gSlot (s : State) : Word := ((dw s 8).extractLsb' 0 20).setWidth 64
abbrev gRanges (s : State) : Prop := RangeOk s (gIdx s) 8 4 ∧ RangeOk s (gData s) 8 4 ∧ RangeOk s (gSlot s) 16 16
abbrev gPermits (s : State) (scat : Bool) (j : Nat) : Prop :=
  (gCap s j).getLsbD 103 = false ∧ (gCap s j).getLsbD 100 = true ∧ (gCap s j).getLsbD (if j + 1 = gDepth s ∧ scat = true then 98 else 97) = true
abbrev gRevoked (s : State) (j : Nat) : Prop := capTag (gCap s j) ≠ 0 ∧ s.revoked (capTag (gCap s j)) = true
abbrev gSound (s : State) (scat : Bool) (j : Nat) : Prop := gPermits s scat j ∧ s.tagPoisoned (capTag (gCap s j)) = false ∧ ¬gRevoked s j
abbrev gBased (s : State) (j : Nat) : Prop := capBase (gCap s j) % 4 = 0
abbrev gBase (s : State) (j : Nat) : Word := BitVec.ofNat 64 (capBase (gCap s j))
abbrev gFirst (s : State) : Prop := (s.issuable false false && s.guard G) = true ∧ RawReady s false 0x400 80 16 ∧ gLegal s ∧
  ((dw s 7).extractLsb' 56 8).toNat = 1 ∧ (dw s 7).getLsbD 53 = false
abbrev gChecked (s : State) : Prop := gFirst s ∧ gRanges s ∧ s.dir.length < 0x8000

/-- Each check of `gath` and `scat` with a descriptor that fails it and passes those before it; the second level's capability is the one at
fault. -/
theorem witness_EngineCommandsAreAcceptedOrRefused_lists :
    (∀ tag, TagFree (wList [] 0 0 0) tag) ∧
    let c := mkCap 0 0x3F 0x100 0x100000
    let w8 := 7 * 2 ^ 20 + 0x800
    RangeBad (wList [c] (dList 1 0x500 0x600) w8 0) ((wList [c] (dList 1 0x500 0x600) w8 0).S 2) 80 16 3 ∧
    ¬gLegal (wList [c] (dList 0 0x500 0x600) w8 0) ∧
    (let s := wList [c] (dList 1 0x20000 0x600) w8 0
     gFirst s ∧ RangeBad s (gIdx s) 8 4 4) ∧
    (let s := wList [c] (dList 1 0x500 0x602) w8 0
     gFirst s ∧ RangeOk s (gIdx s) 8 4 ∧ RangeBad s (gData s) 8 4 3) ∧
    (let s := wList [c] (dList 1 0x500 0x600) (7 * 2 ^ 20 + 0x808) 0
     gFirst s ∧ RangeOk s (gIdx s) 8 4 ∧ RangeOk s (gData s) 8 4 ∧ RangeBad s (gSlot s) 16 16 3) ∧
    (let s := wList [c, 0] (dList 2 0x500 0x600) w8 0
     gChecked s ∧ gDepth s = 2 ∧ gSound s false 0 ∧ gCap s 1 = 0) ∧
    (let s := wList [c, mkCap 0 0x10 0x100 0x100000] (dList 2 0x500 0x600) w8 0
     gChecked s ∧ gSound s true 0 ∧ gCap s 1 ≠ 0 ∧ ¬gPermits s true 1) ∧
    (let s := wList [c, mkCap 9 0x3F 0x100 0x100000] (dList 2 0x500 0x600) w8 0
     let s := { s with mem := { s.mem with poison := [0x200000] } }
     gChecked s ∧ gSound s true 0 ∧ gPermits s true 1 ∧ s.tagPoisoned (capTag (gCap s 1)) = true) ∧
    (let s := poke (wList [c, mkCap 9 0x3F 0x100 0x100000] (dList 2 0x500 0x600) w8 0) 0x200001 1 2
     gChecked s ∧ gSound s false 0 ∧ gPermits s false 1 ∧ s.tagPoisoned (capTag (gCap s 1)) = false ∧ gRevoked s 1) ∧
    (let s := wList [c, mkCap 0 0x3F 0x100 0x100002] (dList 2 0x500 0x600) w8 0
     gChecked s ∧ gSound s true 0 ∧ gSound s true 1 ∧ gBased s 0 ∧ ¬gBased s 1) ∧
    (let s := wList [c, mkCap 0 0x3F 0x100 0xF00000020000] (dList 2 0x500 0x600) w8 0
     gChecked s ∧ gSound s true 0 ∧ gSound s true 1 ∧ gBased s 0 ∧ gBased s 1 ∧ dRaw (gBase s 0) ∧ ¬dRaw (gBase s 1)) ∧
    (let s := wList [c] (dList 1 0x500 0x600) w8 (2 ^ 63 + 0xF00000020000)
     gChecked s ∧ gSound s true 0 ∧ gBased s 0 ∧ dRaw (gBase s 0) ∧ (dw s 9).getLsbD 63 = true ∧
       ¬dRaw (((dw s 9).extractLsb' 0 57).setWidth 64)) ∧
    (let s := wList [c, c, mkCap 5 0x3F 0x100 0x100000] (dList 3 0x500 0x600) w8 0
     gChecked s ∧ gDepth s = 3 ∧ (∀ j < 3, gSound s true j ∧ gSound s false j ∧ gBased s j ∧ dRaw (gBase s j)) ∧ (dw s 9).getLsbD 63 = false ∧
       RawReady s false (gIdx s) 8 4 ∧ RawReady s false (gData s) 8 4) := by
  refine ⟨fun _ => tagFree_of (by decide +kernel), ?_⟩
  simp only [gChecked, gFirst, gRanges, rangeOk_iff, rawReady_iff, rangeBad_iff]
  refine ⟨?_, ?_, ?_, ?_, ?_, ?_, ?_, ?_, ?_, ?_, ?_, ?_, ?_⟩ <;> decide +kernel

/-- R197 to R200: the command holds the descriptor's fields and the indices as they are at issue. -/
theorem test_send_gath : let c := ((after (exec (.send G 1 1) (wEng 0 0))).cmds.headD (Cmd.blank .gath))
    (c.src, c.dst, c.bytes, c.tag, c.cslot, c.srcl, c.dstl) = (0x1FFF0, 0x100000, 16, 7, 0x800, true, false) ∧
    (after (exec (.send G 1 1) (wEng 0 0))).P 1 = true ∧ (after (exec (.send G 1 1) (wEng 2 16))).P 1 = false ∧
    ((after (exec (.gath G 1 3) (wEng 0 0))).cmds.headD (Cmd.blank .send)).idx = [1, 0x40] := by decide +kernel

/-- One command in the queue of tile 0. -/
def wCmd (c : Cmd) : State := { local0 w0 [(0x1FFF0, 0x1111), (0x1FFF8, 0x2222)] with cmds := [c] }
def cSend : Cmd := { Cmd.blank .send with id := 5, unit := w0.me.unit, src := 0x1FFF0, dst := 0x100078, srcl := true, bytes := 16, tag := 7, cslot := 0x800, st := .active }
def cGath : Cmd := { Cmd.blank .gath with id := 5, unit := w0.me.unit, caps := [mkCap 0 0x3F 0x100 0x100000], fill := 99, idx := [0x3F, 0x40], data := 0x600, st := .active }
def cStall (asked : Option Nat) : Cmd := { cSend with st := .stalled 10 0x100000 1 true false asked }

/-- A header of the request ring of 16 entries at 0x6000, and replies 1, 2 and 0 in entries. -/
def wRing (c : Cmd) (tail : Nat) : State := pokes (wCmd c) [(0x6000, tail), (0x6008, 4), (0x6010, 0x8000), (0x8018, 1), (0x8058, 2)]

theorem witness_EngineTurnsStallsAndRecords :
    (let c := { cSend with st := .waiting }
     (wCmd c).cmd c.id = some c ∧ c.unit.isSome = true ∧ (wCmd c).savedImage c.unit = none ∧ c.core < 4608 ∧ c.part = ((wCmd c).at c.core c.ctx).partNo ∧
       ((wCmd c).pst c.part).quiesced = false ∧ (wCmd c).coreInCable c.core = false ∧ c.st = .waiting ∧
       ∀ x ∈ (wCmd c).cmds, x.core / 8 = c.core / 8 → x = c) ∧
    ((wCmd cSend).cmd 5 = some cSend ∧ cSend.st = .active ∧ cSend.kind = .send ∧ cSend.srcl = true ∧ cSend.dstl = false ∧ cSend.endCode = none ∧
      cSend.bare = false ∧ cSend.dst.toNat + cSend.next < 2 ^ 57 ∧ cSend.next < cSend.bytes ∧ min (cSend.bytes - cSend.next) (128 - (cSend.dst.toNat + cSend.next) % 128) = 8 ∧
      (wCmd cSend).spPoison false 0 0x1FFF0 8 = false ∧ HbmReady ((wCmd cSend).at 0 0) 0x100078 8 .write 0x100078) ∧
    (∀ pa n, LinesFree (wCmd cSend) pa n ∧ LinesFree (wCmd cGath) pa n ∧ LinesFree (wCmd { cSend with st := .finishing }) pa n ∧
      LinesFree (wRing (cStall none) 15) pa n ∧ LinesFree (wRing (cStall none) 16) pa n) ∧
    ((wCmd cGath).cmd 5 = some cGath ∧ cGath.st = .active ∧ cGath.caps = [mkCap 0 0x3F 0x100 0x100000] ∧ cGath.endCode = none ∧
      cGath.kind = .gath ∧ cGath.srcl = false ∧ cGath.dstl = false ∧ cGath.bad = [] ∧ cGath.esz = false ∧ cGath.bare = false ∧
      cGath.next < cGath.idx.length ∧ cGath.data % 4 = 0 ∧ (cGath.idx.getD 0 0).toNat * 4 + 4 ≤ capLen (mkCap 0 0x3F 0x100 0x100000) ∧
      HbmReady ((wCmd cGath).at 0 0) 0x1000FC 4 .read 0x1000FC) ∧
    (let c := { cGath with next := 1 }
     c.next < c.idx.length ∧ capLen (mkCap 0 0x3F 0x100 0x100000) < (c.idx.getD 1 0).toNat * 4 + 4) ∧
    (let c := { cSend with st := .finishing }
     (wCmd c).cmd c.id = some c ∧ c.st = .finishing ∧ c.cslot % 16 = 0 ∧ ∀ e ∈ (wCmd c).dir, e.awaited = [] ∨ c.core ∉ e.writers) ∧
    ((wRing (cStall (some 0x8000)) 2).pst (cStall none).part).quiesced = false ∧
    ((wRing (cStall (some 0x8000)) 2).cmd 5 = some (cStall (some 0x8000)) ∧ bytesRead (wRing (cStall (some 0x8000)) 2).mem.bytes (0x8000 + 24) 8 % 4 = 1 ∧
      (wRing (cStall (some 0x8000)) 2).mem.poisoned false 0x8000 64 = false ∧ (wRing (cStall (some 0x8000)) 2).heldAt 0x8000 = none ∧
      bytesRead (wRing (cStall (some 0x8040)) 2).mem.bytes (0x8040 + 24) 8 % 4 = 2 ∧ (cStall (some 0x8040)).kind.gs = false ∧
      bytesRead (wRing (cStall (some 0x8080)) 2).mem.bytes (0x8080 + 24) 8 % 4 = 0) := by
  refine ⟨by decide +kernel, ?_, fun _ _ => ⟨linesFree_of (by decide +kernel), linesFree_of (by decide +kernel), linesFree_of (by decide +kernel),
    linesFree_of (by decide +kernel), linesFree_of (by decide +kernel)⟩, ?_, by decide +kernel, by decide +kernel, by decide +kernel, by decide +kernel⟩
  · iterate 11 refine And.intro (by decide +kernel) ?_
    exact hbmReady_of (by decide +kernel)
  · iterate 13 refine And.intro (by decide +kernel) ?_
    exact hbmReady_of (by decide +kernel)

/-- A ring that is full, and one with room; a command that was refused at this HEAD, and those that were not. -/
theorem witness_EngineTurnsStallsAndRecords_ring :
    ((wRing (cStall none) 16).ringHeader probePartition = some (0, 16, 4, 0x8000, 0) ∧ (16 + 2 ^ 32 - 0) % 2 ^ 32 = 2 ^ 4) ∧
    ((wRing (cStall none) 15).ringHeader probePartition = some (0, 15, 4, 0x8000, 0) ∧ (15 + 2 ^ 32 - 0) % 2 ^ 32 ≠ 2 ^ 4) ∧
    ((wRing (cStall none) 15).cmds = [cStall none] ∧ (cStall none).part = 0 ∧ (cStall none).core < 4608 ∧ (wRing (cStall none) 15).coreInCable 0 = false ∧ (cStall none).bare = false ∧
      (wRing (cStall none) 15).partEntry 0 = some probePartition ∧ probePartition.ringHdr = 0x6000 ∧ 0x6000 + 64 ≤ hbmSize ∧
      (wRing (cStall none) 15).mem.poisoned true (0x8000 + 64 * (15 % 2 ^ 4)) 64 = false ∧
      (wRing (cStall none) 16).mem.poisoned true (0x8000 + 64 * (16 % 2 ^ 4)) 64 = false ∧ (cStall none).head ≠ some 0 ∧
      ({ cStall none with head := some 0 } : Cmd).head = some 0) := by decide +kernel

/-- R206: the words of a copy's record, all full. -/
theorem test_completion_record : let t := after (exec (.completionRecord 5) (wCmd { cSend with st := .finishing, next := 16 }))
    (t.spRead 0 0x800 4, t.spRead 0 0x804 4, t.spRead 0 0x808 4, t.spRead 0 0x80C 4, t.mem.full.length, t.cmds.length) =
      (1, 16, 0xFFFFFFFF, 7, 4, 0) := by decide +kernel

/-! ### Barriers, supersteps, the cable fabric, subscriptions -/

/-- A barrier object of count 1 at 0x100000 (s1), of count 2 in phase 3 at 0x100020 (s2), a broken one at 0x100040 (s3), one with a reserved field
at 0x100060 (s4); an object that is done at 0x100080 (s5), one that is not, of one slot, at 0x1000C0 (s6). -/
def wBar : State := pokes (regs [(1, 0x100000), (2, 0x100020), (3, 0x100040), (4, 0x100060), (5, 0x100080), (6, 0x1000C0), (7, 1), (8, 3), (9, 0x10000),
    (10, 0xFFFFFF)])
  [(0x100000, 1), (0x100020, 2), (0x100028, 3 * 2 ^ 32), (0x100040, 2), (0x100048, 3 * 2 ^ 32 + 2 ^ 25), (0x100060, 2 ^ 56 + 1), (0x100080, 1), (0x100090, 42),
   (0x1000C0, 1 * 2 ^ 32)]

theorem witness_BarrierObjects :
    wBar.runs true false G ∧ (wBar.S 0).toNat = 0 ∧ 65535 < (wBar.S 9).toNat ∧
    ((wBar.S 1).toNat % 32 = 0 ∧ HbmReady wBar.ahead (wBar.S 1) 32 .write 0x100000 ∧ HbmReady wBar.ahead (wBar.S 1) 32 .update 0x100000 ∧ 0 < (wBar.S 7).toNat ∧ (wBar.S 7).toNat ≤ 65535) ∧
    (wBar.updatesDone wBar.hand.core = true ∧ wBar.storesPerformed = true ∧ wBar.queueQuiet wBar.hand.core wBar.hand.ctx = true) ∧
    (let f (pa : Nat) : Prop := bytesRead wBar.mem.bytes pa 8 / 2 ^ 56 = 0 ∧ bytesRead wBar.mem.bytes (pa + 8) 8 / 2 ^ 26 % 2 ^ 6 = 0 ∧
       bytesRead wBar.mem.bytes (pa + 16) 16 = 0
     f 0x100000 ∧ f 0x100020 ∧ f 0x100040 ∧ ¬f 0x100060) ∧
    HbmReady wBar.ahead (wBar.S 4) 32 .update 0x100060 :=
  ⟨runs_of (by decide +kernel), by decide +kernel, by decide +kernel, ⟨by decide +kernel, hbmReady_of (by decide +kernel),
    hbmReady_of (by decide +kernel), by decide +kernel⟩,
    by decide +kernel, by decide +kernel, hbmReady_of (by decide +kernel)⟩

/-- R211: the arrival that completes the phase starts the next; one that does not only counts; `bexp` counts in both fields. -/
theorem test_barv_bexp : let t := after (exec (.barv G 11 1) wBar)
    (t.S 11, bytesRead t.mem.bytes 0x100000 8, bytesRead t.mem.bytes 0x100008 8) = (0, 1, 2 ^ 32) ∧
    (let t := after (exec (.barv G 11 2) wBar)
     (t.S 11, bytesRead t.mem.bytes 0x100020 8, bytesRead t.mem.bytes 0x100028 8) = (3, 0x10002, 3 * 2 ^ 32)) ∧
    (let t := after (exec (.bexp G 2 10) wBar)
     (bytesRead t.mem.bytes 0x100020 8, bytesRead t.mem.bytes 0x100028 8) = (0xFFFFFF * 2 ^ 32 + 2, 3 * 2 ^ 32 + 0xFFFFFF)) := by decide +kernel

/-- An object of two slots at 0x1000C0 (s6): slot 1 filled, with FILLED `n`. -/
def wRsw (n : Nat) : State := pokes wBar [(0x1000C8, n), (0x100108, 5), (0x100110, 2)]

/-- A phase that is over, a broken object, and neither; done and not done; past the last slot, into a filled slot, into an empty one that is
not the last and that is. -/
theorem witness_WaitsAndRefusedContributions :
    wBar.runs true false G ∧ ((wBar.S 2).toNat % 32 = 0 ∧ HbmReady wBar.ahead (wBar.S 2) 32 .update 0x100020 ∧
      bytesRead wBar.mem.bytes 0x100020 8 / 2 ^ 56 = 0 ∧ bytesRead wBar.mem.bytes 0x100028 8 / 2 ^ 26 % 2 ^ 6 = 0 ∧
      bytesRead wBar.mem.bytes 0x100030 16 = 0 ∧
      bytesRead wBar.mem.bytes 0x100028 8 / 2 ^ 32 ≠ ((wBar.S 7).setWidth 32 : W32).toNat ∧
      bytesRead wBar.mem.bytes 0x100028 8 / 2 ^ 32 = ((wBar.S 8).setWidth 32 : W32).toNat ∧ bytesRead wBar.mem.bytes 0x100028 8 / 2 ^ 25 % 2 = 0) ∧
    bytesRead wBar.mem.bytes 0x100048 8 / 2 ^ 25 % 2 = 1 ∧
    ((wBar.S 5).toNat % 64 = 0 ∧ HbmReady wBar.ahead (wBar.S 5) 64 .read 0x100080 ∧ bytesRead wBar.mem.bytes 0x100080 8 % 2 = 1) ∧
    ((wBar.S 6).toNat % 64 = 0 ∧ HbmReady wBar.ahead (wBar.S 6) 64 .read 0x1000C0 ∧ bytesRead wBar.mem.bytes 0x1000C0 8 % 2 = 0) ∧
    (HbmReady wBar.ahead (wBar.S 5) 64 .update 0x100080 ∧ HbmReady wBar.ahead (wBar.S 6) 64 .update 0x1000C0 ∧
      bytesRead wBar.mem.bytes 0x1000C0 8 / 2 ^ 32 % 2 ^ 16 < (wBar.S 8).toNat) :=
  ⟨runs_of (by decide +kernel), ⟨by decide +kernel, hbmReady_of (by decide +kernel), by decide +kernel⟩, by decide +kernel,
    ⟨by decide +kernel, hbmReady_of (by decide +kernel), by decide +kernel⟩, ⟨by decide +kernel, hbmReady_of (by decide +kernel), by decide +kernel⟩,
    ⟨hbmReady_of (by decide +kernel), hbmReady_of (by decide +kernel), by decide +kernel⟩⟩

/-- What the statement asks of an object at `pa`, mapped to itself. -/
abbrev rWord (s : State) (pa i : Nat) : Nat := bytesRead s.mem.bytes (pa + 8 * i) 8
abbrev rValid (s : State) (pa : Nat) : Prop := rWord s pa 0 / 2 ^ 48 = 0 ∧ rWord s pa 0 / 2 ^ 10 % 2 ^ 22 = 0 ∧ rWord s pa 0 / 2 ^ 8 % 4 ≠ 3 ∧
  rWord s pa 0 / 2 ^ 6 % 4 = 0 ∧ rWord s pa 0 / 2 ^ 4 % 4 ≠ 3 ∧ rWord s pa 0 / 2 ^ 2 % 4 = 0 ∧ rWord s pa 0 % 2 = 0 ∧ rWord s pa 1 < 2 ^ 17 ∧
  rWord s pa 3 < 2 ^ 6 ∧ ∀ i < 8, 4 ≤ i → rWord s pa i = 0
abbrev rMaps (s : State) (pa o : Nat) (acc : Acc) : Prop := s.ahead.translate .distributor s.partNo (pa + o) acc = .ok (s.ahead, ⟨0, pa + o⟩)
abbrev rReached (s : State) (pa o n : Nat) (acc : Acc) : Prop := rMaps s pa o acc ∧ s.mem.poisoned false (pa + o) n = false
abbrev rLost (s : State) (pa o n : Nat) (acc : Acc) : Prop := rMaps s pa o acc ∧ s.mem.poisoned false (pa + o) n = true

/-- An object of 33 slots at 0x1000C0 with all filled but slot 0; the line of slots 16 to 31 is poisoned. -/
def wRswLost : State := { pokes wBar [(0x1000C0, 32 * 2 ^ 32), (0x1000C8, 32)] with mem :=
  { (pokes wBar [(0x1000C0, 32 * 2 ^ 32), (0x1000C8, 32)]).mem with poison := [0x100180] } }
/-- One of two slots whose slots are poisoned, and one of one slot in the last 64 bytes that are mapped. -/
def wRswPoisoned : State := { wRsw 0 with mem := { (wRsw 0).mem with poison := [0x100100] } }
def wRswEdge : State := wBar.setS 6 0x3FFFC0

/-- A filled slot, an empty one that is not the last and one that is; then a slot that is poisoned, one that is not mapped, and one that cannot be
read at the last contribution. -/
theorem witness_WaitsAndRefusedContributions_slots :
    (∀ n < 2, (wRsw n).runs true false G ∧ HbmReady (wRsw n).ahead ((wRsw n).S 6) 64 .update 0x1000C0 ∧
      NoQueueIn (wRsw n).ahead 0x1000C0 (64 + 8 * 2 + (2 + 7) / 8) ∧ (∀ pa k, LinesFree (wRsw n) pa k) ∧
      rValid (wRsw n) 0x1000C0 ∧
      (let s := wRsw n
       rWord s 0x1000C0 0 / 2 ^ 32 % 2 ^ 16 + 1 = 2 ∧ (s.S 0).toNat = 0 ∧ (s.S 7).toNat = 1 ∧ s.isAvlyn = false ∧
         s.hostHeld = [] ∧ rWord s 0x1000C0 1 = n ∧ rWord s 0x1000C0 2 = 0 ∧ rWord s 0x1000C0 3 = 0 ∧ rWord s 0x1000C0 0 / 2 % 2 = 0 ∧
         (∀ i < 2, rReached s 0x1000C0 (64 + 8 * i) 8 .write ∧ rReached s 0x1000C0 (64 + 8 * i) 8 .read) ∧ rReached s 0x1000C0 80 1 .update ∧
         (bytesGet s.mem.bytes 0x100110).getLsbD 1 = true ∧ (bytesGet s.mem.bytes 0x100110).getLsbD 0 = false)) ∧
    (HbmReady wRswPoisoned.ahead (wRswPoisoned.S 6) 64 .update 0x1000C0 ∧
      NoQueueIn wRswPoisoned.ahead 0x1000C0 (64 + 8 * 2 + (2 + 7) / 8) ∧ rValid wRswPoisoned 0x1000C0 ∧ rLost wRswPoisoned 0x1000C0 64 8 .write ∧
      rLost wRswPoisoned 0x1000C0 80 1 .update) ∧
    (HbmReady wRswEdge.ahead (wRswEdge.S 6) 64 .update 0x3FFFC0 ∧ rValid wRswEdge 0x3FFFC0 ∧
      wRswEdge.ahead.translate .distributor wRswEdge.partNo (0x3FFFC0 + 64) .write = .error (wRswEdge.ahead, .flt 10 1) ∧
      wRswEdge.ahead.translate .distributor wRswEdge.partNo (0x3FFFC0 + 72) .update = .error (wRswEdge.ahead, .flt 10 1)) ∧
    (HbmReady wRswLost.ahead (wRswLost.S 6) 64 .update 0x1000C0 ∧ NoQueueIn wRswLost.ahead 0x1000C0 (64 + 8 * 33 + (33 + 7) / 8) ∧
      rValid wRswLost 0x1000C0 ∧ rWord wRswLost 0x1000C0 0 / 2 ^ 32 % 2 ^ 16 + 1 = 33 ∧ rWord wRswLost 0x1000C0 1 + 1 = 33 ∧
      rReached wRswLost 0x1000C0 64 8 .write ∧ rReached wRswLost 0x1000C0 (64 + 8 * 33) 1 .update ∧
      (bytesGet wRswLost.mem.bytes 0x100208).getLsbD 0 = false ∧
      ∀ i < 33, if 16 ≤ i ∧ i < 32 then rLost wRswLost 0x1000C0 (64 + 8 * i) 8 .read else rReached wRswLost 0x1000C0 (64 + 8 * i) 8 .read) :=
  ⟨fun n h => by
      have : n = 0 ∨ n = 1 := by omega
      rcases this with rfl | rfl <;> exact ⟨runs_of (by decide +kernel), hbmReady_of (by decide +kernel), noQueueIn_of (by decide +kernel),
        fun _ _ => linesFree_of (by decide +kernel), by decide +kernel, by decide +kernel⟩,
    ⟨hbmReady_of (by decide +kernel), noQueueIn_of (by decide +kernel), by decide +kernel⟩,
    ⟨hbmReady_of (by decide +kernel), by decide +kernel⟩,
    ⟨hbmReady_of (by decide +kernel), noQueueIn_of (by decide +kernel), by decide +kernel⟩⟩

/-- R224, R225: the last of two contributions reduces 3 and 5 as f32. -/
theorem test_rsw : let t := after (exec (.rsw G 6 0 8) ((poke (wRsw 1) 0x100108 8 0x40A00000).setS 8 0x40400000))
    (bytesRead t.mem.bytes 0x1000C0 8 % 4, bytesRead t.mem.bytes 0x1000C8 8, bytesRead t.mem.bytes 0x1000D0 8) = (1, 2, 0x41000000) := by
  decide +kernel

theorem test_bwait_rfin : (after (exec (.bwait G 1 2 7) wBar)).P 1 = true ∧ (after (exec (.bwait G 1 3 8) wBar)).P 1 = false ∧
    (after (exec (.bwait G 1 2 8) wBar)).my.st = .waiting (.barrier 0 0x100020 3) ∧ (after (exec (.rfin G 11 5 1) wBar)).S 11 = 42 := by decide +kernel

/-- Core 0's unit has arrived; and two units whose `step`s differ. -/
def wStep : State := { w0 with launches := [{ probeLaunch with arrived := [⟨0, false, 0x10000, 0x10002, 1⟩] }] }
def wDiffer : State :=
  let s := { w0 with launches := [{ probeLaunch with
    percore := 2
    units := [⟨0, .running 0, none, some 0, 0, none, []⟩, ⟨1, .running 1, none, some 0, 1, none, []⟩]
    arrived := [⟨0, false, 0x10000, 0x10002, 1⟩, ⟨1, true, 0x10010, 0x10014, 1⟩] }] }
  (s.setCore 1 { s.coreAt 1 with unit := some ⟨0, 1, 10⟩, tvec := 0x8000 }).setCore 0 { s.coreAt 0 with tvec := 0x8000 }

theorem witness_SuperstepsArriveAndRelease :
    (w0.launchAt 0 = some probeLaunch ∧ w0.runs false true G ∧ w0.launchOf w0.hand.core = some probeLaunch ∧ w0.hand.ctx = 0 ∧
      probeLaunch.wave = false ∧ probeLaunch.place = true ∧ probeLaunch.stepK = .compute) ∧
    (let l := { probeLaunch with stepK := .exchange }
     ({ w0 with launches := [l] } : State).launchAt 0 = some l ∧ l.stepK ≠ .compute) ∧
    (wHelper.runs false true G ∧ wHelper.hand.ctx ≠ 0) ∧
    (∀ l ∈ wStep.launches, wStep.launchAt l.id = some l ∧ wStep.wiredReady l = true ∧ l.formsDiffer = false ∧ (l.arrived.map (·.core)).Nodup ∧
      ∀ f ∈ wStep.stepUpdates l, wStep.holder f = none ∨ wStep.holder f = some l.id) ∧
    (∀ l ∈ wDiffer.launches, wDiffer.launchAt l.id = some l ∧ l.formsDiffer = true ∧ (l.arrived.map (·.core)).Nodup ∧
      ∀ a ∈ l.arrived, a.core < 4608 ∧ (wDiffer.coreAt a.core).frozen = false ∧ (wDiffer.coreAt a.core).ending = none ∧
        (wDiffer.at a.core 0).settled = true ∧ ((wDiffer.coreAt a.core).ctxAt 0).sys = false ∧ (wDiffer.coreAt a.core).tvec ≠ 0 ∧
        wDiffer.coreInCable a.core = false) :=
  ⟨⟨by decide +kernel, runs_of (by decide +kernel), by decide +kernel⟩, by decide +kernel, ⟨runs_of (by decide +kernel), by decide +kernel⟩,
    by decide +kernel⟩

/-- R214: GANGABORT at both `step`s. -/
theorem test_steps_differ : let t := after (exec (.wiredBarrierRelease 0) wDiffer)
    (((t.coreAt 0).ctxAt 0).ecause, ((t.coreAt 0).ctxAt 0).epc, ((t.coreAt 1).ctxAt 0).ecause, ((t.coreAt 1).ctxAt 0).epc) =
      (16, 0x10000, 16, 0x10010) ∧ (after (exec (.wiredBarrierRelease 0) wStep)).my.pc = 0x10002 := by decide +kernel

/-- A cable step of cores 0 and 8 at cycle 20 of core 0, which has sent 7 at cycle 1 and 9 at cycle 19; core 0 selects itself. -/
def wCab : State := (wCable.setS 1 8).modMe fun c => { c with cable := 20, sel := some 0, wires := [⟨19, 9⟩, ⟨1, 7⟩] }

theorem witness_CableInstructions :
    (∀ l ∈ wCab.launches, wCab.inCable = true ∧ wCab.launchOf wCab.hand.core = some l ∧ wCab.launchAt l.id = some l) ∧ wCab.runs false true G ∧
    (wCab.me.sel = some 0 ∧ cableDelay 0 0 ≤ wCab.me.cable ∧ wCab.me.cable < (wCab.coreAt 0).cable + cableDelay 0 0) ∧
    wCable.me.sel = none ∧ (let s := wCab.modMe fun c => { c with cable := 1 }; s.me.sel = some 0 ∧ s.me.cable < cableDelay 0 0) ∧
    (let s := wCab.modMe fun c => { c with cable := 4096 }
     ∀ l ∈ s.launches, s.launchAt l.id = some l ∧ s.cableLate l = true ∧ l.cores.Nodup) ∧
    (let s := wCab.modMe fun c => { c with cable := 4096, tvec := 0x8000 }
     ∀ l ∈ s.launches, 0 ∈ l.cores ∧ (s.coreAt 0).frozen = false ∧ (s.coreAt 0).ending = none ∧ ((s.coreAt 0).ctxAt 0).sys = false ∧
       (s.coreAt 0).tvec ≠ 0 ∧ ((s.coreAt 0).ctxAt 0).st = .ready ∧ (s.at 0 0).settled = true ∧ s.launchOf 0 = some l) :=
  ⟨by decide +kernel, runs_of (by decide +kernel), by decide +kernel⟩

/-- R216: at cycle 20 what was sent at cycle 19 has not arrived over two cycles. -/
theorem test_xrecv : (after (exec (.xrecv G 9) wCab)).S 9 = 7 ∧ ((after (exec (.xsend G 1) wCab)).me.wires.headD ⟨0, 0⟩) = ⟨20, 8⟩ := by decide +kernel

/-- The aperture's first 2 MiB mapped to cores 0 and 1; a descriptor at 0x400 for 64 bytes of core 1's scratchpad, at its end, to 0x800, entry 15, with SETFULL; entry 3 live. -/
def wSub (st : SubSt) (n : Nat) : State :=
  let s := (pokes (local0 (regs [(1, 0x400), (2, 3)]) [(0x400, 0x800), (0x408, 0x10F)]) [(0x1F00, 0x4001), (0x4000, 0x9001), (0x9000, spadBase + 0x90F)]).setA 2 (mkCap 0 0x3F 64 0xF0000011FFC0)
  (s.modMe fun c => { c with inc := [(3, ⟨.live, 2, 0, 0x900, 64, false⟩), (15, ⟨st, 1, 0, 0, 64, false⟩)] }).setCore 1
    { s.coreAt 1 with out := List.replicate n ⟨.core 2, 0, 0, 64, none⟩ }

theorem witness_SubscriptionsUpdatesAndLapses :
    (let s := wSub .free 15
     let w (i : Nat) : Word := s.dword (0x400 + 8 * i)
     s.runs false false G ∧ RawReady s false (s.S 1) 16 16 ∧ (w 0).extractLsb' 20 44 = 0 ∧ (w 1).extractLsb' 9 55 = 0 ∧ (w 1).extractLsb' 4 4 = 0 ∧
       s.checkCap (s.A 2) 0 64 17 ((2 : BitVec 4).setWidth 64) = .ok 0xF0000011FFC0 ∧ inAperture 0xF0000011FFC0 = true ∧
       vaWindow 0xF0000011FFC0 = 0 ∧ 0xF0000011FFC0 / 2 ^ 48 = 0 ∧ 0xF0000011FFC0 % 64 = 0 ∧ 0xF0000011FFC0 % 0x20000 + 64 ≤ 0x20000 ∧ RangeOk s (w 0) 64 64 ∧
       s.ahead.translateMy 0xF0000011FFC0 .read = .ok (s.ahead, ⟨0, spadPa 1 0x1FFC0⟩) ∧ s.lentBy 1 = none ∧ s.dir.length < 0x8000 ∧
       ((s.me.incAt 15).st = .free ∧ (s.coreAt 1).out.length < 16)) ∧
    ¬(((wSub .free 16).me.incAt 15).st = .free ∧ ((wSub .free 16).coreAt 1).out.length < 16) ∧
    ¬(((wSub .live 15).me.incAt 15).st = .free ∧ ((wSub .live 15).coreAt 1).out.length < 16) ∧
    (let s := wSub .free 0
     ((s.me.incAt 3).st = .live ∧ (s.coreAt 2).flits = []) ∧ (s.me.incAt 4).st = .free ∧ s.queueQuiet s.hand.core s.hand.ctx = true ∧
       s.storesPerformed = true ∧ s.storesQueued = false ∧ s.updatesDone s.hand.core = true) ∧
    (let s := (wSub .lapsed 0).setCore 2 { (wSub .lapsed 0).coreAt 2 with flits := [⟨.core 0, 3, 0, [5], false, 0, 0⟩] }
     (s.me.incAt 15).st = .lapsed ∧ ∃ f ∈ (s.coreAt (s.me.incAt 3).pub).flits, f.sub = .core s.hand.core ∧ f.entry = 3) ∧
    ((wSub .free 0).modMe fun c => { c with vq := [⟨0, .st 0 false 0 1 0x400 0, ⟨0, 0x11, false, false, 0⟩⟩] }).storesQueued = true :=
  ⟨by
    refine ⟨runs_of (by decide +kernel), rawReady_of (by decide +kernel) (by decide +kernel), ?_⟩
    iterate 9 refine And.intro (by decide +kernel) ?_
    exact ⟨rangeOk_of (by decide +kernel), by decide +kernel⟩,
    by decide +kernel, by decide +kernel, by decide +kernel, by decide +kernel, by decide +kernel⟩

/-- Core 1 has published to entry 3 of core 0 and has a closed flit on its way; core 0's entries 0 and 15 have lapsed. -/
def wUpd : State :=
  let s := w0.modMe fun c => { c with inc := [(3, ⟨.live, 1, 0x100, 0x900, 64, true⟩)], lapse := 0x8001, tvec := 0x8000 }
  s.setCore 1 { s.coreAt 1 with out := [⟨.core 0, 3, 0x100, 64, none⟩], flits := [⟨.core 0, 3, 60, [1, 2, 3, 4], true, 0, 0⟩] }

theorem witness_SubscriptionsUpdatesAndLapses_updates :
    (wUpd.coreAt 1).outAt 0 = some ⟨.core 0, 3, 0x100, 64, none⟩ ∧ (wUpd.coreAt 1).flits = ⟨.core 0, 3, 60, [1, 2, 3, 4], true, 0, 0⟩ :: [] ∧
    wUpd.spPoison true 0 (0x900 + 60) 4 = false ∧ wUpd.coreInCable 0 = false ∧ (wUpd.coreAt 0).incAt 3 = ⟨.live, 1, 0x100, ((wUpd.coreAt 0).incAt 3).loc, 64, true⟩ ∧
    (wUpd.lapseDue 0 = true ∧ (wUpd.coreAt 0).tvec ≠ 0 ∧ ((wUpd.coreAt 0).ctxAt 0).uvec = 0) ∧
    (let s := wUpd.modMe fun c => { c with flits := [⟨.core 1, 0, 0, [5], false, 0, 0⟩] }
     s.updatesDone s.hand.core = false) ∧
    (let s := wUpd.modCtx 0 0 fun x => { x with uvec := 0x9000, uframe := 0x1EBC0 }
     let A := ((((s.coreAt 0).ctxAt 0).uframe) &&& 0xFFFC0).toNat
     s.lapseDue 0 = true ∧ ((s.coreAt 0).ctxAt 0).uvec ≠ 0 ∧ A < 0x20000 ∧ (s.coreAt 0).splo.toNat ≤ A ∧
       A + 0x1420 ≤ (s.coreAt 0).sphi.toNat ∧ A + 0x1420 ≤ 0x20000) := by decide +kernel

/-- No host and no cache holds lines in these states. -/
theorem witness_SubscriptionsUpdatesAndLapses_free : (∀ tag, TagFree (wSub .free 15) tag) ∧ ∀ pa n, LinesFree wUpd pa n :=
  ⟨fun _ => tagFree_of (by decide +kernel), fun _ _ => linesFree_of (by decide +kernel)⟩

/-- R220, R295: the update sets its word full. -/
theorem test_update : let t := after (exec (.subscriptionUpdateApply 1 0) wUpd)
    (t.spRead 0 0x93C 4, t.mem.full) = (0x04030201, [spadPa 0 0x93C]) ∧
    (after (exec (.sublapse 0) wUpd)).my.einfo = 0x8001 := by decide +kernel

/-! ### Numbers and capabilities -/

/-- f32: 1.5, −2, +0, +∞, a quiet NaN, −∞; f64: 3. -/
def wF : State := regs [(1, 0x3FC00000), (2, 0xC0000000), (3, 0), (4, 0x7F800000), (5, 0x7FC00000), (6, 0xFF800000), (7, 0x4008000000000000), (8, 0x7F800001)]

theorem witness_FloatArithmeticIsExactThenRounded :
    wF.runs true false G ∧ (wF.fOperand f32 0 1 5).isNaN = true ∧
    (wF.fOperand f32 0 0 1 = .fin false 0xC00000 (-23) ∧ wF.fOperand f32 0 1 2 = .fin true 0x800000 (-22) ∧ (0x800000 : Nat) ≠ 0) ∧
    (∃ e, wF.fOperand f32 0 1 3 = .fin false 0 e) ∧ wF.fOperand f32 0 0 4 = .inf false ∧ wF.fOperand f32 0 1 6 = .inf true ∧
    wF.fOperand f32 2 0 4 = .inf true ∧ (∃ m e, wF.fOperand f64 0 0 7 = .fin false m e ∧ m ≠ 0) :=
  ⟨runs_of (by decide +kernel), by decide +kernel, by decide +kernel, ⟨-149, by decide +kernel⟩, by decide +kernel, by decide +kernel,
    by decide +kernel, ⟨0x18000000000000, -51, by decide +kernel⟩⟩

/-- R44, R137: 1.5 + −2 = −0.5; 1.5 / 0 = +∞ with DZ; ∞ − ∞ is the canonical NaN with NV. -/
theorem test_fadd_fdiv : (after (exec (.fadd G 0 0 9 1 2) wF)).S 9 = 0xBF000000 ∧ (after (exec (.fdiv G 0 0 9 1 3) wF)).S 9 = 0x7F800000 ∧
    (after (exec (.fdiv G 0 0 9 1 3) wF)).my.fflags = fDZ ∧ (after (exec (.fsub G 0 0 9 4 4) wF)).S 9 = 0x7FC00000 ∧
    (after (exec (.fsub G 0 0 9 4 4) wF)).my.fflags = fNV := by decide +kernel

/-- Operands of `fma`: infinities of both signs, a NaN and a number as what is added, with those above as its factors. -/
theorem witness_FloatArithmeticIsExactThenRounded_fma :
    wF.fOperand f32 0 2 4 = .inf false ∧ wF.fOperand f32 0 2 6 = .inf true ∧ (wF.fOperand f32 0 2 5).isNaN = true ∧
    wF.fOperand f32 0 2 1 = .fin false 0xC00000 (-23) ∧ wF.fOperand f32 0 1 3 = .fin false 0 (-149) ∧ wF.fOperand f32 0 0 4 = .inf false ∧
    wF.fOperand f32 0 1 1 = .fin false 0xC00000 (-23) := by decide +kernel

/-- R50: 0 × ∞ plus a NaN is invalid; ∞ × 1.5 − ∞ too; 1.5 × 1.5 − ∞ is −∞. -/
theorem test_fma : (after (exec (.fma G 0 0 9 4 3 5) wF)).my.fflags = fNV ∧ (after (exec (.fma G 0 0 9 4 1 6) wF)).S 9 = 0x7FC00000 ∧
    (after (exec (.fma G 0 0 9 4 1 6) wF)).my.fflags = fNV ∧ (after (exec (.fma G 0 0 9 1 1 6) wF)).S 9 = 0xFF800000 := by decide +kernel

/-- 1.5 rounds to the even 2. -/
theorem witness_FloatSelectionsRootsAndConversions_rounding :
    let v : Rat := (FVal.fin false 0xC00000 (-23)).value * (2 : Rat) ^ mrScale 0
    |v - (2 : Int)| * 2 = 1 ∧ (2 : Int) % 2 = 0 := by
  norm_num [FVal.value, mrScale]

theorem witness_FloatSelectionsRootsAndConversions :
    wF.runs true false G ∧ ((wF.fOperand f32 0 0 5).isNaN = true ∧ (wF.fOperand f32 0 1 8).isNaN = true) ∧
    ((wF.fOperand f32 0 0 5).isNaN = true ∧ (wF.fOperand f32 0 1 1).isNaN = false) ∧
    (wF.fOperand f32 0 0 1 = .fin false 0xC00000 (-23) ∧ wF.fOperand f32 0 1 2 = .fin true 0x800000 (-22)) ∧
    (wF.fOperand f32 0 0 4 = .inf false ∧ wF.fOperand f32 0 0 6 = .inf true ∧ wF.fOperand f32 0 1 4 = .inf false ∧
      wF.fOperand f32 0 1 6 = .inf true ∧ (wF.fOperand f32 0 1 1).isNaN = false) ∧
    (4 ≤ (6 : BitVec 3).toNat ∧ (1 : BitVec 3).toNat < 4) ∧
    (let x (r : BitVec 5) := unpack (cvtFmt 0) (fBits (cvtFmt 0) (wF.S r))
     x 1 = .fin false 0xC00000 (-23) ∧ x 4 = .inf false ∧ x 5 = .nan false ∧ x 8 = .nan true ∧ mrRound 1 = 1) :=
  ⟨runs_of (by decide +kernel), by decide +kernel⟩

/-- The spec's example at R141: `fcvt.i32.f64` of 1.75 with scale 7 gives 224. R138: the smaller of −0 and +0 is −0. -/
theorem test_fcvt : (after (exec (.fcvt G 0x1D 1 6 9 1) (regs [(1, 0x3FFC000000000000)]))).S 9 = 0xE0 ∧
    (after (exec (.fmin G 0 9 1 2) (regs [(1, 0), (2, 0x80000000)]))).S 9 = 0x80000000 ∧
    (after (exec (.fsqrt G 0 0 9 1) (regs [(1, 0x40800000)]))).S 9 = 0x40000000 := by decide +kernel

/-- Values that a format holds, that it rounds, and beyond its largest. -/
theorem witness_RoundingIsToTheNextNumber : ∃ f, (f = f64 ∨ f = f32 ∨ f = h16 ∨ f = b16 ∨ f = e8m10 ∨ f = e8m15) ∧ 0 < 1 ∧ 0 < 3 ∧
    (unpack f f.max).value < (2 ^ 200 : Nat) := ⟨h16, by decide +kernel⟩

/-- a1 covers 0x100 bytes at 0x1000, a2 the same sealed, a3 ends at 2^57. -/
def wCap : State := ((((regs [(1, 0x100), (2, 0), (3, 0x101), (4, 0x10), (5, 0xFF)]).setA 1 (mkCap 3 0x3F 0x100 0x1000)).setA 2
  (mkCap 3 0x7F 0x100 0x1000 ||| (1 <<< 103))).setA 3 (mkCap 3 0x3F 0x100 0x1FFFFFFFFFFFFF0)).modMe fun c => { c with tvec := 0x8000 }

theorem witness_CapabilityDerivationsNeverWiden :
    wCap.runs true false G ∧ wCap.A 4 = 0 ∧ (wCap.A 2 ≠ 0 ∧ capSeal (wCap.A 2) = true) ∧
    (wCap.A 1 ≠ 0 ∧ capSeal (wCap.A 1) = false ∧ (wCap.S 1).toNat ≤ capLen (wCap.A 1) ∧ (wCap.S 2).toNat ≤ capLen (wCap.A 1) - (wCap.S 1).toNat ∧
      capBase (wCap.A 1) + (wCap.S 1).toNat < 2 ^ 57) ∧
    ¬((wCap.S 3).toNat ≤ capLen (wCap.A 1) ∧ capBase (wCap.A 1) + (wCap.S 3).toNat < 2 ^ 57) ∧
    (wCap.A 3 ≠ 0 ∧ capSeal (wCap.A 3) = false ∧ (wCap.S 4).toNat ≤ capLen (wCap.A 3) ∧ ¬(capBase (wCap.A 3) + (wCap.S 4).toNat < 2 ^ 57)) :=
  ⟨runs_of (by decide +kernel), by decide +kernel⟩

/-- R132 to R134: `cbound` narrows, `cmov` takes permissions away, an offset past the end faults CAPBOUND with the base. -/
theorem test_cbound : let x := (after (exec (.cbound G 6 1 4 2) wCap)).A 6
    (capBase x, capLen x, capTag x) = (0x1010, 0, 3) ∧ capPerm ((after (exec (.cmov G 6 1 4) wCap)).A 6) = 0x2F ∧
    taken (exec (.cadd G 6 1 3) wCap) = (7, 0x1000, 1, 0x10000) := by decide +kernel

/-! ### Meshes -/

/-- The tile's translation cache holds the first mapped page. -/
def xlat0 : Xlat := ⟨.tlb 0, 0, 0, 0x200000, 1, 0x3000, 0x90F, [0x1000, 0x2000, 0x3000]⟩
def cached (s : State) : State := { s with caches := { s.caches with xlat := [xlat0] } }

/-- A control block of dimension 2 in round 1, with two elements of each kind, vertex fields 0 (f32x2) and 1 (f32). -/
def block : Bytes := [(0, 2), (7, 1), (0x12, 0x11), (0x18, 0x20), (0x1C, 0x7E), (0x22, 0x12), (0x28, 2), (0x2C, 0x7E), (0x35, 2), (0x38, 0xA0),
  (0x3D, 2), (0x40, 0x20), (0x45, 2), (0x48, 0xC0), (0x4D, 2), (0x50, 0x40), (0x55, 2), (0x58, 0xE0), (0x5D, 2), (0x70, 1), (0x72, 5), (0x78, 1),
  (0x7A, 1), (0x7B, 0x40)]

/-- Slot 0 holds it. V0 and V1, E0 and F0 are live, E1 is not; E0 is FIXED and on the boundary of F0, whose neighbour is F1. s1 names E0, s2
E1, s3 V0, s4 F0, s5 nothing; s8 is a key word of priority 7, s9 one with a reserved bit. -/
def wMesh : State :=
  let s := pokes (regs [(1, 0x40000000), (2, 0x40000001), (3, 0), (4, 0x80000000), (5, 0xFFFFFFFF), (8, 7), (9, 0x0100000000000007), (10, 0x3E800000)]) [
    (0x1100B0, 0x101), (0x1100D0, 1), (0x1100F0, 1), (0x110020, 0x180000000), (0x110028, 0xFFFFFFFF80000000), (0x110058, 0xFFFFFFFF80000001),
    (0x110060, 0xFFFFFFFF), (0x120040, 0x41A00000)]
  cached (s.setSlot 0 ⟨block, mkCap 0 0x3F 0x100 0x100000⟩)

theorem steady_of {s : State} {va : Nat} (h : decide ((s.xlatAt s.tlb s.partNo (va % 2 ^ 48)).isSome = true ∧
    (s.caches.xlat.filter fun t => t.agent == s.tlb).length ≤ 256) = true) : Steady s va := by
  obtain ⟨a, b⟩ := of_decide_eq_true h
  unfold Steady
  rw [if_pos a]
  exact b

theorem capReads_of {s : State} {cap : CapBits} {off n v : Nat} (va pa : Nat)
    (c : decide (s.hostHeld = [] ∧ s.checkCap cap off n permREAD 16 = .ok va ∧
      bytesRead s.mem.bytes pa n = v) = true)
    (st : decide ((s.xlatAt s.tlb s.partNo (va % 2 ^ 48)).isSome = true ∧
      (s.caches.xlat.filter fun t => t.agent == s.tlb).length ≤ 256) = true) (h : HbmReady s (BitVec.ofNat 64 va) n .read pa) : CapReads s cap off n v :=
  have c := of_decide_eq_true c
  ⟨va, pa, tagFree_of c.1, c.2.1, steady_of st, h, c.2.2⟩

theorem witness_MeshSlotsAndRounds :
    wMesh.runs false false G ∧ mcbOk block = true ∧ mcbOk (bytesWrite block 0 1 0) = false ∧
    (wMesh.ahead.tagTurn (capTag (mkCap 0 0x3F 0x100 0x100000))).toOption = some wMesh.ahead ∧
    wMesh.ahead.checkCap (mkCap 0 0x3F 0x100 0x100000) 0 256 1 16 = .ok 0x100000 ∧ 0x100000 % 64 = 0 ∧ wMesh.slot 1 = none ∧
    wMesh.slot 0 = some ⟨block, mkCap 0 0x3F 0x100 0x100000⟩ ∧ wMesh.ahead.checkCap (mkCap 0 0x3F 0x100 0x100000) 0 8 0x22 16 = .ok 0x100000 ∧
    mcbRound (bytesWrite block 7 1 0) = 0 ∧ 0xFFFFFF < (wMesh.S 1).toNat ∧
    (mcbRound block ≠ 0 ∧ (wMesh.S 8).toNat ≤ 0xFFFFFF ∧ (∀ k ∈ meshKinds (bytesWrite (bytesWrite (bytesWrite block 0x3D 1 0) 0x4D 1 0) 0x5D 1 0),
      mcbNext (bytesWrite (bytesWrite (bytesWrite block 0x3D 1 0) 0x4D 1 0) 0x5D 1 0) k = 0) ∧
      ∃ k ∈ meshKinds block, mcbCap block k < (wMesh.S 8).toNat * quota (mcbDim block) k) :=
  ⟨runs_of (by decide +kernel), by decide +kernel⟩

/-- The edge E0 is live, E1 is not, nothing is named by NONE; its first four words; the field of V0. -/
theorem witness_MeshElementsAreReadAndWritten :
    LiveElem wMesh.ahead block 1 0x40000000 ∧ StaleElem wMesh.ahead block 1 0x40000001 ∧ StaleElem wMesh.ahead block 1 0x40000002 ∧
    StaleElem wMesh.ahead block 1 0xFFFFFFFF ∧
    (RecReads wMesh.ahead block 1 0 0 0x80000000 ∧ RecReads wMesh.ahead block 1 0 3 0xFFFFFFFF) ∧
    ((0 : BitVec 4).toNat + 4 ≤ (if hKind 0x40000000 < 2 then 4 else 12) ∧ (if hKind 0x40000000 < 2 then 4 else 12) < (1 : BitVec 4).toNat + 4 ∧
      (28 : BitVec 5).toNat + (3 : BitVec 3).toNat ≤ 31) ∧
    (let e := mcbField block 1
     fldValid e = true ∧ (0 : BitVec 3).toNat < fmtCount (fldFmt e) ∧ fmtCount (fldFmt e) ≤ (1 : BitVec 3).toNat ∧ fldKind e ≠ hKind 0x40000000 ∧
       fldValid (mcbField block 2) = false ∧ LiveElem wMesh.ahead block (fldKind e) 0 ∧
       CapReads wMesh.ahead (mcbFarea block) (fldOff e + 0 * 4 + 0) 4 0x41A00000 ∧
       (TagFree wMesh (capTag (mcbFarea block)) ∧ wMesh.ahead.checkCap (mcbFarea block) (fldOff e) 4 2 16 = .ok 0x120040 ∧ Steady wMesh.ahead 0x120040 ∧ HbmReady wMesh.ahead 0x120040 4 .write 0x120040 ∧
         (∀ q ∈ wMesh.ahead.myLines (capBase (mcbPool block) + mcbStoff block 0 + 8 * mcbCap block 0 + 0), q ≠ 0x120000) ∧
         capTag (mcbPool block) = 0 ∧ capTag (mcbFarea block) = 0 ∧ wMesh.ahead.tagLine 0 = some (0x200000, 0))) := by
  refine ⟨⟨by decide, by decide, by decide, 1, capReads_of 0x1100D0 0x1100D0 (by decide +kernel) (by decide +kernel) (hbmReady_of (by decide +kernel)),
      by decide, by decide⟩,
    .inr ⟨by decide, .inr ⟨0, capReads_of 0x1100D1 0x1100D1 (by decide +kernel) (by decide +kernel) (hbmReady_of (by decide +kernel)), by decide, by decide⟩⟩,
    .inr ⟨by decide, .inl (by decide)⟩, .inl (by decide),
    ⟨capReads_of 0x110020 0x110020 (by decide +kernel) (by decide +kernel) (hbmReady_of (by decide +kernel)),
      capReads_of 0x11002C 0x11002C (by decide +kernel) (by decide +kernel) (hbmReady_of (by decide +kernel))⟩,
    by decide, by decide +kernel, by decide +kernel, by decide +kernel, by decide +kernel, by decide +kernel,
    ⟨by decide, by decide, by decide +kernel, 1, capReads_of 0x1100B0 0x1100B0 (by decide +kernel) (by decide +kernel) (hbmReady_of (by decide +kernel)),
      by decide, by decide⟩,
    capReads_of 0x120040 0x120040 (by decide +kernel) (by decide +kernel) (hbmReady_of (by decide +kernel)),
    tagFree_of (by decide +kernel), by decide +kernel, steady_of (by decide +kernel), hbmReady_of (by decide +kernel), by decide +kernel,
    by decide +kernel, by decide +kernel, by decide +kernel⟩

/-- R234, R236: the edge's flags are hidden but by `.raw`; the guard's predicate tells a stale handle. -/
theorem test_mget_mvalid : let t := after (exec (.mget ⟨false, 2⟩ false 0 1 11 0 1) wMesh)
    (t.S 11, t.S 12, t.P 2) = (0, 1, true) ∧ (after (exec (.mget ⟨false, 2⟩ true 0 0 11 0 1) wMesh)).S 11 = 0x80000000 ∧
    (after (exec (.mget ⟨false, 2⟩ false 0 0 11 0 2) wMesh)).P 2 = false ∧ (after (exec (.mvalid G 2 0 1) wMesh)).P 2 = true := by decide +kernel

theorem witness_MeshListsAndEdges :
    wMesh.runs false false G ∧ wMesh.slot 0 = some ⟨block, mkCap 0 0x3F 0x100 0x100000⟩ ∧ mcbDim block = 2 ∧
    (RecReads wMesh.ahead block 1 0 2 0x80000000 ∧ RecReads wMesh.ahead block 1 0 3 0xFFFFFFFF) ∧
    (LiveElem wMesh.ahead block 2 0x80000000 ∧ RecReads wMesh.ahead block 2 0 6 0x80000001 ∧ RecReads wMesh.ahead block 2 0 7 0xFFFFFFFF ∧
      RecReads wMesh.ahead block 2 0 8 0xFFFFFFFF) ∧
    4 < (5 : BitVec 3).toNat ∧ ((2 : BitVec 3) = 2 ∧ mcbDim block ≠ 3) ∧ ((wMesh.S 5).setWidth 32 : W32) = 0xFFFFFFFF := by
  refine ⟨runs_of (by decide +kernel), by decide +kernel, by decide,
    ⟨capReads_of 0x110028 0x110028 (by decide +kernel) (by decide +kernel) (hbmReady_of (by decide +kernel)),
      capReads_of 0x11002C 0x11002C (by decide +kernel) (by decide +kernel) (hbmReady_of (by decide +kernel))⟩,
    ⟨⟨by decide, by decide, by decide, 1, capReads_of 0x1100F0 0x1100F0 (by decide +kernel) (by decide +kernel) (hbmReady_of (by decide +kernel)),
      by decide, by decide⟩, capReads_of 0x110058 0x110058 (by decide +kernel) (by decide +kernel) (hbmReady_of (by decide +kernel)),
      capReads_of 0x11005C 0x11005C (by decide +kernel) (by decide +kernel) (hbmReady_of (by decide +kernel)),
      capReads_of 0x110060 0x110060 (by decide +kernel) (by decide +kernel) (hbmReady_of (by decide +kernel))⟩, by decide, by decide, by decide +kernel⟩

theorem test_mstar : let t := after (exec (.mstar ⟨false, 2⟩ 1 3 0 1) wMesh)
    ((t.H 3).map (·.list), t.P 2) = (some [0x80000000], true) := by decide +kernel

/-- A key word that is well-formed and one that is not; a target that is NONE; a parameter t = 0.25. -/
theorem witness_TopologyInstructions :
    wMesh.runs false false G ∧ wMesh.slot 0 = some ⟨block, mkCap 0 0x3F 0x100 0x100000⟩ ∧ 2 ^ 56 ≤ (wMesh.S 9).toNat ∧ (wMesh.S 8).toNat < 2 ^ 56 ∧
    mcbRound block ≠ 0 ∧ (splitParam 10 wMesh.ahead).isOk = true ∧ ((wMesh.S 5).setWidth 32 : W32) = 0xFFFFFFFF :=
  ⟨runs_of (by decide +kernel), by decide +kernel⟩

/-- A parameter that is no number, and weights that are misaligned, or 0. -/
theorem witness_TopologyInstructions_parameters :
    unpack f32 ((wMesh.S 5).toNat % 2 ^ 32) = .nan false ∧ RangeBad wMesh (wMesh.S 2) 12 4 3 ∧ RawReady wMesh false (wMesh.S 3) 12 4 ∧
    ∀ j < 3, unpack f32 (bytesRead wMesh.mem.bytes (spadPa 0 (0 + 4 * j)) 4) = .fin false 0 (-149) :=
  ⟨by decide +kernel, rangeBad_iff.2 (by decide +kernel), rawReady_of (by decide +kernel) (by decide +kernel), by decide +kernel⟩

/-- R238: the claim on E1, which is not live, is STALE. -/
theorem test_msplit_stale : let t := after (exec (.msplitC ⟨false, 2⟩ 0 11 2 10 8) wMesh)
    (t.S 11, t.P 2) = (2, false) := by decide +kernel

/-- What the mesh work of these statements ends with, on this mesh. -/
theorem witness_mesh_work :
    ((wMesh.ahead.meshRun 0 (starList 1 0x40000000)).toOption.map (·.2)) = some (some [0x80000000]) ∧
    ((wMesh.ahead.meshRun 0 (starList 1 0x40000001)).toOption.map (·.2)) = some none ∧
    ((wMesh.ahead.meshRun 0 (medgeOf 0xFFFFFFFF 0)).toOption.map (·.2)) = some 0xFFFFFFFF ∧
    ((wMesh.ahead.meshRun 0 (reserve (mkCap 0 0x3F 0x100 0x100000) 0)).isOk = true) ∧
    ((wMesh.ahead.niAccess 0x100000 128 1 true .update .bank).isOk = true) ∧
    ((wMesh.ahead.meshRun 0 (mmWriteAll .bank 0x22 (clearMarkers block (mcbNext block)))).isOk = true) ∧
    ((wMesh.ahead.meshRun 0 (topoWork .claim .flip 0x40000001 7)).toOption.map (·.2)) = some (2, 0) := by decide +kernel

/-! ### Meshes: where every mesh instruction completes -/

theorem regionReady_of {s : State} {cap : CapBits} {perm : BitVec 6} {len pa : Nat} (t : Xlat) (x : Space)
    (h : decide (capPermits cap perm 0 = .ok () ∧ (len ≤ capLen cap ∧ capBase cap + len ≤ 2 ^ 57 ∧ capBase cap % 2 ^ 48 + len ≤ 0xF00000000000) ∧
      (capTag cap = 0 ∧ s.tagPoisoned (capTag cap) = false) ∧ s.isLocal (capBase cap) = true ∧ s.space s.partNo = some x ∧ s.mem.poisoned false pa len = false ∧ s.hostHeld = [] ∧
      s.dir = [] ∧ (s.parts.all fun e => e.2.queueBase.isNone) = true ∧ len ≤ 0x8000) = true)
    (c : decide (s.caches.xlat = [t] ∧ t.agent = s.tlb ∧ t.part = s.partNo ∧ t.va ≤ capBase cap % 2 ^ 48 ∧
      capBase cap % 2 ^ 48 + len ≤ t.va + t.size) = true)
    (p : decide (pteFtp t.leaf = false ∧ ptePois t.leaf = false ∧ pteRdup t.leaf = false ∧ pteWr t.leaf = true ∧
      capBase cap % 2 ^ 48 % (4096 * 2 ^ pteSize t.leaf) + len ≤ 4096 * 2 ^ pteSize t.leaf ∧
      pa = pteFrame t.leaf * 4096 / (4096 * 2 ^ pteSize t.leaf) * (4096 * 2 ^ pteSize t.leaf) + capBase cap % 2 ^ 48 % (4096 * 2 ^ pteSize t.leaf) ∧
      pteFrame t.leaf * 4096 / (4096 * 2 ^ pteSize t.leaf) * (4096 * 2 ^ pteSize t.leaf) + 4096 * 2 ^ pteSize t.leaf ≤ hbmSize ∧
      x.owns (pteFrame t.leaf * 4096 / (4096 * 2 ^ pteSize t.leaf) * (4096 * 2 ^ pteSize t.leaf))
        (pteFrame t.leaf * 4096 / (4096 * 2 ^ pteSize t.leaf) * (4096 * 2 ^ pteSize t.leaf) + 4096 * 2 ^ pteSize t.leaf) = true) = true) :
    RegionReady s cap perm len pa := by
  obtain ⟨a, b, z, l, sp, po, hh, dr, q, r⟩ := of_decide_eq_true h
  obtain ⟨cx, ag, pt, lo, hi⟩ := of_decide_eq_true c
  obtain ⟨p1, p2, p3, p4, p5, p6, p7, p8⟩ := of_decide_eq_true p
  refine ⟨a, b, ⟨tagFree_of hh, z.2⟩, .inl z.1, l, ⟨t, x, fun i hi' => ?_, p1, p2, p3, p4, sp, p5, p6, p7, p8⟩, po, ?_, ?_, noQueueIn_of q, ?_⟩
  · have g : t.va ≤ capBase cap % 2 ^ 48 + i ∧ capBase cap % 2 ^ 48 + i < t.va + t.size := by omega
    simp only [State.xlatAt, cx, List.find?_cons, ag, pt, beq_self_eq_true, Bool.true_and, decide_eq_true g.1, decide_eq_true g.2]
  · rw [hh]; simp
  · rw [dr]; simp
  · rw [dr]; simpa using r

/-- A control block of dimension 2 in round 1 over a pool of 0x294 bytes: 8 vertices, 8 edges and 4 faces, one spawn slot. -/
def block2 : Bytes := [(0, 2), (7, 1), (0x12, 0x11), (0x17, 0x28), (0x18, 5), (0x1C, 0x7E), (0x22, 0x12), (0x28, 2), (0x2C, 0x7E), (0x35, 8),
  (0x38, 0xC0), (0x39, 1), (0x40, 0x80), (0x45, 8), (0x48, 0x10), (0x49, 2), (0x51, 1), (0x55, 4), (0x58, 0x68), (0x59, 2)]

/-- The listed bytes of these doublewords, their addresses rising. -/
def wide (l : List (Nat × Nat)) : Bytes :=
  l.flatMap fun x => (List.range 8).filterMap fun i => if x.2 / 256 ^ i % 256 = 0 then none else some (x.1 + i, BitVec.ofNat 8 (x.2 / 256 ^ i))

/-- The block at 0x100000, slot 0 bound to it, and these doublewords of its pool behind it. -/
def wMesh2 (rs : List (BitVec 5 × Word)) (l : List (Nat × Nat)) : State :=
  let s := regs rs
  cached ({ s with mem := { s.mem with bytes := s.mem.bytes ++ block2.map (fun (c : Nat × Byte) => (0x100000 + c.1, c.2)) ++ wide l } }.setSlot 0
    ⟨block2, mkCap 0 0x3F 0x100 0x100000⟩)

abbrev space0 : Space := ⟨0, 0, probePartition.ttbase, probePartition.hbm, probePartition.tiles, hostBase + probePartition.hostBase,
  hostBase + probePartition.hostBase + probePartition.hostSize⟩

theorem meshReady_of {s : State} (h : RegionReady s (mcbPool block2) permTopo 0x294 0x110000) :
    MeshReady s ⟨block2, mkCap 0 0x3F 0x100 0x100000⟩ 1 0x294 0x110000 :=
  ⟨h, by decide, by decide, by decide, by decide, ⟨by decide +kernel, by unfold Apart; decide +kernel⟩⟩

/-- V1 and V2, joined by E5, are live. -/
def wLine : State := wMesh2 [(2, 1), (3, 0x01000002), (4, 1)] [(0x110010, 0x45000005), (0x1100D0, 0x4100000180000002), (0x1100D8, 0xFFFFFFFFFFFFFFFF),
  (0x110200, 0x50100), (0x110250, 0x150000000000)]

theorem witness_MeshInstructionsComplete :
    wLine.runs false false G ∧ wLine.ahead.checkCap (mkCap 0 0x3F 0x100 0x100000) 0 256 permREAD 16 = .ok 0x100000 ∧ Steady wLine.ahead 0x100080 ∧
    HbmReady wLine.ahead 0x100000 128 .read 0x100000 ∧ HbmReady wLine.ahead 0x100080 128 .read 0x100080 ∧
    bytesWrite [] 0 256 (bytesRead wLine.mem.bytes 0x100000 128 + bytesRead wLine.mem.bytes 0x100080 128 * 256 ^ 128) = block2 ∧
    mcbOk block2 = true ∧ wLine.slot 0 = some ⟨block2, mkCap 0 0x3F 0x100 0x100000⟩ ∧
    (wLine.ahead.checkCap (mkCap 0 0x3F 0x100 0x100000) 0 8 permRound 16 = .ok 0x100000 ∧ HbmReady wLine.ahead 0x100000 128 .update 0x100000 ∧
      (bytesGet wLine.mem.bytes 0x100007).toNat ≠ 255 ∧ capTag (mkCap 0 0x3F 0x100 0x100000) = 0 ∧ capTag (mcbPool block2) = 0 ∧
      wLine.tagLine 0 = some (0x200000, 0)) ∧
    (MeshReady wLine.ahead ⟨block2, mkCap 0 0x3F 0x100 0x100000⟩ 1 0x294 0x110000 ∧
      RegionReady wLine.ahead (mkCap 0 0x3F 0x100 0x100000) permRound 128 0x100000 ∧ (∀ k < 3, mcbNext block2 k = 0) ∧ (wLine.S 4).toNat = 1 ∧
      ∀ k < 3, 1 * quota 2 k ≤ mcbCap block2 k) ∧
    (LiveElem wLine.ahead block2 0 1 ∧ LiveElem wLine.ahead block2 0 0x01000002 ∧ RecReads wLine.ahead block2 0 1 0 0x45000005 ∧
      RecReads wLine.ahead block2 1 5 2 0xFFFFFFFF ∧ RecReads wLine.ahead block2 1 5 3 0xFFFFFFFF ∧ RecReads wLine.ahead block2 1 5 0 0x80000002 ∧
      RecReads wLine.ahead block2 1 5 1 0x41000001) :=
  ⟨runs_of (by decide +kernel), by decide +kernel, steady_of (by decide +kernel), hbmReady_of (by decide +kernel), hbmReady_of (by decide +kernel),
    by decide +kernel, by decide +kernel, by decide +kernel, ⟨by decide +kernel, hbmReady_of (by decide +kernel), by decide +kernel⟩,
    ⟨meshReady_of (regionReady_of xlat0 space0 (by decide +kernel) (by decide +kernel) (by decide +kernel)),
      regionReady_of xlat0 space0 (by decide +kernel) (by decide +kernel) (by decide +kernel), by decide +kernel, by decide +kernel, by decide +kernel⟩,
    ⟨by decide, by decide, by decide +kernel, 1, capReads_of 0x110201 0x110201 (by decide +kernel) (by decide +kernel) (hbmReady_of (by decide +kernel)), by decide, by decide⟩,
    ⟨by decide, by decide, by decide +kernel, 5, capReads_of 0x110202 0x110202 (by decide +kernel) (by decide +kernel) (hbmReady_of (by decide +kernel)), by decide, by decide⟩,
    capReads_of 0x110010 0x110010 (by decide +kernel) (by decide +kernel) (hbmReady_of (by decide +kernel)),
    capReads_of 0x1100D8 0x1100D8 (by decide +kernel) (by decide +kernel) (hbmReady_of (by decide +kernel)),
    capReads_of 0x1100DC 0x1100DC (by decide +kernel) (by decide +kernel) (hbmReady_of (by decide +kernel)),
    capReads_of 0x1100D0 0x1100D0 (by decide +kernel) (by decide +kernel) (hbmReady_of (by decide +kernel)),
    capReads_of 0x1100D4 0x1100D4 (by decide +kernel) (by decide +kernel) (hbmReady_of (by decide +kernel))⟩

/-- R230, R232: the next round; the first indices of each kind. -/
theorem test_mround_mreserve : let t := after (exec (.mround G 9 0) wLine)
    (t.S 9, bytesRead t.mem.bytes 0x100007 1) = (2, 2) ∧
    (let t := after (exec (.mreserve G 9 0 4) wLine)
     (t.S 9, bytesRead t.mem.bytes (0x110000 + spawnOff block2 1 2) 4, bytesRead t.mem.bytes 0x10004D 3) = (1, 0x1000002, 3)) := by decide +kernel

/-- Words, generation bytes and spawn entries of this mesh's pool, as the statements read them. -/
abbrev word2 (s : State) (k i w : Nat) : W32 := BitVec.ofNat 32 (bytesRead s.mem.bytes (0x110000 + wordOff block2 k i w) 4)
abbrev gen2 (s : State) (k i : Nat) : Nat := bytesRead s.mem.bytes (0x110000 + genOff block2 k i) 1
abbrev spawned2 (s : State) (k q i : Nat) : Prop := bytesRead s.mem.bytes (0x110000 + spawnOff block2 k q) 4 = mcbRound block2 * 2 ^ 24 + i ∧
  i < mcbCap block2 k ∧ gen2 s k i % 4 = 2
abbrev holds2 (s : State) (k : Nat) (r : W32) (l : List W32) : Prop := (List.range l.length).map (word2 s k (hIdx r)) = l
abbrev within2 (k : Nat) (l : List W32) : Prop := (l.map hIdx).Nodup ∧ ∀ y ∈ l, hIdx y < mcbCap block2 k
theorem all_of {l : List W32} {p : W32 → Prop} [DecidablePred p] (h : (l.all fun y => decide (p y)) = true) : ∀ y ∈ l, p y := by
  simpa using h
theorem within2_of {k : Nat} {l : List W32} (n : (l.map hIdx).Nodup) (h : (l.all fun y => decide (hIdx y < mcbCap block2 k)) = true) :
    within2 k l := ⟨n, all_of h⟩
abbrev anchored2 (s : State) (y : W32) (l : List W32) : Prop := hIdx (word2 s 0 (hIdx y) 0) ∈ l.map hIdx

/-- E3 joins V2 and V5 and is the anchor of both; V1 and E6 are reserved. And E3 as an edge that hangs at V5 from V2, whose other edge E4 goes
to V6. -/
def wSplit : State := wMesh2 [(1, 0x43000003), (2, 0x3F000000), (8, 7)] [(0x110020, 0x40000003), (0x110050, 0x41000003),
  (0x1100B0, 0x4500000500000002), (0x1100B8, 0xFFFFFFFFFFFFFFFF), (0x110200, 0x1E00), (0x110208, 0x1000001), (0x110250, 0xFE00000D000000),
  (0x110258, 0x1000006)]
def wColl : State := wMesh2 [(1, 0x43000003), (8, 7)] [(0x110020, 0x40000004), (0x110050, 0x40000003), (0x1100B0, 0x500000002),
  (0x1100B8, 0xFFFFFFFFFFFFFFFF), (0x1100C0, 0x2C0000006), (0x1100C8, 0xFFFFFFFFFFFFFFFF), (0x110200, 0xFD0000000000), (0x110250, 0xD000000)]

theorem witness_SplitsAndCollapsesComplete :
    let edge (s : State) : Prop := (s.S 8).toNat / 2 ^ 32 < 1 ∧ hKind ((s.S 1).setWidth 32) = 1 ∧ gen2 s 1 3 = 4 * 3 + 1 ∧
      hIdx (word2 s 1 3 0) = 2 ∧ hIdx (word2 s 1 3 1) = 5 ∧ word2 s 1 3 2 = 0xFFFFFFFF ∧ word2 s 1 3 3 = 0xFFFFFFFF
    wSplit.runs false false G ∧ wColl.runs false false G ∧
    MeshReady wSplit.ahead ⟨block2, mkCap 0 0x3F 0x100 0x100000⟩ 1 0x294 0x110000 ∧
    MeshReady wColl.ahead ⟨block2, mkCap 0 0x3F 0x100 0x100000⟩ 1 0x294 0x110000 ∧ edge wSplit ∧ edge wColl ∧
    ((wSplit.S 2).toNat % 2 ^ 32 = 0x3F000000 ∧ hIdx (word2 wSplit 0 2 0) = 3 ∧ hIdx (word2 wSplit 0 5 0) = 3 ∧ spawned2 wSplit 0 0 1 ∧ spawned2 wSplit 1 0 6) ∧
    ((word2 wColl 1 3 0).getLsbD 31 = false ∧ (word2 wColl 0 5 1).getLsbD 0 = false ∧ hIdx (word2 wColl 0 5 0) = 3 ∧ word2 wColl 0 2 0 = 0x40000004 ∧
      word2 wColl 1 4 2 = 0xFFFFFFFF ∧ word2 wColl 1 4 3 = 0xFFFFFFFF ∧ hIdx (word2 wColl 1 4 0) = 6 ∧ hIdx (word2 wColl 1 4 1) = 2) :=
  ⟨runs_of (by decide +kernel), runs_of (by decide +kernel),
    meshReady_of (regionReady_of xlat0 space0 (by decide +kernel) (by decide +kernel) (by decide +kernel)),
    meshReady_of (regionReady_of xlat0 space0 (by decide +kernel) (by decide +kernel) (by decide +kernel)), by decide +kernel⟩

/-- R238, R247, R248: the new vertex between the two; the survivor. -/
theorem test_msplit_mcoll : let t := after (exec (.msplit G 0 9 1 2 8) wSplit)
    (t.S 9, bytesRead t.mem.bytes (0x110000 + wordOff block2 1 3 1) 4, bytesRead t.mem.bytes (0x110000 + genOff block2 0 1) 1) =
      (0x0700000100000000, 0x47000001, 29) ∧
    (let t := after (exec (.mcoll G 0 false 9 1 8) wColl)
     (t.S 9, bytesRead t.mem.bytes (0x110000 + genOff block2 0 5) 1, bytesRead t.mem.bytes (0x110000 + genOff block2 1 3) 1) = (0x200000000, 0, 16)) := by
  decide +kernel

/-- Two triangles V4 V1 V2 and V4 V7 V1 on either side of E3; and one triangle with spawn slot 0 full. -/
def wFlip : State := wMesh2 [(1, 0x43000003), (8, 7)] [(0x110010, 0x40000007), (0x110020, 0x40000000), (0x110040, 0x41000001),
  (0x110070, 0x42000005), (0x110080, 0x400000002), (0x110088, 0xFFFFFFFF80000002), (0x110090, 0x700000004), (0x110098, 0xFFFFFFFF83000001),
  (0x1100B0, 0x100000004), (0x1100B8, 0x8300000180000002), (0x1100D0, 0x100000007), (0x1100D8, 0xFFFFFFFF83000001), (0x1100F0, 0x200000001),
  (0x1100F8, 0xFFFFFFFF80000002), (0x110130, 0x100000007), (0x110138, 0x4300000300000004), (0x110140, 0x4200000541000001),
  (0x110148, 0xFFFFFFFF80000002), (0x110150, 0xFFFFFFFF), (0x110160, 0x400000002), (0x110168, 0x4300000300000001),
  (0x110170, 0x4000000040000007), (0x110178, 0xFFFFFFFF83000001), (0x110180, 0xFFFFFFFF), (0x110250, 0xD000000)]
def wRefine : State := wMesh2 [(1, 0x83000003), (2, 0x400), (8, 7)] [(0x110010, 0x40000000), (0x110020, 0x40000007),
  (0x110040, 0x41000001), (0x110080, 0x200000001), (0x110088, 0xFFFFFFFF83000003), (0x110090, 0x100000004), (0x110098, 0xFFFFFFFF83000003),
  (0x1100F0, 0x400000002), (0x1100F8, 0xFFFFFFFF83000003), (0x110190, 0x100000004), (0x110198, 0x4000000000000002),
  (0x1101A0, 0x4100000140000007), (0x1101A8, 0xFFFFFFFFFFFFFFFF), (0x1101B0, 0x4FFFFFFFF), (0x1101B8, 0x600000005), (0x110200, 2),
  (0x110208, 0x1000000), (0x110250, 0x60E00000A0000), (0x110258, 0x100000201000006), (0x110260, 0x1000005), (0x110288, 0x10000020D020016),
  (0x110290, 0x1000000), (0x1000000000400, 0x3E0000003E000000), (0x1000000000408, 0x3F000000)]

theorem witness_FlipsAndRefinesComplete :
    wFlip.runs false false G ∧ MeshReady wFlip.ahead ⟨block2, mkCap 0 0x3F 0x100 0x100000⟩ 1 0x294 0x110000 ∧
    gen2 wFlip 1 3 = 4 * 3 + 1 ∧ hKind ((wFlip.S 1).setWidth 32) = 1 ∧ holds2 wFlip 1 0x43000003 [4, 1, 0x80000002, 0x83000001] ∧
    holds2 wFlip 2 0x80000002 [2, 4, 1, 0x43000003, 0x40000007, 0x40000000, 0x83000001, 0xFFFFFFFF, 0xFFFFFFFF] ∧
    holds2 wFlip 2 0x83000001 [7, 1, 4, 0x43000003, 0x41000001, 0x42000005, 0x80000002, 0xFFFFFFFF, 0xFFFFFFFF] ∧
    holds2 wFlip 1 0x40000007 [1, 2, 0x80000002, 0xFFFFFFFF] ∧ holds2 wFlip 1 0x40000000 [2, 4, 0x80000002, 0xFFFFFFFF] ∧
    holds2 wFlip 1 0x41000001 [4, 7, 0x83000001, 0xFFFFFFFF] ∧ holds2 wFlip 1 0x42000005 [7, 1, 0x83000001, 0xFFFFFFFF] ∧
    (word2 wFlip 2 2 9).getLsbD 0 = false ∧ (word2 wFlip 2 1 9).getLsbD 0 = false ∧ anchored2 wFlip 4 [0x40000000, 0x41000001] ∧
    anchored2 wFlip 1 [0x40000007, 0x42000005] ∧ anchored2 wFlip 2 [0x40000000, 0x40000007] ∧ anchored2 wFlip 7 [0x41000001, 0x42000005] ∧
    within2 0 [4, 1, 2, 7] ∧ within2 1 [0x43000003, 0x40000000, 0x40000007, 0x41000001, 0x42000005] ∧ within2 2 [0x80000002, 0x83000001] ∧
    ∀ y ∈ ([4, 1, 2, 7] : List W32), y.toNat < 2 ^ 30 :=
  ⟨runs_of (by decide +kernel), meshReady_of (regionReady_of xlat0 space0 (by decide +kernel) (by decide +kernel) (by decide +kernel)),
    by
      iterate 15 refine And.intro (by decide +kernel) ?_
      exact ⟨within2_of (by decide +kernel) (by decide +kernel), within2_of (by decide +kernel) (by decide +kernel),
    within2_of (by decide +kernel) (by decide +kernel), all_of (by decide +kernel)⟩⟩

theorem witness_FlipsAndRefinesComplete_refine :
    wRefine.runs false false G ∧ MeshReady wRefine.ahead ⟨block2, mkCap 0 0x3F 0x100 0x100000⟩ 1 0x294 0x110000 ∧
    RawReady wRefine.ahead false (wRefine.S 2) 12 4 ∧
    gen2 wRefine 2 3 = 4 * 3 + 1 ∧ hKind ((wRefine.S 1).setWidth 32) = 2 ∧
    holds2 wRefine 2 0x83000003 [4, 1, 2, 0x40000000, 0x40000007, 0x41000001, 0xFFFFFFFF, 0xFFFFFFFF, 0xFFFFFFFF] ∧
    holds2 wRefine 1 0x40000000 [1, 2, 0x83000003, 0xFFFFFFFF] ∧ holds2 wRefine 1 0x40000007 [2, 4, 0x83000003, 0xFFFFFFFF] ∧
    holds2 wRefine 1 0x41000001 [4, 1, 0x83000003, 0xFFFFFFFF] ∧ anchored2 wRefine 4 [0x40000007, 0x41000001] ∧
    anchored2 wRefine 1 [0x40000000, 0x41000001] ∧ anchored2 wRefine 2 [0x40000000, 0x40000007] ∧ spawned2 wRefine 0 0 0 ∧ spawned2 wRefine 1 0 6 ∧
    spawned2 wRefine 1 1 2 ∧ spawned2 wRefine 1 2 5 ∧ spawned2 wRefine 2 0 2 ∧ spawned2 wRefine 2 1 0 ∧
    (∀ i < 3, let v := bytesRead wRefine.mem.bytes (spadPa 0 (0x400 + 4 * i)) 4
      0 < v ∧ v < 0x7F800000) ∧
    within2 0 [4, 1, 2] ∧ within2 1 [0x40000000, 0x40000007, 0x41000001] ∧ within2 2 [0x83000003] ∧ (∀ y ∈ ([4, 1, 2] : List W32), y.toNat < 2 ^ 30) ∧
    0 ∉ ([4, 1, 2] : List W32).map hIdx ∧ [6, 2, 5].Nodup ∧ ∀ i ∈ [6, 2, 5], i ∉ ([0x40000000, 0x40000007, 0x41000001] : List W32).map hIdx :=
  ⟨runs_of (by decide +kernel), meshReady_of (regionReady_of xlat0 space0 (by decide +kernel) (by decide +kernel) (by decide +kernel)),
    rawReady_of (by decide +kernel) (by decide +kernel), by
      iterate 16 refine And.intro (by decide +kernel) ?_
      exact ⟨within2_of (by decide +kernel) (by decide +kernel),
    within2_of (by decide +kernel) (by decide +kernel), within2_of (by decide +kernel) (by decide +kernel), all_of (by decide +kernel),
    by decide +kernel, by decide +kernel, by decide +kernel⟩⟩

/-- R238, R249, R252: the edge turned; the new vertex. -/
theorem test_mflip_mrefine : let t := after (exec (.mflip G 0 9 1 8) wFlip)
    (t.S 9, bytesRead t.mem.bytes (0x110000 + wordOff block2 1 3 0) 8) = (0x4300000300000000, 0x700000002) ∧
    (let t := after (exec (.mrefine G 0 9 1 2 8) wRefine)
     (t.S 9, bytesRead t.mem.bytes (0x110000 + wordOff block2 2 3 0) 4, bytesRead t.mem.bytes (0x110000 + genOff block2 2 0) 1) = (0, 0, 21)) := by
  decide +kernel

/-! ### System instructions, launches, units -/

/-- In system mode every register may be read and written; FFLAGS waits while the queue holds an instruction of the context. -/
theorem witness_ControlRegistersAreReadAndWritten :
    wSys.runs true false G ∧ (∀ n ∈ [0, 1, 2, 3, 4, 5, 6, 8, 9, 10, 11, 12, 13, 14, 16, 17, 18, 19], crKnown wSys.isAvlyn (BitVec.ofNat 8 n) = true ∧
      wSys.crWaits (BitVec.ofNat 8 n) false = false ∧ wSys.crWaits (BitVec.ofNat 8 n) true = false) ∧ wSys.inSys = true ∧
    (crKnown wAvlyn.isAvlyn 20 = true ∧ crReadOnly 20 = false ∧ wAvlyn.crWaits 20 true = false) ∧ (wRow 1 []).crWaits 5 false = true :=
  ⟨runs_of (by decide +kernel), by decide +kernel⟩

/-- R27, R358: the fields that are written, and those that are not. -/
theorem test_mtc_mfc : let t := after (exec (.mtc G 1 19) (wSys.setS 1 (-1)))
    (t.crRead 19, (after (exec (.mfc G 2 19) t)).S 2, (after (exec (.mtc G 1 14) (wSys.setS 1 (-1)))).my.uframe) =
      (0x0003FFFF0003FFFF, 0x0003FFFF0003FFFF, 0xFFFC1) := by decide +kernel

/-- s1 names no word, s2 an empty word, s3 a full one, s4 a deadline that has passed, s5 one that has not, s6 and s7 a core and context. -/
def wSleep : State :=
  let s := regs [(1, -1), (2, 0x400), (3, 0x200), (4, 10), (5, 11), (6, 4640 * 0x10000), (7, 0x10001), (8, 9 * 0x10000), (9, 11)]
  { s with time := 10, mem := { s.mem with full := [spadPa 0 0x200] } }

theorem witness_SleepWakeAndCounters :
    wSleep.runs true false G ∧ wSleep.S 1 = BitVec.allOnes 64 ∧ (wSleep.S 4 ≠ 0 ∧ (wSleep.S 4).toNat ≤ wSleep.time.toNat) ∧
    ¬(wSleep.S 5 ≠ 0 ∧ (wSleep.S 5).toNat ≤ wSleep.time.toNat) ∧ ¬(wSleep.S 0 ≠ 0) ∧ wSleep.my.wake = false ∧ wSleep.isAvlyn = false ∧
    (RawOk wSleep false (wSleep.S 2) 4 4 ∧ spadPa 0 0x400 ∉ wSleep.mem.full) ∧ (RawOk wSleep false (wSleep.S 3) 4 4 ∧ spadPa 0 0x200 ∈ wSleep.mem.full) ∧
    4640 ≤ ((wSleep.S 6).extractLsb' 16 13).toNat ∧
    (((wSleep.S 8).extractLsb' 16 13).toNat < 4640 ∧ wSleep.inPartition ((wSleep.S 8).extractLsb' 16 13).toNat = false) ∧
    (((wSleep.S 7).extractLsb' 16 13).toNat < 4640 ∧ wSleep.inPartition ((wSleep.S 7).extractLsb' 16 13).toNat = true ∧
      wSleep.ahead.mirrorAll.storesPerformed = true ∧ (unperformed wSleep).ahead.mirrorAll.storesPerformed = false ∧
      ((wSleep.S 7).extractLsb' 0 4).toNat = 1 ∧ ((wSleep.coreAt 1).ctxAt 1).st = .free ∧ ((wSleep.coreAt 0).ctxAt 0).st ≠ .free) ∧
    10 < ((wSleep.S 9).extractLsb' 0 4).toNat ∧ wSleep.queueQuiet wSleep.hand.core wSleep.hand.ctx = true ∧ (busy wSleep).queueQuiet 0 0 = false ∧
    (let s := wSleep.modMy fun c => { c with st := .waiting (.sleep none 10) }
     ((s.coreAt 0).ctxAt 0).st = .waiting (.sleep none 10) ∧ s.condMet 0 0 (.sleep none 10) = true) :=
  ⟨runs_of (by decide +kernel), by
    iterate 6 refine And.intro (by decide +kernel) ?_
    exact ⟨⟨rawOk_of (by decide +kernel), by decide +kernel⟩, ⟨rawOk_of (by decide +kernel), by decide +kernel⟩, by decide +kernel⟩⟩

theorem test_sleep : (after (exec (.sleep G 1 3 0) wSleep)).P 1 = true ∧ (after (exec (.sleep G 1 1 4) wSleep)).P 1 = false ∧
    (after (exec (.sleep G 1 1 5) wSleep)).my.st = .waiting (.sleep none 11) ∧ (after (exec (.wake G 0) wSleep)).my.wake = true := by decide +kernel

/-- Queue 5 of 64 entries at 0x140280, its ring at 0x150000, with HEAD 0 and this TAIL; records at 0x160000 and counters at 0x160020, of
which that at 0x170020 is done in error. -/
def wQueue (tail : Nat) : State :=
  let s := pokes (regs [(1, 0x160000), (2, 5), (3, 24), (4, 0x160001), (5, 0x160020), (6, 0x170020)]) [
    (0x140288, tail), (0x140290, 6), (0x140298, 0x150000), (0x150000, 0x160000), (0x160000, 0x10000), (0x160008, 0x50000),
    (0x170020, 1), (0x170028, 3)]
  { s with parts := [(0, { probePartition with queueBase := some 0x140000 })] }

theorem witness_LaunchesAndCancels :
    let s := wQueue 63
    s.runs true false G ∧ 24 ≤ (s.S 3).toNat ∧ ((s.S 2).toNat < 24 ∧ s.physMode = false ∧ (s.S 4).toNat % 64 ≠ 0 ∧ inAperture (s.S 4).toNat = false) ∧
    ((s.S 1).toNat % 64 = 0 ∧ HbmReady s.ahead (s.S 1) 64 .read 0x160000 ∧ s.queueQuiet s.hand.core s.hand.ctx = true ∧
      s.ahead.storesPerformed = true ∧ s.ahead.mirrorAll.dir.length < 0x8000) ∧
    (s.ahead.mirrorAll.queueHeader s.partNo 5 = some 0x140280 ∧ s.ahead.queueHeader s.partNo 5 = some 0x140280 ∧
      (let rd (n o : Nat) : Nat := bytesRead s.mem.bytes (0x140280 + o) n
       6 ≤ rd 1 16 % 32 ∧ rd 8 24 % 128 = 0 ∧ (rd 4 8 + 2 ^ 32 - rd 4 12) % 2 ^ 32 ≠ 2 ^ (rd 1 16 % 32) ∧
         s.ahead.mirrorAll.translate .distributor 0 (rd 8 24 + 8 * (rd 4 8 % 2 ^ 6)) .write = .ok (s.ahead.mirrorAll, ⟨0, 0x1501F8⟩) ∧ 0x140280 + 32 ≤ 0x1501F8)) ∧
    (let rd (n o : Nat) : Nat := bytesRead (wQueue 64).mem.bytes (0x140280 + o) n
     (rd 4 8 + 2 ^ 32 - rd 4 12) % 2 ^ 32 = 2 ^ (rd 1 16 % 32)) ∧ w0.queueHeader 0 5 = none ∧ s.queueHeader 0 5 = some 0x140280 ∧ s.dir.length < 0x8000 ∧
    ((s.S 5).toNat % 8 = 0 ∧ HbmReady s.ahead (s.S 5) 8 .read 0x160020 ∧ (s.S 5).toNat % 32 = 0 ∧
      (bytesGet s.mem.bytes (0x160020 + 8)).getLsbD 0 = false ∧ (∀ q ∈ s.ahead.myLines (s.S 5).toNat, q ≠ 0x160000) ∧ s.dir = []) ∧
    (HbmReady s.ahead (s.S 6) 8 .read 0x170020 ∧ (bytesGet s.mem.bytes (0x170020 + 8)).getLsbD 0 = true) :=
  ⟨runs_of (by decide +kernel), by decide +kernel, by decide +kernel, ⟨by decide +kernel, hbmReady_of (by decide +kernel), by decide +kernel⟩,
    by decide +kernel, by decide +kernel, by decide +kernel, by decide +kernel, by decide +kernel,
    ⟨by decide +kernel, hbmReady_of (by decide +kernel), by decide +kernel⟩, hbmReady_of (by decide +kernel), by decide +kernel⟩

/-- The header is found without a walk that waits, no host and no slow cache holds it or the slot, and a priority without a queue has none;
a queue whose ring is full or misplaced has no room. -/
theorem witness_LaunchesAndCancels_queue :
    let u := (wQueue 63).ahead.mirrorAll
    u.queueAt u.partNo 5 = (u, some 0x140280) ∧ u.appendLine 0x140280 = some u.partNo ∧ 0x140280 % 128 = 0 ∧
    LinesFree u 0x140280 32 ∧ LinesFree u 0x1501F8 8 ∧ u.mem.poisoned true 0x1501F8 8 = false ∧ 0x1501F8 < hbmSize ∧
    (let v := w0.ahead.mirrorAll; v.queueAt v.partNo 5 = (v, none)) ∧ (wQueue 63).queueAt 0 5 = (wQueue 63, some 0x140280) ∧
    LinesFree (wQueue 63) 0x140280 32 ∧ (wQueue 64).queueAt 0 5 = (wQueue 64, some 0x140280) ∧
    (bytesRead (wQueue 64).mem.bytes 0x140288 4 + 2 ^ 32 - bytesRead (wQueue 64).mem.bytes 0x14028C 4) % 2 ^ 32 = 2 ^ 6 := by
  refine ⟨?_, ?_, ?_, linesFree_of ?_, linesFree_of ?_, ?_, ?_, ?_, ?_, linesFree_of ?_, ?_, ?_⟩ <;> decide +kernel

/-- R258, R344: the record's address at the tail; no room, and the drop is counted. -/
theorem test_launch : let t := after (exec (.launch G 1 1 2) (wQueue 63))
    (t.P 1, bytesRead t.mem.bytes 0x1501F8 8, bytesRead t.mem.bytes 0x140288 4) = (true, 0x160000, 64) ∧
    (let t := after (exec (.launch G 1 1 2) (wQueue 64))
     (t.P 1, bytesRead t.mem.bytes 0x140294 4) = (false, 1)) := by decide +kernel

/-- A held launch, eligible or not, with one unit and these predecessors. -/
def lHeld (preds : List (Nat × BitVec 32 × Bool)) : Launch := { probeLaunch with
  id := 3, st := .held, recVA := 0x160000, place := false, preds := preds, units := [⟨0, .pending, none, none, 0, none, []⟩] }

theorem witness_LaunchesAreDequeuedAndTested :
    w0.canDequeue 0 = false ∧ ((wQueue 1).canDequeue 0 = true ∧ (wQueue 1).topQueue 0 = some (5, 0x140280, 0, 6, 0x150000)) ∧
    (let u := (wQueue 1).distWrite (0x140280 + 12) 4 1
     let slot := u.distAt 0 0x150000 8 .read
     slot.2 = some 0x150000 ∧ bytesRead slot.1.mem.bytes 0x150000 8 = 0x160000 ∧
       (slot.1.readRecord 0 0x160000).2 = some (0x50000 * 2 ^ 64 + 0x10000) ∧ (slot.1.readRecord 0 0x160001).2 = none ∧ (u.distAt 0 0x400000 8 .read).2 = none ∧
       recValid 5 (0x50000 * 2 ^ 64 + 0x10000) = true ∧ recValid 4 (0x50000 * 2 ^ 64 + 0x10000) = false) ∧
    (let s (l : Launch) : State := { wQueue 0 with launches := [l] }
     let t (l : Launch) : Bool := (s l).launchAt l.id == some l && l.st == .held
     t (lHeld []) = true ∧ (lHeld []).eligible = none ∧ t { lHeld [] with eligible := some 0 } = true ∧ (s (lHeld [])).testPreds { lHeld [] with eligible := some 0 } = .eligible ∧ (s (lHeld [])).testPreds (lHeld []) = .eligible ∧ (s (lHeld [(0x160020, 1, false)])).testPreds (lHeld [(0x160020, 1, false)]) = .waits ∧
       (s (lHeld [(0x170020, 0, true)])).testPreds (lHeld [(0x170020, 0, true)]) = .failed ∧
       (s (lHeld [(0x170020, 0, false)])).testPreds (lHeld [(0x170020, 0, false)]) = .eligible ∧
       (s (lHeld [(0x400000, 0, false)])).testPreds (lHeld [(0x400000, 0, false)]) = .unreadable) ∧
    (let l := { lHeld [] with eligible := some 0 }
     let s : State := { wQueue 0 with launches := [l], time := 1000001 }
     s.launchAt 3 = some l ∧ l.aged = false ∧ s.partEntry 0 = some { probePartition with queueBase := some 0x140000 } ∧
       probePartition.ageLimit < s.time.toNat - 0 ∧ ¬probePartition.ageLimit < 1000000) ∧
    (let s : State := { wQueue 0 with launches := [lHeld []] }
     s.chain 0 1 0x160020 = 0x160020 :: [] ∧ 0x160020 ∈ s.chain 0 4 (lHeld []).ctr ∧ s.chain 0 1 0x160021 = []) := by decide +kernel

/-- The same from the state that watches the queues. -/
theorem witness_LaunchesAreDequeuedAndTested_watched :
    (w0.watchQueues 0).canDequeue 0 = false ∧
    (let s := wQueue 1
     let y := s.watchQueues 0
     let u := y.distWrite (0x140280 + 12) 4 1
     let slot := u.distAt 0 0x150000 8 .read
     let va := bytesRead slot.1.mem.bytes 0x150000 8
     y.canDequeue 0 = true ∧ y.topQueue 0 = some (5, 0x140280, 0, 6, 0x150000) ∧ slot.2 = some 0x150000 ∧
       (slot.1.readRecord 0 va).2 = some (0x50000 * 2 ^ 64 + 0x10000)) ∧
    (let s : State := { wQueue 0 with launches := [lHeld []] }
     s.blockers (s.completeEmpty (lHeld []) 2) = [] ∧ s.gains (s.completeEmpty (lHeld []) 2) = [] ∧ (lHeld []).part = 0 ∧ (lHeld []).cancelled = false) ∧
    (w0.blockers (w0.watchQueues 0) = [] ∧ w0.gains (w0.watchQueues 0) = []) ∧
    (let l := { lHeld [] with st := .placed }
     let s : State := { wQueue 0 with launches := [l] }
     l.st = .placed ∧ 0x160020 ∈ s.chain 0 4 l.ctr) := by
  refine ⟨?_, ?_, ?_, ?_, ?_⟩ <;> decide +kernel

/-- R343: with no predecessor a launch is eligible at once; R353: cancelled before it is placed, it is gone. -/
theorem test_predecessor_cancel : let s : State := { wQueue 0 with launches := [lHeld []], time := 7 }
    ((after (exec (.predecessorTest 3) s)).launches.map (·.eligible)) = [some 7] ∧ (after (exec (.cancellation 0 0x160020) s)).launches = [] := by
  decide +kernel

/-- Tile 0 is awake and core 0 free; the environment block has no stacks. -/
def wPlace (l : Launch) : State :=
  let s := pokes w0 [(0x5000, 0x8000), (0x5008, 0x2000000000000)]
  { s.setCore 0 { s.coreAt 0 with unit := none } with launches := [l], tiles := [(0, ⟨false, 0⟩)] }

/-- A launch ready to start, one whose tile is gated, one whose unit is to be restored. -/
def lReady : Launch := { lHeld [] with eligible := some 0 }
def lSaved : Launch := { lHeld [] with st := .placed, units := [⟨0, .saved 0 none, none, none, 0, some Core.reset, []⟩] }

theorem witness_PlacementStartsUnits :
    (wPlace lReady).plan 0 = some (.start 3 [(0, 0)]) ∧
    ((wPlace lReady).env 0).map (·.size) = some 0 ∧ (wPlace lReady).partEntry 0 = some probePartition ∧ (wPlace lReady).launchAt 3 = some lReady ∧
    lReady.part < 16 ∧ ((wPlace lReady).coreAt 0).lastHeld ≠ some 3 ∧
    ({ wPlace lReady with tiles := [(0, ⟨true, 0⟩)] } : State).plan 0 = some (.wake [0]) ∧ (wPlace lSaved).plan 0 = some (.restore 3 0 0) ∧
    w0.plan 0 = none ∧
    (let s : State := { wPlace lReady with parts := [(0, { probePartition with fixed := false })], time := 1000000 }
     s.gateDue 0 = true) := by decide +kernel

/-- The lists of the plan, the block and the scratchpad free, a block with two stacks of which the first is in use, and a gate that is due or
not. -/
theorem witness_PlacementStartsUnits_env :
    (([(0, 0)] : List (Nat × Nat)).map (·.1)).Nodup ∧ ([((0 : Nat), (0 : Nat))].map (·.2)).Nodup ∧
    (wPlace lReady).heldAt (probePartition.envBlock / 128 * 128) = none ∧ (∀ x ∈ [((0 : Nat), (0 : Nat))], LinesFree (wPlace lReady) (spadPa x.2 0) 0x20000) ∧
    (let busy1 : Launch := { probeLaunch with units := [(⟨0, .running 8, some 0, some 8, 0, none, []⟩ : Unit1)] }
     let s := pokes (wPlace lReady) [(0x5018, 0x900000), (0x5020, 2 * 2 ^ 32 + 0x1000)]
     let t : State := { s with launches := [lReady, busy1] }
     let used (j : Nat) : Bool := t.launches.any fun l => l.part == 0 && l.units.any fun x => x.stack == some j
     (t.env 0).map (fun e => (decide (e.size ≠ 0), decide (1 < e.slots))) = some (true, true) ∧ used 0 = true ∧ used 1 = false ∧
       ((List.range 1).filter fun k => !used k).length = 0 ∧ t.plan 0 = some (.start 3 [(0, 0)])) ∧
    (let s : State := { wPlace lReady with parts := [(0, { probePartition with fixed := false })], time := 1000000 }
     (s.tileAt 0).gated = false ∧ (∀ j < 8, (s.coreAt (8 * 0 + j)).unit = none) ∧
       ∃ x ∈ s.parts, x.2.valid = true ∧ x.2.fixed = false ∧ 0 ∈ x.2.tiles ∧ x.2.idleTime ≤ s.time.toNat - (s.tileAt 0).idle) ∧
    (w0.coreAt (8 * 0 + 0)).unit ≠ none := by
  refine ⟨?_, ?_, ?_, fun _ _ => linesFree_of ?_, ?_, ?_, ?_⟩ <;> decide +kernel

/-- R28: the unit starts at its entry, with its number and the number of units. -/
theorem test_placement : let t := after (exec (.placement 0) (wPlace lReady))
    (t.coreAt 0).unit = some ⟨3, 0, 10⟩ ∧ ((t.coreAt 0).ctxAt 0).pc = 0x10000 ∧ ((t.coreAt 0).ctxAt 0).s.get 2 = 1 ∧ (t.coreAt 0).tvec = 0x8000 ∧
    (t.coreAt 0).sphi = 0x20000 := by decide +kernel

/-- A unit that waits at `retire`, one to be saved, one whose launch is cancelled. -/
def wRetire : State := w0.modMy fun c => { c with st := .waiting .retire }
def wSave : State := { w0.modMe fun c => { c with saving := true } with launches := [{ probeLaunch with place := false }] }

theorem witness_UnitsEndAndAreSaved :
    (w0.launchAt 0 = some probeLaunch ∧ w0.endReady 0 = none ∧ wRetire.endReady 0 = some (0, 0)) ∧
    (let s : State := { w0 with tree := [⟨0, 0, 0, 1, 0⟩], launches := [{ probeLaunch with units := [⟨0, .ended, none, some 0, 0, none, []⟩] }] }
     let u : State := { s with tree := [⟨0, 576, 0, 1, 0⟩] }
     s.nodeReady 0 0 = true ∧ s.nodeReady 0 576 = false ∧ u.nodeReady 0 576 = true) ∧
    ((wSave.coreAt 0).unit = some ⟨0, 0, 10⟩ ∧ wSave.saveReady 0 = true ∧ w0.saveReady 0 = false ∧ ∀ l ∈ wSave.launches, l.place = false) ∧
    (let s := wPlace lSaved
     s.launchAt lSaved.id = some lSaved ∧ s.partEntry lSaved.part = some probePartition ∧ (s.env lSaved.part).isSome = true ∧ lSaved.cancelled = false ∧
       lSaved.place = false ∧ s.planRestore probePartition [] lSaved = some (.restore 3 0 0) ∧
       s.coreFree probePartition [] (s.placeCores [] none) 0 = true ∧ s.cmdsGone 3 0 = true ∧
       lSaved.units.find? (·.idx == 0) = some ⟨0, .saved 0 none, none, none, 0, some Core.reset, []⟩) ∧
    (let l := { probeLaunch with cancelled := true }
     let s : State := { w0 with launches := [l] }
     s.launchAt 0 = some l ∧ s.cmds = [] ∧ l.units.find? (·.idx == 0) = some ⟨0, .running 0, none, some 0, 0, none, []⟩ ∧ (s.coreAt 0).frozen = false ∧
       (s.coreAt 0).ending = none ∧ s.coreInCable 0 = false) ∧
    (let s := wSave.modMe fun c => { c with vq := [⟨0, .gang 0 0, ⟨0, 0xFF, false, false, 0⟩⟩] }
     s.withdrawDue 0 = true) ∧ wSave.withdrawDue 0 = false ∧ ((wPlace lSaved).pst 0).quiesced = false ∧ Core.reset.ending = none := by decide +kernel

theorem witness_UnitsEndAndAreSaved_free : AllFree wRetire ∧ (∀ x ∈ wRetire.cores, x.2.flits = []) ∧ AllFree wSave ∧ AllFree (wPlace lSaved) ∧
    (let l := { probeLaunch with cancelled := true }
     let s : State := { w0 with launches := [l] }
     (s.pst l.part).quiesced = false ∧ ∀ u : Unit1, u.st = .pending ∨ u.st = .ended → ∀ g, u.st ≠ .running g) := by
  refine ⟨allFree_of (by decide +kernel), by decide +kernel, allFree_of (by decide +kernel), allFree_of (by decide +kernel), by decide +kernel, ?_⟩
  rintro u (h | h) g <;> simp [h]

/-- R29, R340: the unit's word is on its way, and the root's word ends the launch. -/
theorem test_unit_end : ((after (exec (.unitEnd 0) wRetire)).tree.map fun w => (w.err, w.count)) = [(0, 1)] ∧
    ((after (exec (.unitEnd 0) wRetire)).coreAt 0).unit = none ∧
    (let s : State := { w0 with tree := [⟨0, 576, 0, 1, 0⟩], launches := [{ probeLaunch with units := [⟨0, .ended, none, some 0, 0, none, []⟩] }] }
     (after (exec (.spanningTreeMessage 0 576) s)).launches = [] ∧
       bytesRead (after (exec (.spanningTreeMessage 0 576) s)).mem.bytes (0x7020 + 4) 4 = 1) := by decide +kernel

/-! ### Coherence, hosts, peers -/

/-- The line at `k`, with this owner, sharers and agents awaited. -/
def wDirAt (k : Nat) (o : Option (CacheAgent × Moesi)) (sh aw : List CacheAgent) : State :=
  { w0 with dir := [⟨k, o, sh, none, none, aw, false, [], [], 0⟩] }
abbrev wDir := wDirAt 0x100000

/-- A reply of a load that was translated with the line 0x100000 is on its way. -/
def wUses : State := w0.modMy fun c => { c with replies := [⟨.s 1, 0, 0, [0x100000]⟩] }

theorem witness_CopiesAreDroppedAndForwarded :
    (hostKey 0x100000 = false ∧ w0.dirAt 0x100000 = none) ∧
    (let s := wDir (some (.l1 0, .m)) [.l1 9] [.l1 9]
     s.dirAt 0x100000 = some ⟨0x100000, some (.l1 0, .m), [.l1 9], none, none, [.l1 9], false, [], [], 0⟩ ∧ sOnly (.l1 9) = false) ∧
    (wDir none [.l1 9] []).dirAt 0x100000 = some ⟨0x100000, none, [.l1 9], none, none, [], false, [], [], 0⟩ ∧
    (hostKey hostBase = true ∧ hostBase % 128 = 0 ∧
      (wDirAt (hostBase + 64) none [.l1 9] []).dirAt (hostBase + 64) = some ⟨hostBase + 64, none, [.l1 9], none, none, [], false, [], [], 0⟩ ∧
      [CacheAgent.l1 9].filter (· ≠ .l1 9) = []) ∧
    ((wDir none [.tlb 0] [.tlb 0]).drained (.tlb 0) 0x100000 = true ∧ CacheAgent.tlb 0 ≠ .distributor ∧ sOnly (.tlb 0) = true) ∧
    wUses.drained (.tlb 0) 0x100000 = false := by decide +kernel

/-- R264: the former owner of a dirty line keeps it as O when it forwards a copy. -/
theorem test_forward : ((after (exec (.forward 0x100000 (.l1 9)) (wDir (some (.l1 0, .m)) [] []))).dir.map fun e => (e.owner, e.sharers)) =
    [(some (.l1 0, .o), [.l1 9])] ∧
    (after (exec (.translationInvalidateAck 0x100000 (.tlb 0)) (wDir none [.tlb 0] [.tlb 0]))).dir = [] ∧
    ((after (exec (.invalidation 0x100000 (.l1 9)) (wDir none [.l1 9, .l1 17] []))).dir.map (·.sharers)) = [[.l1 17]] := by
  decide +kernel

/-- Host memory of 4 KiB and a window of device memory of 4 KiB at the page of 0x100000; the bridge holds half 0 of the first line in M. -/
def hostPart : Partition := { probePartition with
  hostSize := 0x1000, hdmBase := 0x100000, hdmSize := 0x1000, binds := [(5, 0)], ports := [0, 1], snoopTime := 20000 }
def wHost (d : LogDev) (b : List Bridge) (hh : List HostHeld) : State :=
  { w0 with
    parts := [(0, hostPart)]
    lds := [(0, d)], bridge := b, hostHeld := hh, peers := [(5, Peer.none), (6, { Peer.none with refused := true })] }
def ldUp : LogDev := ⟨[0, 1], false, false, [(2, 1)], [(2, 1), (3, 0)], 0, [], [], []⟩
def ldDown : LogDev := ⟨[], true, false, [], [], 0, [], [], []⟩

/-- Halves in M, with and without a request; a link that is down; a host that owes an answer to a back-invalidation; the window and both
sides of it; a host's lines with both halves asked for. -/
theorem witness_HostSnoopsAnswersAndAccesses :
    (let s := wHost ldUp [⟨hostBase, .m, .i, none, some true⟩, ⟨hostBase + 128, .i, .i, some false, none⟩] []
     hostKey hostBase = true ∧ hostKey (hostBase + 64) = true ∧ hostBase % 128 = 0 ∧ ((s.bridgeAt hostBase).half false).1 = .m ∧
       s.ldOf hostBase = some 0 ∧ s.ldOf (hostBase + 64) = some 0 ∧ (s.ld 0).down = false ∧ (s.ld 0).frozen = false ∧ hostBase + 128 < 2 ^ 52 ∧
       s.ldOf (hostBase + 128) = some 0 ∧ ((s.bridgeAt hostBase).half true).2 = some true ∧ ((s.bridgeAt (hostBase + 128)).half false).2 = some false ∧
       ((s.bridgeAt (hostBase + 128)).half false).1 = .i ∧ ((s.bridgeAt hostBase).half false).2 = none) ∧
    (let s := wHost ldDown [] []
     s.ldOf hostBase = some 0 ∧ ¬((s.ld 0).down = false ∧ (s.ld 0).frozen = false) ∧ (s.ld 0).down = true ∧ s.hostOwes 0 = false) ∧
    ((wHost { ldUp with frozen := true } [] []).ld 0).frozen = true ∧
    { wHost ldUp [] [⟨0x100000, 0, .m, .s, true, false, 0⟩] with time := 20000 }.hostOwes 0 = true ∧
    (let s := wHost ldUp [] [⟨0x100000, 0, .m, .s, true, false, 0⟩, ⟨0x100080, 0, .s, .m, false, true, 0⟩]
     ((s.setPst 0 { s.pst 0 with quiesced := true }).pst 0).quiesced = true ∧ (s.pst 0).quiesced = false ∧
     s.partEntry 0 = some hostPart ∧ cxlMem 0x100FF8 8 .read = true ∧ hostPart.hdmBase ≤ 0x100FF8 ∧
       0x100FF8 + 8 ≤ hostPart.hdmBase + min hostPart.hdmSize (2 ^ 48) ∧ cxlMem 0x101000 8 .read = true ∧ cxlMem 0xFFFF8 8 .read = true ∧
       hostPart.hdmBase + min hostPart.hdmSize (2 ^ 48) < 0x101000 + 8 ∧ 0xFFFF8 < hostPart.hdmBase ∧
       s.translate (.portTlb (s.portOf 0)) 0 ((0x100FF8 - hostPart.hdmBase) % 2 ^ 48) .read = .ok (s, ⟨0, 0xFF8⟩) ∧
       s.translate (.portTlb (s.portOf 0)) 0 ((0x100FF8 - hostPart.hdmBase) % 2 ^ 48) .write = .ok (s, ⟨0, 0xFF8⟩) ∧
       s.mem.poisoned false 0xFF8 8 = false ∧ s.mem.poisoned true 0xFF8 8 = false ∧ s.appendLine 0xFF8 = none ∧ s.dir = [] ∧
       s.heldAt 0x100000 = some ⟨0x100000, 0, .m, .s, true, false, 0⟩ ∧ s.heldAt 0x100080 = some ⟨0x100080, 0, .s, .m, false, true, 0⟩ ∧
       s.heldAt 0x100100 = none) := by decide +kernel

/-- Snoops unanswered since TIME 0: longer than any timeout, less than any, and by the timeout of the partition table; a half that the
host holds in M and gives up with its bytes, one asked for without, and one that was not asked for. -/
theorem witness_HostSnoopsAnswersAndAccesses_owed :
    let s (t : Nat) (x : HostHeld) : State := { wHost ldUp [] [x] with time := BitVec.ofNat 64 t }
    let m : HostHeld := ⟨0x100000, 0, .m, .s, true, false, 0⟩
    (∃ x ∈ (s 100000000 m).hostHeld, x.ld = 0 ∧ (x.bi0 = true ∨ x.bi1 = true) ∧ 100000000 ≤ ((s 100000000 m).time - x.asked).toNat) ∧
    (∀ x ∈ (s 9999 m).hostHeld, ((s 9999 m).time - x.asked).toNat < 10000) ∧
    (s 0 m).partEntry 0 = some hostPart ∧ (10000 ≤ hostPart.snoopTime ∧ hostPart.snoopTime ≤ 100000000) ∧
    (∃ x ∈ (s 20000 m).hostHeld, hostPart.snoopTime ≤ ((s 20000 m).time - x.asked).toNat) ∧
    (∀ x ∈ (s 19999 m).hostHeld, ((s 19999 m).time - x.asked).toNat < hostPart.snoopTime) ∧
    ((s 0 m).heldAt 0x100000 = some m ∧ m.bi0 = true ∧ m.h0 = .m ∧ m.bi1 = false ∧ 0x100000 < 2 ^ 52) ∧
    (s 0 ⟨0x100000, 0, .m, .i, true, false, 0⟩).heldAt 0x100000 = some ⟨0x100000, 0, .m, .i, true, false, 0⟩ := by
  refine ⟨?_, ?_, ?_, ?_, ?_, ?_, ?_, ?_⟩ <;> decide +kernel

/-- R397, R399: the host's modified bytes go home with its answer, and the half is its no more; past the timeout its port is frozen. -/
theorem test_bisnp : let s := wHost ldUp [] [⟨0x100000, 0, .m, .s, true, false, 0⟩]
    bytesRead (after (exec (.bisnpResponse 0x100000 ⟨false, some 0x55⟩) s)).mem.bytes 0x100000 8 = 0x55 ∧
    ((after (exec (.bisnpResponse 0x100000 ⟨false, some 0x55⟩) s)).heldAt 0x100000) = some ⟨0x100000, 0, .i, .s, false, false, 0⟩ ∧
    ((after (exec (.snoopTimeout 0) { s with time := 20000 })).ld 0).frozen = true ∧
    ((after (exec (.snoopTimeout 0) { s with time := 19999 })).ld 0).frozen = false := by decide +kernel

/-- The page-table lines of that access are not the line it writes. -/
theorem witness_HostSnoopsAnswersAndAccesses_lines : ∀ y, (wHost ldUp [] []).space 0 = some y →
    ∀ q ∈ (wHost ldUp [] []).linesFor (.portTlb ((wHost ldUp [] []).portOf 0)) y 0xFF8, q ≠ 0xF80 := by
  have h : ((wHost ldUp [] []).space 0).all (fun y => ((wHost ldUp [] []).linesFor (.portTlb ((wHost ldUp [] []).portOf 0)) y 0xFF8).all (· != 0xF80)) = true := by decide +kernel
  intro y e q m
  rw [e] at h
  simpa using List.all_eq_true.mp h q m

/-- R394, R399: a snooped half goes, and the other half's copy stays; an access past the window freezes the logical device. -/
theorem test_host : let s := wHost ldUp [⟨hostBase, .m, .i, none, none⟩] []
    ((after (exec (.snpInv hostBase false) s)).bridgeAt hostBase).h0 = .i ∧ ((after (exec (.snpData hostBase false) s)).bridgeAt hostBase).h0 = .s ∧
    ((after (exec (.snpData hostBase false) { s with dir := [⟨hostBase, some (.l1 0, .m), [], none, none, [], false, [], [], 0⟩] })).dir.map fun e =>
      (e.owner, e.sharers)) = [(none, [.l1 0])] ∧
    ((after (exec (.hostCxlMemAccess 0 0x101000 8 .read 0) s)).ld 0).frozen = true ∧
    bytesRead (after (exec (.hostCxlMemAccess 0 0x100FF8 8 .write 0x1122) s)).mem.bytes 0xFF8 8 = 0x1122 := by decide +kernel

/-- R395: what the host gives for a half is what the device then reads. -/
theorem test_host_response : let t := after (exec (.hostResponse hostBase ⟨true, some 0x77⟩) (wHost ldUp [⟨hostBase, .m, .i, none, some false⟩] []))
    bytesRead t.mem.bytes (hostBase + 64) 8 = 0x77 := by decide +kernel

theorem witness_PeerRequestsAndTimeouts :
    let s := wHost ldUp [] []
    let owing := { s with time := 20000, dir := [⟨0x100000, none, [.fabric 5], none, none, [.fabric 5], false, [0], [], 0⟩] }
    (s.peer 6).refused = true ∧ (owing.peerOwes 5 = true ∧ (owing.peer 5).refused = false) ∧ s.peerOwes 5 = false ∧
    s.boundTo 5 1 = none ∧ s.boundTo 5 0 = some 0 ∧
    s.heldAt (0x100000 / 128 * 128) = none ∧ s.appendLine 0x100000 = none ∧ s.translate (.fabricTlb (Config.fabricPort 5)) 0 (0x100000 % 2 ^ 48) .read = .ok (s, ⟨0, 0x100000⟩) ∧
    s.translate (.fabricTlb (Config.fabricPort 5)) 0 (0x100000 % 2 ^ 48) .write = .ok (s, ⟨0, 0x100000⟩) ∧ s.mem.poisoned true 0x100000 8 = false ∧
    busSized .read 0x10007C 8 = false ∧ s.dir = [] ∧
    (s.pst 0).quiesced = false ∧ (s.setPst 0 { s.pst 0 with quiesced := true }).pst 0 = { s.pst 0 with quiesced := true } ∧
    s.translate (.fabricTlb (Config.fabricPort 5)) 0 (0x100000 % 2 ^ 48) .update = .ok (s, ⟨0, 0x100000⟩) ∧ s.mem.poisoned false 0x100000 8 = false ∧
    (s.space 0).all (fun y => (s.linesFor (.fabricTlb (Config.fabricPort 5)) y 0x100000).all (· != 0x100000)) = true := by decide +kernel

/-- Acknowledgements of a peer awaited since TIME 0: for longer than any snoop timeout, and for less than any. -/
theorem witness_PeerRequestsAndTimeouts_bounds :
    let owing (t : Nat) : State :=
      { wHost ldUp [] [] with time := BitVec.ofNat 64 t, dir := [⟨0x100000, none, [.fabric 5], none, none, [.fabric 5], false, [0], [], 0⟩] }
    (∃ e ∈ (owing 100000000).dir, .fabric 5 ∈ e.awaited ∧ 100000000 ≤ ((owing 100000000).time - e.asked).toNat) ∧
    (∀ e ∈ (owing 9999).dir, .fabric 5 ∈ e.awaited → ((owing 9999).time - e.asked).toNat < 10000) ∧ (owing 19999).peerOwes 5 = false ∧
    0x100000 % 128 + 16 ≤ 128 ∧ (∀ p : Nat, p % 128 = 0x100000 % 128 ↔ p % 128 = 0) := by
  refine ⟨by decide +kernel, by decide +kernel, by decide +kernel, by decide, by simp⟩

/-- R400, R401, R420: what a peer writes, 16 bytes too, and adds at home; a request to a partition that is quiesced is held. -/
theorem test_peer : bytesRead (after (exec (.peerDeviceRequest 5 0 0x100000 16 .write (0x77 * 2 ^ 64)) (wHost ldUp [] []))).mem.bytes 0x100008 8 = 0x77 ∧
    ((after (exec (.peerDeviceRequest 5 1 0x100000 8 .write 0x77) (wHost ldUp [] []))).peer 5).refused = true ∧
    bytesRead (after (exec (.peerDeviceRequest 5 0 0x100000 8 (.amo 0) 7) (poke (wHost ldUp [] []) 0x100000 8 5))).mem.bytes 0x100000 8 = 12 ∧
    (let s := (wHost ldUp [] []).setPst 0 { (wHost ldUp [] []).pst 0 with quiesced := true }
     (after (exec (.peerDeviceRequest 5 0 0x100000 8 .write 0x77) s)).heldBus = [.peerDeviceRequest 5 0 0x100000 8 .write 0x77]) := by decide +kernel

/-! ### Repair and management -/

/-- An owner of stack 0 holds the line dirty, in the mirror, with the home's copy, or with neither; the timeout has passed or not. -/
def wOwner (home mirror : Option (List Byte)) (takeover : Bool) : State :=
  { w0 with dir := [⟨0x100000, some (.l1 0, .m), [], home, mirror, [], takeover, [], [], 0⟩] }

theorem witness_MirrorsAndSoftErrors :
    ((wOwner none none false).dirAt 0x100000 = some ⟨0x100000, some (.l1 0, .m), [], none, none, [], false, [], [], 0⟩ ∧
      (⟨0x100000, some (.l1 0, .m), [], none, none, [], false, [], [], 0⟩ : DirEntry).ownerStack = some 0) ∧
    (∀ k ∈ lineKeys 0x100000, (w0.dirAt k).bind (·.ownerStack) = none) ∧
    (let s := wOwner none (some (List.replicate 128 7)) true
     s.dirAt 0x100000 = some ⟨0x100000, some (.l1 0, .m), [], none, some (List.replicate 128 7), [], true, [], [], 0⟩ ∧ 0x100000 < 2 ^ 52 ∧ 0x100000 % 128 = 0 ∧ isHost 0x100000 = false) ∧
    (let s := wOwner (some (List.replicate 128 9)) none true
     s.mirrors (agentStack (.l1 0)) = true ∧ moesiDirty .m = true) ∧
    (let s : State := { wOwner none none true with removed := [1] }
     s.mirrors (agentStack (.l1 0)) = false ∧ (1 ∈ s.removed ∧ 0 ∉ s.removed)) ∧
    ∀ k ∈ lineKeys 0x100000, ((wOwner none none false).dirAt k).map (·.takeover) ≠ some true := by decide +kernel

/-- The buddy supplies the line, or does not: the home's bytes, a clean owner; what is kept has 128 bytes. -/
theorem witness_MirrorsTakeOver_supplied :
    (let s := wOwner none (some (List.replicate 128 7)) true
     moesiDirty .m = true ∧ s.mirrors (agentStack (.l1 0)) = true ∧ ∀ l, some (List.replicate 128 (7 : Byte)) = some l ∨ none = some l → l.length = 128) ∧
    (none : Option (List Byte)) = none ∧ moesiDirty .e = false := by
  refine ⟨⟨rfl, by decide +kernel, ?_⟩, rfl, rfl⟩
  rintro l (h | h)
  · cases h; simp
  · cases h

/-- R419, R421: the mirror's bytes; poison when mirror and home are gone. -/
theorem test_takeover : bytesRead (after (exec (.takeoverRequest 0x100000) (wOwner none (some (List.replicate 128 7)) true))).mem.bytes 0x10007F 1 = 7 ∧
    (after (exec (.takeoverRequest 0x100000) { wOwner none none true with removed := [1] })).mem.poison = [0x100000] ∧
    (after (exec (.stackRemoval 0) w0)).removed = [0] ∧ ((after (exec (.stackRemoval 0) w0)).coreAt 0).unit = none := by decide +kernel

/-- A link with two ports up, with one, and down; a quarantine region at the end of the mapped memory with one entry. -/
theorem witness_HostLinksGoDownAndUp :
    ∃ e, (wHost ldUp [] []).partEntry 0 = some e ∧ (wHost ldDown [] []).partEntry 0 = some e ∧ ((wHost ldDown [] []).ld 0).down = true ∧
      ((wHost ldUp [] []).ld 0).down = false ∧ 2 ∉ ((wHost ldUp [] []).ld 0).portsUp ∧ 0 ∈ ((wHost ldUp [] []).ld 0).portsUp ∧
      (∃ q ∈ ((wHost ldUp [] []).ld 0).portsUp, q ≠ 0) ∧
      (∀ q ∈ ((wHost { ldUp with portsUp := [0] } [] []).ld 0).portsUp, q = 0) ∧
      e.quarBase + 128 * (bytesRead (wHost ldUp [] []).mem.bytes (e.quarBase + 4) 4 + 1) ≤ hostBase + 0 :=
  ⟨hostPart, by decide +kernel⟩

/-- R422: the host's requests that a quiesced partition held are lost with the link. -/
theorem test_link_requests : let s : State := { wHost ldUp [] [] with heldBus := [.hostCxlMemAccess 0 0x100FF8 8 .write 7] }
    (after (exec (.linkDown 0) s)).heldBus = [] ∧ (after (exec (.linkDown 0) s)).agenda = [] := by decide +kernel

theorem test_link : ((after (exec (.portLinkLoss 0 0) (wHost ldUp [] []))).ld 0).portsUp = [1] ∧
    ((after (exec (.linkDown 0) (wHost ldUp [⟨hostBase, .m, .i, none, none⟩] []))).ld 0).down = true ∧
    ((after (exec (.linkUp 0) (wHost ldDown [] []))).ld 0).portsUp = [0, 1] := by decide +kernel

theorem witness_MirrorsAndSoftErrors_errors : (0 < 4608 ∧ 0x1FFFF < 0x20000) ∧ ((w0.coreAt 0).unit ≠ none ∧ (w0.coreAt 0).ending = none) ∧
    (w0.coreAt 1).unit = none ∧
    (wOwner none (some (List.replicate 128 7)) false).dirAt (0x10007F / 128 * 128) =
      some ⟨0x100000, some (.l1 0, .m), [], none, some (List.replicate 128 7), [], false, [], [], 0⟩ := by decide +kernel

/-- A line dirty in an L1 and not in an L2 slice, one dirty in its own slice, one that no cache holds. -/
theorem witness_SoftErrorsPoison_caches :
    let o := wOwner none none false
    let z : State := { w0 with caches := { w0.caches with l2dirty := [0x100000] } }
    (∃ k ∈ lineKeys (keyLine 0x10007F), (o.dirAt k).bind (·.owner) = some (.l1 0, .m)) ∧ moesiDirty .m = true ∧
    (∀ k ∈ lineKeys (keyLine 0x10007F), k ∉ o.caches.l2dirty) ∧
    (∃ k ∈ lineKeys (keyLine 0x10007F), k ∈ z.caches.l2dirty) ∧ 0x10007F / 128 * 128 ∈ z.caches.l2dirty ∧
    (∀ k ∈ lineKeys (keyLine 0x10007F), (w0.dirAt k).bind (·.owner) = none ∧ k ∉ w0.caches.l2dirty) := by
  refine ⟨?_, ?_, ?_, ?_, ?_, ?_⟩ <;> decide +kernel

/-- R411: a clean line that is hit is fetched again, and nobody is told; a dirty one is poisoned. -/
theorem test_cache_errors : (after (exec (.uncorrectableError (.l2Line 0x100000) 0) w0)).mailbox = w0.mailbox ∧
    (after (exec (.uncorrectableError (.l2Line 0x100000) 0) { w0 with caches := { w0.caches with l2dirty := [0x100000] } })).mem.poison = [0x100000] ∧
    (after (exec (.uncorrectableError (.l1Line 0x100000) 0) (wOwner none none false))).mem.poison = [0x100000] := by decide +kernel

theorem test_errors : (after (exec (.uncorrectableError (.spadWord (spadPa 0 0x1FFFF)) 0) w0)).mem.poison = [spadPa 0 0x1FFFC] ∧
    (after (exec (.uncorrectableError (.hbmLine 0x1000FF) 0) w0)).mem.poison = [0x100080] ∧
    (after (exec (.patrolScrub 0x1000FF true) w0)).mem.poison = [0x100080] ∧
    (after (exec (.uncorrectableError (.mirrorEntry 0x10007F) 0) (wOwner none (some (List.replicate 128 7)) false))).mem.poison = [0x100000] ∧
    ((after (exec (.uncorrectableError (.coreState 0) 0) w0)).coreAt 0).ending = some (1, 12) := by decide +kernel

/-- Stack 0 has a clock change asked for, acknowledged or not; core 0 is frozen; partition 0 is fixed. -/
def wClock (acked : Bool) : State := { w0 with clocks := [(0, ⟨1600, some 1200, acked⟩)] }

/-- A frozen logical device 0 that the device asked for a half, and a peer 6 whose traffic is refused. -/
def wReleases : State := wHost { ldUp with frozen := true } [⟨hostBase, .s, .i, none, some true⟩] [⟨0x100000, 0, .s, .i, false, false, 0⟩]

/-- R426: a released host has its halves in I, a released peer is served. -/
theorem test_release : ((after (exec (.masterRelease (.host 0)) wReleases)).ld 0).frozen = false ∧
    (after (exec (.masterRelease (.host 0)) wReleases)).bridge = [] ∧ (after (exec (.masterRelease (.host 0)) wReleases)).hostHeld = [] ∧
    ((after (exec (.masterRelease (.peer 6)) wReleases)).peer 6).refused = false := by decide +kernel

theorem witness_ManagementOfPartitionsAndClocks :
    ((w0.coreAt 0).frozen = false ∧ w0.cmds = []) ∧ (probePartition.valid = true ∧ probePartition.fixed = true) ∧
    (let s := w0.modMe fun c => { c with frozen := true }
     (s.coreAt 0).frozen = true ∧ (s.coreAt 0).unit ≠ none ∧ s.launchOf 0 = some probeLaunch) ∧
    ((w0.setCore 5 { Core.reset with frozen := true }).coreAt 5).unit = none ∧
    ((w0.ld 0).frozen = false ∧ (w0.peer 5).refused = false ∧ wReleases.ldOf hostBase = some 0 ∧ (wReleases.ld 0).frozen = true ∧
      (wReleases.peer 6).refused = true) ∧
    (1500 ∉ [1600, 1200, 800] ∧ (1200 ≠ 1600 ∧ ∃ k ∈ w0.clockGroup 0, w0.fixedStack k = true)) ∧
    (800 ∈ [1600, 1200, 800] ∧ ∀ k ∈ w0.clockGroup 3, w0.fixedStack k = false) ∧
    (let held := ((wClock false).clockGroup 0).filter (wClock false).clockHeld
     0 ∈ held ∧ (∀ k ∈ held, (wClock false).clockSafe k = true) ∧ (∃ k ∈ held, ((wClock false).clock k).acked = false) ∧ 1 ∉ held) ∧
    (15 < 16 ∧ 16 ≤ 16) ∧
    (let s := (wClock false).setRow 0 { (w0.row 0) with running := some ⟨9, 0, 0, 0, 0, false, [], 0⟩ }
     ∃ k ∈ (s.clockGroup 0).filter s.clockHeld, s.clockSafe k = false) ∧
    (let held := ((wClock true).clockGroup 0).filter (wClock true).clockHeld
     0 ∈ held ∧ (∀ k ∈ held, ((wClock true).clock k).acked = true) ∧ ∃ q ∈ (wClock true).clockGroup 0, (wClock true).fixedStack q = true) ∧
    (let s : State := { wClock true with parts := [] }
     0 ∈ (s.clockGroup 0).filter s.clockHeld ∧ (s.clock 0).acked = true ∧ ∀ q ∈ s.clockGroup 0, s.fixedStack q = false) ∧
    (let s : State := { w0 with parts := [(0, { probePartition with fixed := false, tiles := [1] })] }
     ∃ x ∈ s.parts, x.2.valid = true ∧ x.2.fixed = false ∧ ∃ n ∈ x.2.tiles, s.tileBusy n = false) ∧
    ({ w0 with stopped := true } : State).stopped = true ∧
    (let t := after (exec (.quiesce 0 true) { w0 with dir := [⟨0x100000, some (.l1 0, .m), [.l1 9], none, none, [], false, [], [], 0⟩] })
     (t.dirAt 0x100000).map (t.dirtyOf 0 probePartition) = some false) := by decide +kernel

/-- R3: with the partition quiesced no line is dirty in its own slice. -/
theorem witness_ManagementOfPartitionsAndClocks_slices :
    let s : State := { w0 with caches := { w0.caches with l2dirty := [0x100000] } }
    s.partEntry 0 = some probePartition ∧ s.lineOwner (keyLoc 0x100000).pa = some (0, probePartition) ∧
    (after (exec (.quiesce 0 true) s)).caches.l2dirty = [] ∧ (∀ x ∈ w0.cmds, x.core = 0 → x.st ≠ .frozen) := by
  refine ⟨?_, ?_, ?_, ?_⟩ <;> decide +kernel

theorem test_clock : ((after (exec (.clockChangeAck 0) (wClock false))).clock 0) = ⟨1600, some 1200, true⟩ ∧
    ((after (exec (.clockChangeComplete 0) { wClock true with parts := [] })).clock 0).mhz = 1200 ∧
    ((after (exec (.clockChangeComplete 0) (wClock true))).clock 0).mhz = 1600 ∧
    (after (exec .thermalTrip w0)).stopped = true ∧ ((after (exec .thermalTrip w0)).coreAt 0).frozen = true := by decide +kernel

/-- Bring-up at stage `n`. -/
def wStage (n : Nat) (recovery : Bool) : State := { State.reset with fw := { State.reset.fw with stage := n, recovery := recovery } }

/-- An event owned by the host, one by the device, one of either. The clause on a recovery image asks for an image that `Config.sm2Verify`
accepts: whether there is one is a free value, so that its hypothesis can be named here but not met. -/
theorem witness_EventsFirmwareAndAttestation :
    (let s := wHost ldUp [] []
     (∃ e, s.partEntry 0 = some e) ∧ (s.ld 0).pending.find? (·.1 == 2) = some (2, 1) ∧ (s.ld 0).pending.find? (·.1 == 3) = some (3, 0) ∧
       ((2 : Nat), (1 : BitVec 2)).2 = 1 ∧ ¬(((3 : Nat), (0 : BitVec 2)).2 = 1 ∨ ((3 : Nat), (0 : BitVec 2)).2 = 2 ∧ true = true) ∧ (s.ld 0).down = false ∧
       (s.ld 0).pending.find? (·.1 == 4) = none) ∧
    ((wHost { ldUp with frozen := true, pending := [(2, 1)] } [] []).ld 0).frozen = true ∧
    (wHost { ldDown with pending := [(2, 1)] } [] []).ld 0 = { ldDown with pending := [(2, 1)] } ∧
    ((wStage 1 false).fw.recovery = false ∧ (wStage 1 false).fw.stage = 1 ∧ (wStage 2 false).fw.stage = 2 ∧ (wStage 3 false).fw.stage = 3 ∧ (wStage 4 false).fw.stage = 4 ∧
      5 ≤ (wStage 5 false).fw.stage ∧ (wStage 0 true).fw.recovery = true) ∧
    (∀ x : Image, Config.sm2Verify (Config.sm3 x.bytes) x.sig = true → Config.fusedVersion ≤ x.version → imageOk x = true) := by
  refine ⟨⟨⟨hostPart, by decide +kernel⟩,
    by decide +kernel⟩, by decide +kernel, by decide +kernel, by decide +kernel, fun x a b => by simp [imageOk, a, b]⟩

theorem test_bring_up : (after (exec .powerOn (wStage 1 false))).fw.stage = 2 ∧ (after (exec .powerOn (wStage 3 false))).fw.stage = 4 ∧
    ((after (exec (.hostEventDelivery 0 2 false) (wHost ldUp [] []))).ld 0).ringHead = 1 ∧
    (after (exec .getCapabilities (after (exec .getVersion w0)))).fw.answers = [.version [0x12, 0x13], .capabilities false] := by decide +kernel

/-! ### Encodings, the step, invariants -/

theorem witness_DecodeOfEncodeIsTheInstruction : (Instr.msplitC ⟨false, 3⟩ 0 5 6 7 8).wf = true ∧ (Instr.mov G 0 0).wf = true := by decide

theorem witness_DecodedInstructionsAreWellFormed :
    decode [0xFC03, 0xF903, 0xFD40, 0x5DDD, 0] = some (.msplitC ⟨false, 3⟩ 0 5 6 7 8, 4) ∧ decode [0x3000] = some (.mov G 0 0, 1) := by decide

/-- Something in the agenda, an event whose turn it is, an instruction, a word that decodes to none, an address that cannot be fetched, a
pending lapse, nothing to issue. -/
theorem witness_StepRunsTheDecodedInstruction :
    w0.stopped = false ∧ ({ w0 with agenda := [.preempt 0] } : State).agenda = .preempt 0 :: [] ∧ managed (.preempt 0) = false ∧
    managed (.quiesce 0 true) = true ∧
    (let s : State := { wRetire with devTurn := true }
     s.agenda = [] ∧ s.devTurn = true ∧ s.internal.isSome = true) ∧
    (w0.agenda = [] ∧ w0.devTurn = false ∧ ({ w0 with devTurn := true } : State).tick.pick = some (0, 0)) ∧
    ({ wRetire with pace := [], devTurn := true } : State).tick.pick = none ∧ wUpd.lapseNext 0 = true ∧
    (let v := State.reset.withFetchWord 32 0xF9038512
     (v.fetch 0x10000).toOption.map (·.2) = some [0xF903, 0x8512] ∧ (decode [0xF903, 0x8512]).isSome = true) ∧
    (let v := State.reset.withFetchWord 16 0xE800
     (v.fetch 0x10000).toOption.map (·.2) = some [0xE800] ∧ decode [0xE800] = none) ∧
    (w0.fetch 0x400000).isOk = false ∧
    (w0.me.icache = [] ∧ smapGet? (w0.modMe fun c => { c with icache := [(0x10000, ⟨0x10000, [some 0x4905]⟩)] }).me.icache (icacheKey 0 (0x10000 / 128 * 128)) = some ⟨0x10000, [some 0x4905]⟩ ∧
      isPfx 0x4905 = false) ∧
    (w0.translateMy 0x10000 .fetch = .ok (w0, ⟨0, 0x10000⟩) ∧ 0x10000 < hbmSize ∧ w0.mem.poisoned false 0x10000 2 = false ∧
      w0.heldAt (0x10000 / 128 * 128) = none ∧ isPfx (BitVec.ofNat 16 (bytesRead w0.mem.bytes 0x10000 2)) = false) := by decide +kernel

/-- A fetch through window 6, of a page of another partition, by a walk that meets a line that a host holds, and of a line that a host holds;
one held at another value in the instruction cache. -/
theorem witness_StepRunsTheDecodedInstruction_fetch :
    let kind (s : State) (pc : Word) : Nat := match s.fetch pc with
      | .error (.inl (_, .flt .., _)) => 1
      | .error (.inl (_, .violation, _)) => 2
      | .error (.inl (_, .wait _, _)) => 3
      | .error (.inr _) => 5
      | .ok _ => 0
    kind w0 0xF000000C0000 = 1 ∧ kind (pokes w0 [(0x1F00, 0x4001), (0x4000, 0x9001), (0x9000, 0x4000090F)]) 0xF00000000000 = 2 ∧
    kind { w0 with hostHeld := [⟨0x2000, 0, .m, .i, false, false, 0⟩] } 0x10000 = 3 ∧
    kind { w0 with hostHeld := [⟨0x10000, 0, .m, .i, false, false, 0⟩] } 0x10000 = 5 ∧ w0.appendLine 0x10000 = none ∧ w0.dir.length < 0x8000 ∧
    w0.aperture 0x10000 = false ∧ ([some 0x4905] : List (Option Half)).getD (0x10000 % 128 / 2) none = some 0x4905 ∧ isPfx 0x4905 = false ∧
    0x10000 % 128 = 0 ∧ 0x10000 < hbmSize ∧ w0.heldAt 0x10000 = none := by decide +kernel

/-- R5: a management event acts before what was put into the agenda ahead of it. -/
theorem test_agenda : (after (step { w0 with agenda := [.preempt 0, .quiesce 0 true] })).agenda = [.preempt 0] := by decide +kernel

/-- The first step after reset runs the word placed: `add s1, s0, 5` (0x4905), and `brk` without a handler ends the unit. -/
theorem test_step : (after (step (State.reset.withFetchWord 16 0x4905))).S 1 = 5 ∧
    ((after (step (State.reset.withFetchWord 16 0xE000))).coreAt 0).ending = some (1, 20) := by decide +kernel

theorem witness_StepKeepsMemoryCanonical : Memory.wf w0.mem = true ∧ (∃ t, step w0 = .next t) ∧ Memory.wf (after (step w0)).mem = true := by
  refine ⟨by decide +kernel, ⟨after (step w0), ?_⟩, by decide +kernel⟩
  have h : (match step w0 with
    | .next _ => true
    | _ => false) = true := by decide +kernel
  unfold after
  cases e : step w0 with
  | next s => rfl
  | fault r => rw [e] at h; cases h
  | refused r => rw [e] at h; cases h


end Sys2Proof.Tests
end

section
/-! SUPPORT. What moves only copies of lines: the directory, what caches, the bridge and the hosts hold (R264, R390 to R397). -/

namespace Sys2Proof.Machine

/-- Looking an entry up by its key after a change of entries that keeps their keys. -/
theorem find?_map_of_key {α : Type} {key : α → Nat} {f : α → α} (hf : ∀ x, key (f x) = key x) (l : List α) (k : Nat) :
    (l.map f).find? (key · == k) = (l.find? (key · == k)).map f := by
  rw [List.find?_map]
  congr 2
  funext x
  simp only [Function.comp, hf]

theorem mem_of_smapGet? {α : Type} {m : SMap α} {k : Nat} {v : α} (h : smapGet? m k = some v) : (k, v) ∈ m := by
  induction m with
  | nil => cases h
  | cons x m ih =>
    obtain ⟨j, w⟩ := x
    by_cases hj : j = k
    · simp_all [smapGet?]
    · exact List.mem_cons_of_mem _ (ih (by simpa [smapGet?, hj] using h))

/-- A lookup after a change of every value of a map. -/
theorem smapGet?_mapVal {α : Type} (f : Nat → α → α) (m : SMap α) (k : Nat) :
    smapGet? (m.map fun x => (x.1, f x.1 x.2)) k = (smapGet? m k).map (f k) := by
  induction m with
  | nil => rfl
  | cons x m ih =>
    obtain ⟨j, v⟩ := x
    by_cases h : j = k
    · subst h; simp [smapGet?]
    · simp [smapGet?, h, ih]

/-- `t` is `s` but for the copies of lines: the directory, what caches, the bridge and the hosts hold, and what telemetry counts of it. -/
def CopiesOnly (s t : State) : Prop :=
  ∃ d c b h tl, t = { s with dir := d, caches := c, bridge := b, hostHeld := h, telemetry := tl }

namespace CopiesOnly

theorem refl (s : State) : CopiesOnly s s := ⟨_, _, _, _, _, rfl⟩

theorem trans {s t u : State} : CopiesOnly s t → CopiesOnly t u → CopiesOnly s u := by
  rintro ⟨_, _, _, _, _, rfl⟩ ⟨_, _, _, _, _, rfl⟩
  exact ⟨_, _, _, _, _, rfl⟩

theorem foldl {α : Type} {f : State → α → State} (h : ∀ s x, CopiesOnly s (f s x)) (xs : List α) (s : State) :
    CopiesOnly s (xs.foldl f s) := by
  induction xs generalizing s with
  | nil => exact .refl s
  | cons x xs ih => exact (h s x).trans (ih _)

variable {s t : State} (h : CopiesOnly s t)
include h

theorem mem : t.mem = s.mem := by obtain ⟨_, _, _, _, _, rfl⟩ := h; rfl
theorem cores : t.cores = s.cores := by obtain ⟨_, _, _, _, _, rfl⟩ := h; rfl
theorem parts : t.parts = s.parts := by obtain ⟨_, _, _, _, _, rfl⟩ := h; rfl
theorem pstate : t.pstate = s.pstate := by obtain ⟨_, _, _, _, _, rfl⟩ := h; rfl
theorem device : t.device = s.device := by obtain ⟨_, _, _, _, _, rfl⟩ := h; rfl
theorem tiles : t.tiles = s.tiles := by obtain ⟨_, _, _, _, _, rfl⟩ := h; rfl
theorem clocks : t.clocks = s.clocks := by obtain ⟨_, _, _, _, _, rfl⟩ := h; rfl
theorem fw : t.fw = s.fw := by obtain ⟨_, _, _, _, _, rfl⟩ := h; rfl
theorem peers : t.peers = s.peers := by obtain ⟨_, _, _, _, _, rfl⟩ := h; rfl

end CopiesOnly

theorem copiesOnly_setDir (s : State) (k : Nat) (e : Option DirEntry) : CopiesOnly s (s.setDir k e) := ⟨_, _, _, _, _, rfl⟩
theorem copiesOnly_modDir (s : State) (k : Nat) (f : DirEntry → DirEntry) : CopiesOnly s (s.modDir k f) := ⟨_, _, _, _, _, rfl⟩
theorem copiesOnly_sliceClean (s : State) (k : Nat) : CopiesOnly s (s.sliceClean k) := ⟨_, _, _, _, _, rfl⟩
theorem copiesOnly_dropDerived (s : State) (a : CacheAgent) (k : Nat) : CopiesOnly s (s.dropDerived a k) := ⟨_, _, _, _, _, rfl⟩
theorem copiesOnly_mirrorNow (s : State) (k : Nat) : CopiesOnly s (s.mirrorNow k) := copiesOnly_modDir s k _

theorem copiesOnly_modHalf (s : State) (k : Nat) (f : HalfSt → HalfSt) : CopiesOnly s (s.modHalf k f) := by
  unfold State.modHalf
  split
  · exact ⟨_, _, _, _, _, rfl⟩
  · exact .refl s

theorem copiesOnly_writeBack (s : State) (k : Nat) : CopiesOnly s (s.writeBack k) := by
  unfold State.writeBack
  refine (copiesOnly_sliceClean s k).trans ?_
  dsimp only
  split
  · split
    · split
      · exact (copiesOnly_modDir _ _ _).trans (copiesOnly_modHalf _ _ _)
      · exact .refl _
    · exact .refl _
  · exact .refl _

theorem copiesOnly_dropSharers (s : State) (k : Nat) (as : List CacheAgent) :
    CopiesOnly s (as.foldl (fun s a => if sOnly a then s.dropDerived a k else s) s) :=
  .foldl (fun s a => by split <;> [exact copiesOnly_dropDerived s a k; exact .refl s]) as s

theorem copiesOnly_evictLine (s : State) (e : DirEntry) : CopiesOnly s (s.evictLine e) :=
  (copiesOnly_writeBack s e.line).trans <| (copiesOnly_dropSharers _ _ _).trans <|
    (copiesOnly_setDir _ e.line none).trans (copiesOnly_modHalf _ e.line fun _ => .i)

theorem copiesOnly_dirRoom (s : State) (k : Nat) : CopiesOnly s (s.dirRoom k) := .foldl copiesOnly_evictLine _ s

theorem copiesOnly_dirReadAs (s : State) (shared : Bool) (a : CacheAgent) (k : Nat) : CopiesOnly s (s.dirReadAs shared a k) := by
  unfold State.dirReadAs
  refine ((copiesOnly_dirRoom s k).trans (copiesOnly_mirrorNow _ k)).trans ?_
  dsimp only
  repeat' split
  all_goals exact copiesOnly_setDir _ _ _

theorem copiesOnly_shareLine (s : State) (a : CacheAgent) (k : Nat) : CopiesOnly s (s.shareLine a k) := by
  unfold State.shareLine
  split
  · exact .refl s
  · exact copiesOnly_dirReadAs s true a k

theorem copiesOnly_recall (s : State) (k : Nat) : CopiesOnly s (s.recall k).1 := by
  unfold State.recall
  split
  · exact .refl s
  · exact ⟨_, _, _, _, _, rfl⟩

theorem copiesOnly_claimLine (s : State) (w : Option Nat) (a : Option CacheAgent) (k : Nat) : CopiesOnly s (s.claimLine w a k).1 := by
  unfold State.claimLine
  split
  · exact .refl s
  · split
    · exact .refl s
    · exact copiesOnly_modDir s k _

theorem copiesOnly_askHomes (s : State) (w : Option Nat) (a : Option CacheAgent) (ks : List Nat) :
    CopiesOnly s (s.askHomes w a ks).1 := by
  unfold State.askHomes
  generalize (none : Option Nat) = z
  induction ks generalizing s z with
  | nil => exact .refl s
  | cons k ks ih => exact ((copiesOnly_recall s k).trans (copiesOnly_claimLine _ w a k)).trans (ih _ _)

theorem copiesOnly_usePin (s : State) (k : Nat) : CopiesOnly s (s.usePin k) := by
  unfold State.usePin
  split
  · exact ⟨_, _, _, _, _, rfl⟩
  · exact .refl s

theorem copiesOnly_updDir (s : State) (k : Nat) (f : DirEntry → DirEntry) : CopiesOnly s (s.updDir k f) := by
  unfold State.updDir
  split
  · exact .refl s
  · exact copiesOnly_setDir s k _

theorem copiesOnly_evict (s : State) (k : Nat) : CopiesOnly s (s.evict k) := by
  unfold State.evict
  split
  · rename_i e _
    refine ((copiesOnly_writeBack s k).trans (copiesOnly_dropSharers _ k e.sharers)).trans ?_
    dsimp only
    split
    · exact (copiesOnly_updDir _ k _).trans (copiesOnly_modHalf _ _ _)
    · exact copiesOnly_updDir _ k _
  · exact .refl s

end Sys2Proof.Machine
end

section
/-! SUPPORT. A fetch moves copies, and they do not bear on which lines are the tail lines of launch queues (R344, R379). -/

namespace Sys2Proof.Machine

namespace CopiesOnly

variable {s t : State} (h : CopiesOnly s t)
include h

theorem phys (d : Nat) : t.phys d = s.phys d := by obtain ⟨_, _, _, _, _, rfl⟩ := h; rfl
theorem readAt (l : Loc) (n : Nat) : t.readAt l n = s.readAt l n := by obtain ⟨_, _, _, _, _, rfl⟩ := h; rfl
theorem poolOf (x : Space) : t.poolOf x = s.poolOf x := by obtain ⟨_, _, _, _, _, rfl⟩ := h; rfl

theorem walk (x : Space) (info : Word) (va n tab : Nat) : t.walk x info va n tab = s.walk x info va n tab := by
  induction n generalizing tab with
  | zero => rfl
  | succ n ih => simp only [State.walk, h.readAt, h.phys, ih]

end CopiesOnly

/-- What a translation gives, when it succeeds, without the state. -/
def trVal {α : Type} (r : Tr α) : Option α :=
  match r with
  | .ok (_, x) => some x
  | .error _ => none

section

variable {s t : State} {a : CacheAgent} (h : CopiesOnly s t) (ha : agentWaits a = false)
include h ha

theorem trVal_place_congr (x : Space) (info : Word) (lvl pa e : Nat) :
    trVal (t.place a x info lvl pa e) = trVal (s.place a x info lvl pa e) := by
  unfold State.place
  simp only [h.readAt, h.phys, h.poolOf, ha, Bool.and_false, Bool.false_and, Bool.false_eq_true, if_false, apply_ite trVal]
  generalize 2 ^ (if lvl = 1 then pteSize e - 9 else pteSize e) = n
  split
  · rfl
  · split
    · rfl
    · split
      · rfl
      · split <;> rfl

theorem trVal_translateIn_congr (hx : ∀ p va, t.xlatAt a p va = s.xlatAt a p va) (x : Space) (va : Nat) (acc : Acc) :
    trVal (t.translateIn a x va acc) = trVal (s.translateIn a x va acc) := by
  have hw : ∀ u : State, u.walkWaits a x va = none := fun u => by simp [State.walkWaits, ha]
  have hl : t.leafFor a x (accInfo acc) va = s.leafFor a x (accInfo acc) va := by simp only [State.leafFor, hx, h.walk]
  unfold State.translateIn
  simp only [hw, hl]
  cases s.leafFor a x (accInfo acc) va with
  | error b => rfl
  | ok l =>
    obtain ⟨lvl, pa, e⟩ := l
    have hf : trVal (if pteFtp e then t.place a x (accInfo acc) lvl pa e else .ok (t, e))
        = trVal (if pteFtp e then s.place a x (accInfo acc) lvl pa e else .ok (s, e)) := by
      split <;> [exact trVal_place_congr h ha x _ lvl pa e; rfl]
    dsimp only
    revert hf
    generalize (if pteFtp e then t.place a x (accInfo acc) lvl pa e else .ok (t, e)) = r
    generalize (if pteFtp e then s.place a x (accInfo acc) lvl pa e else .ok (s, e)) = r'
    intro hf
    rcases r with _ | ⟨_, e₁⟩ <;> rcases r' with _ | ⟨_, e₂⟩ <;> simp only [trVal, reduceCtorEq, Option.some.injEq] at hf
    · rfl
    · subst hf
      simp only [apply_ite trVal]
      rfl

theorem trVal_translate_congr (hx : ∀ p va, t.xlatAt a p va = s.xlatAt a p va) (p va : Nat) (acc : Acc) :
    trVal (t.translate a p va acc) = trVal (s.translate a p va acc) := by
  have hentry : t.partEntry p = s.partEntry p := by simp only [State.partEntry, h.parts]
  have hspace : t.space p = s.space p := by simp only [State.space, hentry]
  have hpeer : ∀ d, t.peer d = s.peer d := fun d => by simp only [State.peer, h.peers]
  have hbound : ∀ d, t.peerSpace d p = s.peerSpace d p := fun d => by simp only [State.peerSpace, hpeer]
  have hlocal : t.isLocal va = s.isLocal va := by rw [State.isLocal, State.isLocal, h.device]
  unfold State.translate
  dsimp only
  rw [hentry, hspace, hpeer, hbound, hlocal, h.device, h.peers]
  split
  · rfl
  · split
    · cases s.space p with
      | none => rfl
      | some x => exact trVal_translateIn_congr h ha hx x _ acc
    · split
      · rfl
      · cases s.peerSpace (va / 2 ^ 48) p with
        | none => rfl
        | some x => exact trVal_translateIn_congr h ha hx x _ acc

end

/-- What the copies that a fetch moves leave as it was: all but copies, and of these the distributor's translations, by which a line is known
as the tail line of a launch queue. The directory has at most `n` more entries. -/
structure FetchKeeps (n : Nat) (s t : State) : Prop where
  copies : CopiesOnly s t
  xlat   : ∀ p va, t.xlatAt .distributor p va = s.xlatAt .distributor p va
  dir    : t.dir.length ≤ s.dir.length + n

namespace FetchKeeps

theorem refl (s : State) : FetchKeeps 0 s s := ⟨.refl s, fun _ _ => rfl, le_rfl⟩

theorem trans {m n : Nat} {s t u : State} (h : FetchKeeps m s t) (h' : FetchKeeps n t u) : FetchKeeps (m + n) s u :=
  ⟨h.copies.trans h'.copies, fun p va => (h'.xlat p va).trans (h.xlat p va), by have := h.dir; have := h'.dir; omega⟩

theorem mono {m n : Nat} {s t : State} (h : FetchKeeps m s t) (hn : m ≤ n) : FetchKeeps n s t :=
  ⟨h.copies, h.xlat, h.dir.trans (by omega)⟩

theorem of_caches {n : Nat} {s t : State} (h : CopiesOnly s t) (hc : t.caches = s.caches) (hd : t.dir.length ≤ s.dir.length + n) :
    FetchKeeps n s t :=
  ⟨h, fun p va => by simp only [State.xlatAt, hc], hd⟩

/-- Such a fetch changes nothing about which lines are the tail lines of launch queues. -/
theorem appendLine {n : Nat} {s t : State} (h : FetchKeeps n s t) (pa : Nat) : t.appendLine pa = s.appendLine pa := by
  unfold State.appendLine
  rw [h.copies.parts]
  dsimp only
  congr 3
  funext ⟨p, e⟩
  cases e.queueBase with
  | none => rfl
  | some b =>
    have hv := trVal_translate_congr h.copies rfl h.xlat p
      (b + 128 * ((pa / 128 * 128 % 4096 + 4096 - b % 4096) % 4096 / 128)) .read
    dsimp only
    revert hv
    generalize t.translate .distributor p _ .read = r
    generalize s.translate .distributor p _ .read = r'
    intro hv
    rcases r with _ | ⟨_, l⟩ <;> rcases r' with _ | ⟨_, l'⟩ <;> simp only [trVal, reduceCtorEq, Option.some.injEq] at hv
    · rfl
    · rw [hv]

end FetchKeeps

/-! ### The directory in a fetch -/

theorem State.dirVictim_of_lt {s : State} (h : s.dir.length < 65536) (now : Bool) (k : Nat) : s.dirVictim now k = [] := by
  simp [State.dirVictim, h]

theorem State.dirRoom_of_lt {s : State} (h : s.dir.length < 65536) (k : Nat) : s.dirRoom k = s := by
  simp [State.dirRoom, State.dirVictim_of_lt h]

theorem State.makeRoom_of_lt {s : State} (h : s.dir.length < 65536) (k : Nat) : s.makeRoom k = (s, none) := by
  simp [State.makeRoom, State.dirVictim_of_lt h]

theorem fetchKeeps_mirrorNow (s : State) (k : Nat) : FetchKeeps 0 s (s.mirrorNow k) :=
  .of_caches (copiesOnly_mirrorNow s k) rfl (by simp [State.mirrorNow, State.modDir])

theorem fetchKeeps_setDir (s : State) (k : Nat) (e : DirEntry) : FetchKeeps 1 s (s.setDir k (some e)) :=
  .of_caches (copiesOnly_setDir s k _) rfl (by simpa [State.setDir] using List.length_filter_le _ _)

theorem fetchKeeps_dirReadAs {s : State} (h : s.dir.length < 65536) (shared : Bool) (a : CacheAgent) (k : Nat) :
    FetchKeeps 1 s (s.dirReadAs shared a k) := by
  unfold State.dirReadAs
  rw [State.dirRoom_of_lt h]
  refine (fetchKeeps_mirrorNow s k).trans (n := 1) ?_
  dsimp only
  repeat' split
  all_goals exact fetchKeeps_setDir _ _ _

theorem fetchKeeps_shareLine {s : State} (h : s.dir.length < 65536) (a : CacheAgent) (k : Nat) : FetchKeeps 1 s (s.shareLine a k) := by
  unfold State.shareLine
  split
  · exact (FetchKeeps.refl s).mono (by omega)
  · exact fetchKeeps_dirReadAs h true a k

theorem fetchKeeps_supply (s : State) (k : Nat) : FetchKeeps 1 s (s.supply k) := by
  unfold State.supply
  refine (fetchKeeps_mirrorNow s k).trans (n := 1) ?_
  dsimp only
  split
  · exact fetchKeeps_setDir _ _ _
  · exact (FetchKeeps.refl _).mono (by omega)

theorem fetchKeeps_usePin (s : State) (k : Nat) : FetchKeeps 0 s (s.usePin k) := by
  refine ⟨copiesOnly_usePin s k, fun p va => ?_, ?_⟩ <;> unfold State.usePin <;> split <;> rfl

theorem fetchKeeps_countBypass (s : State) (k : Nat) : FetchKeeps 0 s (s.countBypass k) := by
  unfold State.countBypass
  split
  · exact .refl s
  · split
    · exact .refl s
    · split
      · exact .of_caches ⟨_, _, _, _, _, rfl⟩ rfl le_rfl
      · exact .refl s

end Sys2Proof.Machine
end

section
/-! SUPPORT. The fetch of a halfword that lies in HBM, and of one that the instruction cache holds (R101, R194, R261). -/

namespace Sys2Proof.Machine

/-! ### A line of HBM -/

theorem isSpad_of_hbm {pa : Nat} (h : pa < hbmSize) : isSpad pa = false := by
  have : ¬spadBase ≤ pa := by unfold hbmSize at h; unfold spadBase; omega
  simp [isSpad, this]

theorem isHost_of_hbm {pa : Nat} (h : pa < hbmSize) : isHost pa = false := by
  have : ¬hostBase ≤ pa := by unfold hbmSize at h; unfold hostBase; omega
  simp [isHost, this]

theorem lineKey_hbm (pa : Nat) : lineKey ⟨0, pa⟩ = pa / 128 * 128 := by simp [lineKey]

theorem line_lt_hbm {pa : Nat} (h : pa < hbmSize) : pa / 128 * 128 < hbmSize := by omega

theorem hostKey_of_hbm {k : Nat} (h : k < hbmSize) : hostKey k = false := by simp [hostKey, isHost_of_hbm h]

theorem copyKeys_hbm {pa n : Nat} (h : pa < hbmSize) : copyKeys ⟨0, pa⟩ n = [pa / 128 * 128] := by
  simp [copyKeys, isHost_of_hbm h, lineKey_hbm]

theorem partKeys_hbm {pa n : Nat} (h : pa < hbmSize) : partKeys [⟨⟨0, pa⟩, n⟩] = [pa / 128 * 128] := by
  simp [partKeys, isSpad_of_hbm h, copyKeys_hbm h]

/-! ### Preparing a fetch -/

/-- A fetch of a line of this device that no host holds waits for nothing (R264, R397). -/
theorem askLine_fetch {s : State} {k : Nat} (hk : k < hbmSize) (hheld : s.heldAt k = none) (hdir : s.dir.length < 65536) :
    s.askLine k .fetch .na = (s, none) := by
  have hroom : (if s.hintAt k .fetch .na = .plain then s.makeRoom k else (s, none)) = (s, none) := by
    split
    · exact s.makeRoom_of_lt hdir k
    · rfl
  have hrecall : s.recall k = (s, false) := by simp [State.recall, hheld]
  unfold State.askLine
  dsimp only
  rw [hroom]
  simp [hostKey_of_hbm hk, hrecall, Acc.writes]

theorem fetchKeeps_touchLine {s : State} {k : Nat} (hk : k < hbmSize) (hdir : s.dir.length < 65536) :
    FetchKeeps 1 s (s.touchLine k .fetch .na) := by
  have hpin := fetchKeeps_usePin s (keyLine k)
  unfold State.touchLine
  refine hpin.trans (n := 1) ?_
  simp only [hostKey_of_hbm hk, Bool.false_and, Bool.false_eq_true, if_false]
  split
  · exact fetchKeeps_dirReadAs (by have := hpin.dir; omega) _ _ _
  · exact fetchKeeps_supply _ _

/-- The lines of a fetch from HBM are made ready at once, and only copies move. -/
theorem prepareBut_fetch {s : State} {pa n : Nat} (hits : List Nat) (hpa : pa < hbmSize) (hheld : s.heldAt (pa / 128 * 128) = none)
    (hdir : s.dir.length < 65536) :
    ∃ t, s.prepareBut hits [⟨⟨0, pa⟩, n⟩] .fetch .na = (t, none) ∧ FetchKeeps 1 s t := by
  have hk := line_lt_hbm hpa
  unfold State.prepareBut
  simp only [List.find?, isSpad_of_hbm hpa, partKeys_hbm hpa, List.foldl, askLine_fetch hk hheld hdir, Acc.writes, Bool.false_and,
    Bool.false_eq_true, if_false, ite_self, Option.orElse_none]
  refine ⟨_, rfl, ?_⟩
  split
  · exact (FetchKeeps.refl s).mono (by omega)
  · have hb := fetchKeeps_countBypass s (pa / 128 * 128)
    exact (hb.trans (n := 1) (fetchKeeps_touchLine hk (by have := hb.dir; omega))).mono (by omega)

/-! ### What a fetch keeps in the caches -/

theorem FetchKeeps.foldl_shareLine {s : State} (a : CacheAgent) (ks : List Nat) (h : s.dir.length + ks.length < 65536) :
    FetchKeeps ks.length s (ks.foldl (fun s k => s.shareLine a k) s) := by
  induction ks generalizing s with
  | nil => exact .refl s
  | cons k ks ih =>
    simp only [List.length_cons] at h
    have h1 := fetchKeeps_shareLine (s := s) (by omega) a k
    refine (h1.trans (ih ?_)).mono (by simp only [List.length_cons]; omega)
    have := h1.dir
    omega

theorem State.walkLines_length_le (s : State) (d va n tab : Nat) : (s.walkLines d va n tab).length ≤ n := by
  induction n generalizing tab with
  | zero => simp [State.walkLines]
  | succ n ih =>
    unfold State.walkLines
    dsimp only
    split
    · simp
    · simpa using ih _

theorem find?_erase_of_neg {α : Type} [BEq α] [LawfulBEq α] {p : α → Bool} {x : α} (h : p x = false) (l : List α) :
    (l.erase x).find? p = l.find? p := by
  induction l with
  | nil => rfl
  | cons y l ih =>
    rw [List.erase_cons]
    split
    · rename_i hy
      rw [List.find?_cons, eq_of_beq hy, h]
    · rw [List.find?_cons, List.find?_cons, ih]

/-- Only translations of its own move in the cache of an agent that fills it. -/
theorem fetchKeeps_fillXlat {s : State} {a : CacheAgent} (ha : a ≠ .distributor) (p va : Nat) (ks : List Nat)
    (hdir : s.dir.length + 4 < 65536) : FetchKeeps 4 s (s.fillXlat a p va ks) := by
  unfold State.fillXlat
  split
  · exact (FetchKeeps.refl s).mono (by omega)
  split
  · exact (FetchKeeps.refl s).mono (by omega)
  split
  · exact (FetchKeeps.refl s).mono (by omega)
  dsimp only
  split
  · exact (FetchKeeps.refl s).mono (by omega)
  rename_i x _ _ _ _ _ _ _ _
  have hlen := s.walkLines_length_le 0 va 4 x.ttbase
  have hshare := FetchKeeps.foldl_shareLine (s := s) a (s.walkLines 0 va 4 x.ttbase) (by omega)
  refine (hshare.mono hlen).trans (n := 0) ⟨⟨_, _, _, _, _, rfl⟩, fun q v => ?_, le_rfl⟩
  generalize (s.walkLines 0 va 4 x.ttbase).foldl (fun s k => s.shareLine a k) s = u
  have hmiss : ∀ y : Xlat, y.agent = a →
      (y.agent == CacheAgent.distributor && y.part == q && decide (y.va ≤ v) && decide (v < y.va + y.size)) = false := by
    rintro y rfl
    simp [ha]
  simp only [State.xlatAt]
  rw [List.find?_append, List.find?_singleton, hmiss _ rfl]
  split
  · simp
  · cases hm : (u.caches.xlat.filter fun t => t.agent == a).head? with
    | none => simp
    | some y =>
      have hy := (List.mem_filter.mp (List.mem_of_head? hm)).2
      simp only [Option.elim_some, Bool.false_eq_true, if_false, Option.or_none]
      refine find?_erase_of_neg ?_ _
      exact hmiss y (eq_of_beq hy)

theorem fetchKeeps_fillMy {s : State} (va : Nat) (ks : List Nat) (hdir : s.dir.length + 4 < 65536) : FetchKeeps 4 s (s.fillMy va ks) := by
  unfold State.fillMy
  split
  · exact (FetchKeeps.refl s).mono (by omega)
  · exact fetchKeeps_fillXlat (by simp [State.tlb]) _ _ _ hdir

theorem fetchKeeps_replicate_one {s : State} (q tile k : Nat) (hdir : s.dir.length < 65536) : FetchKeeps 1 s (s.replicate q tile [k]) := by
  unfold State.replicate
  simp only [List.foldl]
  split
  · exact (FetchKeeps.refl s).mono (by omega)
  · split
    · exact (FetchKeeps.refl s).mono (by omega)
    · exact fetchKeeps_shareLine hdir _ _

theorem fetchKeeps_replicate {s : State} (q tile : Nat) (ks : List Nat) (hdir : s.dir.length + ks.length < 65536) :
    FetchKeeps ks.length s (s.replicate q tile ks) := by
  induction ks generalizing s with
  | nil => exact .refl s
  | cons k ks ih =>
    simp only [List.length_cons] at hdir ⊢
    have h1 := fetchKeeps_replicate_one (s := s) q tile k (by omega)
    have := h1.dir
    exact (h1.trans (ih (s := s.replicate q tile [k]) (by omega))).mono (by omega)

theorem rorMy_length_le (s : State) {va pa n : Nat} (hpa : pa < hbmSize) (h : Hint) : (s.rorMy va [⟨⟨0, pa⟩, n⟩] h).length ≤ 1 := by
  unfold State.rorMy
  split
  · simp
  · simp only [State.rorKeys, List.foldl, isSpad_of_hbm hpa, copyKeys_hbm hpa]
    split <;> simp

/-! ### Fetching one halfword -/

@[simp] theorem State.keepFetched_mem (s : State) (va : Nat) (p : Part) : (s.keepFetched va p).mem = s.mem := by
  unfold State.keepFetched
  split <;> rfl

/-- A halfword of HBM outside the tail lines of launch queues reads as it stands in memory. -/
theorem readPart_hbm {s : State} {pa : Nat} (hpa : pa < hbmSize) (happ : s.appendLine pa = none) :
    s.readPart ⟨⟨0, pa⟩, 2⟩ = bytesRead s.mem.bytes pa 2 := by
  simp [State.readPart, isSpad_of_hbm hpa, State.load, happ, State.readAt, State.phys]

/-- A fetch of a line of HBM that no host holds, with room in the directory, brings the halfword that stands in memory (R194, R264, R397). -/
theorem fetchMiss_hbm {s : State} {pa : Nat} (va : Nat) {ror : List Nat} (hpa : pa < hbmSize) (hheld : s.heldAt (pa / 128 * 128) = none)
    (hdir : s.dir.length < 0x8000) (happ : s.appendLine pa = none) (hror : ror.length ≤ 1) :
    ∃ w, s.fetchMiss va ⟨⟨0, pa⟩, 2⟩ ror = .ok (w, BitVec.ofNat 16 (bytesRead s.mem.bytes pa 2)) ∧ w.mem = s.mem := by
  obtain ⟨t, ht, h1⟩ := prepareBut_fetch (n := 2) (s.replicaHits s.partNo (s.hand.core / 8) ror) hpa hheld (by omega)
  have d1 := h1.dir
  have h2 := fetchKeeps_fillMy (s := t) va [] (by omega)
  have d2 := h2.dir
  have h3 := fetchKeeps_replicate (s := t.fillMy va []) t.partNo (t.hand.core / 8) ror (by omega)
  have hall := (h1.trans h2).trans h3
  refine ⟨_, ?_, (State.keepFetched_mem _ va ⟨⟨0, pa⟩, 2⟩).trans hall.copies.mem⟩
  unfold State.fetchMiss
  rw [ht]
  dsimp only
  rw [readPart_hbm hpa ((hall.appendLine pa).trans happ), hall.copies.mem]

theorem fetch_of_fetchOne {s w : State} {pc : Word} {h : Half} (hone : s.fetchOne pc.toNat = .ok (w, h)) (hp : isPfx h = false) :
    s.fetch pc = .ok (w, [h]) := by
  simp [State.fetch, State.fetchGo, hone, hp]

theorem State.keyLoc_hbm {k : Nat} (hk : k < hbmSize) : keyLoc k = ⟨0, k⟩ := by
  unfold hbmSize at hk
  simp only [keyLoc, Loc.mk.injEq]
  omega

/-- What a translation that goes to memory outside the scratchpads says of the form of the address (R180). -/
theorem niForm_fetch {s t : State} {va : Word} {l : Loc} (hap : s.aperture va.toNat = false)
    (htr : s.translateMy va.toNat .fetch = .ok (t, l)) : s.niForm va 2 1 false .fetch = .ok () := by
  have hva : ¬2 ^ 57 ≤ va.toNat := by
    intro hbig
    have hbig' : 2 ^ 52 ≤ va.toNat := by omega
    unfold State.translateMy at htr
    split at htr
    · cases htr
    · simp only [State.translate, hbig, decide_true, Bool.true_or, if_true, reduceCtorEq] at htr
  simp only [State.niForm, hva, hap, Nat.mod_one, Bool.false_and, Bool.false_eq_true, bne_self_eq_false, if_false]

/-- An instruction that no line of the instruction cache holds is fetched from where its address translates to (R101, R194). -/
theorem fetchOne_hbm {s : State} {pc : Word} {pa : Nat} (hmiss : s.fetchedLine pc.toNat = none) (hap : s.aperture pc.toNat = false)
    (htr : s.translateMy pc.toNat .fetch = .ok (s, ⟨0, pa⟩)) (hpa : pa < hbmSize) (hpoison : s.mem.poisoned false pa 2 = false)
    (hheld : s.heldAt (pa / 128 * 128) = none) (happ : s.appendLine pa = none) (hdir : s.dir.length < 0x8000) :
    ∃ w, s.fetchOne pc.toNat = .ok (w, BitVec.ofNat 16 (bytesRead s.mem.bytes pa 2)) ∧ w.mem = s.mem := by
  have hbad : s.dataBadFor s.my.linkLost ⟨⟨0, pa⟩, 2⟩ .fetch = none := by
    have hacc : (Acc.fetch == Acc.write) = false := rfl
    simp [State.dataBadFor, State.dataBad, State.phys_zero, isSpad_of_hbm hpa, isHost_of_hbm hpa, hacc, hpoison]
  obtain ⟨w, hw, hmem⟩ := fetchMiss_hbm pc.toNat hpa hheld hdir happ (rorMy_length_le s (va := pc.toNat) (n := 2) hpa .na)
  refine ⟨w, ?_, hmem⟩
  simp [State.fetchOne, hmiss, niForm_fetch hap htr, State.vaUnits, hap, State.niPart, htr, hbad, hw]

/-- A halfword that a line of the instruction cache holds comes as it was fetched or as it stands in memory now (R194). -/
theorem fetchOne_held {s : State} {va : Nat} {l : ILine} {old : Half} (hl : s.fetchedLine va = some l)
    (hold : l.data.getD (va % 128 / 2) none = some old) (halign : l.src % 128 = 0) (hsrc : l.src < hbmSize)
    (hheld : s.heldAt l.src = none) (hdir : s.dir.length < 65536) :
    ∃ w h, s.fetchOne va = .ok (w, h) ∧ w.mem = s.mem ∧
      (h = old ∨ h = BitVec.ofNat 16 (bytesRead s.mem.bytes (l.src + va % 128) 2)) := by
  have hpa : l.src + va % 128 < hbmSize := by unfold hbmSize at *; omega
  have hline : (l.src + va % 128) / 128 * 128 = l.src := by omega
  unfold State.fetchOne
  simp only [hl, hold, State.keyLoc_hbm hsrc]
  split
  · exact ⟨_, _, rfl, rfl, .inr rfl⟩
  · split
    · exact ⟨_, _, rfl, rfl, .inl rfl⟩
    · obtain ⟨t, ht, hk⟩ := prepareBut_fetch (s := { s with fresh := s.fresh + 1 }) (n := 2) [] hpa (by rw [hline]; exact hheld) hdir
      rw [State.prepare, ht]
      exact ⟨_, _, rfl, hk.copies.mem, .inr rfl⟩

end Sys2Proof.Machine
end

section
/-! PROOF. A step: the agenda, the context that issues, and what its fetch leads to (R5, R12, R99, R364). -/

namespace Sys2Proof.Machine

/-! ### The agenda -/

theorem nextEvent_cons {e : Instr} {rest : List Instr} (h : managed e = true ∨ ∀ x ∈ rest, managed x = false) :
    nextEvent (e :: rest) = some (e, rest) := by
  unfold nextEvent
  cases he : managed e with
  | true => simp [he]
  | false =>
    have hrest : ∀ x ∈ rest, managed x = false := h.resolve_left (by simp [he])
    have hnone : (e :: rest).find? managed = none := by simpa [he] using hrest
    rw [hnone]

theorem nextEvent_append {l : List Instr} {e : Instr} {rest : List Instr} (hl : ∀ x ∈ l, managed x = false) (he : managed e = true) :
    nextEvent (l ++ e :: rest) = some (e, l ++ rest) := by
  have hnone : l.find? managed = none := by simpa using hl
  have hmem : e ∉ l := fun hm => by simp [hl e hm] at he
  have hfind : (l ++ e :: rest).find? managed = some e := by simp [List.find?_append, hnone, he]
  simp [nextEvent, hfind, List.erase_append_right _ hmem]

theorem step_agenda {s : State} {e : Instr} {rest : List Instr} (hs : s.stopped = false) (h : nextEvent s.agenda = some (e, rest)) :
    step s = exec e { s with agenda := rest } := by
  simp [step, hs, h]

theorem step_internal {s : State} {e : Instr} (hs : s.stopped = false) (ha : s.agenda = []) (hd : s.devTurn = true)
    (he : s.internal = some e) : step s = exec e { s with devTurn := false } := by
  simp [step, hs, ha, hd, he, nextEvent]

theorem step_core {s : State} (hs : s.stopped = false) (ha : s.agenda = []) (hd : s.devTurn = false ∨ s.internal = none) :
    step s = ({ s with devTurn := true } : State).coreStep := by
  have hnone : (if s.devTurn then s.internal else none) = none := by rcases hd with h | h <;> simp [h]
  simp [step, hs, ha, hnone, nextEvent]

/-! ### The context that issues -/

theorem canIssue_of_pickCtx {s : State} {g n : Nat} (h : s.pickCtx g = some n) : s.canIssue g n = true := by
  unfold State.pickCtx at h
  split at h
  · exact List.find?_some h
  · cases h

theorem canIssue_of_pick {s : State} {g n : Nat} (h : s.pick = some (g, n)) : s.canIssue g n = true := by
  have hturn : ∀ k, ((s.pickCtx k).map fun m => (k, m)) = some (g, n) → s.canIssue g n = true := by
    intro k hk
    obtain ⟨m, hm, heq⟩ := Option.map_eq_some_iff.mp hk
    cases heq
    exact canIssue_of_pickCtx hm
  unfold State.pick at h
  dsimp only at h
  split at h
  · exact hturn _ h
  · obtain ⟨k, -, hk⟩ := List.exists_of_findSome?_eq_some h
    exact hturn k hk

/-- Context 0 does not issue while its SUBLAPSE comes first (R364). -/
theorem pick_ne_of_lapseNext {s : State} {g : Nat} (h : s.lapseNext g = true) : s.pick ≠ some (g, 0) := by
  intro hp
  have := canIssue_of_pick hp
  simp [State.canIssue, h] at this

theorem coreStep_of_pick {s : State} {g n : Nat} (h : s.tick.pick = some (g, n)) :
    s.coreStep = { s.tick with pace := s.tick.pace.tail, turn := g }.issue g n := by
  simp [State.coreStep, h]

theorem coreStep_of_none {s : State} (h : s.tick.pick = none) : s.coreStep = .next { s.tick with pace := s.tick.pace.tail } := by
  simp [State.coreStep, h]

/-! ### The instruction in hand -/

/-- What is in hand while an instruction runs: its context, its address, its length and its first halfword. -/
theorem State.begin_hand (s : State) (g n : Nat) (i : Instr) (hs : List Half) (len : Nat) :
    (s.begin g n i hs len).hand = ⟨g, n, ((s.coreAt g).ctxAt n).pc, len, hs.headD 0⟩ := by
  unfold State.begin Core.ctxAt
  simp only [smapGet?_mapVal fun j (x : Context) => { x with
    yielded := x.yielded.filter (· != n), inHand := if j = n then false else x.inHand }]
  cases smapGet? (s.coreAt g).ctxs n <;> rfl

section

variable {s : State} {g n : Nat} {pc : Word} (hpc : ((s.coreAt g).ctxAt n).pc = pc)
include hpc

theorem issue_decoded {w : State} {hs : List Half} {i : Instr} {len : Nat}
    (hf : ({ s with hand := ⟨g, n, pc, 1, 0⟩ } : State).fetch pc = .ok (w, hs)) (hd : decode hs = some (i, len)) :
    s.issue g n = mapNext (fun t => t.after g n i) (exec i (w.begin g n i hs len)) := by
  subst hpc
  simp only [State.issue, hf, hd]

theorem issue_undecoded {w : State} {hs : List Half}
    (hf : ({ s with hand := ⟨g, n, pc, 1, 0⟩ } : State).fetch pc = .ok (w, hs)) (hd : decode hs = none) :
    s.issue g n = exec (.illegalEncoding (hs.headD 0)) (w.begin g n .eret hs hs.length) := by
  subst hpc
  simp only [State.issue, hf, hd]

theorem issue_fault {w : State} {code va : Nat} {info : Word}
    (hf : ({ s with hand := ⟨g, n, pc, 1, 0⟩ } : State).fetch pc = .error (.inl (w, .flt code info, va))) :
    s.issue g n = mapNext (fun t => t.linkTold g n)
      (exec (.instructionFetchFault (BitVec.ofNat 8 code) (BitVec.ofNat 64 va)) { w with hand := ⟨g, n, pc, 1, w.halfAt pc⟩ }) := by
  subst hpc
  simp only [State.issue, hf]

theorem issue_violation {w : State} {va : Nat}
    (hf : ({ s with hand := ⟨g, n, pc, 1, 0⟩ } : State).fetch pc = .error (.inl (w, .violation, va))) :
    s.issue g n = .next w.freezeMaster := by
  subst hpc
  simp only [State.issue, hf]

theorem issue_walkWaits {w : State} {line va : Nat}
    (hf : ({ s with hand := ⟨g, n, pc, 1, 0⟩ } : State).fetch pc = .error (.inl (w, .wait line, va))) :
    s.issue g n = .next (w.modMy fun x => { x with st := .waiting (.fetching line) }) := by
  subst hpc
  simp only [State.issue, hf]

theorem issue_waits {w : State} {c : Cond}
    (hf : ({ s with hand := ⟨g, n, pc, 1, 0⟩ } : State).fetch pc = .error (.inr (w, c))) :
    s.issue g n = .next (w.modMy fun x => { x with st := .waiting c.ofFetch }) := by
  subst hpc
  simp only [State.issue, hf]

end

/-- Settles O55: the order of a step, then one lemma for each outcome of the fetch, and what the fetch brings. -/
theorem stepRunsTheDecodedInstruction : Obligations.StepRunsTheDecodedInstruction := by
  intro s hs
  refine ⟨fun e rest ha h => step_agenda hs (ha ▸ nextEvent_cons h),
    fun l e rest ha hl he => step_agenda hs (ha ▸ nextEvent_append hl he),
    fun e ha hd he => step_internal hs ha hd he, fun ha hd => ?_⟩
  intro t
  have hstep := step_core hs ha hd
  refine ⟨fun hp => hstep.trans (coreStep_of_none hp), fun g h => pick_ne_of_lapseNext h, fun g n hp => ?_⟩
  intro u pc v half held
  replace hstep : step s = u.issue g n := hstep.trans (coreStep_of_pick hp)
  have hpc : ((u.coreAt g).ctxAt n).pc = pc := rfl
  refine ⟨fun w hs i len hf hd => ?_, fun w hs hf hd => ?_, fun w code info va hf => ?_, fun w va hf => ?_, fun w line va hf => ?_,
    fun w c hf => ?_, ?_, ?_⟩
  · have hrun := hstep.trans (issue_decoded hpc hf hd)
    exact ⟨fun x hx => by rw [hrun, hx]; rfl, fun r hr => by rw [hrun, hr]; rfl, fun r hr => by rw [hrun, hr]; rfl,
      w.begin_hand g n i hs len⟩
  · have hhand := w.begin_hand g n .eret hs hs.length
    exact ⟨_, hstep.trans (issue_undecoded hpc hf hd), by rw [hhand], by rw [hhand], by rw [hhand]⟩
  · exact ⟨_, hstep.trans (issue_fault hpc hf), rfl, rfl, rfl⟩
  · exact hstep.trans (issue_violation hpc hf)
  · exact hstep.trans (issue_walkWaits hpc hf)
  · exact hstep.trans (issue_waits hpc hf)
  · intro pa hheld hap htr hpa hpoison hhost happ hdir hpfx
    obtain ⟨w, hone, hmem⟩ := fetchOne_hbm (s := v) hheld hap htr hpa hpoison hhost happ hdir
    exact ⟨w, fetch_of_fetchOne hone hpfx, hmem⟩
  · intro l old hheld hold halign hsrc hhost hdir new hpfx hpfx'
    obtain ⟨w, h, hone, hmem, hh⟩ := fetchOne_held (s := v) hheld hold halign hsrc hhost (by omega)
    refine ⟨w, h, fetch_of_fetchOne hone ?_, hmem, hh⟩
    rcases hh with rfl | rfl
    · exact hpfx
    · exact hpfx'

end Sys2Proof.Machine
end

section
/-! SUPPORT. The release of a core and of a host (R203, R368, R426). -/

namespace Sys2Proof.Machine

/-! ### Release of a core (R203, R368, R426) -/

theorem State.launchAt_modLaunch (s : State) (i id : Nat) {f : Launch → Launch} (hf : ∀ l, (f l).id = l.id) :
    (s.modLaunch i f).launchAt id = (s.launchAt id).map fun l => if l.id == i then f l else l :=
  find?_map_of_key (key := Launch.id) (fun l => by split <;> simp [hf]) s.launches id

/-- What the end of saved units leaves: all but the launches, and of these the numbers and whether they are cancelled. -/
def KeptOnly (s t : State) : Prop :=
  ∃ ls, t = { s with launches := ls } ∧ ∀ id, (t.launchAt id).map (·.cancelled) = (s.launchAt id).map (·.cancelled)

theorem KeptOnly.refl (s : State) : KeptOnly s s := ⟨_, rfl, fun _ => rfl⟩

theorem KeptOnly.trans {s t u : State} : KeptOnly s t → KeptOnly t u → KeptOnly s u := by
  rintro ⟨_, rfl, h⟩ ⟨_, rfl, h'⟩
  exact ⟨_, rfl, fun id => (h' id).trans (h id)⟩

theorem keptOnly_modKept (s : State) (launch unit : Nat) (f : Core → Core) : KeptOnly s (s.modKept launch unit f) := by
  refine ⟨_, rfl, fun id => ?_⟩
  unfold State.modKept
  rw [State.launchAt_modLaunch, Option.map_map]
  · congr 1
    funext l
    simp only [Function.comp]
    split <;> rfl
  · exact fun _ => rfl

/-- The violating commands of a core go, and nothing else but what is kept of the saved units that issued them. -/
theorem keptOnly_dropFrozen (s : State) (core : Nat) :
    KeptOnly { s with cmds := s.cmds.filter fun x => !(x.st == EngSt.frozen && x.core == core) } (s.dropFrozen core) := by
  unfold State.dropFrozen
  refine List.foldlRecOn _ _ (.refl _) fun t ht x _ => ht.trans ?_
  split
  · exact .refl t
  · split
    · exact keptOnly_modKept t _ _ _
    · exact .refl t

theorem dropFrozen_of_none {s : State} {core : Nat} (h : ∀ x ∈ s.cmds, x.core = core → x.st ≠ .frozen) : s.dropFrozen core = s := by
  have hbad : (s.cmds.filter fun x => x.st == EngSt.frozen && x.core == core) = [] := by
    simp only [List.filter_eq_nil_iff, Bool.and_eq_true, beq_iff_eq]
    exact fun x hx ⟨hst, hcore⟩ => h x hx hcore hst
  have hall : (s.cmds.filter fun x => !(x.st == EngSt.frozen && x.core == core)) = s.cmds := by
    simp only [List.filter_eq_self, Bool.not_eq_true', Bool.and_eq_false_iff, beq_eq_false_iff_ne]
    exact fun x hx => or_iff_not_imp_right.mpr fun hcore => h x hx (by simpa using hcore)
  simp only [State.dropFrozen, hbad, hall, List.foldl]

theorem releaseFrozen_of_running {s : State} {core : Nat} (h : (s.coreAt core).frozen = false) : s.releaseFrozen core = s.dropFrozen core := by
  simp [State.releaseFrozen, h]

/-- The launch of a core keeps its number and whether it is cancelled when violating commands go and the core is no longer frozen. -/
theorem cancelled_launchOf_dropFrozen (s : State) (core : Nat) :
    ((((s.dropFrozen core).setCore core { s.coreAt core with frozen := false }).launchOf core).map (·.cancelled)) =
      (s.launchOf core).map (·.cancelled) := by
  obtain ⟨ls, heq, hc⟩ := keptOnly_dropFrozen s core
  have hat : ∀ id, ((s.dropFrozen core).setCore core { s.coreAt core with frozen := false }).launchAt id = (s.dropFrozen core).launchAt id :=
    fun id => by simp only [State.launchAt, State.setCore_launches]
  unfold State.launchOf
  simp only [State.coreAt_setCore, if_true, hat]
  cases (s.coreAt core).unit with
  | none => rfl
  | some u => exact hc u.launch

theorem violationErr_eq (l : Launch) : l.violationErr = if l.cancelled then 18 else 16 := rfl

theorem releaseFrozen_cmds (s : State) (core : Nat) :
    (s.releaseFrozen core).cmds = s.cmds.filter fun x => !(x.st == EngSt.frozen && x.core == core) := by
  obtain ⟨ls, heq, -⟩ := keptOnly_dropFrozen s core
  unfold State.releaseFrozen
  dsimp only
  split
  · rw [heq]
  · split <;> simp [heq]

theorem releaseFrozen_mem (s : State) (core : Nat) : (s.releaseFrozen core).mem = s.mem := by
  obtain ⟨ls, heq, -⟩ := keptOnly_dropFrozen s core
  unfold State.releaseFrozen
  dsimp only
  split
  · rw [heq]
  · split <;> simp [heq]

/-- A frozen core without a launch only goes on. -/
theorem releaseFrozen_coreAt_of_vacant {s : State} {core : Nat} (h : (s.coreAt core).frozen = true) (hl : s.launchOf core = none) :
    (s.releaseFrozen core).coreAt core = { s.coreAt core with frozen := false } := by
  have hc := cancelled_launchOf_dropFrozen s core
  rw [hl, Option.map_none, Option.map_eq_none_iff] at hc
  simp [State.releaseFrozen, h, hc]

/-- A frozen core's unit is to end with VIOLATION, and CANCEL where a `cancel` reached it meanwhile (R368). -/
theorem releaseFrozen_coreAt_of_launch {s : State} {core : Nat} {l : Launch} (h : (s.coreAt core).frozen = true)
    (hl : s.launchOf core = some l) :
    (s.releaseFrozen core).coreAt core =
      { s.coreAt core with frozen := false, ending := some (if l.cancelled then 18 else 16, 0) } := by
  have hc := cancelled_launchOf_dropFrozen s core
  rw [hl, Option.map_some, Option.map_eq_some_iff] at hc
  obtain ⟨l', hl', hcan⟩ := hc
  simp [State.releaseFrozen, h, hl', State.endUnit, violationErr_eq, hcan]

/-! ### Release of a host (R426) -/

/-- What the reset of a host's lines leaves: all but bytes of memory, the directory, pins and free values. -/
def LinesReset (s t : State) : Prop :=
  ∃ m d ps f, t = { s with mem := { s.mem with bytes := m }, dir := d, pstate := ps, fresh := f }

theorem LinesReset.refl (s : State) : LinesReset s s := ⟨_, _, _, _, rfl⟩

theorem LinesReset.trans {s t u : State} : LinesReset s t → LinesReset t u → LinesReset s u := by
  rintro ⟨_, _, _, _, rfl⟩ ⟨_, _, _, _, rfl⟩
  exact ⟨_, _, _, _, rfl⟩

theorem linesReset_freeHalf (s : State) (pa : Nat) (x : HalfSt) : LinesReset s (s.freeHalf pa x) := by
  unfold State.freeHalf
  split
  · exact ⟨_, _, _, _, rfl⟩
  · exact .refl s

theorem linesReset_dropKeys (s : State) (ks : List Nat) : LinesReset s (ks.foldl (fun s k => s.setDir k none) s) :=
  List.foldlRecOn ks _ (.refl s) fun _ ht _ _ => ht.trans ⟨_, _, _, _, rfl⟩

/-- The reset of a host's CXL state: its link goes on, its lines leave both sides, those of other hosts stay, and no poison goes. -/
theorem releaseHost_of_frozen {s : State} {n : Nat} (h : (s.ld n).frozen = true) :
    (s.releaseHost n).ld n = { s.ld n with frozen := false } ∧
    (s.releaseHost n).hostHeld = s.hostHeld.filter (·.ld != n) ∧
    (s.releaseHost n).bridge = s.bridge.filter (fun b => s.ldOf b.line != some n) ∧
    (s.releaseHost n).mem.poison = s.mem.poison := by
  unfold State.releaseHost
  simp only [h, Bool.not_true, Bool.false_eq_true, if_false]
  have hother : s.bridge.filter (fun b => !(s.bridge.filter fun b => s.ldOf b.line == some n).contains b) =
      s.bridge.filter fun b => s.ldOf b.line != some n :=
    List.filter_congr fun b hb => by rw [Bool.eq_iff_iff]; simp [hb]
  generalize (s.bridge.filter fun b => s.ldOf b.line == some n) = mine at hother ⊢
  have hr : LinesReset s (mine.foldl (fun s b =>
      (lineKeys b.line).foldl (fun s k => s.setDir k none)
        (((s.freeHalf (keyLoc b.line).pa b.h0).freeHalf ((keyLoc b.line).pa + 64) b.h1).unpin b.line)) s) :=
    List.foldlRecOn mine _ (.refl s) fun t ht b _ => ht.trans <|
      ((linesReset_freeHalf t _ _).trans (linesReset_freeHalf _ _ _)).trans <|
        LinesReset.trans ⟨_, _, _, _, rfl⟩ (linesReset_dropKeys _ _)
  obtain ⟨m, d, ps, f, hu⟩ := hr
  rw [hu]
  exact ⟨by simp [State.ld, State.setLd, State.unhold], rfl, hother, rfl⟩

end Sys2Proof.Machine
end

section
/-! SUPPORT. The release of a peer, and the clocks of stacks that change together (R426 to R428). -/

namespace Sys2Proof.Machine

/-! ### Release of a peer (R426) -/

theorem State.peer_setPeers (s : State) (ds : List DirEntry) (n d : Nat) (p : Peer) :
    ({ s with dir := ds, peers := smapSet s.peers n p } : State).peer d = if d = n then p else s.peer d := by
  simp only [State.peer, smapGet?_smapSet]
  split <;> rfl

/-! ### Clocks (R427, R428) -/

theorem State.clock_setClock (s : State) (k j : Nat) (c : Clock) : (s.setClock k c).clock j = if j = k then c else s.clock j := by
  simp only [State.clock, State.setClock, smapGet?_smapSet]
  split <;> rfl

/-- Changing the clocks of a list of stacks one after another, each to what an idempotent function makes of it. -/
theorem clock_foldl {g : State → Nat → State} {f : Clock → Clock} (hf : ∀ c, f (f c) = f c)
    (hg : ∀ s k j, (g s k).clock j = if j = k then f (s.clock j) else s.clock j) (ks : List Nat) (s : State) (j : Nat) :
    (ks.foldl g s).clock j = if j ∈ ks then f (s.clock j) else s.clock j := by
  induction ks generalizing s with
  | nil => simp
  | cons k ks ih =>
    rw [List.foldl_cons, ih, hg]
    by_cases hk : j = k <;> by_cases hks : j ∈ ks <;> simp [hk, hks, hf]

theorem clock_foldl_setClock {f : Clock → Clock} (hf : ∀ c, f (f c) = f c) (ks : List Nat) (s : State) (j : Nat) :
    (ks.foldl (fun s k => s.setClock k (f (s.clock k))) s).clock j = if j ∈ ks then f (s.clock j) else s.clock j :=
  clock_foldl hf (fun t k i => by rw [t.clock_setClock]; split <;> simp [*]) ks s j

/-- `t` is `s` but for its clocks. -/
def ClocksOnly (s t : State) : Prop := ∃ c, t = { s with clocks := c }

theorem ClocksOnly.refl (s : State) : ClocksOnly s s := ⟨_, rfl⟩

theorem ClocksOnly.trans {s t u : State} : ClocksOnly s t → ClocksOnly t u → ClocksOnly s u := by
  rintro ⟨_, rfl⟩ ⟨_, rfl⟩
  exact ⟨_, rfl⟩

theorem ClocksOnly.foldl {g : State → Nat → State} (h : ∀ s k, ClocksOnly s (g s k)) (ks : List Nat) (s : State) :
    ClocksOnly s (ks.foldl g s) :=
  List.foldlRecOn ks g (.refl s) fun t ht k _ => ht.trans (h t k)

theorem clocksOnly_setClock (s : State) (k : Nat) (c : Clock) : ClocksOnly s (s.setClock k c) := ⟨_, rfl⟩

theorem clockGroup_congr {s t : State} (h : ClocksOnly s t) (k : Nat) : t.clockGroup k = s.clockGroup k := by
  obtain ⟨_, rfl⟩ := h; rfl

theorem fixedStack_congr {s t : State} (h : ClocksOnly s t) (k : Nat) : t.fixedStack k = s.fixedStack k := by
  obtain ⟨_, rfl⟩ := h; rfl

theorem mem_clockJoin (s : State) {ks : List Nat} {k : Nat} (h : k ∈ ks) : k ∈ s.clockJoin ks :=
  List.foldlRecOn _ _ h fun _ hb l _ => List.foldlRecOn l.cores _ hb fun _ hg _ _ => mem_setInsert.mpr (.inr hg)

theorem mem_clockGroup_self (s : State) (k : Nat) : k ∈ s.clockGroup k :=
  mem_clockJoin s (mem_clockJoin s (mem_clockJoin s (List.mem_singleton.mpr rfl)))

/-- A stack that holds a part of a fixed partition, or changes together with one that does, is locked to 1.6 GHz (R427, R428). -/
def State.clockLocked (s : State) (k : Nat) : Prop := k < 4 ∧ ∃ q ∈ s.clockGroup k, s.fixedStack q = true

theorem clocksOnly_lockClocks (s : State) : ClocksOnly s s.lockClocks :=
  .foldl (fun t k => by split <;> [exact .refl t; exact clocksOnly_setClock t k _]) _ s

theorem lockClocks_clock (s : State) (j : Nat) :
    (s.clockLocked j → s.lockClocks.clock j = ⟨1600, none, false⟩) ∧ (¬s.clockLocked j → s.lockClocks.clock j = s.clock j) := by
  have hstep : ∀ (t : State) (k i : Nat),
      (if t.clock k == ⟨1600, none, false⟩ then t else t.setClock k ⟨1600, none, false⟩).clock i =
        if i = k then ⟨1600, none, false⟩ else t.clock i := by
    intro t k i
    split
    · rename_i hk
      split
      · rename_i hi; rw [hi, eq_of_beq hk]
      · rfl
    · exact t.clock_setClock k i _
  have hfold := clock_foldl (f := fun _ => ⟨1600, none, false⟩) (fun _ => rfl) hstep
    ((List.range 4).filter fun k => (s.clockGroup k).any s.fixedStack) s j
  have hmem : j ∈ (List.range 4).filter (fun k => (s.clockGroup k).any s.fixedStack) ↔ s.clockLocked j := by
    simp [State.clockLocked]
  unfold State.lockClocks
  rw [hfold]
  exact ⟨fun h => if_pos (hmem.mpr h), fun h => if_neg (mt hmem.mp h)⟩

theorem clockLocked_congr {s t : State} (h : ClocksOnly s t) (k : Nat) : t.clockLocked k ↔ s.clockLocked k := by
  simp only [State.clockLocked, clockGroup_congr h, fixedStack_congr h]

theorem clocksOnly_clockRequest (s : State) (stack point : Nat) : ClocksOnly s (s.clockRequest stack point) := by
  unfold State.clockRequest
  dsimp only
  split
  · exact .refl s
  · exact .foldl (fun t k => clocksOnly_setClock t k _) _ s

/-- When a request is not taken: for another point than the three, or for a lower one on a locked stack (R427). -/
theorem clockRefused_iff (s : State) (stack point : Nat) :
    (4 ≤ stack || !(point == 1600 || point == 1200 || point == 800) ||
      (point != 1600 && (s.clockGroup stack).any s.fixedStack)) = true ↔
    4 ≤ stack ∨ point ∉ [1600, 1200, 800] ∨ point ≠ 1600 ∧ ∃ k ∈ s.clockGroup stack, s.fixedStack k = true := by
  simp [or_assoc, and_assoc]

theorem clockRequest_of_refused {s : State} {stack point : Nat}
    (h : 4 ≤ stack ∨ point ∉ [1600, 1200, 800] ∨ point ≠ 1600 ∧ ∃ k ∈ s.clockGroup stack, s.fixedStack k = true) :
    s.clockRequest stack point = s := by
  unfold State.clockRequest
  dsimp only
  rw [if_pos ((clockRefused_iff s stack point).mpr h)]

theorem clockRequest_of_taken {s : State} {stack point : Nat} (hs : stack < 4) (hp : point ∈ [1600, 1200, 800])
    (h : point = 1600 ∨ ∀ k ∈ s.clockGroup stack, s.fixedStack k = false) (j : Nat) :
    (s.clockRequest stack point).clock j =
      if j ∈ s.clockGroup stack then { s.clock j with req := some point, acked := false } else s.clock j := by
  have htaken : ¬(4 ≤ stack ∨ point ∉ [1600, 1200, 800] ∨ point ≠ 1600 ∧ ∃ k ∈ s.clockGroup stack, s.fixedStack k = true) := by
    rintro (h4 | hp' | ⟨hne, k, hk, hfix⟩)
    · omega
    · exact hp' hp
    · simp [(h.resolve_left hne) k hk] at hfix
  unfold State.clockRequest
  dsimp only
  rw [if_neg (mt (clockRefused_iff s stack point).mp htaken)]
  exact clock_foldl_setClock (f := fun c => { c with req := some point, acked := false }) (fun _ => rfl) _ s j

/-- The stacks that change with a stack and are held for it. -/
def State.clocksHeld (s : State) (stack : Nat) : List Nat := (s.clockGroup stack).filter s.clockHeld

theorem clockChangeAck_of_ready {s : State} {stack : Nat} (hs : stack ∈ s.clocksHeld stack)
    (h : ∀ k ∈ s.clocksHeld stack, s.clockSafe k = true) :
    ∃ t, exec (.clockChangeAck stack) s = .next t ∧
      ∀ j, t.clock j = if j ∈ s.clocksHeld stack then { s.clock j with acked := true } else s.clock j := by
  have hc : ((s.clocksHeld stack).contains stack && (s.clocksHeld stack).all s.clockSafe) = true := by simpa using ⟨hs, h⟩
  exact ⟨(s.clocksHeld stack).foldl (fun s k => s.setClock k { s.clock k with acked := true }) s, congrArg _ (if_pos hc),
    clock_foldl_setClock (f := fun c => { c with acked := true }) (fun _ => rfl) _ s⟩

theorem clockChangeAck_of_unready {s : State} {stack : Nat}
    (h : stack ∉ s.clocksHeld stack ∨ ∃ k ∈ s.clocksHeld stack, s.clockSafe k = false) :
    exec (.clockChangeAck stack) s = .next s := by
  have hc : ¬((s.clocksHeld stack).contains stack && (s.clocksHeld stack).all s.clockSafe) = true := by
    simpa [imp_iff_not_or] using h
  exact congrArg _ (if_neg hc)

/-- The clock of a stack whose change completes. -/
def Clock.changed (c : Clock) : Clock := ⟨c.req.getD c.mhz, none, false⟩

theorem clockChangeComplete_of_acked {s : State} {stack : Nat} (hs : stack ∈ s.clocksHeld stack)
    (h : ∀ k ∈ s.clocksHeld stack, (s.clock k).acked = true) :
    ∃ t, exec (.clockChangeComplete stack) s = .next t ∧ (∀ j, s.clockLocked j → t.clock j = ⟨1600, none, false⟩) ∧
      ∀ j, ¬s.clockLocked j → t.clock j = if j ∈ s.clocksHeld stack then (s.clock j).changed else s.clock j := by
  have hc : ((s.clocksHeld stack).contains stack && (s.clocksHeld stack).all fun k => (s.clock k).acked) = true := by
    simpa using ⟨hs, h⟩
  refine ⟨((s.clocksHeld stack).foldl (fun s k => s.setClock k (s.clock k).changed) s).lockClocks, congrArg _ (if_pos hc), ?_⟩
  have honly : ClocksOnly s ((s.clocksHeld stack).foldl (fun s k => s.setClock k (s.clock k).changed) s) :=
    .foldl (fun t k => clocksOnly_setClock t k _) _ s
  have hfold := clock_foldl_setClock (f := Clock.changed) (fun _ => rfl) (s.clocksHeld stack) s
  refine ⟨fun j hj => (lockClocks_clock _ j).1 ((clockLocked_congr honly j).mpr hj), fun j hj => ?_⟩
  exact ((lockClocks_clock _ j).2 (mt (clockLocked_congr honly j).mp hj)).trans (hfold j)

theorem clockChangeComplete_of_unacked {s : State} {stack : Nat}
    (h : stack ∉ s.clocksHeld stack ∨ ∃ k ∈ s.clocksHeld stack, (s.clock k).acked = false) :
    exec (.clockChangeComplete stack) s = .next s := by
  have hc : ¬((s.clocksHeld stack).contains stack && (s.clocksHeld stack).all fun k => (s.clock k).acked) = true := by
    simpa [imp_iff_not_or] using h
  exact congrArg _ (if_neg hc)

end Sys2Proof.Machine
end

section
/-! SUPPORT. The dirty lines of a partition are written back when it is quiesced (R3, R263). -/

namespace Sys2Proof.Machine

/-! ### Writing back the dirty lines of a partition (R3, R263) -/

theorem State.dirAt_modDir (s : State) (k j : Nat) {f : DirEntry → DirEntry} (hf : ∀ e, (f e).line = e.line) :
    (s.modDir k f).dirAt j = (s.dirAt j).map fun e => if e.line == k then f e else e :=
  find?_map_of_key (key := DirEntry.line) (fun e => by split <;> simp [hf]) s.dir j

theorem State.line_of_dirAt {s : State} {k : Nat} {e : DirEntry} (h : s.dirAt k = some e) : e.line = k := by
  simpa using List.find?_some h

@[simp] theorem State.dirAt_modHalf (s : State) (k j : Nat) (f : HalfSt → HalfSt) : (s.modHalf k f).dirAt j = s.dirAt j := by
  unfold State.modHalf
  split <;> rfl

theorem writeBack_of_clean {s : State} {k : Nat} (h : ∀ e, s.dirAt k = some e → e.dirty = false) : s.writeBack k = s.sliceClean k := by
  unfold State.writeBack
  dsimp only
  split
  · rename_i e he
    have hc := h e he
    split
    · rename_i a st hown
      simp only [DirEntry.dirty, hown, Option.any_some] at hc
      simp [hc]
    · rfl
  · rfl

theorem writeBack_of_dirty {s : State} {k : Nat} {e : DirEntry} (he : s.dirAt k = some e) (hd : e.dirty = true) :
    ∃ a, s.writeBack k = ((s.sliceClean k).modDir k fun e =>
      if e.sharers.isEmpty then { e with owner := some (a, .e), home := none, mirror := none }
      else { e with owner := none, sharers := a :: e.sharers, home := none, mirror := none }).cleanHalf k := by
  unfold DirEntry.dirty at hd
  cases hown : e.owner with
  | none => simp [hown] at hd
  | some o =>
    rw [hown, Option.any_some] at hd
    have he' : (s.sliceClean k).dirAt k = some e := he
    refine ⟨o.1, ?_⟩
    unfold State.writeBack
    simp only [he', hown]
    rw [if_pos hd]

/-- A write-back of one line leaves the entries of the others. -/
theorem writeBack_dirAt_ne (s : State) {k j : Nat} (hj : j ≠ k) : (s.writeBack k).dirAt j = s.dirAt j := by
  by_cases h : ∃ e, s.dirAt k = some e ∧ e.dirty = true
  · obtain ⟨e, he, hd⟩ := h
    obtain ⟨a, hw⟩ := writeBack_of_dirty he hd
    rw [hw, State.cleanHalf, State.dirAt_modHalf, State.dirAt_modDir _ _ _ fun e => by split <;> rfl]
    change Option.map _ (s.dirAt j) = s.dirAt j
    cases hs : s.dirAt j with
    | none => rfl
    | some x => simp [State.line_of_dirAt hs, hj]
  · rw [writeBack_of_clean fun e he => by simpa using fun hd => h ⟨e, he, hd⟩]
    rfl

/-- A line that has been written back is dirty in no copy. -/
theorem writeBack_dirAt_clean {s : State} {k : Nat} {x : DirEntry} (hx : (s.writeBack k).dirAt k = some x) : x.dirty = false := by
  by_cases h : ∃ e, s.dirAt k = some e ∧ e.dirty = true
  · obtain ⟨e, he, hd⟩ := h
    obtain ⟨a, hw⟩ := writeBack_of_dirty he hd
    rw [hw, State.cleanHalf, State.dirAt_modHalf, State.dirAt_modDir _ _ _ fun e => by split <;> rfl] at hx
    obtain ⟨y, hy, rfl⟩ := Option.map_eq_some_iff.mp hx
    rw [State.line_of_dirAt hy, beq_self_eq_true, if_pos rfl]
    split <;> rfl
  · have hclean : ∀ e, s.dirAt k = some e → e.dirty = false := fun e he => by simpa using fun hd => h ⟨e, he, hd⟩
    rw [writeBack_of_clean hclean] at hx
    exact hclean x hx

/-- After the lines of a list have been written back, an entry is clean, or it is as before and its line was not listed. -/
theorem foldl_writeBack_dirAt {xs : List DirEntry} {s : State} {k : Nat} {x : DirEntry}
    (hx : (xs.foldl (fun s x => s.writeBack x.line) s).dirAt k = some x) :
    x.dirty = false ∨ s.dirAt k = some x ∧ ∀ y ∈ xs, y.line ≠ k := by
  induction xs generalizing s with
  | nil => exact .inr ⟨hx, by simp⟩
  | cons y ys ih =>
    rcases ih hx with hc | ⟨hs, hys⟩
    · exact .inl hc
    · by_cases hy : k = y.line
      · subst hy; exact .inl (writeBack_dirAt_clean hs)
      · rw [writeBack_dirAt_ne _ hy] at hs
        exact .inr ⟨hs, List.forall_mem_cons.mpr ⟨Ne.symm hy, hys⟩⟩

theorem foldl_sliceClean_dirAt (ks : List Nat) (s : State) (j : Nat) : (ks.foldl State.sliceClean s).dirAt j = s.dirAt j :=
  List.foldlRecOn (motive := fun t => State.dirAt t j = s.dirAt j) ks State.sliceClean rfl fun _ ht _ _ => ht

theorem mem_foldl_sliceClean {ks : List Nat} {s : State} {k : Nat} (h : k ∈ (ks.foldl State.sliceClean s).caches.l2dirty) :
    k ∈ s.caches.l2dirty ∧ k ∉ ks := by
  induction ks generalizing s with
  | nil => exact ⟨h, by simp⟩
  | cons j ks ih =>
    obtain ⟨hs, hks⟩ := ih h
    obtain ⟨hmem, hne⟩ := mem_setErase.mp hs
    exact ⟨hmem, by simp [hne, hks]⟩

theorem CopiesOnly.lineOwner {s t : State} (h : CopiesOnly s t) (pa : Nat) : t.lineOwner pa = s.lineOwner pa := by
  rw [State.lineOwner, h.parts, State.lineOwner]

theorem CopiesOnly.dirtyOf {s t : State} (h : CopiesOnly s t) (p : Nat) (e : Partition) (x : DirEntry) : t.dirtyOf p e x = s.dirtyOf p e x := by
  simp only [State.dirtyOf, h.lineOwner]

theorem dirty_of_dirtyOf {s : State} {p : Nat} {e : Partition} {x : DirEntry} (h : s.dirtyOf p e x = true) : x.dirty = true := by
  unfold State.dirtyOf at h
  unfold DirEntry.dirty
  cases hx : x.owner with
  | none => simp [hx] at h
  | some o => simp_all

theorem copiesOnly_writeBacks (xs : List DirEntry) (s : State) : CopiesOnly s (xs.foldl (fun s x => s.writeBack x.line) s) :=
  .foldl (fun t x => copiesOnly_writeBack t x.line) xs s

theorem copiesOnly_writeBackPart (s : State) (p : Nat) (e : Partition) : CopiesOnly s (s.writeBackPart p e) :=
  (copiesOnly_writeBacks _ s).trans (.foldl copiesOnly_sliceClean _ _)

/-- Once the lines of a partition are written back, none of them is dirty in a copy. -/
theorem writeBackPart_dirAt_clean {s : State} {p k : Nat} {e : Partition} {x : DirEntry} (hx : (s.writeBackPart p e).dirAt k = some x) :
    (s.writeBackPart p e).dirtyOf p e x = false := by
  rw [(copiesOnly_writeBackPart s p e).dirtyOf]
  refine Bool.eq_false_iff.mpr fun hd => ?_
  have hx' := (foldl_sliceClean_dirAt _ _ k).symm.trans hx
  rcases foldl_writeBack_dirAt hx' with hc | ⟨hs, hne⟩
  · simp [dirty_of_dirtyOf hd] at hc
  · exact hne x (List.mem_filter.mpr ⟨List.mem_of_find?_eq_some hs, hd⟩) (State.line_of_dirAt hs)

/-- Nor in a home slice. -/
theorem writeBackPart_l2dirty {s : State} {p k : Nat} {e : Partition} (hk : k ∈ (s.writeBackPart p e).caches.l2dirty)
    {y : Nat × Partition} (hy : s.lineOwner (keyLoc k).pa = some y) : y.1 ≠ p := by
  obtain ⟨hmem, hks⟩ := mem_foldl_sliceClean hk
  rintro rfl
  exact hks (List.mem_filter.mpr ⟨hmem, by simp [(copiesOnly_writeBacks _ s).lineOwner, hy]⟩)

end Sys2Proof.Machine
end

section
/-! SUPPORT. The parts of a write of the partition table (R3, R25, R263, R351, R427, R434). -/

namespace Sys2Proof.Machine

/-! ### What the distributor does in its step (R3, R390) -/

theorem copiesOnly_distShares (s : State) (k : Nat) : CopiesOnly s (s.distShares k) := by
  unfold State.distShares
  split
  · exact .refl s
  · exact copiesOnly_shareLine s _ k

theorem copiesOnly_watchQueues (s : State) (p : Nat) : CopiesOnly s (s.watchQueues p) := .foldl copiesOnly_distShares _ s

theorem copiesOnly_distActs {s t : State} (h : CopiesOnly s t) : CopiesOnly s (s.distActs t) := by
  unfold State.distActs State.agentActs
  split
  · exact h
  · exact (copiesOnly_askHomes s _ _ _).trans (.foldl copiesOnly_recall _ _)

theorem copiesOnly_beforeRewrite (s : State) (part : Nat) (entry : Partition) : CopiesOnly s (s.beforeRewrite part entry) := by
  unfold State.beforeRewrite
  split
  · exact .refl s
  · split
    · exact .refl s
    · exact (copiesOnly_writeBackPart s _ _).trans (.foldl (fun t (x : DirEntry) => copiesOnly_evict t x.line) _ _)

/-! ### Power (R350, R351) -/

/-- A tile gated, or powered. -/
def State.setGated (s : State) (b : Bool) (n : Nat) : State := { s with tiles := smapSet s.tiles n ⟨b, (s.tileAt n).idle⟩ }

theorem State.tileAt_setGated (s : State) (b : Bool) (n k : Nat) :
    ((s.setGated b n).tileAt k).gated = if k = n then b else (s.tileAt k).gated := by
  simp only [State.tileAt, State.setGated, smapGet?_smapSet]
  split <;> rfl

theorem tilesOnly_foldl_setGated (s : State) (b : Bool) (ns : List Nat) : ∃ m, ns.foldl (fun s n => s.setGated b n) s = { s with tiles := m } :=
  List.foldlRecOn (motive := fun t : State => ∃ m, t = { s with tiles := m }) ns _ ⟨_, rfl⟩ fun _ ht _ _ => by
    obtain ⟨m, rfl⟩ := ht; exact ⟨_, rfl⟩

theorem gated_foldl_setGated (s : State) (b : Bool) (ns : List Nat) (k : Nat) :
    ((ns.foldl (fun s n => s.setGated b n) s).tileAt k).gated = if k ∈ ns then b else (s.tileAt k).gated := by
  induction ns generalizing s with
  | nil => simp
  | cons n ns ih =>
    rw [List.foldl_cons, ih, State.tileAt_setGated]
    by_cases hn : k = n <;> by_cases hns : k ∈ ns <;> simp [hn, hns]

/-! ### A write of the partition table (R3, R25, R263, R351, R427, R434) -/

/-- The number of the device and its peers, as an entry gives them. -/
def State.tablePeers (s : State) (entry : Partition) : State := if entry.valid then { s with device := entry.device }.joinPeers entry else s

/-- The tiles of a fixed partition powered. -/
def State.tablePower (s : State) (entry : Partition) : State :=
  if entry.valid && entry.fixed then entry.tiles.foldl (fun s n => s.setGated false n) s else s

/-- The ports of the partition's logical device, while its link is up. -/
def State.tablePorts (s : State) (part : Nat) (entry : Partition) : State :=
  if (s.ld part).down then s else s.setLd part { s.ld part with portsUp := entry.ports }

/-- Launch queues are accepted once partitions are written. -/
def State.tableStage (s : State) : State := if 5 ≤ s.fw.stage then { s with fw := { s.fw with stage := 7 } } else s

/-- An entry in the table. -/
def State.setEntry (s : State) (part : Nat) (entry : Partition) : State :=
  { s with parts := smapSet s.parts part { entry with slices := sliceList entry } }

/-- What a write of the table does before the distributor looks at the tail lines. -/
def State.tableWritten (s : State) (part : Nat) (entry : Partition) : State :=
  ((((((s.beforeRewrite part entry).setEntry part entry).tablePeers entry).tablePower entry).lockClocks.tablePorts part entry).tableStage).measureTable

theorem exec_partitionTableWrite_of_lt {s : State} {part : Nat} (entry : Partition) (h : part < 16) :
    exec (.partitionTableWrite part entry) s =
      .next ((s.tableWritten part entry).distActs ((s.tableWritten part entry).watchQueues part)) :=
  congrArg _ (if_neg (by omega))

theorem joinPeers_eq (s : State) (e : Partition) : ∃ ps, s.joinPeers e = { s with peers := ps } := by
  unfold State.joinPeers
  refine List.foldlRecOn (motive := fun t : State => ∃ ps, t = { s with peers := ps }) _ _ ⟨_, rfl⟩ fun t ht b _ => ?_
  obtain ⟨ps, rfl⟩ := ht
  split
  · exact ⟨_, rfl⟩
  · exact ⟨_, rfl⟩

theorem tablePeers_keeps (s : State) (e : Partition) :
    (s.tablePeers e).mem = s.mem ∧ (s.tablePeers e).cores = s.cores ∧ (s.tablePeers e).parts = s.parts ∧ (s.tablePeers e).fw = s.fw ∧
      (s.tablePeers e).device = if e.valid then e.device else s.device := by
  unfold State.tablePeers
  split
  · obtain ⟨ps, h⟩ := joinPeers_eq { s with device := e.device } e
    rw [h]
    exact ⟨rfl, rfl, rfl, rfl, rfl⟩
  · exact ⟨rfl, rfl, rfl, rfl, rfl⟩

theorem tablePower_keeps (s : State) (e : Partition) :
    (s.tablePower e).mem = s.mem ∧ (s.tablePower e).cores = s.cores ∧ (s.tablePower e).parts = s.parts ∧ (s.tablePower e).fw = s.fw ∧
      (s.tablePower e).device = s.device := by
  unfold State.tablePower
  split
  · obtain ⟨ts, h⟩ := tilesOnly_foldl_setGated s false e.tiles
    rw [h]
    exact ⟨rfl, rfl, rfl, rfl, rfl⟩
  · exact ⟨rfl, rfl, rfl, rfl, rfl⟩

theorem lockClocks_keeps (s : State) :
    s.lockClocks.mem = s.mem ∧ s.lockClocks.cores = s.cores ∧ s.lockClocks.parts = s.parts ∧ s.lockClocks.fw = s.fw ∧
      s.lockClocks.device = s.device ∧ s.lockClocks.tiles = s.tiles := by
  obtain ⟨cs, h⟩ := clocksOnly_lockClocks s
  rw [h]
  exact ⟨rfl, rfl, rfl, rfl, rfl, rfl⟩

theorem tablePorts_keeps (s : State) (part : Nat) (e : Partition) :
    (s.tablePorts part e).mem = s.mem ∧ (s.tablePorts part e).cores = s.cores ∧ (s.tablePorts part e).parts = s.parts ∧
      (s.tablePorts part e).fw = s.fw ∧ (s.tablePorts part e).device = s.device ∧ (s.tablePorts part e).tiles = s.tiles ∧
      (s.tablePorts part e).clocks = s.clocks := by
  unfold State.tablePorts
  split <;> exact ⟨rfl, rfl, rfl, rfl, rfl, rfl, rfl⟩

theorem tableStage_keeps (s : State) :
    s.tableStage.mem = s.mem ∧ s.tableStage.cores = s.cores ∧ s.tableStage.parts = s.parts ∧ s.tableStage.device = s.device ∧
      s.tableStage.tiles = s.tiles ∧ s.tableStage.clocks = s.clocks ∧
      s.tableStage.fw.stage = if 5 ≤ s.fw.stage then 7 else s.fw.stage := by
  unfold State.tableStage
  split <;> exact ⟨rfl, rfl, rfl, rfl, rfl, rfl, rfl⟩

section

variable (s : State) (part : Nat) (e : Partition)

/-- What the parts of a write leave of each other: each writes its own field. -/
theorem tableWritten_fields :
    (s.tableWritten part e).parts = smapSet s.parts part { e with slices := sliceList e } ∧
    (s.tableWritten part e).device = (if e.valid then e.device else s.device) ∧
    (s.tableWritten part e).fw.stage = (if 5 ≤ s.fw.stage then 7 else s.fw.stage) ∧
    (s.tableWritten part e).mem = s.mem ∧ (s.tableWritten part e).cores = s.cores := by
  have hu := copiesOnly_beforeRewrite s part e
  simp only [State.tableWritten, State.measureTable, tableStage_keeps, tablePorts_keeps, lockClocks_keeps, tablePower_keeps, tablePeers_keeps,
    State.setEntry, hu.parts, hu.device, hu.fw, hu.mem, hu.cores, and_self]

variable {e}

/-- The tiles of a fixed partition are powered (R351). -/
theorem tableWritten_powered (hv : e.valid = true) (hf : e.fixed = true) {n : Nat} (hn : n ∈ e.tiles) :
    ((s.tableWritten part e).tileAt n).gated = false := by
  simp only [State.tableWritten, State.measureTable, State.tileAt, tableStage_keeps, tablePorts_keeps, lockClocks_keeps]
  simp only [State.tablePower, hv, hf, Bool.and_self, if_true]
  exact (gated_foldl_setGated _ false e.tiles n).trans (if_pos hn)

/-- The stacks of a fixed partition run at 1.6 GHz (R427). -/
theorem tableWritten_locked (hv : e.valid = true) (hf : e.fixed = true) {n : Nat} (hn : n ∈ e.tiles) (h576 : n < 576) :
    (s.tableWritten part e).clock (n / 144) = ⟨1600, none, false⟩ := by
  simp only [State.tableWritten, State.measureTable, State.clock, tableStage_keeps, tablePorts_keeps]
  refine (lockClocks_clock _ _).1 ⟨by omega, _, mem_clockGroup_self _ _, ?_⟩
  simp only [State.fixedStack, tablePower_keeps, tablePeers_keeps, State.setEntry, List.any_eq_true]
  exact ⟨_, mem_of_smapGet? (smapGet?_smapSet_same _ part _), by simp [hv, hf]; exact .inl ⟨n, hn, rfl⟩⟩

end

end Sys2Proof.Machine
end

section
/-! PROOF. The actions of the management plane on masters, partitions, clocks and power (R3, R368, R426 to R429). -/

namespace Sys2Proof.Machine

/-! ### The clauses on each action -/

theorem masterRelease_host_of_frozen {s : State} {n : Nat} (h : (s.ld n).frozen = true) :
    ∃ t, exec (.masterRelease (.host n)) s = .next t ∧ t.ld n = { s.ld n with frozen := false } ∧
      (∀ x ∈ t.hostHeld, x.ld ≠ n) ∧ (∀ x ∈ s.hostHeld, x.ld ≠ n → x ∈ t.hostHeld) ∧ t.mem.poison = s.mem.poison ∧
      (∀ b ∈ t.bridge, s.ldOf b.line ≠ some n) ∧ ∀ b ∈ s.bridge, s.ldOf b.line ≠ some n → b ∈ t.bridge := by
  obtain ⟨hld, hheld, hbridge, hpoison⟩ := releaseHost_of_frozen h
  refine ⟨s.releaseHost n, rfl, hld, ?_, ?_, hpoison, ?_, ?_⟩
  · simp [hheld]
  · exact fun x hx hne => by rw [hheld]; exact List.mem_filter.mpr ⟨hx, bne_iff_ne.mpr hne⟩
  · simp [hbridge]
  · exact fun b hb hne => by rw [hbridge]; exact List.mem_filter.mpr ⟨hb, bne_iff_ne.mpr hne⟩

theorem masterRelease_peer_of_refused {s : State} {d : Nat} (h : (s.peer d).refused = true) :
    ∃ t, exec (.masterRelease (.peer d)) s = .next t ∧ t.mem = s.mem ∧ t.cores = s.cores ∧
      t.peer d = { s.peer d with bytes := [], full := [], poison := [], refused := false } ∧ ∀ q, q ≠ d → t.peer q = s.peer q := by
  have ht : exec (.masterRelease (.peer d)) s = .next { s with
      dir := s.dir.filter fun e => (keyLoc e.line).dev != d
      peers := smapSet s.peers d { s.peer d with bytes := [], full := [], poison := [], refused := false } } :=
    congrArg _ (if_neg (by simp [h]))
  exact ⟨_, ht, rfl, rfl, by rw [State.peer_setPeers, if_pos rfl], fun q hq => by rw [State.peer_setPeers, if_neg hq]⟩

theorem partitionTableWrite_of_lt {part : Nat} (s : State) (e : Partition) (h : part < 16) :
    ∃ t, exec (.partitionTableWrite part e) s = .next t ∧ smapGet? t.parts part = some { e with slices := sliceList e } ∧
      (e.valid = true → t.device = e.device) ∧ (e.valid = false → t.device = s.device) ∧
      (e.valid = true → e.fixed = true → ∀ n ∈ e.tiles, (t.tileAt n).gated = false ∧ (n < 576 → t.clock (n / 144) = ⟨1600, none, false⟩)) ∧
      (∀ q, q ≠ part → smapGet? t.parts q = smapGet? s.parts q) ∧ t.fw.stage = (if 5 ≤ s.fw.stage then 7 else s.fw.stage) ∧
      t.mem = s.mem ∧ t.cores = s.cores := by
  have hk := copiesOnly_distActs (copiesOnly_watchQueues (s.tableWritten part e) part)
  obtain ⟨hparts, hdevice, hstage, hmem, hcores⟩ := tableWritten_fields s part e
  rw [← hk.parts] at hparts
  rw [← hk.device] at hdevice
  refine ⟨_, exec_partitionTableWrite_of_lt e h, ?_, fun hv => ?_, fun hv => ?_, fun hv hf n hn => ⟨?_, fun h576 => ?_⟩, fun q hq => ?_,
    ?_, hk.mem.trans hmem, hk.cores.trans hcores⟩
  · rw [hparts, smapGet?_smapSet_same]
  · rw [hdevice, if_pos hv]
  · rw [hdevice, if_neg (by simp [hv])]
  · rw [State.tileAt, hk.tiles]
    exact tableWritten_powered s part hv hf hn
  · rw [State.clock, hk.clocks]
    exact tableWritten_locked s part hv hf hn h576
  · rw [hparts, smapGet?_smapSet_ne _ _ (Ne.symm hq)]
  · rw [hk.fw, hstage]

/-- What a quiesce does to the caches before anything else runs (R3, R263). -/
theorem exec_quiesce_of_on {s : State} {part : Nat} {e : Partition} (he : s.partEntry part = some e) :
    exec (.quiesce part true) s = .next ((s.setPst part { s.pst part with quiesced := true }).writeBackPart part e) := by
  have he' : (s.setPst part { s.pst part with quiesced := true }).partEntry part = some e := he
  simp only [exec_quiesce, execQuiesce, event, if_true, he']

theorem State.pst_setPst (s : State) (p : Nat) (x : PartState) : (s.setPst p x).pst p = x := by
  simp only [State.pst, State.setPst, smapGet?_smapSet_same, Option.getD_some]

theorem quiesce_holds (s : State) (part : Nat) (on : Bool) :
    ∃ t, exec (.quiesce part on) s = .next t ∧ (t.pst part).quiesced = on ∧ t.mem = s.mem ∧ t.cores = s.cores ∧
      ∀ e k x, on = true → s.partEntry part = some e → t.dirAt k = some x → t.dirtyOf part e x = false := by
  cases on with
  | false =>
    refine ⟨_, rfl, ?_, rfl, rfl, fun _ _ _ h => by cases h⟩
    exact congrArg PartState.quiesced (s.pst_setPst part _)
  | true =>
    cases he : s.partEntry part with
    | none =>
      have he' : (s.setPst part { s.pst part with quiesced := true }).partEntry part = none := he
      refine ⟨s.setPst part { s.pst part with quiesced := true }, ?_, ?_, rfl, rfl, fun _ _ _ _ h => by cases h⟩
      · simp only [exec_quiesce, execQuiesce, event, if_true, he']
      · rw [State.pst_setPst]
    | some e =>
      have hk := copiesOnly_writeBackPart (s.setPst part { s.pst part with quiesced := true }) part e
      refine ⟨_, exec_quiesce_of_on he, ?_, hk.mem, hk.cores, fun e' k x _ he' hx => ?_⟩
      · rw [State.pst, hk.pstate]
        exact congrArg PartState.quiesced (s.pst_setPst part _)
      · cases he'
        exact writeBackPart_dirAt_clean hx

/-- The tiles of elastic partitions that hold no unit (R429). -/
def State.idleElastic (s : State) : List Nat :=
  (s.parts.flatMap fun (_, e) => if e.valid && !e.fixed then e.tiles else []).filter fun n => !s.tileBusy n

theorem mem_idleElastic {s : State} {x : Nat × Partition} {n : Nat} (hx : x ∈ s.parts) (hv : x.2.valid = true) (hf : x.2.fixed = false)
    (hn : n ∈ x.2.tiles) (hb : s.tileBusy n = false) : n ∈ s.idleElastic :=
  List.mem_filter.mpr ⟨List.mem_flatMap.mpr ⟨x, hx, by simpa [hv, hf] using hn⟩, by simp [hb]⟩

/-- They are gated. -/
def State.gateIdle (s : State) : State := s.idleElastic.foldl (fun s n => s.setGated true n) s

/-- Elastic stacks are asked to step down. -/
def State.stepDown (s : State) : State :=
  ((List.range 4).filter fun k => !s.fixedStack k && !s.removed.contains k).foldl
    (fun s k => s.clockRequest k (lowerPoint (s.clock k).mhz)) s

theorem exec_powerLimit_eq (s : State) (watts : Nat) :
    exec (.powerLimit watts) s = .next ({ s with watts := min watts 3500 } : State).gateIdle.stepDown := rfl

theorem clocksOnly_stepDown (s : State) : ClocksOnly s s.stepDown := .foldl (fun t k => clocksOnly_clockRequest t k _) _ s

theorem powerLimit_holds (s : State) (watts : Nat) :
    ∃ t, exec (.powerLimit watts) s = .next t ∧ t.watts = min watts 3500 ∧ t.cores = s.cores ∧ t.mem = s.mem ∧
      ∀ x ∈ s.parts, x.2.valid = true → x.2.fixed = false → ∀ n ∈ x.2.tiles, s.tileBusy n = false → (t.tileAt n).gated = true := by
  obtain ⟨c, hc⟩ := clocksOnly_stepDown ({ s with watts := min watts 3500 } : State).gateIdle
  obtain ⟨m, hm⟩ : ∃ m, ({ s with watts := min watts 3500 } : State).gateIdle = { s with watts := min watts 3500, tiles := m } :=
    tilesOnly_foldl_setGated _ true _
  refine ⟨_, exec_powerLimit_eq s watts, by rw [hc, hm], by rw [hc, hm], by rw [hc, hm], fun x hx hv hf n hn hb => ?_⟩
  rw [hc]
  exact (gated_foldl_setGated _ true _ n).trans (if_pos (mem_idleElastic hx hv hf hn hb))

theorem thermalTrip_holds (s : State) :
    ∃ t, exec .thermalTrip s = .next t ∧ t.stopped = true ∧ (∀ g, smapGet? s.cores g ≠ none → (t.coreAt g).frozen = true) ∧
      .thermal ∈ t.mailbox ∧ t.mem = s.mem := by
  refine ⟨_, rfl, rfl, fun g hg => ?_, by simp [State.report], rfl⟩
  obtain ⟨c, hc⟩ := Option.ne_none_iff_exists'.mp hg
  have hmap := smapGet?_mapVal (fun _ c => { c with frozen := true }) s.cores g
  rw [hc, Option.map_some] at hmap
  simp only [State.coreAt, State.report_cores, hmap, Option.getD_some]

theorem step_of_stopped {s : State} (h : s.stopped = true) : step s = .fault .moduleStopped := by
  simp [step, h]

/-- Settles O50: each action of the management plane by its own lemma. -/
theorem managementOfPartitionsAndClocks : Obligations.ManagementOfPartitionsAndClocks := by
  intro s core part stack point watts entry on c
  refine ⟨fun hf hnone => ?_, ⟨_, rfl, releaseFrozen_cmds s core⟩, fun hf => ⟨_, rfl, releaseFrozen_mem s core, fun hu => ?_, fun l _ hl => ?_⟩,
    fun hf => ?_, masterRelease_host_of_frozen, fun hr => ?_, masterRelease_peer_of_refused, fun h => ?_, partitionTableWrite_of_lt s entry,
    quiesce_holds s part on, fun e t he ht k hk y hy => ?_, fun h => ?_, fun hs hp h => ?_, ⟨fun hs h => ?_, ?_, fun hs h => ?_, ?_⟩,
    powerLimit_holds s watts, thermalTrip_holds s, fun t => step_of_stopped⟩
  · exact congrArg _ ((releaseFrozen_of_running hf).trans (dropFrozen_of_none hnone))
  · exact releaseFrozen_coreAt_of_vacant hf (by rw [State.launchOf, show (s.coreAt core).unit = none from hu]; rfl)
  · exact releaseFrozen_coreAt_of_launch hf hl
  · exact congrArg _ (if_pos (by simp [hf]))
  · exact congrArg _ (if_pos (by simp [hr]))
  · exact congrArg _ (if_pos h)
  · rw [exec_quiesce_of_on he] at ht
    cases ht
    exact writeBackPart_l2dirty hk hy
  · exact congrArg _ (clockRequest_of_refused h)
  · obtain ⟨cs, hcs⟩ := clocksOnly_clockRequest s stack point
    refine ⟨_, rfl, ?_, fun k hk => ?_, fun k hk => ?_⟩
    · rw [hcs]
    · rw [clockRequest_of_taken hs hp h, if_pos hk]
    · rw [clockRequest_of_taken hs hp h, if_neg hk]
  · obtain ⟨t, ht, hclock⟩ := clockChangeAck_of_ready hs h
    exact ⟨t, ht, fun k hk => (hclock k).trans (if_pos hk), fun k hk => (hclock k).trans (if_neg hk)⟩
  · exact clockChangeAck_of_unready
  · obtain ⟨t, ht, hlocked, hclock⟩ := clockChangeComplete_of_acked hs h
    refine ⟨t, ht, hlocked, fun k hk hl => ?_, fun k hk hl => (hclock k hl).trans (if_neg hk)⟩
    obtain ⟨r, hr⟩ := Option.isSome_iff_exists.mp (List.mem_filter.mp hk).2
    rw [(hclock k hl).trans (if_pos hk)]
    exact ⟨by simp [Clock.changed, hr], rfl⟩
  · exact clockChangeComplete_of_unacked

end Sys2Proof.Machine
end

section
/-! SUPPORT. What the move of the pc leaves: the state at the start of an instruction's own effect reads as the state before it. -/

namespace Sys2Proof.Machine

/-- A file of registers that all hold one value. -/
theorem vector_get_replicate {α : Type} {n : Nat} (x : α) (r : Fin n) : (Vector.replicate n x).get r = x := by
  simp [Vector.get_eq_getElem]

@[simp] theorem State.me_setPc (s : State) (pc : Word) : (s.setPc pc).me = s.me.setCtx s.hand.ctx { s.my with pc := pc } := by
  simp [State.setPc]

theorem State.coreAt_setPc (s : State) (pc : Word) (g : Nat) :
    (s.setPc pc).coreAt g = if g = s.hand.core then s.me.setCtx s.hand.ctx { s.my with pc := pc } else s.coreAt g :=
  s.coreAt_modMy _ g

/-- What a core has beside its contexts is as before. -/
theorem State.coreAt_setPc_congr {α : Type} (f : Core → α) (hf : ∀ c n x, f (c.setCtx n x) = f c) (s : State) (pc : Word) (g : Nat) :
    f ((s.setPc pc).coreAt g) = f (s.coreAt g) := by
  rw [State.coreAt_setPc]
  split
  · rename_i h; subst h; exact hf _ _ _
  · rfl

@[simp] theorem State.coreAt_setPc_vq (s : State) (pc : Word) (g : Nat) : ((s.setPc pc).coreAt g).vq = (s.coreAt g).vq :=
  s.coreAt_setPc_congr _ (fun _ _ _ => rfl) pc g
@[simp] theorem State.coreAt_setPc_unit (s : State) (pc : Word) (g : Nat) : ((s.setPc pc).coreAt g).unit = (s.coreAt g).unit :=
  s.coreAt_setPc_congr _ (fun _ _ _ => rfl) pc g
@[simp] theorem State.coreAt_setPc_freed (s : State) (pc : Word) (g : Nat) : ((s.setPc pc).coreAt g).freed = (s.coreAt g).freed :=
  s.coreAt_setPc_congr _ (fun _ _ _ => rfl) pc g

@[simp] theorem State.hand_setPc (s : State) (pc : Word) : (s.setPc pc).hand = s.hand := rfl
@[simp] theorem State.isAvlyn_setPc (s : State) (pc : Word) : (s.setPc pc).isAvlyn = s.isAvlyn := rfl
@[simp] theorem State.inSys_setPc (s : State) (pc : Word) : (s.setPc pc).inSys = s.inSys := by simp [State.inSys]
@[simp] theorem State.partNo_setPc (s : State) (pc : Word) : (s.setPc pc).partNo = s.partNo := by simp [State.partNo]

@[simp] theorem State.queueQuiet_setPc (s : State) (pc : Word) (g n : Nat) : (s.setPc pc).queueQuiet g n = s.queueQuiet g n := by
  simp [State.queueQuiet, State.rowRuns]

@[simp] theorem State.storesPerformed_setPc (s : State) (pc : Word) : (s.setPc pc).storesPerformed = s.storesPerformed := by
  simp [State.storesPerformed, State.freesDone]

@[simp] theorem State.inPartition_setPc (s : State) (pc : Word) (g : Nat) : (s.setPc pc).inPartition g = s.inPartition g := by
  simp [State.inPartition, State.partEntry]

@[simp] theorem State.localCheck_setPc (s : State) (pc a : Word) (n align : Nat) (raw : Bool) :
    (s.setPc pc).localCheck a n align raw = s.localCheck a n align raw := by
  simp [State.localCheck]

@[simp] theorem State.spPoison_setPc (s : State) (pc : Word) (w : Bool) (g o n : Nat) : (s.setPc pc).spPoison w g o n = s.spPoison w g o n := rfl

@[simp] theorem State.rowHeld_setPc (s : State) (pc : Word) (row : Nat) : (s.setPc pc).rowHeld row = s.rowHeld row := by
  simp [State.rowHeld]

theorem State.capture_setPc (s : State) (pc : Word) :
    (s.setPc pc).capture = ⟨s.hand.ctx, s.me.shape, s.me.zero, s.me.half, s.me.scale.extractLsb' 32 32⟩ := by
  simp [State.capture]

theorem State.modMe_modMe (s : State) (f h : Core → Core) : (s.modMe f).modMe h = s.modMe fun c => h (f c) := by
  show (s.modMe f).setCore s.hand.core _ = _
  rw [State.me_modMe]
  simp [State.modMe]

/-- A change of what the contexts of the core in hand share and one of the context in hand, in either order. -/
theorem State.modMe_modMy_comm (s : State) (f : Core → Core) (h : Context → Context) (hset : ∀ c n x, f (c.setCtx n x) = (f c).setCtx n x)
    (hget : ∀ c n, (f c).ctxAt n = c.ctxAt n) : (s.modMe f).modMy h = (s.modMy h).modMe f := by
  simp only [State.modMy, State.modMe_modMe, hset, hget]
  rfl

/-! ### Checks that pass -/

theorem State.await_of_not {s : State} {b : Bool} (h : b = false) (c : Cond) : s.await b c = .error (.wait s c) := by
  subst h; rfl

@[simp] theorem State.need_true (s : State) (code : Nat) (addr info : Word) : s.need true code addr info = .ok () := rfl
@[simp] theorem State.await_true (s : State) (c : Cond) : s.await true c = .ok () := rfl
/-- Not a `rfl` lemma for `simp`: the kernel would evaluate the checks to compare the two sides. -/
@[simp] theorem res_ok_bind {α β : Type} (x : α) (f : α → Res β) : ((.ok x : Res α) >>= f) = f x := by
  simp only [bind, Except.bind]
@[simp] theorem res_error_bind {α β : Type} (x : Stop) (f : α → Res β) : ((.error x : Res α) >>= f) = .error x := rfl
@[simp] theorem res_pure {α : Type} (x : α) : (pure x : Res α) = .ok x := rfl
@[simp] theorem State.lift_ok {α : Type} (s : State) (x : α) : s.lift (.ok x) = .ok x := rfl
theorem State.needClean_of_clean (s : State) {bad : Bool} (h : bad = false) (w : Bool) (win o n : Nat) (a i : Word) :
    s.needClean bad w win o n a i = .ok () := by
  subst h
  rfl

end Sys2Proof.Machine
end

section
/-! PROOF. The machine right after reset (R20 to R28, R37, R42, R47, R164). -/

namespace Sys2Proof.Machine

theorem State.coreAt_reset (g : Nat) : State.reset.coreAt g = Core.reset := rfl

theorem Core.ctxAt_reset (n : Nat) : Core.reset.ctxAt n = Context.reset := rfl

/-- Settles O57: no core and no context is listed, so each reads as its reset value. -/
theorem resetState : Obligations.ResetState := by
  refine ⟨memory_wf_reset, fun _ => rfl, rfl, rfl, rfl, rfl, rfl, rfl, fun g => ?_⟩
  rw [State.coreAt_reset]
  refine ⟨rfl, rfl, rfl, rfl, rfl, rfl, rfl, rfl, rfl, fun n => ?_⟩
  rw [Core.ctxAt_reset]
  exact ⟨rfl, rfl, rfl, rfl, rfl, fun r => vector_get_replicate true r⟩

end Sys2Proof.Machine
end

section
/-! PROOF. A `wake` that names a core outside the partition leaves the pc at the `wake` (R257, R368). -/

namespace Sys2Proof.Machine

/-- The violation takes no effect: the pc, which the body starts with at the next instruction, is set back to the `wake`. -/
theorem exec_wake_of_outside {s : State} {g : Guard} {a : BitVec 5} (h : s.runs true false g)
    (hk : ((s.S a).extractLsb' 16 13).toNat < 4640) (hp : s.inPartition ((s.S a).extractLsb' 16 13).toNat = false) :
    exec (.wake g a) s = .next (s.ahead.setPc s.hand.pc).freezeMaster := by
  rw [exec_wake, execWake, run_body h]
  simp only [State.S_setPc, State.inPartition_setPc, hp, nCores]
  rw [if_neg (by omega)]
  rfl

/-- A freeze leaves the pc of the context in hand. -/
theorem State.my_freezeMaster_pc (s : State) : s.freezeMaster.my.pc = s.my.pc := by
  show (s.modMe fun c => { c with frozen := true }).my.pc = _
  rw [State.my_modMe]
  rfl

/-- Refutes O40, in its clause on a `wake` to a core outside the partition: the machine right after reset, whose partition table is empty,
freezes at the `wake` of core 0 with the pc still at the `wake`, not at the next instruction. -/
theorem not_sleepWakeAndCounters : ¬ Obligations.SleepWakeAndCounters := by
  intro h
  have hrun : State.reset.runs true false .always := by unfold State.runs; decide
  obtain ⟨-, -, -, hwake, -⟩ := (h State.reset .always 0 0 0 0).1 hrun
  have heq := hwake (by decide) (by decide)
  rw [exec_wake_of_outside hrun (by decide) (by decide)] at heq
  injection heq with heq
  have hpc := congrArg (fun t : State => t.my.pc) heq
  simp only [State.my_freezeMaster_pc, State.my_setPc] at hpc
  exact absurd hpc (by decide)

end Sys2Proof.Machine
end

section
/-! PROOF. Vector and matrix instructions enter the vector queue, or act at issue (R12, R142, R156, R160, R165 to R174). -/

namespace Sys2Proof.Machine

/-! ### The vector queue (R12, R142) -/

theorem State.enqueue_of_room {s : State} (h : s.me.vq.length < 8) (op : VOp) :
    s.enqueue op = .ok { s.modMe fun c => { c with vq := c.vq ++ [⟨s.nextId, op, s.capture⟩] } with nextId := s.nextId + 1 } := by
  simp [State.enqueue, h]

theorem State.enqueue_of_full {s : State} (h : 8 ≤ s.me.vq.length) (op : VOp) : s.enqueue op = .error (.wait s .queueRoom) := by
  simp [State.enqueue, State.await_of_not (s := s) (decide_eq_false (Nat.not_lt.mpr h))]

/-- A body that enters the queue, which has room. -/
theorem enters_finish {s : State} (h : s.me.vq.length < 8) (op : VOp) : Enters (finish (s.ahead.enqueue op)) s op := by
  rw [State.enqueue_of_room (by simpa using h), State.capture_setPc]
  rfl

/-- A body that would enter the queue, which is full. -/
theorem waits_finish_enqueue {s : State} (h : 8 ≤ s.me.vq.length) (op : VOp) : Waits (finish (s.ahead.enqueue op)) s .queueRoom := by
  rw [State.enqueue_of_full (by simpa using h)]
  exact ⟨s.ahead, rfl, .inr rfl⟩

/-- A vector instruction that cannot fault enters the queue, or waits for room. -/
theorem runVec_enters {s : State} {g : Guard} (h : s.runs false false g) (op : State → VOp) {v : VOp} (hv : op s.ahead = v) :
    (s.me.vq.length < 8 → Enters (runVec g s op) s v) ∧ (8 ≤ s.me.vq.length → Waits (runVec g s op) s .queueRoom) := by
  rw [runVec, run_body h, hv]
  exact ⟨fun hr => enters_finish hr v, fun hr => waits_finish_enqueue hr v⟩

/-! ### At issue (R47, R156, R160) -/

@[simp] theorem Exact.scale_zero (x : Exact) : x.scale 0 = x := by
  cases x <;> simp [Exact.scale]

/-- Without a result modifier a result is rounded to nearest even, neither scaled nor saturated (R40, R41). -/
theorem formResult_zero (f : Fmt) (x : Exact) (fl : FFlags) :
    formResult f 0 x fl = ((roundExact f 0 x).1, fl ||| (roundExact f 0 x).2) := by
  have hs : mrScale 0#8 = 0 := by decide
  have hr : mrRound 0#8 = 0#2 := by decide
  have hm : (mrMode 0#8).toNat = 0 := by decide
  simp [formResult, hs, hr, hm, resultMode, flagIf]

theorem scaleOf_eq (x : W32) :
    let q := fpDiv (.fin false 1 0) (unpack f32 x.toNat)
    scaleOf x = (BitVec.ofNat 32 (roundExact f32 0 q.1).1 ++ x, q.2 ||| (roundExact f32 0 q.1).2) := by
  rw [scaleOf, formResult_zero]

/-- What `vscale` leaves: SCALE and the flags, in either order. -/
theorem setScale_orFlags (s : State) (v : Word) (fl : FFlags) :
    let t := (s.modMe fun c => { c with scale := v }).orFlags fl
    t.me.scale = v ∧ t.my.fflags = s.my.fflags ||| fl ∧ t = (s.orFlags fl).modMe fun c => { c with scale := t.me.scale } := by
  intro t
  have hscale : t.me.scale = v := by simp [t, State.orFlags]
  refine ⟨hscale, ?_, ?_⟩
  · simp only [t, State.my_orFlags, State.my_modMe]
    rfl
  · rw [hscale]
    exact State.modMe_modMy_comm s _ _ (fun _ _ _ => rfl) (fun _ _ => rfl)

/-- `vscale` writes S and its reciprocal at issue, with the flags of the division (R47, R156). -/
theorem exec_vscale_of_runs {s : State} {g : Guard} (h : s.runs false false g) (a : BitVec 5) :
    exec (.vscale g a) s = .next ((s.ahead.modMe fun c =>
      { c with scale := (scaleOf ((s.S a).setWidth 32)).1 }).orFlags (scaleOf ((s.S a).setWidth 32)).2) := by
  rw [exec_vscale, execVscale, run_body h, State.S_setPc]
  rfl

/-- `vshape` writes the counts less one, clamped, at issue (R160). -/
theorem exec_vshape_of_runs {s : State} {g : Guard} (h : s.runs false false g) (a b : BitVec 5) :
    exec (.vshape g a b) s = .next (s.ahead.modMe fun c => { c with shape := shapeField (s.S b) ++ shapeField (s.S a) }) := by
  rw [exec_vshape, execVshape, run_body h, State.S_setPc, State.S_setPc]
  rfl

end Sys2Proof.Machine
end

section
/-! PROOF. Matrix instructions pass their checks at issue and enter the vector queue (R165 to R174). -/

namespace Sys2Proof.Machine

/-- The checks of R176 through RAW pass. -/
theorem localCheck_raw {s : State} {x : Word} {n align : Nat} (hn : 0 < n) (hx : x.toNat + n ≤ 0x20000) (halign : x.toNat % align = 0)
    (hlo : s.me.splo.toNat ≤ x.toNat) (hhi : x.toNat + n ≤ s.me.sphi.toNat) (raw : Bool) :
    s.localCheck x n align raw = .ok (0, x.toNat) := by
  have hw : x.toNat / 0x20000 % 8 = 0 := by omega
  have ho : x.toNat % 0x20000 = x.toNat := by omega
  have hb : ¬(0x100000 ≤ x.toNat ∨ min s.me.sphi.toNat 0x20000 ≤ s.me.splo.toNat ∨ x.toNat < s.me.splo.toNat ∨
      min s.me.sphi.toNat 0x20000 < x.toNat + n) := by omega
  simp only [State.localCheck, hw, ho, halign, storedBytes]
  simpa [or_assoc] using hb

theorem RawOk.localCheck {s : State} {write : Bool} {x : Word} {n align : Nat} (h : RawOk s write x n align) (hn : 0 < n) (raw : Bool) :
    s.localCheck x n align raw = .ok (0, x.toNat) :=
  localCheck_raw hn h.inside h.aligned h.low h.high raw

/-- An access of no byte meets no poison. -/
theorem spPoison_zero (s : State) (w : Bool) (g o : Nat) : s.spPoison w g o 0 = false := rfl

/-- The four cores of a row that hold units of one launch hold the row (R165). -/
theorem rowHeld_of_all {s : State} {row l : Nat} (h : ∀ j < 4, ((s.coreAt (4 * row + j)).unit.map (·.launch)) = some l) :
    s.rowHeld row = some l := by
  have hl : (List.range 4).map (fun j => (s.coreAt (4 * row + j)).unit.map (·.launch)) = List.replicate 4 (some l) :=
    List.map_eq_replicate_iff.mpr fun j hj => h j (List.mem_range.mp hj)
  simp only [State.rowHeld, hl]
  simp [List.replicate]

section

variable {s : State} {g : Guard} (h : s.runs false false g) (hr : s.me.vq.length < 8)
include h hr

theorem gang_enters (a : BitVec 5) : ∃ u, Enters (.next u) s (.gang (s.S a) s.nextPc) ∧
    exec (.gang g a) s = .next (u.modMy fun x => { x with pc := s.hand.pc, st := .waiting .gang }) := by
  refine ⟨_, rfl, ?_⟩
  rw [exec_gang, execGang, run_body h, State.enqueue_of_room (by simpa using hr), State.capture_setPc, State.S_setPc]
  rfl

theorem mldb_enters {a b c : BitVec 5} (hw : (s.S a).toNat / 0x20000 % 8 = 0) (ha : (s.S a).toNat % 128 = 0) (hb : (s.S b).toNat % 128 = 0)
    (hc : (s.S c).toNat % 128 = 0) (hsram : (s.S b).toNat + (s.S c).toNat ≤ 0x80000)
    (hraw : s.S c = 0 ∨ s.me.splo.toNat ≤ (s.S a).toNat ∧ (s.S a).toNat + (s.S c).toNat ≤ s.me.sphi.toNat ∧
      (s.S a).toNat + (s.S c).toNat ≤ 0x20000 ∧ s.spPoison false s.hand.core (s.S a).toNat (s.S c).toNat = false)
    (hrow : ∃ l, ∀ j < 4, ((s.coreAt (4 * (s.hand.core / 4) + j)).unit.map (·.launch)) = some l) :
    Enters (exec (.mldb g a b c) s) s (.mldb (s.S a) (s.S b) (s.S c)) := by
  obtain ⟨l, hl⟩ := hrow
  have hheld := rowHeld_of_all hl
  have hcheck : ((s.S c).toNat == 0 || (s.localCheck (s.S a) (s.S c).toNat 128 true).isOk) = true := by
    by_cases hc0 : (s.S c).toNat = 0
    · simp [hc0]
    · rcases hraw with h0 | ⟨hlo, hhi, hin, -⟩
      · exact absurd (by rw [h0]; rfl) hc0
      · rw [localCheck_raw (by omega) hin ha hlo hhi]
        simp [Except.isOk, Except.toBool]
  have hclean : s.spPoison false s.hand.core ((s.S a).toNat % 0x20000) (s.S c).toNat = false := by
    rcases hraw with h0 | ⟨-, -, hin, hp⟩
    · rw [h0]; exact spPoison_zero _ _ _ _
    · by_cases hc0 : (s.S c).toNat = 0
      · rw [hc0]; exact spPoison_zero _ _ _ _
      · rwa [Nat.mod_eq_of_lt (by omega)]
  rw [exec_mldb, execMldb, run_body h]
  simp only [State.S_setPc, State.localCheck_setPc, State.rowHeld_setPc, State.spPoison_setPc, State.hand_setPc, hw, ha, hb, hc, hcheck, hheld,
    State.needClean_of_clean _ hclean, hsram, beq_self_eq_true, Bool.and_self, decide_true, Option.isSome_some, State.need_true, res_ok_bind]
  exact enters_finish hr _

theorem mstc_enters {a : BitVec 5} (hraw : RawOk s true (s.S a) 4096 64) : Enters (exec (.mstc g a) s) s (.mstc (s.S a)) := by
  have hlt : (s.S a).toNat < 0x100000 := by have := hraw.window; omega
  rw [exec_mstc, execMstc, run_body h]
  simp only [State.S_setPc, State.localCheck_setPc, hraw.localCheck (by omega) true, hlt, decide_true, State.need_true, State.lift_ok, res_ok_bind]
  exact enters_finish hr _

theorem ecfg_enters {a : BitVec 5} (h1 : 1 ≤ cfgAWin (s.S a)) (h4 : cfgAWin (s.S a) ≤ 4)
    (h2 : cfgAWin (s.S a) = 2 → cfgK (s.S a) % 4 = 0 ∧ cfgAOff (s.S a) % 4 = 0)
    (h34 : cfgAWin (s.S a) = 3 ∨ cfgAWin (s.S a) = 4 → cfgAOff (s.S a) % 2 = 0)
    (ha : cfgAOff (s.S a) + 32 * cfgK (s.S a) * (if cfgAWin (s.S a) ≤ 2 then 1 else 2) ≤ 0x20000)
    (hb : cfgBOff (s.S a) + cfgK (s.S a) * cfgBw (s.S a) ≤ 0x80000) (hc : cfgCOff (s.S a) + 4096 ≤ 0x20000) :
    Enters (exec (.ecfg g a) s) s (.ecfg (s.S a)) := by
  have hunit : winUnit (cfgAWin (s.S a)) = if cfgAWin (s.S a) ≤ 2 then 1 else 2 := by
    generalize cfgAWin (s.S a) = w at h1 h4
    interval_cases w <;> rfl
  have halign : (!(cfgAWin (s.S a) == 2 && (cfgK (s.S a) % 4 != 0 || cfgAOff (s.S a) % 4 != 0)) &&
      !((cfgAWin (s.S a) == 3 || cfgAWin (s.S a) == 4) && cfgAOff (s.S a) % 2 != 0)) = true := by
    simpa [imp_iff_not_or] using And.intro h2 h34
  rw [exec_ecfg, execEcfg, run_body h]
  simp only [State.S_setPc, halign, hunit, h1, h4, ha, hb, hc, decide_true, Bool.and_self, State.need_true, res_ok_bind]
  exact enters_finish hr _

omit hr in
/-- In recovery mode a tile-register instruction runs its body (R18, R174). -/
theorem runTile_body (hrec : s.me.recovery = true) (body : State → Res State) : runTile g s body = finish (body s.ahead) := by
  have hhas := s.coreHas_of_issuable h.1
  simp [runTile, hhas, hrec, guarded_body h]

theorem tsave_enters {t : BitVec 1} {a : BitVec 5} (hrec : s.me.recovery = true) (hraw : RawOk s true (s.S a) 5120 64) :
    Enters (exec (.tsave g t a) s) s (.tsave t (s.S a)) := by
  rw [exec_tsave, execTsave, runTile_body h hrec]
  simp only [State.S_setPc, State.localCheck_setPc, hraw.localCheck (by omega) true, State.lift_ok, res_ok_bind]
  exact enters_finish hr _

theorem trest_enters {t : BitVec 1} {a : BitVec 5} (hrec : s.me.recovery = true) (hraw : RawOk s false (s.S a) 5120 64) :
    Enters (exec (.trest g t a) s) s (.trest t (s.S a)) := by
  have hS : s.ahead.S a = s.S a := State.S_setPc ..
  have hcheck : s.ahead.localCheck (s.S a) 5120 64 true = .ok (0, (s.S a).toNat) :=
    (State.localCheck_setPc ..).trans (hraw.localCheck (by omega) true)
  have hclean : s.ahead.spPoison false s.ahead.hand.core (s.S a).toNat 5120 = false := by
    rw [State.spPoison_setPc, State.hand_setPc]
    exact hraw.clean
  rw [exec_trest, execTrest, runTile_body h hrec]
  simp only [hS, hcheck, State.needClean_of_clean _ hclean, State.lift_ok, res_ok_bind]
  exact enters_finish hr _

end

/-- Settles O14: every vector instruction that cannot fault by `runVec_enters`, the others each by its own lemma. -/
theorem vectorAndMatrixEnterTheQueue : Obligations.VectorAndMatrixEnterTheQueue := by
  refine ⟨fun s g mo mr ty op half cond d a b c k kd ka kb fn x h => ?_, fun s g a b h => ⟨?_, exec_vshape_of_runs h a b⟩,
    fun s g a b c t h hr => ⟨gang_enters h hr a, mldb_enters h hr, mstc_enters h hr, ecfg_enters h hr, tsave_enters h hr, trest_enters h hr⟩⟩
  · simp only [List.forall_mem_cons, List.not_mem_nil, false_imp_iff, implies_true, and_true]
    refine ⟨?_, ?_, ?_, ?_, ?_, ?_, ?_, ?_, ?_, ?_, ?_, ?_, ?_, ?_, ?_, ?_, ?_, ?_, ?_, ?_, ?_, ?_, ?_, ?_, ?_, ?_, ?_, ?_, ?_, ?_, ?_⟩ <;>
      exact runVec_enters h _ (by simp only [State.S_setPc])
  · obtain ⟨hscale, hflags, ht⟩ := setScale_orFlags s.ahead (scaleOf ((s.S a).setWidth 32)).1 (scaleOf ((s.S a).setWidth 32)).2
    refine ⟨_, exec_vscale_of_runs h a, hscale.trans ?_, hflags.trans ?_, ht.trans ?_⟩
    · rw [scaleOf_eq]
    · rw [scaleOf_eq, State.my_setPc, BitVec.or_assoc]
    · rw [scaleOf_eq]

end Sys2Proof.Machine
end

section
/-! SUPPORT. The control registers as a file of their own: what each reads, and what a write of one changes (R19 to R27, R255). -/

namespace Sys2Proof.Machine

/-- The control registers in the order of their numbers, from the core, the context and the values that no `mtc` writes: the identity of
the context, that of the partition, and the time. -/
def crTable (c : Core) (x : Context) (ctx part time : Word) : List Word :=
  [c.shape.setWidth 64, (BitVec.ofBool c.zero).setWidth 64, c.weight.setWidth 64, c.scale,
    0#60 ++ (BitVec.ofBool c.nmono1 ++ BitVec.ofBool c.nmono0 ++ 0#1 ++ BitVec.ofBool c.half), x.fflags.setWidth 64, c.cfg, 0, x.epc, x.ecause,
    x.eaddr, x.einfo, c.tvec, x.uvec, x.uframe, 0, ctx, part, time, 0#14 ++ c.sphi ++ 0#14 ++ c.splo, c.svcpart]

/-- What CTXID reads. -/
def State.ctxWord (s : State) : Word := BitVec.ofNat 64 (s.hand.core * 65536 + (if s.inSys then 256 else 0) + s.hand.ctx)

/-- What PARTID reads. -/
def State.partWord (s : State) : Word := BitVec.ofNat 64 (s.device.toNat * 65536 + s.partNo)

theorem State.crRead_eq (s : State) (cr : BitVec 8) : s.crRead cr = (crTable s.me s.my s.ctxWord s.partWord s.time).getD cr.toNat 0 := by
  rcases lt_or_ge cr.toNat 21 with hlt | hge
  · unfold State.crRead
    generalize cr.toNat = n at hlt
    interval_cases n <;> rfl
  · obtain ⟨k, hk⟩ := Nat.exists_eq_add_of_le' hge
    rw [List.getD_eq_default _ _ (by simpa [crTable] using hge)]
    unfold State.crRead
    rw [hk]
    rfl

@[simp] theorem State.crRead_setPc (s : State) (pc : Word) (cr : BitVec 8) : (s.setPc pc).crRead cr = s.crRead cr := by
  rw [State.crRead_eq, State.crRead_eq, State.me_setPc, State.my_setPc]
  simp only [State.ctxWord, State.partWord, State.hand_setPc, State.inSys_setPc, State.partNo_setPc]
  rfl

@[simp] theorem State.crWaits_setPc (s : State) (pc : Word) (cr : BitVec 8) (w : Bool) : (s.setPc pc).crWaits cr w = s.crWaits cr w := by
  simp [State.crWaits, State.tablePending]

end Sys2Proof.Machine
end

section
/-! PROOF. `mfc` and `mtc` (R255). -/

namespace Sys2Proof.Machine

/-- What `mtc` of register `cr` leaves: the register holds `v`, and every other register of every kind, every other context, every other
core and memory are as before. -/
structure CrWritten (s t : State) (cr : BitVec 8) (v : Word) : Prop where
  value  : t.crRead cr = v
  others : ∀ q, q ≠ cr → ¬(q = 17 ∧ cr = 20) → t.crRead q = s.crRead q
  regS   : ∀ r, t.S r = s.S r
  regP   : ∀ r, t.P r = s.P r
  regA   : ∀ r, t.A r = s.A r
  regH   : ∀ r, t.H r = s.H r
  pc     : t.my.pc = s.my.pc
  mem    : SameMemory s t
  ctxs   : ∀ n, n ≠ s.hand.ctx → t.me.ctxAt n = s.me.ctxAt n
  cores  : ∀ k, k ≠ s.hand.core → t.coreAt k = s.coreAt k

theorem State.ctxWord_congr {s t : State} (hhand : t.hand = s.hand) (hsys : t.my.sys = s.my.sys) : t.ctxWord = s.ctxWord := by
  have h : t.inSys = s.inSys := by rw [State.inSys, State.inSys, State.isAvlyn, State.isAvlyn, hhand, hsys]
  rw [State.ctxWord, State.ctxWord, h, hhand]

theorem State.partWord_congr {s t : State} (hhand : t.hand = s.hand) (hdev : t.device = s.device) (hpart : t.me.part = s.me.part)
    (hsvc : t.me.svcpart = s.me.svcpart) : t.partWord = s.partWord := by
  have h : t.isAvlyn = s.isAvlyn := by rw [State.isAvlyn, State.isAvlyn, hhand]
  rw [State.partWord, State.partWord, State.partNo, State.partNo, h, hdev, hpart, hsvc]

/-- One entry of the file is set, and with SVCPART also what PARTID reads. -/
theorem crRead_of_table {s t : State} {n : Nat} {v w : Word} (hn : n < 21) (htime : t.time = s.time) (hctx : t.ctxWord = s.ctxWord)
    (hpart : n ≠ 20 → t.partWord = s.partWord)
    (htab : ∀ a b c, crTable t.me t.my a b c = (crTable s.me s.my a b c).set n v) (hw : v = w) :
    t.crRead (BitVec.ofNat 8 n) = w ∧
      ∀ q, q ≠ BitVec.ofNat 8 n → ¬(q = 17 ∧ BitVec.ofNat 8 n = 20) → t.crRead q = s.crRead q := by
  subst hw
  have hlen : (crTable s.me s.my s.ctxWord t.partWord s.time).length = 21 := rfl
  have hnum : (BitVec.ofNat 8 n).toNat = n := by rw [BitVec.toNat_ofNat, Nat.mod_eq_of_lt (by omega)]
  simp only [State.crRead_eq, htab, hctx, htime]
  refine ⟨by rw [hnum]; simp [List.getD_eq_getElem?_getD, hlen, hn], fun q hq h17 => ?_⟩
  have hne : n ≠ q.toNat := fun e => hq (BitVec.eq_of_toNat_eq (hnum.trans e).symm)
  rw [List.getD_eq_getElem?_getD, List.getElem?_set_ne hne, ← List.getD_eq_getElem?_getD]
  by_cases h20 : n = 20
  · have hne17 : 17 ≠ q.toNat := fun e => h17 ⟨BitVec.eq_of_toNat_eq e.symm, by rw [h20]; rfl⟩
    show ((crTable s.me s.my s.ctxWord s.partWord s.time).set 17 t.partWord).getD q.toNat 0 = _
    rw [List.getD_eq_getElem?_getD, List.getElem?_set_ne hne17, ← List.getD_eq_getElem?_getD]
  · rw [hpart h20]

/-- A write of a register that the contexts of the core share. -/
theorem crWritten_modMe (s : State) (f : Core → Core) {n : Nat} {v w : Word} (hn : n < 21) (hctx : ∀ c m, (f c).ctxAt m = c.ctxAt m)
    (hpart : (f s.me).part = s.me.part) (hsvc : n ≠ 20 → (f s.me).svcpart = s.me.svcpart)
    (htab : ∀ a b t, crTable (f s.me) s.my a b t = (crTable s.me s.my a b t).set n v) (hw : v = w) :
    CrWritten s (s.modMe f) (BitVec.ofNat 8 n) w := by
  have hmy : (s.modMe f).my = s.my := by rw [State.my_modMe, hctx]; rfl
  obtain ⟨hvalue, hothers⟩ := crRead_of_table (s := s) (t := s.modMe f) hn rfl (State.ctxWord_congr rfl (by rw [hmy]))
    (fun h => State.partWord_congr rfl rfl (by rw [State.me_modMe, hpart]) (by rw [State.me_modMe, hsvc h]))
    (by rw [State.me_modMe, hmy]; exact htab) hw
  exact ⟨hvalue, hothers, fun r => by rw [State.S, hmy]; rfl, fun r => by rw [State.P, hmy]; rfl,
    fun r => by rw [State.A, hmy]; rfl, fun r => by rw [State.H, hmy]; rfl, by rw [hmy], .of_eq rfl rfl,
    fun n _ => by rw [State.me_modMe, hctx], fun k hk => by rw [State.coreAt_modMe, if_neg hk]⟩

/-- A write of a register of the context. -/
theorem crWritten_modMy (s : State) (h : Context → Context) {n : Nat} {v w : Word} (hn : n < 20) (hsys : (h s.my).sys = s.my.sys)
    (hs : (h s.my).s = s.my.s) (hp : (h s.my).p = s.my.p) (ha : (h s.my).a = s.my.a) (hh : (h s.my).h = s.my.h) (hpc : (h s.my).pc = s.my.pc)
    (htab : ∀ a b t, crTable s.me (h s.my) a b t = (crTable s.me s.my a b t).set n v) (hw : v = w) :
    CrWritten s (s.modMy h) (BitVec.ofNat 8 n) w := by
  obtain ⟨hvalue, hothers⟩ := crRead_of_table (s := s) (t := s.modMy h) (Nat.lt_succ_of_lt hn) rfl
    (State.ctxWord_congr rfl (by rw [State.my_modMy, hsys]))
    (fun _ => State.partWord_congr rfl rfl (by rw [State.me_modMy]; rfl) (by rw [State.me_modMy]; rfl))
    (by rw [State.me_modMy, State.my_modMy]; exact htab) hw
  exact ⟨hvalue, hothers, fun r => by simp [State.S, hs], fun r => by simp [State.P, hp],
    fun r => by simp [State.A, ha], fun r => by simp [State.H, hh], by simp [hpc], .of_eq rfl rfl,
    fun n hn => by simp [hn], fun k hk => by rw [State.coreAt_modMy, if_neg hk]⟩

/-! ### The values of single fields -/

theorem setWidth_setWidth_eq_and {n : Nat} (hn : n ≤ 64) (v : Word) : (v.setWidth n).setWidth 64 = v &&& BitVec.ofNat 64 (2 ^ n - 1) := by
  refine BitVec.eq_of_toNat_eq ?_
  have hlt : 2 ^ n - 1 < 2 ^ 64 := lt_of_lt_of_le (Nat.sub_lt (by positivity) one_pos) (Nat.pow_le_pow_right (by omega) hn)
  rw [BitVec.toNat_and, BitVec.toNat_ofNat, Nat.mod_eq_of_lt hlt, Nat.and_two_pow_sub_one_eq_mod, BitVec.toNat_setWidth, BitVec.toNat_setWidth,
    Nat.mod_eq_of_lt (lt_of_lt_of_le (Nat.mod_lt _ (by positivity)) (Nat.pow_le_pow_right (by omega) hn))]

theorem ofBool_getLsbD_zero_eq_and (v : Word) : (BitVec.ofBool (v.getLsbD 0)).setWidth 64 = v &&& 1 := by
  ext i hi
  rcases Nat.eq_zero_or_pos i with rfl | hpos
  · simp
  · simp [hpos.ne']

/-- FMTCTL with HALF from a word. -/
theorem fmtctl_eq (v : Word) (m n h : Bool) :
    (0#60 ++ (BitVec.ofBool m ++ BitVec.ofBool n ++ 0#1 ++ BitVec.ofBool (v.getLsbD 0)) : Word) =
      (v &&& 1) ||| ((0#60 ++ (BitVec.ofBool m ++ BitVec.ofBool n ++ 0#1 ++ BitVec.ofBool h)) &&& ~~~1) := by
  rw [← ofBool_getLsbD_zero_eq_and]
  generalize v.getLsbD 0 = b
  revert m n h b
  decide

/-- FMTCTL as a sum of its bits. -/
theorem fmtctl_sum (m n h : Bool) : (0#60 ++ (BitVec.ofBool m ++ BitVec.ofBool n ++ 0#1 ++ BitVec.ofBool h) : Word) =
    (if h then 1 else 0) + (if n then 4 else 0) + (if m then 8 else 0) := by
  revert m n h
  decide

theorem splim_getLsbD (a b : BitVec 18) (i : Nat) : BitVec.getLsbD (w := 14 + 18 + 14 + 18) (0#14 ++ a ++ 0#14 ++ b) i =
    if i < 18 then b.getLsbD i else if i < 32 then false else a.getLsbD (i - 32) := by
  simp only [BitVec.getLsbD_append]
  grind

theorem splim_eq (v : Word) : (0#14 ++ v.extractLsb' 32 18 ++ 0#14 ++ v.setWidth 18 : Word) = v &&& 0x0003FFFF0003FFFF := by
  refine BitVec.eq_of_getLsbD_eq fun i hi => (splim_getLsbD _ _ i).trans ?_
  interval_cases i <;> simp [-BitVec.getLsbD_eq_getElem]
theorem splim_assoc (a b : BitVec 18) : (0#14 ++ a ++ 0#14 ++ b : Word) = 0#14 ++ a ++ (0#14 ++ b) := by
  refine BitVec.eq_of_getLsbD_eq fun i hi => (splim_getLsbD _ _ i).trans ?_
  show _ = BitVec.getLsbD (w := (14 + 18) + (14 + 18)) (0#14 ++ a ++ (0#14 ++ b)) i
  simp only [BitVec.getLsbD_append]
  grind

/-! ### One register after another -/

theorem crWritten_crWrite (s : State) (v : Word) (cr : BitVec 8) : ∀ e ∈ [(0, 0xFF#64), (1, 1), (2, 0xF), (3, BitVec.allOnes 64), (4, 1),
    (5, 0x3F), (8, BitVec.allOnes 64), (9, 0x1FF), (10, BitVec.allOnes 64), (11, BitVec.allOnes 64), (12, 0x01FFFFFFFFFFFFFE),
    (13, 0x01FFFFFFFFFFFFFE), (14, 0xFFFC1), (19, 0x0003FFFF0003FFFF), (20, 0x10F)], cr = BitVec.ofNat 8 e.1 →
    CrWritten s (s.crWrite cr v) cr ((v &&& e.2) ||| (if cr = 4 then s.crRead 4 &&& ~~~1 else 0)) := by
  have hz (x y : Word) (h : x = y) : x = y ||| 0 := by simp [h]
  have ho : v = v &&& BitVec.allOnes 64 := BitVec.and_allOnes.symm
  simp only [List.forall_mem_cons, List.not_mem_nil, false_imp_iff, implies_true, and_true]
  refine ⟨?_, ?_, ?_, ?_, ?_, ?_, ?_, ?_, ?_, ?_, ?_, ?_, ?_, ?_, ?_⟩ <;> rintro rfl
  · exact crWritten_modMe s (fun c => { c with shape := v.setWidth 8 }) (n := 0) (by decide) (fun _ _ => rfl) rfl (fun _ => rfl) (fun _ _ _ => rfl) (hz _ _ (setWidth_setWidth_eq_and (n := 8) (by decide) v))
  · exact crWritten_modMe s (fun c => { c with zero := v.getLsbD 0 }) (n := 1) (by decide) (fun _ _ => rfl) rfl (fun _ => rfl) (fun _ _ _ => rfl) (hz _ _ (ofBool_getLsbD_zero_eq_and v))
  · exact crWritten_modMe s (fun c => { c with weight := v.setWidth 4 }) (n := 2) (by decide) (fun _ _ => rfl) rfl (fun _ => rfl) (fun _ _ _ => rfl) (hz _ _ (setWidth_setWidth_eq_and (n := 4) (by decide) v))
  · exact crWritten_modMe s (fun c => { c with scale := v }) (n := 3) (by decide) (fun _ _ => rfl) rfl (fun _ => rfl) (fun _ _ _ => rfl) (hz _ _ ho)
  · exact crWritten_modMe s (fun c => { c with half := v.getLsbD 0 }) (n := 4) (by decide) (fun _ _ => rfl) rfl (fun _ => rfl) (fun _ _ _ => rfl) (fmtctl_eq v _ _ _)
  · exact crWritten_modMy s (fun c => { c with fflags := v.setWidth 6 }) (n := 5) (by decide) rfl rfl rfl rfl rfl rfl (fun _ _ _ => rfl) (hz _ _ (setWidth_setWidth_eq_and (n := 6) (by decide) v))
  · exact crWritten_modMy s (fun c => { c with epc := v }) (n := 8) (by decide) rfl rfl rfl rfl rfl rfl (fun _ _ _ => rfl) (hz _ _ ho)
  · exact crWritten_modMy s (fun c => { c with ecause := v &&& 0x1FF }) (n := 9) (by decide) rfl rfl rfl rfl rfl rfl (fun _ _ _ => rfl) (hz _ _ rfl)
  · exact crWritten_modMy s (fun c => { c with eaddr := v }) (n := 10) (by decide) rfl rfl rfl rfl rfl rfl (fun _ _ _ => rfl) (hz _ _ ho)
  · exact crWritten_modMy s (fun c => { c with einfo := v }) (n := 11) (by decide) rfl rfl rfl rfl rfl rfl (fun _ _ _ => rfl) (hz _ _ ho)
  · exact crWritten_modMe s (fun c => { c with tvec := vaField v }) (n := 12) (by decide) (fun _ _ => rfl) rfl (fun _ => rfl) (fun _ _ _ => rfl) (hz _ _ rfl)
  · exact crWritten_modMy s (fun c => { c with uvec := vaField v }) (n := 13) (by decide) rfl rfl rfl rfl rfl rfl (fun _ _ _ => rfl) (hz _ _ rfl)
  · exact crWritten_modMy s (fun c => { c with uframe := v &&& 0xFFFC1 }) (n := 14) (by decide) rfl rfl rfl rfl rfl rfl (fun _ _ _ => rfl) (hz _ _ rfl)
  · exact crWritten_modMe s (fun c => { c with splo := v.setWidth 18, sphi := v.extractLsb' 32 18 }) (n := 19) (by decide) (fun _ _ => rfl) rfl (fun _ => rfl) (fun _ _ _ => rfl) (hz _ _ (splim_eq v))
  · exact crWritten_modMe s (fun c => { c with svcpart := v &&& 0x10F }) (n := 20) (by decide) (fun _ _ => rfl) rfl (fun h => absurd rfl h) (fun _ _ _ => rfl) (hz _ _ rfl)

/-! ### The instructions -/

theorem runCr_body {s : State} {g : Guard} {cr : BitVec 8} {write : Bool} (h : s.runs true false g) (hk : crKnown s.isAvlyn cr = true)
    (hp : s.inSys = true ∨ crSystem cr write = false) (hro : (write && crReadOnly cr) = false) (body : State → Res State) :
    runCr g cr write s body = finish (body s.ahead) := by
  simp only [runCr, hk, hro, Bool.not_true, Bool.or_false, Bool.false_eq_true, if_false]
  split
  · rename_i hsys
    exact runPriv_body h (hp.resolve_right (by simp [hsys])) body
  · exact run_body h body

/-- What `mfc` reads, register by register. -/
theorem crRead_of_number (s : State) (cr : BitVec 8) : ∀ e ∈ [(0, s.me.shape.setWidth 64), (1, if s.me.zero then 1 else 0),
    (2, s.me.weight.setWidth 64), (3, s.me.scale),
    (4, (if s.me.half then 1 else 0) + (if s.me.nmono0 then 4 else 0) + (if s.me.nmono1 then 8 else 0)), (5, s.my.fflags.setWidth 64),
    (6, s.me.cfg), (8, s.my.epc), (9, s.my.ecause), (10, s.my.eaddr), (11, s.my.einfo), (12, s.me.tvec), (13, s.my.uvec), (14, s.my.uframe),
    (16, s.ctxWord), (17, s.partWord), (18, s.time), (19, 0#14 ++ s.me.sphi ++ (0#14 ++ s.me.splo)), (20, s.me.svcpart)],
    cr = BitVec.ofNat 8 e.1 → s.crRead cr = e.2 := by
  have hzero : (BitVec.ofBool s.me.zero).setWidth 64 = (if s.me.zero then 1 else 0 : Word) := by cases s.me.zero <;> rfl
  simp only [List.forall_mem_cons, List.not_mem_nil, false_imp_iff, implies_true, and_true]
  refine ⟨?_, ?_, ?_, ?_, ?_, ?_, ?_, ?_, ?_, ?_, ?_, ?_, ?_, ?_, ?_, ?_, ?_, ?_, ?_⟩ <;> rintro rfl
  case refine_2 => exact hzero
  case refine_5 => exact fmtctl_sum s.me.nmono1 s.me.nmono0 s.me.half
  case refine_18 => exact splim_assoc s.me.sphi s.me.splo
  all_goals rfl

section

variable {s : State} {g : Guard} {cr : BitVec 8} (h : s.runs true false g) (hk : crKnown s.isAvlyn cr = true)
include h hk

theorem mfc_waits (hp : s.inSys = true ∨ crSystem cr false = false) (d : BitVec 5) (hw : s.crWaits cr false = true) :
    Waits (exec (.mfc g d cr) s) s (.register cr false) := by
  refine ⟨s.ahead, ?_, .inr rfl⟩
  rw [exec_mfc, execMfc, runCr_body h hk hp rfl]
  simp only [State.crWaits_setPc, hw]
  rfl

theorem mfc_reads (hp : s.inSys = true ∨ crSystem cr false = false) (d : BitVec 5) (hw : s.crWaits cr false = false) :
    WritesS (exec (.mfc g d cr) s) s d (s.crRead cr) 0 := by
  refine ⟨s.ahead.setS d (s.crRead cr), ?_, by simp, by simp, by simp, (RegFrame.pc s s.nextPc).setS d _⟩
  rw [exec_mfc, execMfc, runCr_body h hk hp rfl]
  simp only [State.crWaits_setPc, State.crRead_setPc, hw]
  rfl

theorem mtc_waits (hp : s.inSys = true ∨ crSystem cr true = false) (hro : crReadOnly cr = false) (d : BitVec 5)
    (hw : s.crWaits cr true = true) : Waits (exec (.mtc g d cr) s) s (.register cr true) := by
  refine ⟨s.ahead, ?_, .inr rfl⟩
  rw [exec_mtc, execMtc, runCr_body h hk hp hro]
  simp only [State.crWaits_setPc, hw]
  rfl

theorem mtc_writes (hp : s.inSys = true ∨ crSystem cr true = false) (hro : crReadOnly cr = false) (d : BitVec 5)
    (hw : s.crWaits cr true = false) : exec (.mtc g d cr) s = .next (s.ahead.crWrite cr (s.S d)) := by
  rw [exec_mtc, execMtc, runCr_body h hk hp hro]
  simp only [State.crWaits_setPc, State.S_setPc, hw]
  rfl

end

/-- Settles O39: the registers are the table of `State.crRead_eq`, and `mtc` sets one entry of it. -/
theorem controlRegistersAreReadAndWritten : Obligations.ControlRegistersAreReadAndWritten := by
  intro s g d cr h hk
  refine ⟨fun hp => ⟨mfc_waits h hk hp d, fun hw e he hcr => ?_⟩, fun hp hro => ⟨mtc_waits h hk hp hro d, fun hw e he hcr => ?_⟩⟩
  · rw [← crRead_of_number s cr e he hcr]
    exact mfc_reads h hk hp d hw
  · obtain ⟨hvalue, hothers, hS, hP, hA, hH, hpc, hmem, hctxs, hcores⟩ := crWritten_crWrite s.ahead (s.S d) cr e he hcr
    simp only [State.crRead_setPc, State.S_setPc, State.P_setPc, State.A_setPc, State.H_setPc] at hvalue hothers hS hP hA hH
    refine ⟨_, mtc_writes h hk hp hro d hw, hvalue, hothers, hS, hP, hA, hH, hpc.trans (by simp),
      (SameMemory.of_eq (s := s) (t := s.ahead) rfl rfl).trans hmem, fun n hn => (hctxs n hn).trans ?_, fun k hk => (hcores k hk).trans ?_⟩
    · rw [State.me_setPc, Core.ctxAt_setCtx, if_neg hn]
    · rw [State.coreAt_setPc, if_neg hk]

end Sys2Proof.Machine
end

section
/-! SUPPORT. What works on cores and scratchpads only: the copies of lines and the memory below the scratchpads stay (R28, R367). -/

namespace Sys2Proof.Machine

/-- The directory, what hosts hold, the peers and the bytes below the scratchpads are as before. -/
structure SpadsOnly (s t : State) : Prop where
  dir      : t.dir = s.dir
  hostHeld : t.hostHeld = s.hostHeld
  peers    : t.peers = s.peers
  bytes    : ∀ a < spadBase, bytesGet t.mem.bytes a = bytesGet s.mem.bytes a

namespace SpadsOnly

theorem of_eq {s t : State} (hd : t.dir = s.dir) (hh : t.hostHeld = s.hostHeld) (hp : t.peers = s.peers) (hm : t.mem = s.mem) :
    SpadsOnly s t := ⟨hd, hh, hp, fun a _ => by rw [hm]⟩

theorem refl (s : State) : SpadsOnly s s := .of_eq rfl rfl rfl rfl

theorem trans {s t u : State} (h : SpadsOnly s t) (h' : SpadsOnly t u) : SpadsOnly s u :=
  ⟨h'.dir.trans h.dir, h'.hostHeld.trans h.hostHeld, h'.peers.trans h.peers, fun a ha => (h'.bytes a ha).trans (h.bytes a ha)⟩

theorem foldl {α : Type} {f : State → α → State} (h : ∀ s x, SpadsOnly s (f s x)) (xs : List α) (s : State) :
    SpadsOnly s (xs.foldl f s) := by
  induction xs generalizing s with
  | nil => exact .refl s
  | cons x xs ih => exact (h s x).trans (ih _)

theorem ite {s : State} {c : Prop} [Decidable c] {a b : State} (ha : SpadsOnly s a) (hb : SpadsOnly s b) :
    SpadsOnly s (if c then a else b) := by split <;> assumption

end SpadsOnly

section

variable (s : State)

theorem spadsOnly_setCore (g : Nat) (c : Core) : SpadsOnly s (s.setCore g c) := .of_eq rfl rfl rfl rfl
theorem spadsOnly_modMe (f : Core → Core) : SpadsOnly s (s.modMe f) := .of_eq rfl rfl rfl rfl
theorem spadsOnly_modMy (f : Context → Context) : SpadsOnly s (s.modMy f) := .of_eq rfl rfl rfl rfl
theorem spadsOnly_modLaunch (id : Nat) (f : Launch → Launch) : SpadsOnly s (s.modLaunch id f) := .of_eq rfl rfl rfl rfl
theorem spadsOnly_report (r : Report) : SpadsOnly s (s.report r) := .of_eq rfl rfl rfl rfl
theorem spadsOnly_raiseEvent (ld cls : Nat) : SpadsOnly s (s.raiseEvent ld cls) := .of_eq rfl rfl rfl rfl
theorem spadsOnly_redirect (pub : Nat) (a b : SubRef) : SpadsOnly s (s.redirect pub a b) := .of_eq rfl rfl rfl rfl
theorem spadsOnly_endUnit (g : Nat) (err : BitVec 16) (code : Nat) : SpadsOnly s (s.endUnit g err code) := .of_eq rfl rfl rfl rfl

theorem spadsOnly_poisonUnit (g : Nat) : SpadsOnly s (s.poisonUnit g) :=
  .ite (.refl s) ((spadsOnly_endUnit s g _ _).trans (spadsOnly_raiseEvent _ _ _))

theorem spadsOnly_freeSram (row id : Nat) : SpadsOnly s (s.freeSram row id) := .ite (.of_eq rfl rfl rfl rfl) (.refl s)

theorem spadsOnly_passRow (row : Nat) : SpadsOnly s (s.passRow row) := by
  unfold State.passRow
  split
  · exact .refl s
  · exact .ite (.refl s) (.of_eq rfl rfl rfl rfl)

theorem spadPa_ge (g off : Nat) : spadBase ≤ spadPa g off := by unfold spadPa; omega

/-- A write of bytes of a scratchpad leaves the bytes below. -/
theorem bytesGet_bytesWrite_spad (m : Bytes) (g off n v a : Nat) (ha : a < spadBase) :
    bytesGet (bytesWrite m (spadPa g off) n v) a = bytesGet m a := by
  rw [bytesGet_bytesWrite, if_neg fun h => absurd (spadPa_ge g off) (by omega)]

theorem smapGet?_filter {α : Type} (m : SMap α) (p : Nat → Bool) (k : Nat) :
    smapGet? (m.filter fun x => p x.1) k = if p k then smapGet? m k else none := by
  induction m with
  | nil => simp [smapGet?]
  | cons x m ih =>
    obtain ⟨j, v⟩ := x
    by_cases hj : j = k
    · subst hj
      by_cases hp : p j = true <;> simp [smapGet?, hp, ih]
    · by_cases hp : p j = true <;> simp [smapGet?, hj, hp, ih]

/-- Whether a byte lies in the scratchpad of core `g`. -/
def inSpad (g a : Nat) : Bool := spadPa g 0 ≤ a && a < spadPa g 0 + 0x20000

theorem bytesGet_zeroSpad (g a : Nat) : bytesGet (s.zeroSpad g).mem.bytes a = if inSpad g a then 0 else bytesGet s.mem.bytes a := by
  show (smapGet? (s.mem.bytes.filter fun x => !inSpad g x.1) a).getD 0 = _
  rw [smapGet?_filter s.mem.bytes (fun k => !inSpad g k) a]
  cases inSpad g a <;> rfl

theorem spadsOnly_zeroSpad (g : Nat) : SpadsOnly s (s.zeroSpad g) := by
  refine ⟨rfl, rfl, rfl, fun a ha => ?_⟩
  have hout : inSpad g a = false := by
    have := spadPa_ge g 0
    simp [inSpad]; omega
  rw [bytesGet_zeroSpad, hout]
  rfl

theorem spadsOnly_passCore (g id : Nat) : SpadsOnly s (s.passCore g id) :=
  (SpadsOnly.ite (.refl s) (spadsOnly_zeroSpad s g)).trans (spadsOnly_setCore _ _ _)

theorem spadsOnly_forwardWrite (g off n v : Nat) : SpadsOnly s (s.forwardWrite g off n v) := .ite (.refl s) (spadsOnly_setCore s _ _)

theorem spadsOnly_spWrite (g off n v : Nat) (full fwd : Bool) : SpadsOnly s (s.spWrite g off n v full fwd) := by
  have hm : ∀ m : Phys, m.bytes = bytesWrite s.mem.bytes (spadPa g off) n v → SpadsOnly s { s with mem := m } :=
    fun m h => ⟨rfl, rfl, rfl, fun a ha => by rw [h, bytesGet_bytesWrite_spad _ _ _ _ _ _ ha]⟩
  have hw : SpadsOnly s (s.spWrite g off n v full false) := hm _ (by cases full <;> simp [Phys.setFull])
  cases fwd
  · exact hw
  · exact hw.trans (spadsOnly_forwardWrite _ g off n v)

theorem spadsOnly_spWriteWords (g off : Nat) (ws : List Word) : SpadsOnly s (s.spWriteWords g off ws) := by
  induction ws generalizing s off with
  | nil => exact .refl s
  | cons w ws ih => exact (spadsOnly_spWrite s _ _ _ _ _ _).trans (ih _ _)

theorem spadsOnly_setPoison (l : NatSet) : SpadsOnly s { s with mem := { s.mem with poison := l } } := ⟨rfl, rfl, rfl, fun _ _ => rfl⟩

theorem spadsOnly_feWrite (g off n v : Nat) : SpadsOnly s { s with mem := s.mem.feWrite g off n v } := ⟨rfl, rfl, rfl, fun _ _ => rfl⟩

theorem spadsOnly_loadSpad (g p img : Nat) (poison : NatSet) : SpadsOnly s (s.loadSpad g p img poison) := by
  unfold State.loadSpad
  generalize List.range 2048 = xs
  generalize List.range 64 = ys
  dsimp only
  refine SpadsOnly.trans (SpadsOnly.trans ?_ (SpadsOnly.foldl (fun t i => ?_) ys _)) (spadsOnly_setPoison _ _)
  · exact SpadsOnly.foldl (fun t i => spadsOnly_spWrite t g _ _ _ _ _) xs s
  · exact spadsOnly_feWrite t g _ _ _

theorem spadsOnly_forwardMap (g p img : Nat) (o : Outgoing) : SpadsOnly s (s.forwardMap g p img o) :=
  .foldl (fun t _ => .ite (spadsOnly_setCore t g _) (.refl t)) _ s

theorem spadsOnly_enterUpcall (f : Flt) (pc : Word) : SpadsOnly s (s.enterUpcall f pc) := by
  unfold State.enterUpcall
  exact (spadsOnly_spWriteWords s _ _ _).trans (spadsOnly_modMy _ _)

theorem spadsOnly_enterHandler (f : Flt) (epc : Word) : SpadsOnly s (s.enterHandler f epc) := spadsOnly_modMy s _

theorem spadsOnly_deliverNow (f : Flt) (epc : Word) : SpadsOnly s (s.deliverNow f epc) := by
  unfold State.deliverNow
  dsimp only
  split
  · split
    · exact ((spadsOnly_modMy s _).trans (spadsOnly_modMe _ _)).trans (spadsOnly_report _ _)
    · exact (spadsOnly_enterHandler s f epc).trans (spadsOnly_modMe _ _)
  · split
    · exact spadsOnly_modMy s _
    · split
      · exact spadsOnly_enterUpcall s f epc
      · split
        · exact (((spadsOnly_modMy s _).trans (spadsOnly_endUnit _ _ _ _)).trans (spadsOnly_report _ _)).trans (spadsOnly_raiseEvent _ _ _)
        · exact spadsOnly_enterHandler s _ epc

theorem spadsOnly_deliver (f : Flt) (epc : Word) : SpadsOnly s (s.deliver f epc) := .ite (spadsOnly_deliverNow s f epc) (spadsOnly_modMy s _)

theorem spadsOnly_deliverAt (g n : Nat) (f : Flt) (epc : Word) : SpadsOnly s (s.deliverAt g n f epc) := by
  refine .ite (.refl s) ?_
  obtain ⟨hd, hh, hp, hb⟩ := spadsOnly_deliver (s.at g n) f epc
  exact ⟨hd, hh, hp, hb⟩

theorem spadsOnly_takeLapse (g : Nat) : SpadsOnly s (s.takeLapse g) :=
  .ite ((spadsOnly_setCore s g _).trans (spadsOnly_deliverAt _ _ _ _ _)) (.refl s)

end

end Sys2Proof.Machine
end

section
/-! PROOF. A restore that applies updates to an image can come too early for a line of it (R293, R367, R391). -/

namespace Sys2Proof.Machine

theorem spadsOnly_setNextId (s : State) (n : Nat) : SpadsOnly s { s with nextId := n } := .of_eq rfl rfl rfl rfl

theorem spadsOnly_setFresh (s : State) (n : Nat) : SpadsOnly s { s with fresh := n } := .of_eq rfl rfl rfl rfl

/-- Once the updates on their way to the image are applied, a restore works on cores and scratchpads only (R293, R367). -/
theorem spadsOnly_restoreOne {s : State} {id unit : Nat} (env : Env) (g : Nat) {l : Launch} {n img : Nat} {b st : Option Nat} {pl : Nat}
    {kept : Core} {poison : NatSet} {stt : Option Nat} (hl : s.launchAt id = some l)
    (hx : l.units.find? (·.idx == unit) = some ⟨n, .saved img b, st, stt, pl, some kept, poison⟩) :
    SpadsOnly ((kept.inc.foldl (fun t x => setInsert t x.2.pub) []).foldl (fun s q => s.flushTo q (.image id unit)) s)
      (s.restoreOne id env unit g) := by
  unfold State.restoreOne
  rw [hl]
  dsimp only
  rw [hx]
  refine SpadsOnly.trans ?_ (SpadsOnly.ite (spadsOnly_poisonUnit _ g) (.refl _))
  refine SpadsOnly.trans ?_ (spadsOnly_takeLapse _ g)
  refine SpadsOnly.trans ?_ (SpadsOnly.foldl (fun t o => spadsOnly_forwardMap t g _ _ o) _ _)
  refine SpadsOnly.trans ?_ (spadsOnly_passRow _ _)
  refine SpadsOnly.trans ?_ (spadsOnly_setNextId _ _)
  refine SpadsOnly.trans ?_ (SpadsOnly.ite (.refl _) (spadsOnly_freeSram _ _ id))
  refine SpadsOnly.trans ?_ (spadsOnly_modLaunch _ id _)
  refine SpadsOnly.trans ?_ (SpadsOnly.foldl (fun t q => spadsOnly_redirect t q _ _) _ _)
  refine SpadsOnly.trans ?_ (spadsOnly_setCore _ g _)
  refine SpadsOnly.trans ?_ (spadsOnly_setFresh _ _)
  exact (spadsOnly_passCore _ g id).trans (spadsOnly_loadSpad _ g _ _ _)
/-! ### The counterexample -/

/-- A partition of one tile, its environment block and its save area at the start of its memory. -/
def smallPartition : Partition :=
  { valid := true, tiles := [0], slices := [], device := 0, hbm := [(0, 4096)], ttbase := 0, queueBase := none, envBlock := 0, ringHdr := 0,
    bitmap := 0, saveArea := 0, quarBase := 0, quarSize := 0, hostBase := 0, hostSize := 0, hdmBase := 0, hdmSize := 0, fixed := false,
    slotMask := 0, portMask := 0, vcFixed := false, ageLimit := 0, idleTime := 0, snoopTime := 0, binds := [], eventRing := 0, eventSize := 0,
    vectors := [], ports := [] }

/-- What was kept of a unit that was saved as the subscriber of core 0. -/
def keptSubscriber : Core := { Core.reset with inc := [(0, ⟨.redirected, 0, 0, 0, 64, false⟩)] }

/-- That unit. -/
def savedSubscriber : Unit1 := ⟨0, .saved 0 none, none, none, 0, some keptSubscriber, []⟩

/-- Its launch. -/
def subscriberLaunch : Launch :=
  { id := 1, part := 0, prio := 0, recVA := 0, entry := 0, across := 1, down := 1, percore := 1, vsw := 0, helpers := 0, swm1 := 0,
    wave := false, place := false, arg := 0, preds := [], st := .placed, eligible := none, aged := false, cancelled := false, origin := none,
    units := [savedSubscriber], stepK := .compute, arrived := [], atRelease := false }

/-- Core 0 has one update on its way to the image, whose first line is that of the environment block; the distributor can read the image. -/
def earlyRestore : State :=
  { State.reset with
    parts := [(0, smallPartition)], launches := [subscriberLaunch],
    cores := [(0, { Core.reset with flits := [⟨.image 1 0, 0, 0, [1], true, 0, 0⟩] })],
    caches := ⟨[⟨.distributor, 0, 0, 4096, 0, 0, 7, []⟩], [], [], [], []⟩ }

/-- The environment block that reads as zeros. -/
def zeroEnv : Env := ⟨0, 0, 0, 0, 0, 0, 0⟩

theorem bytesRead_nil (a n : Nat) : bytesRead [] a n = 0 := by
  induction n generalizing a with
  | zero => rfl
  | succ n ih => rw [bytesRead, ih]; rfl

theorem poisoned_of_clean {m : Phys} (h : m.poison = []) (w : Bool) (pa n : Nat) : m.poisoned w pa n = false := by
  simp [Phys.poisoned, h]

theorem envParse_zero : envParse 0 = some zeroEnv := by
  simp only [envParse, Nat.zero_div, Nat.zero_mod]
  rfl

theorem earlyRestore_env : earlyRestore.env 0 = some zeroEnv := by
  have he : earlyRestore.partEntry 0 = some smallPartition := rfl
  have hclean : earlyRestore.mem.poisoned false smallPartition.envBlock 64 = false := poisoned_of_clean rfl _ _ _
  have hzero : earlyRestore.readAt ⟨0, smallPartition.envBlock⟩ 64 = 0 := bytesRead_nil _ 64
  have hat : (smallPartition.envBlock % 64 != 0 || hbmSize < smallPartition.envBlock + 64) = false := by decide
  simp only [State.env, he, Option.bind_some, hclean, hzero, hat, Bool.or_false, Bool.false_eq_true, if_false, envParse_zero]

theorem earlyRestore_plan : earlyRestore.planRestore smallPartition [] subscriberLaunch = some (.restore 1 0 0) := by decide

theorem coreFree_zero {s : State} (hl : s.launches = [subscriberLaunch]) (hr : s.removed = []) (hu : (s.coreAt 0).unit = none) :
    s.coreFree smallPartition [] (s.placeCores [] none) 0 = true := by
  have hplaced : s.placeCores [] none = [] := by rw [State.placeCores, hl]; rfl
  simp only [State.coreFree, hplaced, hr, hu]
  decide

theorem earlyRestore_flushed :
    ((earlyRestore.readEnv 0).flushTo 0 (.image 1 0)).dir.any (fun e => e.line == 0 && !e.awaited.isEmpty) = true := by decide

theorem earlyRestore_written : bytesGet ((earlyRestore.readEnv 0).flushTo 0 (.image 1 0)).mem.bytes 0 = 1 := by decide

theorem earlyRestore_allFree : AllFree earlyRestore := ⟨rfl, fun _ h => absurd h List.not_mem_nil⟩

/-- What the distributor makes of it changes a line of which a copy is awaited. -/
theorem earlyRestore_blocked {t : State} (h : SpadsOnly ((earlyRestore.readEnv 0).flushTo 0 (.image 1 0)) t) :
    0 ∈ earlyRestore.blockers t := by
  obtain ⟨e, he, hline⟩ := List.any_eq_true.mp earlyRestore_flushed
  simp only [Bool.and_eq_true, beq_iff_eq] at hline
  have hne : earlyRestore.lineBytes 0 ≠ t.lineBytes 0 := fun heq => by
    have h0 : bytesGet earlyRestore.mem.bytes 0 = bytesGet t.mem.bytes 0 := (List.map_inj_left.mp heq) 0 (by decide)
    rw [h.bytes 0 (by decide), earlyRestore_written] at h0
    exact absurd h0 (by decide)
  refine List.mem_filter.mpr ⟨List.mem_append_left _ (List.mem_map.mpr ⟨e, List.mem_filter.mpr ⟨h.dir ▸ he, hline.2⟩, hline.1⟩), ?_⟩
  simpa using hne

/-- An agent that comes too early only asks for lines. -/
theorem copiesOnly_agentActs_of_blocked {s t : State} {a : Option CacheAgent} {k : Nat} (h : k ∈ s.blockers t) :
    CopiesOnly s (s.agentActs a t) := by
  unfold State.agentActs
  split
  · rename_i hb _
    rw [hb] at h
    exact absurd h List.not_mem_nil
  · exact (copiesOnly_askHomes s _ _ _).trans (.foldl copiesOnly_recall _ _)

theorem exec_unitRestore_early :
    exec (.unitRestore 1 0 0) earlyRestore = .next (earlyRestore.distActs ((earlyRestore.readEnv 0).restoreOne 1 zeroEnv 0 0)) := by
  have hl : earlyRestore.launchAt 1 = some subscriberLaunch := rfl
  have he : earlyRestore.partEntry subscriberLaunch.part = some smallPartition := rfl
  rw [exec_unitRestore, execUnitRestore, hl]
  dsimp only
  rw [he, show earlyRestore.env subscriberLaunch.part = some zeroEnv from earlyRestore_env]
  dsimp only
  rw [earlyRestore_plan, show subscriberLaunch.part = 0 from rfl]
  have hcond : ((earlyRestore.readEnv 0).coreFree smallPartition [] ((earlyRestore.readEnv 0).placeCores [] none) 0 &&
      (earlyRestore.readEnv 0).cmdsGone 1 0 &&
      ((earlyRestore.readEnv 0).savedUnits subscriberLaunch).any fun u => u.1.idx == 0 && (u.2 == none || u.2 == some 0)) = true := by
    rw [coreFree_zero rfl rfl rfl]
    decide
  dsimp only
  rw [if_neg (by decide), if_neg (by decide), if_pos hcond]
  rfl

/-- Refutes O44, in its clause on UNIT_RESTORE: where an update on its way to the image of the unit writes the line of the environment block,
which the distributor has just read, the restore comes too early for that line and core 0 holds no unit yet. -/
theorem not_unitsEndAndAreSaved : ¬ Obligations.UnitsEndAndAreSaved := by
  intro h
  obtain ⟨-, -, -, -, -, -, -, -, hrestore, -⟩ := h earlyRestore 0 subscriberLaunch rfl
  obtain ⟨t, -, ht, hunit, -⟩ := hrestore smallPartition zeroEnv 0 0 1 0 0 savedSubscriber keptSubscriber rfl earlyRestore_env rfl rfl rfl
    earlyRestore_plan (coreFree_zero rfl rfl rfl) rfl rfl ⟨0, rfl⟩ rfl rfl earlyRestore_allFree
  have hspads : SpadsOnly ((earlyRestore.readEnv 0).flushTo 0 (.image 1 0)) ((earlyRestore.readEnv 0).restoreOne 1 zeroEnv 0 0) :=
    spadsOnly_restoreOne (s := earlyRestore.readEnv 0) (id := 1) (unit := 0) (kept := keptSubscriber) (l := subscriberLaunch) zeroEnv 0 rfl rfl
  have hcopies := copiesOnly_agentActs_of_blocked (a := some .distributor) (earlyRestore_blocked hspads)
  have hnext := exec_unitRestore_early.symm.trans ht
  injection hnext with hnext
  subst hnext
  have hcore : (earlyRestore.distActs ((earlyRestore.readEnv 0).restoreOne 1 zeroEnv 0 0)).coreAt 0 = earlyRestore.coreAt 0 := by
    rw [State.coreAt, State.coreAt, State.distActs, hcopies.cores]
  rw [hcore] at hunit
  exact absurd hunit (by decide)

end Sys2Proof.Machine
end

section
/-! SUPPORT. A reader that becomes a sharer of a line changes no other line's entry, but may have entries go to make room (R264, R390). -/

namespace Sys2Proof.Machine

/-! ### Entries that go -/

theorem State.modHalf_dir (s : State) (k : Nat) (f : HalfSt → HalfSt) : (s.modHalf k f).dir = s.dir := by
  unfold State.modHalf
  split <;> rfl

theorem State.modHalf_hostHeld (s : State) (k : Nat) (f : HalfSt → HalfSt) : (s.modHalf k f).hostHeld = s.hostHeld := by
  unfold State.modHalf
  split <;> rfl

/-- The entries of the lines other than `k`. -/
def State.dirBut (s : State) (k : Nat) : List DirEntry := s.dir.filter (·.line != k)

theorem dirBut_modDir (s : State) (k : Nat) {f : DirEntry → DirEntry} (hf : ∀ e, (f e).line = e.line) : (s.modDir k f).dirBut k = s.dirBut k := by
  unfold State.dirBut State.modDir
  dsimp only
  induction s.dir with
  | nil => rfl
  | cons e es ih =>
    rw [List.map_cons, List.filter_cons, List.filter_cons, ih]
    by_cases he : e.line = k
    · simp [he, hf]
    · simp [he]

theorem dirBut_setDir (s : State) (k : Nat) {e : DirEntry} (he : e.line = k) : (s.setDir k (some e)).dirBut k = s.dirBut k := by
  simp [State.dirBut, State.setDir, he]

theorem dirBut_writeBack (s : State) (k : Nat) : (s.writeBack k).dirBut k = s.dirBut k := by
  unfold State.writeBack
  dsimp only
  split
  · split
    · split
      · rw [State.dirBut, State.cleanHalf, State.modHalf_dir]
        exact dirBut_modDir _ k fun e => by split <;> rfl
      · rfl
    · rfl
  · rfl

theorem writeBack_hostHeld (s : State) (k : Nat) : (s.writeBack k).hostHeld = s.hostHeld := by
  unfold State.writeBack
  dsimp only
  split
  · split
    · split
      · exact State.modHalf_hostHeld _ _ _
      · rfl
    · rfl
  · rfl

/-- Dropping what sharers derived touches neither the directory nor what hosts hold. -/
theorem foldl_dropDerived (as : List CacheAgent) (k : Nat) (s : State) :
    (as.foldl (fun s a => if sOnly a then s.dropDerived a k else s) s).dir = s.dir ∧
      (as.foldl (fun s a => if sOnly a then s.dropDerived a k else s) s).hostHeld = s.hostHeld := by
  induction as generalizing s with
  | nil => exact ⟨rfl, rfl⟩
  | cons a as ih =>
    obtain ⟨hd, hh⟩ := ih (if sOnly a then s.dropDerived a k else s)
    exact ⟨hd.trans (by split <;> rfl), hh.trans (by split <;> rfl)⟩

theorem evictLine_dir (s : State) (e : DirEntry) : (s.evictLine e).dir = s.dirBut e.line := by
  obtain ⟨hd, -⟩ := foldl_dropDerived e.sharers e.line (s.writeBack e.line)
  rw [← dirBut_writeBack, State.dirBut, ← hd]
  unfold State.evictLine
  dsimp only
  rw [State.dropHalf, State.modHalf_dir]
  exact List.append_nil _

theorem evictLine_hostHeld (s : State) (e : DirEntry) : (s.evictLine e).hostHeld = s.hostHeld := by
  obtain ⟨-, hh⟩ := foldl_dropDerived e.sharers e.line (s.writeBack e.line)
  exact (State.modHalf_hostHeld _ _ _).trans (hh.trans (writeBack_hostHeld s _))

/-- `t` has the entries of `s`, but for those of some lines, which have gone, and of line `k`, which may have changed; memory and what hosts
hold are as before. -/
structure KeepsEntries (s t : State) (k : Nat) : Prop where
  mem      : t.mem = s.mem
  peers    : t.peers = s.peers
  hostHeld : t.hostHeld = s.hostHeld
  entries  : ∃ p : Nat → Bool, t.dirBut k = (s.dirBut k).filter fun e => p e.line

namespace KeepsEntries

variable {s t u : State} {k : Nat}

theorem of_dirBut (hc : CopiesOnly s t) (hh : t.hostHeld = s.hostHeld) (hd : t.dirBut k = s.dirBut k) : KeepsEntries s t k :=
  ⟨hc.mem, hc.peers, hh, fun _ => true, by simp [hd]⟩

theorem refl (s : State) (k : Nat) : KeepsEntries s s k := .of_dirBut (.refl s) rfl rfl

theorem trans (h : KeepsEntries s t k) (h' : KeepsEntries t u k) : KeepsEntries s u k := by
  obtain ⟨hm, hpeer, hh, p, hp⟩ := h
  obtain ⟨hm', hpeer', hh', q, hq⟩ := h'
  refine ⟨hm'.trans hm, hpeer'.trans hpeer, hh'.trans hh, fun n => p n && q n, ?_⟩
  rw [hq, hp, List.filter_filter]
  exact List.filter_congr fun e _ => Bool.and_comm _ _

theorem evictLine (s : State) (e : DirEntry) (k : Nat) : KeepsEntries s (s.evictLine e) k := by
  refine ⟨(copiesOnly_evictLine s e).mem, (copiesOnly_evictLine s e).peers, evictLine_hostHeld s e, fun n => n != e.line, ?_⟩
  rw [State.dirBut, evictLine_dir, State.dirBut, State.dirBut, List.filter_filter, List.filter_filter]
  exact List.filter_congr fun e _ => Bool.and_comm _ _

theorem dirRoom (s : State) (j k : Nat) : KeepsEntries s (s.dirRoom j) k := by
  unfold State.dirRoom
  generalize s.dirVictim true j = es
  induction es generalizing s with
  | nil => exact .refl s k
  | cons e es ih => exact (evictLine s e k).trans (ih _)

theorem mirrorNow (s : State) (k : Nat) : KeepsEntries s (s.mirrorNow k) k :=
  .of_dirBut (copiesOnly_mirrorNow s k) rfl (dirBut_modDir s k fun e => by unfold State.mirrored; split <;> rfl)

theorem setDir (s : State) {k : Nat} {e : DirEntry} (he : e.line = k) : KeepsEntries s (s.setDir k (some e)) k :=
  .of_dirBut (copiesOnly_setDir s k _) rfl (dirBut_setDir s k he)

theorem line_getD_dirAt (s : State) (k : Nat) : ((s.dirAt k).getD (.empty k)).line = k := by
  cases h : s.dirAt k with
  | none => rfl
  | some e => exact State.line_of_dirAt h

theorem dirReadAs (s : State) (shared : Bool) (a : CacheAgent) (k : Nat) : KeepsEntries s (s.dirReadAs shared a k) k := by
  refine ((dirRoom s k k).trans (mirrorNow _ k)).trans ?_
  have hline := line_getD_dirAt ((s.dirRoom k).mirrorNow k) k
  unfold State.dirReadAs
  dsimp only
  split
  · split
    · exact setDir _ hline
    · split <;> exact setDir _ hline
  · split <;> exact setDir _ hline

theorem distShares (s : State) (k : Nat) : KeepsEntries s (s.distShares k) k := by
  unfold State.distShares State.shareLine
  split
  · exact .refl s k
  · split
    · exact .refl s k
    · exact dirReadAs s true .distributor k

theorem usePin (s : State) (j k : Nat) : KeepsEntries s (s.usePin j) k := by
  refine .of_dirBut (copiesOnly_usePin s j) ?_ ?_ <;> unfold State.usePin <;> split <;> rfl

theorem readEnv {s : State} {p : Nat} {e : Partition} (he : s.partEntry p = some e) :
    KeepsEntries s (s.readEnv p) (lineKey ⟨0, e.envBlock⟩) := by
  unfold State.readEnv
  rw [he]
  dsimp only
  split
  · exact .refl s _
  · exact (distShares s _).trans (usePin _ _ _)

/-- What changes nothing of memory and copies. -/
theorem of_eq (hd : t.dir = s.dir) (hh : t.hostHeld = s.hostHeld) (hp : t.peers = s.peers) (hm : t.mem = s.mem) : KeepsEntries s t k :=
  ⟨hm, hp, hh, fun _ => true, by simp [State.dirBut, hd]⟩

/-- An entry of another line was there before. -/
theorem mem_of_mem (h : KeepsEntries s t k) {e : DirEntry} (he : e ∈ t.dir) (hne : e.line ≠ k) : e ∈ s.dir := by
  obtain ⟨p, hp⟩ := h.entries
  have hmem : e ∈ t.dirBut k := List.mem_filter.mpr ⟨he, by simpa using hne⟩
  rw [hp] at hmem
  exact (List.mem_filter.mp (List.mem_filter.mp hmem).1).1

theorem dirAt_eq_find?_dirBut (s : State) {j k : Nat} (hne : j ≠ k) : s.dirAt j = (s.dirBut k).find? (·.line == j) := by
  rw [State.dirBut, List.find?_filter]
  refine (congrArg (fun f => s.dir.find? f) (funext fun e => ?_)).symm
  by_cases h : e.line = j <;> simp [h, hne]

/-- Another line has the entry that it had, if any. -/
theorem dirAt_of_dirAt (h : KeepsEntries s t k) {j : Nat} (hne : j ≠ k) {e : DirEntry} (he : t.dirAt j = some e) : s.dirAt j = some e := by
  obtain ⟨p, hp⟩ := h.entries
  rw [dirAt_eq_find?_dirBut t hne, hp, List.find?_filter] at he
  rw [dirAt_eq_find?_dirBut s hne, ← he]
  have hpj : p j = true := by
    have := List.find?_some he
    simp only [decide_eq_true_eq, Bool.decide_and, Bool.and_eq_true, beq_iff_eq] at this
    rw [← this.2]; exact this.1
  refine congrArg (fun f => (s.dirBut k).find? f) (funext fun x => ?_)
  by_cases hx : x.line = j <;> simp [hx, hpj]

end KeepsEntries

theorem copiesOnly_readEnv (s : State) (p : Nat) : CopiesOnly s (s.readEnv p) := by
  unfold State.readEnv
  split
  · dsimp only
    split
    · exact .refl s
    · exact (copiesOnly_distShares s _).trans (copiesOnly_usePin _ _)
  · exact .refl s

end Sys2Proof.Machine
end

section
/-! SUPPORT. What an agent that acts in one step does where nothing stands against it (R391, R397). -/

namespace Sys2Proof.Machine

theorem agentActs_of_quiet {s t : State} {a : Option CacheAgent} (hb : s.blockers t = []) (hg : s.gains t = []) : s.agentActs a t = t := by
  simp [State.agentActs, hb, hg]

/-- Nothing stands against it where each line that is to be given up keeps its bytes and no line of a host has a new holder. -/
theorem agentActs_eq {s t : State} {a : Option CacheAgent}
    (hb : ∀ k, (∃ e ∈ t.dir, e.line = k ∧ e.awaited ≠ []) ∨ (∃ y ∈ t.hostHeld, y.line = k) → t.lineBytes k = s.lineBytes k)
    (hg : ∀ y ∈ t.hostHeld, ∀ e, t.dirAt y.line = some e → s.dirAt y.line = some e) : s.agentActs a t = t := by
  refine agentActs_of_quiet (List.filter_eq_nil_iff.mpr fun k hk => ?_) (List.filter_eq_nil_iff.mpr fun k hk => ?_)
  · have hbytes : t.lineBytes k = s.lineBytes k := by
      refine hb k ((List.mem_append.mp hk).imp (fun h => ?_) fun h => ?_)
      · obtain ⟨e, he, hline⟩ := List.mem_map.mp h
        obtain ⟨hmem, haw⟩ := List.mem_filter.mp he
        exact ⟨e, hmem, hline, by simpa using haw⟩
      · exact List.mem_map.mp h
    simp [hbytes]
  · obtain ⟨y, hy, rfl⟩ := List.mem_map.mp hk
    cases he : t.dirAt y.line with
    | none => simp
    | some e =>
      have hs := hg y hy e he
      simp only [Option.any_some, State.holds, hs, List.any_eq_true, not_exists, not_and, Bool.not_eq_true', Bool.not_eq_false]
      intro b hb'
      rcases List.mem_append.mp hb' with h | h
      · cases ho : e.owner with
        | none => simp [ho] at h
        | some o => simp_all
      · simp [h]

/-- What touches no copy and no memory is never too early. -/
theorem agentActs_of_same {s t : State} {a : Option CacheAgent} (hd : t.dir = s.dir) (hp : t.peers = s.peers)
    (hm : t.mem = s.mem) : s.agentActs a t = t := by
  refine agentActs_eq (fun k _ => ?_) fun y _ e he => ?_
  · simp only [State.lineBytes, State.phys, State.peer, hm, hp]
  · rw [← he, State.dirAt, State.dirAt, hd]

end Sys2Proof.Machine
end

section
/-! PROOF. A unit starts on its core in the state of R28 (R347, R348). -/

namespace Sys2Proof.Machine

/-- What `startUnit` makes of a core. -/
def startedCore (c : Core) (id : Nat) (l : Launch) (e : Env) (u : Nat) (slot : Option Nat) : Core :=
  ({ ({ c with lastHeld := some id } : Core).vacant with
    ctxs := [(0, l.startContext u (e.stackCap slot))], part := BitVec.ofNat 4 l.part, unit := some ⟨id, u, l.helpers⟩ } : Core).setEnv l e

/-- Two launches that differ in their state and units only. -/
def SameRecord (l l' : Launch) : Prop := ∃ st aged us, l' = { l with st := st, aged := aged, units := us }

theorem SameRecord.trans {l m n : Launch} : SameRecord l m → SameRecord m n → SameRecord l n := by
  rintro ⟨_, _, _, rfl⟩ ⟨_, _, _, rfl⟩
  exact ⟨_, _, _, rfl⟩

/-- A launch starts its units the same whatever its state and its units. -/
theorem SameRecord.startedCore {l l' : Launch} (h : SameRecord l l') (c : Core) (id : Nat) (e : Env) (u : Nat) (slot : Option Nat) :
    startedCore c id l' e u slot = startedCore c id l e u slot := by
  obtain ⟨_, _, _, rfl⟩ := h
  rfl

/-- What starting units on the cores of `gs` keeps: copies, the memory outside their scratchpads and what reads 0 there, the other cores, and
the record of the launch. -/
structure StartKeeps (s t : State) (id : Nat) (gs : List Nat) : Prop where
  spads  : SpadsOnly s t
  bytes  : ∀ a, (∀ g ∈ gs, inSpad g a = false) → bytesGet t.mem.bytes a = bytesGet s.mem.bytes a
  zeros  : ∀ a, bytesGet s.mem.bytes a = 0 → bytesGet t.mem.bytes a = 0
  cores  : ∀ k, k ∉ gs → t.coreAt k = s.coreAt k
  launch : ∀ l, s.launchAt id = some l → ∃ l', t.launchAt id = some l' ∧ SameRecord l l'

theorem StartKeeps.nil (s : State) (id : Nat) : StartKeeps s s id [] :=
  ⟨.refl s, fun _ _ => rfl, fun _ h => h, fun _ _ => rfl, fun l h => ⟨l, h, _, _, _, rfl⟩⟩

theorem StartKeeps.cons {s t u : State} {id g : Nat} {gs : List Nat} (h : StartKeeps s t id [g]) (h' : StartKeeps t u id gs) :
    StartKeeps s u id (g :: gs) := by
  refine ⟨h.spads.trans h'.spads, fun a ha => ?_, fun a ha => h'.zeros a (h.zeros a ha), fun k hk => ?_, fun l hl => ?_⟩
  · exact (h'.bytes a fun x hx => ha x (.tail _ hx)).trans (h.bytes a fun x hx => by obtain rfl := List.mem_singleton.mp hx; exact ha x (.head _))
  · exact (h'.cores k fun hx => hk (.tail _ hx)).trans (h.cores k fun hx => by obtain rfl := List.mem_singleton.mp hx; exact hk (.head _))
  · obtain ⟨m, hm, hlm⟩ := h.launch l hl
    obtain ⟨n, hn, hmn⟩ := h'.launch m hm
    exact ⟨n, hn, hlm.trans hmn⟩

theorem passRow_mem (s : State) (row : Nat) : (s.passRow row).mem = s.mem := by
  unfold State.passRow
  split <;> [rfl; (split <;> rfl)]
theorem passRow_cores (s : State) (row : Nat) : (s.passRow row).cores = s.cores := by
  unfold State.passRow
  split <;> [rfl; (split <;> rfl)]
theorem passRow_launches (s : State) (row : Nat) : (s.passRow row).launches = s.launches := by
  unfold State.passRow
  split <;> [rfl; (split <;> rfl)]

theorem passCore_mem (s : State) (g id : Nat) :
    (s.passCore g id).mem = if (s.coreAt g).lastHeld = some id then s.mem else (s.zeroSpad g).mem := by
  unfold State.passCore
  dsimp only
  split <;> rfl

theorem coreAt_passCore (s : State) (g id k : Nat) :
    (s.passCore g id).coreAt k = if k = g then { s.coreAt g with lastHeld := some id } else s.coreAt k := by
  unfold State.passCore
  dsimp only
  split <;> exact State.coreAt_setCore ..

theorem passCore_launches (s : State) (g id : Nat) : (s.passCore g id).launches = s.launches := by
  unfold State.passCore
  dsimp only
  split <;> rfl

/-- What `startUnit` makes of its launch. -/
def Launch.withRunning (g u : Nat) (slot : Option Nat) (now : Nat) (l : Launch) : Launch :=
  { l with
    st := .placed
    units := l.units.map fun x => if x.idx = u then { x with st := .running g, stack := slot, tile := some (g / 8), placed := now } else x }

section

variable {s : State} {id : Nat} {l : Launch} (hl : s.launchAt id = some l) (e : Env) (u g : Nat) (slot : Option Nat)
include hl

theorem startUnit_eq : ∃ n, s.startUnit id e u g slot =
    ({ ((s.passCore g id).setCore g (startedCore (s.coreAt g) id l e u slot)).modLaunch id (Launch.withRunning g u slot (s.passCore g id).nextId) with
      nextId := n } : State).passRow (g / 4) := by
  refine ⟨(s.passCore g id).nextId + 1, ?_⟩
  have hvac : ((s.passCore g id).coreAt g).vacant = ({ s.coreAt g with lastHeld := some id } : Core).vacant := by
    rw [coreAt_passCore, if_pos rfl]
  unfold State.startUnit
  rw [hl]
  dsimp only
  rw [hvac]
  rfl

theorem coreAt_startUnit (k : Nat) :
    (s.startUnit id e u g slot).coreAt k = if k = g then startedCore (s.coreAt g) id l e u slot else s.coreAt k := by
  obtain ⟨n, h⟩ := startUnit_eq hl e u g slot
  rw [h, State.coreAt, passRow_cores]
  show ((s.passCore g id).setCore g _).coreAt k = _
  rw [State.coreAt_setCore, coreAt_passCore]
  split <;> rfl

theorem startUnit_mem :
    (s.startUnit id e u g slot).mem = if (s.coreAt g).lastHeld = some id then s.mem else (s.zeroSpad g).mem := by
  obtain ⟨n, h⟩ := startUnit_eq hl e u g slot
  rw [h, passRow_mem, ← passCore_mem]
  rfl

theorem spadsOnly_startUnit : SpadsOnly s (s.startUnit id e u g slot) := by
  obtain ⟨n, h⟩ := startUnit_eq hl e u g slot
  rw [h]
  exact ((((spadsOnly_passCore s g id).trans (spadsOnly_setCore _ _ _)).trans (spadsOnly_modLaunch _ id _)).trans (spadsOnly_setNextId _ n)).trans
    (spadsOnly_passRow _ _)

theorem launchAt_startUnit : ∃ l', (s.startUnit id e u g slot).launchAt id = some l' ∧ SameRecord l l' := by
  obtain ⟨n, h⟩ := startUnit_eq hl e u g slot
  refine ⟨Launch.withRunning g u slot (s.passCore g id).nextId l, ?_, _, _, _, rfl⟩
  rw [h, State.launchAt, passRow_launches]
  have hsame : ((s.passCore g id).setCore g (startedCore (s.coreAt g) id l e u slot)).launchAt id = some l := by
    rw [State.launchAt, State.setCore_launches, passCore_launches]
    exact hl
  have hid : l.id = id := by simpa using List.find?_some hl
  have hmod := State.launchAt_modLaunch ((s.passCore g id).setCore g (startedCore (s.coreAt g) id l e u slot)) id id
    (f := Launch.withRunning g u slot (s.passCore g id).nextId) fun _ => rfl
  rw [hsame] at hmod
  exact hmod.trans (by simp [hid])

theorem startKeeps_startUnit : StartKeeps s (s.startUnit id e u g slot) id [g] := by
  have hbyte : ∀ a, bytesGet (s.startUnit id e u g slot).mem.bytes a =
      if (s.coreAt g).lastHeld = some id then bytesGet s.mem.bytes a else if inSpad g a then 0 else bytesGet s.mem.bytes a := fun a => by
    rw [startUnit_mem hl]
    split
    · rfl
    · exact bytesGet_zeroSpad s g a
  refine ⟨spadsOnly_startUnit hl e u g slot, fun a ha => ?_, fun a ha => ?_, fun k hk => ?_, fun m hm => ?_⟩
  · rw [hbyte, ha g (.head _)]
    simp
  · rw [hbyte, ha]
    simp
  · rw [coreAt_startUnit hl, if_neg (by simpa using hk)]
  · obtain rfl : l = m := Option.some.inj (hl.symm.trans hm)
    exact launchAt_startUnit hl e u g slot

end

end Sys2Proof.Machine
end

section
/-! PROOF. A placement starts its units one after another, with the lowest free stack slots (R347, R348). -/

namespace Sys2Proof.Machine

/-! ### One unit after another -/

/-- The units of a plan started in their order. -/
def State.startUnits (s : State) (id : Nat) (e : Env) (slot : Nat → Option Nat) (xs : List (Nat × Nat × Nat)) : State :=
  xs.foldl (fun s x => s.startUnit id e x.2.1 x.2.2 (slot x.1)) s

section

variable {id : Nat} (e : Env) (slot : Nat → Option Nat)

theorem startKeeps_startUnits (xs : List (Nat × Nat × Nat)) {s : State} {l : Launch} (hl : s.launchAt id = some l) :
    StartKeeps s (s.startUnits id e slot xs) id (xs.map (·.2.2)) := by
  induction xs generalizing s l with
  | nil => exact .nil s id
  | cons x xs ih =>
    obtain ⟨l', hl', -⟩ := launchAt_startUnit hl e x.2.1 x.2.2 (slot x.1)
    exact (startKeeps_startUnit hl e x.2.1 x.2.2 (slot x.1)).cons (ih hl')

/-- Each core is as its own unit has started on it, and so is its scratchpad. -/
theorem coreAt_startUnits (xs : List (Nat × Nat × Nat)) {s : State} {l : Launch} (hl : s.launchAt id = some l) (hnodup : (xs.map (·.2.2)).Nodup)
    {i u g : Nat} (hx : (i, u, g) ∈ xs) :
    (s.startUnits id e slot xs).coreAt g = startedCore (s.coreAt g) id l e u (slot i) ∧
      ((s.coreAt g).lastHeld ≠ some id → ∀ a, inSpad g a = true → bytesGet (s.startUnits id e slot xs).mem.bytes a = 0) := by
  induction xs generalizing s l with
  | nil => exact absurd hx List.not_mem_nil
  | cons x xs ih =>
    obtain ⟨hhead, htail⟩ := List.nodup_cons.mp hnodup
    obtain ⟨l', hl', hsame⟩ := launchAt_startUnit hl e x.2.1 x.2.2 (slot x.1)
    rcases List.mem_cons.mp hx with rfl | hx
    · have hkeep := startKeeps_startUnits e slot xs hl'
      refine ⟨(hkeep.cores g hhead).trans (by rw [coreAt_startUnit hl, if_pos rfl]), fun hheld a ha => hkeep.zeros a ?_⟩
      rw [startUnit_mem hl, if_neg hheld, bytesGet_zeroSpad, if_pos ha]
    · have hne : g ≠ x.2.2 := fun h => hhead (List.mem_map.mpr ⟨_, hx, h⟩)
      obtain ⟨hcore, hzero⟩ := ih hl' htail hx
      rw [hsame.startedCore, coreAt_startUnit hl, if_neg hne] at hcore
      rw [coreAt_startUnit hl, if_neg hne] at hzero
      exact ⟨hcore, hzero⟩

end

/-! ### Stack slots -/

theorem mem_stacksUsed (s : State) (p j : Nat) :
    j ∈ s.stacksUsed p ↔ (s.launches.any fun l => l.part == p && l.units.any fun x => x.stack == some j) = true := by
  simp [State.stacksUsed, and_assoc]

/-- The element of a filtered range that has `i` before it is number `i`. -/
theorem getElem?_filter_range {f : Nat → Bool} {n j : Nat} (hj : j < n) (hf : f j = true) :
    ((List.range n).filter f)[((List.range j).filter f).length]? = some j := by
  obtain ⟨m, rfl⟩ := Nat.exists_eq_add_of_lt hj
  rw [show j + m + 1 = j + (m + 1) by omega, List.range_add, List.filter_append, List.getElem?_append_right (le_refl _), Nat.sub_self,
    List.range_succ_eq_map]
  simp [hf]

/-- Free stack slot `j` with `i` free ones below it is the one that unit number `i` gets. -/
theorem freeStacks_getElem? (s : State) (p : Nat) (e : Env) {n i j : Nat} (hin : i < n) (hj : j < e.slots)
    (hfree : (s.stacksUsed p).contains j = false)
    (hi : ((List.range j).filter fun k => !(s.stacksUsed p).contains k).length = i) : (s.freeStacks p e n)[i]? = some j := by
  have hused : ((List.range j).filter fun k => (s.stacksUsed p).contains k).length ≤ (s.stacksUsed p).length := by
    refine (List.subperm_of_subset (List.nodup_range.filter _) fun k hk => ?_).length_le
    simpa using (List.mem_filter.mp hk).2
  have hsum : j = ((List.range j).filter fun k => (s.stacksUsed p).contains k).length + i := by
    rw [← hi]
    simpa using (List.length_eq_length_filter_add (l := List.range j) fun k => (s.stacksUsed p).contains k)
  unfold State.freeStacks
  dsimp only
  rw [List.getElem?_take_of_lt hin, ← hi]
  exact getElem?_filter_range (by omega) (by rw [hfree]; rfl)

/-- What a valid environment block bounds. -/
theorem envParse_bounds {v : Nat} {e : Env} (h : envParse v = some e) : e.size < 2 ^ 32 ∧ e.base + e.slots * e.size < 2 ^ 57 := by
  unfold envParse at h
  dsimp only at h
  split at h
  · exact absurd h (by simp)
  · rename_i hn
    obtain rfl := Option.some.inj h
    simp only [Bool.or_eq_true, not_or, decide_eq_true_eq, not_le] at hn
    exact ⟨Nat.mod_lt _ (by positivity), hn.2⟩

theorem stackCap_eq {e : Env} (hs : e.size < 2 ^ 32) {j : Nat} (hj : j < e.slots) (hb : e.base + e.slots * e.size < 2 ^ 57) :
    e.stackCap (some j) = BitVec.ofNat 128 (3 * 2 ^ 97 + e.size * 2 ^ 57 + (e.base + j * e.size)) := by
  have hle : e.base + j * e.size < 2 ^ 57 := lt_of_le_of_lt (by gcongr) hb
  have hperm : (permREAD ||| permWRITE).toNat = 3 := by decide
  rw [Env.stackCap, mkCap, hperm, Nat.mod_eq_of_lt hle, Nat.mod_eq_of_lt (lt_trans hs (by norm_num)), Nat.zero_mod, Nat.zero_mul, Nat.zero_add]

end Sys2Proof.Machine
end

section
/-! PROOF. PLACEMENT, TILE_POWER_GATE and TILE_WAKE (R28, R347, R348, R350). -/

namespace Sys2Proof.Machine

/-! ### The state of R28 -/

section

variable (c : Core) (id : Nat) (l : Launch) (e : Env) (u : Nat) (slot : Option Nat)

theorem ctxAt_startedCore_zero : (startedCore c id l e u slot).ctxAt 0 = l.startContext u (e.stackCap slot) := rfl

theorem ctxAt_startedCore_ne {n : Nat} (hn : n ≠ 0) : (startedCore c id l e u slot).ctxAt n = Context.reset := by
  show (smapGet? [(0, l.startContext u (e.stackCap slot))] n).getD Context.reset = _
  simp [smapGet?, Ne.symm hn]

end

section

variable (l : Launch) (u : Nat) (stack : CapBits)

theorem startContext_s (r : Fin 32) : (l.startContext u stack).s.get r =
    if r = 1 then BitVec.ofNat 64 u else if r = 2 then BitVec.ofNat 64 (l.across * l.down * l.percore) else 0 := by
  simp only [Launch.startContext, Context.reset, Vector.get_eq_getElem, Vector.getElem_set, Vector.getElem_replicate, Launch.unitCount, Fin.ext_iff,
    Fin.val_one, Fin.val_two]
  grind

theorem startContext_a {r : Fin 16} (hr : r ≠ 15) : (l.startContext u stack).a.get r = if r = 1 then l.arg else 0 := by
  have h15 : 15 ≠ (r : Nat) := fun h => hr (Fin.ext h.symm)
  simp only [Launch.startContext, Context.reset, Vector.get_eq_getElem, Vector.getElem_set, Vector.getElem_replicate, Fin.ext_iff, Fin.val_one,
    if_neg h15]
  grind

theorem startContext_a15 : (l.startContext u stack).a.get 15 = stack := by
  simp [Launch.startContext, Vector.get_eq_getElem]

end

/-! ### Nothing stands against a placement (R391, R397; log entry 76) -/

theorem lineBytes_of_apart {s t : State} {k : Nat} (hp : t.peers = s.peers)
    (hb : k < 2 ^ 52 → ∀ a, k ≤ a → a < k + 128 → bytesGet t.mem.bytes a = bytesGet s.mem.bytes a) : t.lineBytes k = s.lineBytes k := by
  refine List.map_inj_left.mpr fun i hi => ?_
  have hi' : i < 128 := by
    have := List.mem_range.mp hi
    split at this <;> omega
  rcases lt_or_ge k (2 ^ 52) with hlt | hge
  · have hdev : (keyLoc k).dev = 0 := Nat.div_eq_of_lt hlt
    have hpa : (keyLoc k).pa = k := Nat.mod_eq_of_lt hlt
    simp only [State.phys, hdev, hpa, if_pos]
    exact hb hlt (k + i) (by omega) (by omega)
  · have hdev : (keyLoc k).dev ≠ 0 := by simp only [keyLoc]; omega
    simp only [State.phys, State.peer, if_neg hdev, hp]

/-- A line that lies apart from the scratchpads of the started units keeps its bytes. -/
theorem StartKeeps.lineBytes {s t : State} {id : Nat} {gs : List Nat} (h : StartKeeps s t id gs) {k : Nat}
    (hk : ∀ g ∈ gs, k + 128 ≤ spadPa g 0 ∨ spadPa g 0 + 0x20000 ≤ k) : t.lineBytes k = s.lineBytes k := by
  refine lineBytes_of_apart h.spads.peers fun _ a hle hlt => h.bytes a fun g hg => ?_
  have := hk g hg
  simp [inSpad]
  omega

/-- A line below the scratchpads lies apart from each of them. -/
theorem apart_of_lt_hbmSize {k : Nat} (hk : k < hbmSize) (g : Nat) : k + 128 ≤ spadPa g 0 ∨ spadPa g 0 + 0x20000 ≤ k := by
  have := spadPa_ge g 0
  simp only [hbmSize, spadBase] at *
  omega

/-- The distributor may read line `k` of HBM, start units and act at once where no host and no cache that must drain first holds that line or the
scratchpads. -/
theorem distActs_of_started {s r t : State} {id k : Nat} {gs : List Nat} (hr : KeepsEntries s r k) (ht : StartKeeps r t id gs) (hk : k < hbmSize)
    (hheld : s.heldAt k = none) (hfree : ∀ g ∈ gs, LinesFree s (spadPa g 0) 0x20000) : s.distActs t = t := by
  have hbytes : ∀ j, (∀ g ∈ gs, j + 128 ≤ spadPa g 0 ∨ spadPa g 0 + 0x20000 ≤ j) → t.lineBytes j = s.lineBytes j := fun j hj =>
    (ht.lineBytes hj).trans (by simp only [State.lineBytes, State.phys, State.peer, hr.mem, hr.peers])
  have hhost : t.hostHeld = s.hostHeld := ht.spads.hostHeld.trans hr.hostHeld
  refine agentActs_eq (fun j hj => ?_) fun y hy e he => ?_
  · rcases hj with ⟨e, he, rfl, haw⟩ | ⟨y, hy, rfl⟩
    · refine hbytes _ fun g hg => ?_
      by_cases hline : e.line = k
      · exact apart_of_lt_hbmSize (hline ▸ hk) g
      · rcases (hfree g hg).2 e (hr.mem_of_mem (ht.spads.dir ▸ he) hline) with h | h | h
        · exact .inl h
        · exact .inr h
        · exact absurd h.1 haw
    · exact hbytes _ fun g hg => (hfree g hg).1 y (hhost ▸ hy)
  · have hne : y.line ≠ k := fun h => by
      have := List.find?_eq_none.mp hheld y (hhost ▸ hy)
      simp [h] at this
    refine hr.dirAt_of_dirAt hne ?_
    rw [← he, State.dirAt, State.dirAt, ht.spads.dir]

/-! ### The cases of a plan -/

/-- A valid environment block is no news any more. -/
def State.envSeen (s : State) (p : Nat) : State := s.setPst p { s.pst p with envTold := false }

/-- A launch whose units are being started. -/
def Launch.asPlaced (l : Launch) : Launch := { l with st := .placed, aged := false }

theorem exec_placement_of_plan {s : State} {p : Nat} {x : Plan} (h : s.plan p = some x) :
    exec (.placement p) s = .next (s.distActs ((s.envSeen p).carryOut p x)) := by
  rw [exec_placement, execPlacement, h]
  rfl

/-- The state from which a plan starts its units: the distributor has read the block, and the launch is placed. -/
def State.startingAt (s : State) (p id : Nat) : State :=
  ((s.envSeen p).readEnv p).modLaunch id Launch.asPlaced

theorem carryOut_start {s : State} {p : Nat} {env : Env} (henv : s.env p = some env) (id : Nat) (us : List (Nat × Nat)) :
    (s.envSeen p).carryOut p (.start id us) =
      (s.startingAt p id).startUnits id env (fun i => if env.size = 0 then none else (s.freeStacks p env us.length)[i]?)
        ((List.range us.length).zip us) := by
  have henv' : (s.envSeen p).env p = some env := henv
  unfold State.carryOut
  dsimp only
  rw [henv']
  rfl

theorem map_core_zip_range (us : List (Nat × Nat)) : ((List.range us.length).zip us).map (·.2.2) = us.map (·.2) := by
  have h : ((List.range us.length).zip us).map (·.2) = us := List.map_snd_zip (by simp)
  calc _ = (((List.range us.length).zip us).map (·.2)).map (·.2) := by rw [List.map_map]; rfl
    _ = us.map (·.2) := by rw [h]

theorem mem_zip_range {us : List (Nat × Nat)} {i : Nat} {x : Nat × Nat} (h : us[i]? = some x) : (i, x) ∈ (List.range us.length).zip us := by
  obtain ⟨hi, rfl⟩ := List.getElem?_eq_some_iff.mp h
  exact List.mem_of_getElem? (i := i) (by simp [hi])

theorem keepsEntries_startingAt {s : State} {p : Nat} {e : Partition} (he : s.partEntry p = some e) (id : Nat) :
    KeepsEntries s (s.startingAt p id) (lineKey ⟨0, e.envBlock⟩) :=
  have hseen : KeepsEntries s (s.envSeen p) (lineKey ⟨0, e.envBlock⟩) := .of_eq rfl rfl rfl rfl
  have hread : KeepsEntries (s.envSeen p) ((s.envSeen p).readEnv p) (lineKey ⟨0, e.envBlock⟩) := .readEnv he
  (hseen.trans hread).trans (.of_eq rfl rfl rfl rfl)

theorem coreAt_startingAt (s : State) (p id g : Nat) : (s.startingAt p id).coreAt g = s.coreAt g := by
  obtain ⟨_, _, _, _, _, h⟩ := copiesOnly_readEnv (s.envSeen p) p
  rw [State.startingAt, h]
  rfl

theorem launchAt_startingAt {s : State} {id : Nat} {l : Launch} (hl : s.launchAt id = some l) (p : Nat) :
    ∃ l', (s.startingAt p id).launchAt id = some l' ∧ SameRecord l l' := by
  obtain ⟨_, _, _, _, _, h⟩ := copiesOnly_readEnv (s.envSeen p) p
  have hid : l.id = id := by simpa using List.find?_some hl
  have hsame : ((s.envSeen p).readEnv p).launchAt id = some l := by rw [h]; exact hl
  have hmod := State.launchAt_modLaunch ((s.envSeen p).readEnv p) id id (f := Launch.asPlaced) fun _ => rfl
  rw [hsame] at hmod
  exact ⟨l.asPlaced, hmod.trans (by simp [hid]), _, _, _, rfl⟩

/-- A valid block lies in a line of HBM. -/
theorem env_bounds {s : State} {p : Nat} {e : Partition} {env : Env} (he : s.partEntry p = some e) (h : s.env p = some env) :
    e.envBlock + 64 ≤ hbmSize ∧ env.size < 2 ^ 32 ∧ env.base + env.slots * env.size < 2 ^ 57 := by
  rw [State.env, he, Option.bind_some] at h
  split at h
  · exact absurd h (by simp)
  · rename_i hn
    simp only [Bool.or_eq_true, not_or, decide_eq_true_eq, not_lt] at hn
    obtain ⟨⟨-, hat⟩, -⟩ := hn
    exact ⟨hat, envParse_bounds h⟩

/-- The units are started, whatever copies there are elsewhere. -/
theorem exec_placement_start {s : State} {p : Nat} {l : Launch} {env : Env} {e : Partition} {us : List (Nat × Nat)} (henv : s.env p = some env)
    (he : s.partEntry p = some e) (hl : s.launchAt l.id = some l) (hplan : s.plan p = some (.start l.id us)) (hheld : s.heldAt (e.envBlock / 128 * 128) = none)
    (hfree : ∀ x ∈ us, LinesFree s (spadPa x.2 0) 0x20000) :
    exec (.placement p) s = .next ((s.startingAt p l.id).startUnits l.id env
      (fun i => if env.size = 0 then none else (s.freeStacks p env us.length)[i]?) ((List.range us.length).zip us)) := by
  obtain ⟨hat, -⟩ := env_bounds he henv
  obtain ⟨l', hl', -⟩ := launchAt_startingAt hl p
  have hkey : lineKey ⟨0, e.envBlock⟩ = e.envBlock / 128 * 128 := by simp [lineKey]
  rw [exec_placement_of_plan hplan, carryOut_start henv]
  refine congrArg _ (distActs_of_started (keepsEntries_startingAt he l.id) (startKeeps_startUnits env _ _ hl') (by omega) (hkey ▸ hheld) fun g hg => ?_)
  rw [map_core_zip_range] at hg
  obtain ⟨x, hx, rfl⟩ := List.mem_map.mp hg
  exact hfree x hx

/-- The core of unit number `i` afterwards. -/
theorem coreAt_placed {s : State} {l : Launch} (hl : s.launchAt l.id = some l) (p : Nat) (env : Env) {us : List (Nat × Nat)} (hnodup : (us.map (·.2)).Nodup) {i u g : Nat} (hi : us[i]? = some (u, g)) (slot : Nat → Option Nat) :
    ((s.startingAt p l.id).startUnits l.id env slot ((List.range us.length).zip us)).coreAt g =
        startedCore (s.coreAt g) l.id l env u (slot i) ∧
      ((s.coreAt g).lastHeld ≠ some l.id → ∀ a, inSpad g a = true →
        bytesGet ((s.startingAt p l.id).startUnits l.id env slot ((List.range us.length).zip us)).mem.bytes a = 0) := by
  obtain ⟨l', hl', hsame⟩ := launchAt_startingAt hl p
  have h := coreAt_startUnits env slot ((List.range us.length).zip us) hl' (by rwa [map_core_zip_range]) (mem_zip_range hi)
  rwa [hsame.startedCore, coreAt_startingAt] at h

/-- The stack capability of unit number `i` of a plan. -/
theorem stackCap_placed {s : State} {p : Nat} {env : Env} {n i j : Nat} (hsize : env.size < 2 ^ 32)
    (hspace : env.base + env.slots * env.size < 2 ^ 57) (hin : i < n) (hne : env.size ≠ 0) (hj : j < env.slots)
    (hfree : (s.launches.any fun l => l.part == p && l.units.any fun x => x.stack == some j) = false)
    (hi : ((List.range j).filter fun k => !(s.launches.any fun l => l.part == p && l.units.any fun x => x.stack == some k)).length = i) :
    env.stackCap (if env.size = 0 then none else (s.freeStacks p env n)[i]?) =
      BitVec.ofNat 128 (3 * 2 ^ 97 + env.size * 2 ^ 57 + (env.base + j * env.size)) := by
  have hused : ∀ k, (s.stacksUsed p).contains k = s.launches.any fun l => l.part == p && l.units.any fun x => x.stack == some k := fun k =>
    Bool.eq_iff_iff.mpr (List.contains_iff_mem.trans (mem_stacksUsed s p k))
  rw [if_neg hne, freeStacks_getElem? s p env hin hj (by rw [hused, hfree]) (by simpa only [hused] using hi), stackCap_eq hsize hj hspace]

theorem envNews_iff (s : State) (p : Nat) : s.envNews p = true ↔ s.candidates p ≠ [] ∧ (s.env p).isNone ≠ (s.pst p).envTold := by
  simp [State.envNews]

/-- Without a plan only news of the block is told (R348). -/
theorem exec_placement_none {s : State} {p : Nat} (h : s.plan p = none) : exec (.placement p) s = .next
    (if s.candidates p ≠ [] ∧ (s.env p).isNone ≠ (s.pst p).envTold then
      if s.env p = none then (s.setPst p { s.pst p with envTold := true }).report (.envBlock p) else s.envSeen p
    else s) := by
  rw [exec_placement, execPlacement, h]
  by_cases hn : s.candidates p ≠ [] ∧ (s.env p).isNone ≠ (s.pst p).envTold
  · rw [if_pos hn]
    dsimp only
    rw [if_pos ((envNews_iff s p).mpr hn)]
    have henv : ∀ b, (s.setPst p { s.pst p with envTold := b }).env p = s.env p := fun _ => rfl
    cases he : s.env p with
    | none =>
      rw [henv, he, if_pos Option.isNone_none, if_pos rfl]
      exact congrArg _ (agentActs_of_same rfl rfl rfl)
    | some env =>
      rw [henv, he, if_neg (by simp), if_neg (by simp)]
      exact congrArg _ (agentActs_of_same rfl rfl rfl)
  · rw [if_neg hn]
    dsimp only
    rw [if_neg fun h => hn ((envNews_iff s p).mp h)]
    exact congrArg _ (agentActs_of_same rfl rfl rfl)

theorem gateDue_iff (s : State) (n : Nat) : s.gateDue n = true ↔ (s.tileAt n).gated = false ∧ (∀ j < 8, (s.coreAt (8 * n + j)).unit = none) ∧
    ∃ x ∈ s.parts, x.2.valid = true ∧ x.2.fixed = false ∧ n ∈ x.2.tiles ∧ x.2.idleTime ≤ s.time.toNat - (s.tileAt n).idle := by
  simp [State.gateDue, State.tileBusy, and_assoc]

/-- Settles O43: the cases of the plan, and for a start the core of each unit as `startedCore` gives it. -/
theorem placementStartsUnits : Obligations.PlacementStartsUnits := by
  intro s p
  refine ⟨fun l env e us hplan henv he hl _ _ hcores hheld hfree => ?_, fun ts hplan => ?_, fun id u g hplan => ?_, fun hplan => ?_, fun n => ?_,
    fun n => ?_⟩
  · obtain ⟨-, hsize, hspace⟩ := env_bounds he henv
    refine ⟨_, exec_placement_start henv he hl hplan hheld hfree, fun i u g hi => ?_⟩
    obtain ⟨hcore, hzero⟩ := coreAt_placed hl p env hcores hi fun i => if env.size = 0 then none else (s.freeStacks p env us.length)[i]?
    have hin : i < us.length := (List.getElem?_eq_some_iff.mp hi).1
    refine ⟨?_, fun hne k hk => hzero hne _ ?_⟩
    · rw [hcore]
      refine ⟨rfl, rfl, rfl, rfl, rfl, rfl, rfl, rfl, rfl, fun r => vector_get_replicate _ r, fun r => vector_get_replicate _ r, rfl, rfl,
        fun n hn => by rw [ctxAt_startedCore_ne _ _ _ _ _ _ hn]; rfl, ?_⟩
      rw [ctxAt_startedCore_zero]
      refine ⟨rfl, rfl, rfl, rfl, startContext_s l u _, fun r => vector_get_replicate true r, fun r => vector_get_replicate none r,
        fun r hr => startContext_a l u _ hr, fun h0 => ?_, fun hne j hj hused hcount => ?_⟩
      · rw [startContext_a15, if_pos h0]
        rfl
      · rw [startContext_a15]
        exact stackCap_placed hsize hspace hin hne hj hused hcount
    · simp [inSpad, spadPa]
      omega
  · rw [exec_placement_of_plan hplan]
    exact congrArg _ (agentActs_of_same rfl rfl rfl)
  · rw [exec_placement_of_plan hplan]
    exact congrArg _ (agentActs_of_same rfl rfl rfl)
  · exact exec_placement_none hplan
  · exact ⟨fun h => congrArg event (if_pos ((gateDue_iff s n).mpr h)), fun h => congrArg event (if_neg fun h' => h ((gateDue_iff s n).mp h'))⟩
  · refine ⟨_, rfl, ?_, rfl⟩
    rw [State.tileAt, smapGet?_smapSet_same]
    rfl

end Sys2Proof.Machine
end

section
/-! SUPPORT. What an access does before its data moves copies of lines only (R264, R391 to R393). -/

namespace Sys2Proof.Machine

section

variable (s : State)

theorem copiesOnly_setBridge (b : Bridge) : CopiesOnly s (s.setBridge b) := ⟨_, _, _, _, _, rfl⟩
theorem copiesOnly_dirtiedNow (k : Nat) : CopiesOnly s (s.dirtiedNow k) := ⟨_, _, _, _, _, rfl⟩

theorem CopiesOnly.ite {s a b : State} {c : Prop} [Decidable c] (ha : CopiesOnly s a) (hb : CopiesOnly s b) : CopiesOnly s (if c then a else b) := by
  split <;> assumption

theorem copiesOnly_askHalf (line : Nat) (write h : Bool) : CopiesOnly s (s.askHalf line write h).1 := by
  unfold State.askHalf
  dsimp only
  split
  · exact copiesOnly_setBridge s _
  · split
    · exact copiesOnly_setBridge s _
    · exact .refl s
  · exact .refl s

theorem copiesOnly_mirrorRoomAt (tile k : Nat) : CopiesOnly s (s.mirrorRoomAt tile k) := by
  unfold State.mirrorRoomAt
  refine .ite (.refl s) (.ite (.refl s) ?_)
  split
  · exact ((copiesOnly_sliceClean s _).trans (.foldl (fun t (e : DirEntry) => copiesOnly_writeBack t e.line) _ _)).trans ⟨_, _, _, _, _, rfl⟩
  · exact .refl s

theorem copiesOnly_sliceDirty (k : Nat) : CopiesOnly s (s.sliceDirty k) := by
  unfold State.sliceDirty
  split
  · exact .refl s
  · exact (copiesOnly_mirrorRoomAt s _ k).trans ⟨_, _, _, _, _, rfl⟩

theorem copiesOnly_dirTake (a : CacheAgent) (k : Nat) (write : Bool) : CopiesOnly s (s.dirTake a k write) := by
  unfold State.dirTake
  dsimp only
  refine .trans ((copiesOnly_mirrorNow s k).trans (copiesOnly_dirRoom _ k)) ?_
  generalize (s.mirrorNow k).dirRoom k = u
  have hroom : CopiesOnly u (if write || s.dirtyOwner k then u.mirrorRoom a k else u) :=
    .ite (copiesOnly_mirrorRoomAt u (agentTile a) k) (.refl u)
  refine hroom.trans ?_
  split
  · exact (copiesOnly_setDir _ k _).trans (copiesOnly_dirtiedNow _ k)
  · exact copiesOnly_setDir _ k _

theorem copiesOnly_dirWrite (a : CacheAgent) (k : Nat) : CopiesOnly s (s.dirWrite a k) :=
  (copiesOnly_dirTake s a k true).trans (copiesOnly_modHalf _ _ _)

theorem copiesOnly_homeStore (w : Option Nat) (a : Option CacheAgent) (k : Nat) : CopiesOnly s (s.homeStore w a k) := by
  unfold State.homeStore
  split
  · exact .refl s
  · exact copiesOnly_setDir s k _

theorem copiesOnly_storeInPlace (k : Nat) : CopiesOnly s (s.storeInPlace k) := by
  unfold State.storeInPlace
  split
  · exact .refl s
  · exact (copiesOnly_setDir s k _).trans (copiesOnly_dirtiedNow _ k)

theorem copiesOnly_supply (k : Nat) : CopiesOnly s (s.supply k) := by
  unfold State.supply
  refine .trans (copiesOnly_mirrorNow s k) ?_
  dsimp only
  split
  · exact copiesOnly_setDir _ k _
  · exact .refl _

theorem copiesOnly_makeRoom (k : Nat) : CopiesOnly s (s.makeRoom k).1 := by
  unfold State.makeRoom
  dsimp only
  split
  · exact .foldl copiesOnly_evictLine _ s
  · exact copiesOnly_askHomes s _ _ _

theorem copiesOnly_askLine (k : Nat) (acc : Acc) (h : Hint) : CopiesOnly s (s.askLine k acc h).1 := by
  unfold State.askLine
  dsimp only
  generalize s.hintAt k acc h = h
  have hroom : CopiesOnly s (if h = .plain then s.makeRoom k else (s, none)).1 := by
    split
    · exact copiesOnly_makeRoom s k
    · exact .refl s
  revert hroom
  generalize (if h = .plain then s.makeRoom k else (s, none)) = r
  intro hroom
  obtain ⟨u, q⟩ := r
  cases q with
  | some q => exact hroom
  | none =>
    refine .trans (t := u) hroom ?_
    dsimp only
    have hask : CopiesOnly u (if hostKey k then u.askHalf (keyLine k) acc.writes (keyHalf k)
        else if !acc.writes && u.holds u.agent k then (u, false) else u.recall k).1 := by
      split
      · exact copiesOnly_askHalf u _ _ _
      · split
        · exact .refl u
        · exact copiesOnly_recall u k
    refine .trans hask ?_
    generalize (if hostKey k then u.askHalf (keyLine k) acc.writes (keyHalf k)
        else if !acc.writes && u.holds u.agent k then (u, false) else u.recall k) = r
    split
    · exact .refl _
    · split
      · exact .refl _
      · exact copiesOnly_claimLine _ _ _ k

theorem copiesOnly_writeLine (k : Nat) (h : Hint) : CopiesOnly s (s.writeLine k h) := by
  unfold State.writeLine
  dsimp only
  split
  · exact copiesOnly_storeInPlace s k
  · split
    · exact copiesOnly_dirWrite s _ k
    · split
      · exact copiesOnly_modHalf s k _
      · exact (copiesOnly_homeStore s _ _ k).trans (copiesOnly_sliceDirty _ k)

theorem copiesOnly_touchLine (k : Nat) (acc : Acc) (h : Hint) : CopiesOnly s (s.touchLine k acc h) := by
  unfold State.touchLine
  refine .trans (copiesOnly_usePin s (keyLine k)) ?_
  generalize s.usePin (keyLine k) = s
  dsimp only
  generalize s.hintAt k acc h = h
  have hread : CopiesOnly s (if h = .plain then s.dirRead s.agent k
      else if hostKey k && (s.dirAt k).isNone then (if h = .na then s.dirRead (s.hostSlice k) k else s.dropHalf k) else s.supply k) :=
    .ite (copiesOnly_dirReadAs s _ _ k) (.ite (.ite (copiesOnly_dirReadAs s _ _ k) (copiesOnly_modHalf s k _)) (copiesOnly_supply s k))
  cases acc with
  | write => exact copiesOnly_writeLine s k h
  | update =>
    dsimp only
    split
    · exact copiesOnly_dirTake s _ k false
    · exact copiesOnly_homeStore s _ _ k
  | read => exact hread
  | fetch => exact hread

theorem copiesOnly_countBypass (k : Nat) : CopiesOnly s (s.countBypass k) := (fetchKeeps_countBypass s k).copies

theorem copiesOnly_slotReady (p : Part) : CopiesOnly s (s.slotReady p).1 := by
  unfold State.slotReady
  split
  · exact .refl s
  · split
    · exact .refl s
    · split <;> exact copiesOnly_askHomes s _ _ _

/-- A fold that gathers an answer beside the state. -/
theorem CopiesOnly.foldl_fst {α β : Type} {f : State × β → α → State × β} (h : ∀ x a, CopiesOnly x.1 (f x a).1) (xs : List α) (x : State × β) :
    CopiesOnly x.1 (xs.foldl f x).1 := by
  induction xs generalizing x with
  | nil => exact .refl _
  | cons a xs ih => exact (h x a).trans (ih _)

theorem copiesOnly_prepareBut (hits : List Nat) (ps : List Part) (acc : Acc) (h : Hint) : CopiesOnly s (s.prepareBut hits ps acc h).1 := by
  unfold State.prepareBut
  split
  · exact .refl s
  · dsimp only
    generalize hask : List.foldl _ (s, none) (partKeys ps) = r
    have hr : CopiesOnly s r.1 := hask ▸ CopiesOnly.foldl_fst (fun x k => by
      dsimp only
      split
      · exact .refl x.1
      · exact copiesOnly_askLine x.1 k acc h) (partKeys ps) (s, none)
    generalize hslots : (if acc.writes then List.foldl _ (r.1, r.2) ps else (r.1, r.2)) = q
    have hq : CopiesOnly r.1 q.1 := by
      rw [← hslots]
      split
      · refine CopiesOnly.foldl_fst (fun x p => ?_) ps (r.1, r.2)
        exact copiesOnly_slotReady x.1 p
      · exact .refl r.1
    refine (hr.trans hq).trans ?_
    split
    · exact .refl q.1
    · refine .foldl (fun t k => .ite (.ite (copiesOnly_shareLine t _ k) (.refl t)) ?_) _ q.1
      exact CopiesOnly.trans (.ite (.refl t) (copiesOnly_countBypass t k)) (copiesOnly_touchLine _ k acc h)

theorem copiesOnly_fillXlat (a : CacheAgent) (p va : Nat) (written : List Nat) : CopiesOnly s (s.fillXlat a p va written) := by
  unfold State.fillXlat
  split
  · exact .refl s
  · split
    · exact .refl s
    · split
      · exact .refl s
      · dsimp only
        split
        · exact .refl s
        · exact (CopiesOnly.foldl (fun t k => copiesOnly_shareLine t a k) _ s).trans ⟨_, _, _, _, _, rfl⟩

theorem copiesOnly_fillMy (va : Nat) (written : List Nat) : CopiesOnly s (s.fillMy va written) := .ite (.refl s) (copiesOnly_fillXlat s _ _ _ _)

theorem copiesOnly_replicate (q tile : Nat) (ks : List Nat) : CopiesOnly s (s.replicate q tile ks) := by
  refine .foldl (fun t k => ?_) ks s
  split
  · exact .refl t
  · exact .ite (.refl t) (copiesOnly_shareLine t _ k)

theorem copiesOnly_fillRev (tag : Nat) : CopiesOnly s (s.fillRev tag) := by
  unfold State.fillRev
  split
  · exact .refl s
  · dsimp only
    split
    · exact .refl s
    · exact (copiesOnly_shareLine s _ _).trans ⟨_, _, _, _, _, rfl⟩

end

theorem copiesOnly_tagTurn {s t : State} {tag : Nat} (h : s.tagTurn tag = .ok t) : CopiesOnly s t := by
  unfold State.tagTurn at h
  split at h
  · split at h
    · obtain rfl := Except.ok.inj h
      exact copiesOnly_supply s _
    · exact absurd h (by simp)
  · obtain rfl := Except.ok.inj h
    exact .refl s

end Sys2Proof.Machine
end

section
/-! SUPPORT. An access that is performed leaves every core as it was (R180, R377, R385). -/

namespace Sys2Proof.Machine

/-- The instruction in hand and every core are as before. -/
structure KeepsCores (s t : State) : Prop where
  hand  : t.hand = s.hand
  cores : t.cores = s.cores

namespace KeepsCores

theorem refl (s : State) : KeepsCores s s := ⟨rfl, rfl⟩

theorem trans {s t u : State} (h : KeepsCores s t) (h' : KeepsCores t u) : KeepsCores s u := ⟨h'.hand.trans h.hand, h'.cores.trans h.cores⟩

theorem of_copiesOnly {s t : State} (h : CopiesOnly s t) : KeepsCores s t := by
  obtain ⟨_, _, _, _, _, rfl⟩ := h
  exact ⟨rfl, rfl⟩

theorem foldl {α : Type} {f : State → α → State} (h : ∀ s x, KeepsCores s (f s x)) (xs : List α) (s : State) : KeepsCores s (xs.foldl f s) := by
  induction xs generalizing s with
  | nil => exact .refl s
  | cons x xs ih => exact (h s x).trans (ih _)

theorem slot {s t : State} (h : KeepsCores s t) (m : BitVec 2) : t.slot m = s.slot m := by
  rw [State.slot, State.slot, State.me, State.me, State.coreAt, State.coreAt, h.hand, h.cores]

end KeepsCores

theorem keepsCores_setPhys (s : State) (dev : Nat) (m : Phys) : KeepsCores s (s.setPhys dev m) := by
  unfold State.setPhys
  split <;> exact ⟨rfl, rfl⟩

theorem keepsCores_setPool (s : State) (x : Space) (m : SMap (List Nat)) : KeepsCores s (s.setPool x m) := by
  unfold State.setPool
  split <;> exact ⟨rfl, rfl⟩

/-- A page that is placed takes a frame and stores entries (R385, R386). -/
theorem keepsCores_place {s t : State} {a : CacheAgent} {x : Space} {info : Word} {lvl pa e v : Nat} (h : s.place a x info lvl pa e = .ok (t, v)) :
    KeepsCores s t := by
  unfold State.place at h
  dsimp only at h
  generalize 2 ^ (if lvl = 1 then pteSize e - 9 else pteSize e) = n at h
  generalize pa / (8 * n) * (8 * n) = first at h
  generalize s.readAt ⟨x.dev, first⟩ 8 = e0 at h
  generalize (if x.dev = 0 then unitsOf 128 first (8 * n) else []) = ks at h
  split at h
  · nomatch h
  split at h
  · nomatch h
  split at h
  · obtain ⟨rfl, -⟩ := Prod.mk.inj (Except.ok.inj h)
    exact .refl s
  split at h
  · split at h <;> nomatch h
  split at h
  · nomatch h
  obtain ⟨rfl, -⟩ := Prod.mk.inj (Except.ok.inj h)
  refine .trans ?_ (KeepsCores.foldl (fun t i => keepsCores_setPhys t x.dev _) _ _)
  refine .trans ?_ (KeepsCores.foldl (fun t k => KeepsCores.of_copiesOnly
    (((copiesOnly_recall t k).trans (copiesOnly_homeStore _ none none k)).trans (copiesOnly_sliceDirty _ k))) _ _)
  have hask : KeepsCores s (if agentWaits a then s.askHomes none none ks else (s, none)).1 := by
    split
    · exact .of_copiesOnly (copiesOnly_askHomes s none none ks)
    · exact .refl s
  refine .trans hask ?_
  generalize (if agentWaits a then s.askHomes none none ks else (s, none)).1 = u
  split
  · exact (keepsCores_setPool u x _).trans ⟨rfl, rfl⟩
  · exact keepsCores_setPool u x _

theorem keepsCores_translateIn {s t : State} {a : CacheAgent} {x : Space} {va : Nat} {acc : Acc} {l : Loc}
    (h : s.translateIn a x va acc = .ok (t, l)) : KeepsCores s t := by
  unfold State.translateIn at h
  dsimp only at h
  split at h
  · nomatch h
  rename_i lvl pa e _
  split at h
  · nomatch h
  rename_i u v hfound
  have hu : KeepsCores s u := by
    split at hfound
    · nomatch hfound
    split at hfound
    · exact keepsCores_place hfound
    · obtain ⟨rfl, -⟩ := Prod.mk.inj (Except.ok.inj hfound)
      exact .refl s
  split at h
  · nomatch h
  split at h
  · nomatch h
  split at h
  · nomatch h
  split at h
  · nomatch h
  · obtain ⟨rfl, -⟩ := Prod.mk.inj (Except.ok.inj h)
    exact hu

theorem keepsCores_translate {s t : State} {a : CacheAgent} {p va : Nat} {acc : Acc} {l : Loc} (h : s.translate a p va acc = .ok (t, l)) :
    KeepsCores s t := by
  unfold State.translate at h
  dsimp only at h
  split at h
  · nomatch h
  split at h
  · split at h
    · nomatch h
    · exact keepsCores_translateIn h
  split at h
  · nomatch h
  split at h
  · nomatch h
  · exact keepsCores_translateIn h

theorem keepsCores_translateMy {s t : State} {va : Nat} {acc : Acc} {l : Loc} (h : s.translateMy va acc = .ok (t, l)) : KeepsCores s t := by
  unfold State.translateMy at h
  split at h
  · split at h
    · nomatch h
    split at h
    · obtain ⟨rfl, -⟩ := Prod.mk.inj (Except.ok.inj h)
      exact .refl s
    · nomatch h
  · exact keepsCores_translate h

theorem keepsCores_niPart {s t : State} {va len : Nat} {acc : Acc} {p : Part} (h : s.niPart va len acc = .ok (t, p)) : KeepsCores s t := by
  unfold State.niPart at h
  split at h
  · nomatch h
  · rename_i u l htr
    split at h
    · nomatch h
    · obtain ⟨rfl, -⟩ := Prod.mk.inj (Except.ok.inj h)
      exact keepsCores_translateMy htr

theorem keepsCores_niParts {s t : State} {va n : Nat} {acc : Acc} {ps : List Part} (h : s.niParts va n acc = .ok (t, ps)) : KeepsCores s t := by
  unfold State.niParts at h
  dsimp only at h
  split at h
  · nomatch h
  rename_i u p hp
  split at h
  · obtain ⟨rfl, -⟩ := Prod.mk.inj (Except.ok.inj h)
    exact keepsCores_niPart hp
  split at h
  · nomatch h
  · rename_i w q hq
    obtain ⟨rfl, -⟩ := Prod.mk.inj (Except.ok.inj h)
    exact (keepsCores_niPart hp).trans (keepsCores_niPart hq)

/-- An access whose checks pass and whose lines are ready (R180, R391). -/
theorem keepsCores_niReach {s t : State} {va : Word} {size align : Nat} {raw : Bool} {acc own : Acc} {h : Hint} {ps : List Part}
    (hok : s.niReach va size align raw acc own h = .ok (t, ps)) : KeepsCores s t := by
  unfold State.niReach at hok
  cases hform : s.lift (s.niForm va size align raw acc) with
  | error x => rw [hform] at hok; nomatch hok
  | ok _ =>
    rw [hform, res_ok_bind] at hok
    dsimp only at hok
    split at hok
    · nomatch hok
    rename_i u qs hparts
    split at hok
    · nomatch hok
    split at hok
    · nomatch hok
    obtain ⟨rfl, -⟩ := Prod.mk.inj (Except.ok.inj hok)
    refine (keepsCores_niParts hparts).trans (KeepsCores.of_copiesOnly ?_)
    exact (((copiesOnly_prepareBut u _ _ own h).trans (copiesOnly_fillMy _ _ _)).trans (copiesOnly_fillMy _ _ _)).trans (copiesOnly_replicate _ _ _ _)

theorem keepsCores_niRead {s t : State} {va : Word} {size align : Nat} {raw : Bool} {h : Hint} {v : Nat}
    (hok : s.niRead va size align raw h = .ok (t, v)) : KeepsCores s t := by
  unfold State.niRead at hok
  cases hacc : s.niAccess va size align raw .read h with
  | error x => rw [hacc] at hok; nomatch hok
  | ok r =>
    rw [hacc] at hok
    obtain ⟨rfl, -⟩ := Prod.mk.inj (Except.ok.inj hok)
    exact keepsCores_niReach hacc

end Sys2Proof.Machine
end

section
/-! PROOF. Mesh slots, rounds and reservations (R17, R229, R230, R232). -/

namespace Sys2Proof.Machine

/-! ### The check of a dereference (R63, R228) -/

section

variable {s i : State} {cap : CapBits} {off n va : Nat} {perm : BitVec 6} {info : Word} (ht : s.tagTurn (capTag cap) = .ok i)
  (hc : i.checkCap cap off n perm info = .ok va)
include ht hc

theorem meshVa_of_checkCap : s.meshVa cap off n perm info = .ok (i.fillRev (capTag cap), va) := by
  unfold State.meshVa
  rw [ht, res_ok_bind, hc]
  rfl

omit hc in
theorem keepsCores_fillRev : KeepsCores s (i.fillRev (capTag cap)) :=
  .of_copiesOnly ((copiesOnly_tagTurn ht).trans (copiesOnly_fillRev i _))

end

/-! ### Binding a slot (R229) -/

section

variable {s : State} (m : BitVec 2) {cap : CapBits} {info : Word} {i : State} {va : Nat} (ht : s.tagTurn (capTag cap) = .ok i)
  (hc : i.checkCap cap 0 256 permREAD info = .ok va)
include ht hc

theorem bindSlot_of_misaligned (hva : va % 64 ≠ 0) :
    finish (s.bindSlot m cap info) = .next ((i.fillRev (capTag cap)).deliver ⟨cALIGN, BitVec.ofNat 64 va, 0⟩ s.hand.pc) := by
  have hk := keepsCores_fillRev ht
  have hne : (va % 64 == 0) = false := by simpa using hva
  unfold State.bindSlot
  rw [meshVa_of_checkCap ht hc, res_ok_bind]
  dsimp only
  rw [hne, ← hk.hand]
  rfl

variable {u w : State} {x y : Nat} (hva : va % 64 = 0)
  (hx : (i.fillRev (capTag cap)).niRead (BitVec.ofNat 64 va) 128 1 false .plain = .ok (u, x))
  (hy : u.niRead (BitVec.ofNat 64 (va + 128)) 128 1 false .plain = .ok (w, y))
include hva hx hy

theorem bindSlot_of_read : s.bindSlot m cap info = (do
    w.need (mcbOk (bytesWrite [] 0 256 (x + y * 256 ^ 128))) cMESHFMT 0 0
    return w.setSlot m ⟨bytesWrite [] 0 256 (x + y * 256 ^ 128), cap⟩) := by
  unfold State.bindSlot
  rw [meshVa_of_checkCap ht hc, res_ok_bind]
  dsimp only
  rw [beq_iff_eq.mpr hva, State.need_true, res_ok_bind, hx, res_ok_bind]
  dsimp only
  rw [hy, res_ok_bind]
  rfl

theorem bindSlot_of_ok (hok : mcbOk (bytesWrite [] 0 256 (x + y * 256 ^ 128)) = true) :
    finish (s.bindSlot m cap info) = .next (w.setSlot m ⟨bytesWrite [] 0 256 (x + y * 256 ^ 128), cap⟩) := by
  rw [bindSlot_of_read m ht hc hva hx hy, hok, State.need_true, res_ok_bind]
  rfl

theorem bindSlot_of_bad (hbad : mcbOk (bytesWrite [] 0 256 (x + y * 256 ^ 128)) = false) :
    finish (s.bindSlot m cap info) = .next (w.deliver ⟨cMESHFMT, 0, 0⟩ s.hand.pc) := by
  have hk := ((keepsCores_fillRev ht).trans (keepsCores_niRead hx)).trans (keepsCores_niRead hy)
  rw [bindSlot_of_read m ht hc hva hx hy, hbad, ← hk.hand]
  rfl

end

/-! ### Mesh work (R17, R228) -/

theorem meshRun_of_none {α : Type} {s : State} {m : BitVec 2} (h : s.slot m = none) (f : MM α) :
    s.meshRun m f = .error (.trap s ⟨cMESHFMT, 0, 0⟩ s.hand.pc) := by
  unfold State.meshRun
  rw [h]
  rfl

/-- Work that is done with a pure answer leaves the state. -/
theorem meshRun_of_pure {α : Type} {s : State} {m : BitVec 2} {x : Slot} (h : s.slot m = some x) {f : MM α} {r : α}
    (hf : f ⟨s, x.mcb, [], [], 0, [], [], []⟩ = .ok (r, ⟨s, x.mcb, [], [], 0, [], [], []⟩)) : s.meshRun m f = .ok (s, r) := by
  unfold State.meshRun
  rw [h]
  show ((f ⟨s, x.mcb, [], [], 0, [], [], []⟩ : Res (α × MW)) >>= _) = _
  rw [hf, res_ok_bind]
  simp

/-- Work that faults, run for a bound slot. -/
theorem meshRun_of_fault {α : Type} {s : State} {m : BitVec 2} {x : Slot} (h : s.slot m = some x) {f : MM α} {e : Stop}
    (hf : f ⟨s, x.mcb, [], [], 0, [], [], []⟩ = .error e) : s.meshRun m f = .error e := by
  unfold State.meshRun
  rw [h]
  show ((f ⟨s, x.mcb, [], [], 0, [], [], []⟩ : Res (α × MW)) >>= _) = _
  rw [hf]
  rfl

/-! ### Reservations (R232) -/

theorem mapM_of_pure {α β : Type} {f : α → MM β} {r : β} {w : MW} : ∀ ks : List α, (∀ k ∈ ks, f k w = .ok (r, w)) →
    (ks.mapM f : MM (List β)) w = .ok (ks.map fun _ => r, w)
  | [], _ => rfl
  | k :: ks, h => by
    rw [List.mapM_cons]
    show ((f k w : Res (β × MW)) >>= _) = _
    rw [h k (.head _), res_ok_bind]
    show (((ks.mapM f : MM (List β)) w : Res (List β × MW)) >>= _) = _
    rw [mapM_of_pure ks fun j hj => h j (.tail _ hj), res_ok_bind]
    rfl

/-- Below a NEXT of 0 there is no generation byte to read. -/
theorem genBytes_of_next_zero {k : Nat} {w : MW} (h : mcbNext w.m k = 0) : genBytes k w = .ok ([], w) := by
  show ((List.range (mcbNext w.m k)).mapM (genByte k) : MM (List Nat)) w = _
  rw [h]
  rfl

theorem reserve_of_bad {cap : CapBits} {n : Nat} {w : MW} (h : mcbRound w.m = 0 ∨ 0xFFFFFF < n) :
    reserve cap n w = .error (.trap w.s ⟨cMESHFMT, 0, 0⟩ w.s.hand.pc) := by
  have hc : (mcbRound w.m != 0 && decide (n ≤ 0xFFFFFF)) = false := by
    rcases h with h | h
    · simp [h]
    · simp [h]
  show ((mmNeed (mcbRound w.m != 0 && decide (n ≤ 0xFFFFFF)) cMESHFMT : MM Unit) w >>= _) = _
  rw [hc]
  rfl

/-- A fresh mesh too small for the reservation: nothing is read and nothing written. -/
theorem reserve_of_small {cap : CapBits} {n : Nat} {w : MW} (hround : mcbRound w.m ≠ 0) (hn : n ≤ 0xFFFFFF)
    (hnext : ∀ k ∈ meshKinds w.m, mcbNext w.m k = 0) (hsmall : ∃ k ∈ meshKinds w.m, mcbCap w.m k < n * quota (mcbDim w.m) k) :
    reserve cap n w = .ok (false, w) := by
  have hc : (mcbRound w.m != 0 && decide (n ≤ 0xFFFFFF)) = true := by simp [hround, hn]
  have hneed : mmNeed true cMESHFMT w = .ok ((), w) := rfl
  have hgs : (meshKinds w.m).mapM genBytes w = .ok ((meshKinds w.m).map fun _ => [], w) :=
    mapM_of_pure (meshKinds w.m) fun k hk => genBytes_of_next_zero (hnext k hk)
  have hempty (k : Nat) : ((meshKinds w.m).map fun _ => ([] : List Nat)).getD k [] = [] := by
    simp only [List.getD_eq_getElem?_getD, List.getElem?_map]
    cases (meshKinds w.m)[k]? <;> rfl
  have hany : ((meshKinds w.m).any fun k => (List.filter (fun g => g % 4 == 0 || g % 4 == 2)
      (((meshKinds w.m).map fun _ => ([] : List Nat)).getD k [])).length + (mcbCap w.m k - mcbNext w.m k) < n * quota (mcbDim w.m) k) = true := by
    obtain ⟨k, hk, hlt⟩ := hsmall
    exact List.any_eq_true.mpr ⟨k, hk, by rw [hempty, hnext k hk]; simpa using hlt⟩
  unfold reserve
  simp only [bind, StateT.bind, mmM, Except.bind, hc, hneed, hgs, hany, if_true]
  rfl

/-! ### The instructions -/

/-- What `bindSlot` does with the control block that it reads (R229). -/
theorem bindSlot_outcomes (s : State) (m : BitVec 2) (cap : CapBits) (info : Word) {i : State} {va : Nat} (ht : s.tagTurn (capTag cap) = .ok i)
    (hc : i.checkCap cap 0 256 1 info = .ok va) :
    (va % 64 ≠ 0 → finish (s.bindSlot m cap info) = .next ((i.fillRev (capTag cap)).deliver ⟨3, BitVec.ofNat 64 va, 0⟩ s.hand.pc)) ∧
      (va % 64 = 0 → ∀ u w x y, (i.fillRev (capTag cap)).niRead (BitVec.ofNat 64 va) 128 1 false .plain = .ok (u, x) →
        u.niRead (BitVec.ofNat 64 (va + 128)) 128 1 false .plain = .ok (w, y) →
        (mcbOk (bytesWrite [] 0 256 (x + y * 256 ^ 128)) = true →
          finish (s.bindSlot m cap info) = .next (w.setSlot m ⟨bytesWrite [] 0 256 (x + y * 256 ^ 128), cap⟩)) ∧
        (mcbOk (bytesWrite [] 0 256 (x + y * 256 ^ 128)) = false →
          finish (s.bindSlot m cap info) = .next (w.deliver ⟨15, 0, 0⟩ s.hand.pc))) :=
  ⟨bindSlot_of_misaligned m ht hc, fun hva _ _ _ _ hx hy => ⟨bindSlot_of_ok m ht hc hva hx hy, bindSlot_of_bad m ht hc hva hx hy⟩⟩

theorem State.slot_setPc (s : State) (pc : Word) (m : BitVec 2) : (s.setPc pc).slot m = s.slot m := by
  rw [State.slot, State.me_setPc]
  rfl

section

variable {s : State} {g : Guard} {m : BitVec 2} (h : s.runs false false g)
include h

theorem exec_mopen_of_runs (a : BitVec 4) : exec (.mopen g m a) s = finish (s.ahead.bindSlot m (s.A a) (a.setWidth 64)) := by
  rw [exec_mopen, execMopen, run_body h, State.A_setPc]
  rfl

theorem exec_mrefresh_of_bound {x : Slot} (hx : s.slot m = some x) : exec (.mrefresh g m) s = finish (s.ahead.bindSlot m x.cap 16) := by
  rw [exec_mrefresh, execMrefresh, run_body h, State.slot_setPc, hx]
  rfl

theorem unbound_traps (hx : s.slot m = none) (d b : BitVec 5) :
    Traps (exec (.mrefresh g m) s) s 15 0 0 s.hand.pc ∧ Traps (exec (.mround g d m) s) s 15 0 0 s.hand.pc ∧
      Traps (exec (.mreserve g d m b) s) s 15 0 0 s.hand.pc := by
  have hx' : s.ahead.slot m = none := (s.slot_setPc _ m).trans hx
  refine ⟨⟨s.ahead, ?_, .inr rfl⟩, ⟨s.ahead, ?_, .inr rfl⟩, ⟨s.ahead, ?_, .inr rfl⟩⟩
  · rw [exec_mrefresh, execMrefresh, run_body h, hx']
    rfl
  · rw [exec_mround, execMround, run_body h, hx']
    rfl
  · rw [exec_mreserve, execMreserve, run_body h, meshRun_of_none hx']
    rfl

theorem mround_of_access {x : Slot} (hx : s.slot m = some x) (d : BitVec 5) {i u : State} {va : Nat} {ps : List Part}
    (ht : s.ahead.tagTurn (capTag x.cap) = .ok i) (hc : i.checkCap x.cap 0 8 permRound 16 = .ok va)
    (hacc : (i.fillRev (capTag x.cap)).niAccess (BitVec.ofNat 64 va) 128 1 true .update .bank = .ok (u, ps)) {w : State}
    (hrun : u.meshRun m (if mcbRound (bytesOf 128 (u.readParts ps)) = 255 then
      mmWriteAll .bank permRound (clearMarkers x.mcb (mcbNext (bytesOf 128 (u.readParts ps)))) else pure ()) = .ok (w, ())) {r : Nat}
    (hr : (if mcbRound (bytesOf 128 (u.readParts ps)) = 255 then 1 else mcbRound (bytesOf 128 (u.readParts ps)) + 1) = r) :
    exec (.mround g d m) s = .next ((((w.updated ps .bank).putByte ps 7 r).setSlot m { x with
      mcb := (meshKinds x.mcb).foldl (fun b k => bytesWrite b (0x3D + 16 * k) 3 (mcbNext (bytesOf 128 (u.readParts ps)) k))
        (bytesWrite x.mcb 7 1 r) }).setS d (BitVec.ofNat 64 r)) := by
  subst hr
  have hx' : s.ahead.slot m = some x := (s.slot_setPc _ m).trans hx
  rw [exec_mround, execMround, run_body h, hx']
  dsimp only
  rw [show s.ahead.meshVa x.cap 0 8 permRound infoMem = _ from meshVa_of_checkCap ht hc, res_ok_bind]
  dsimp only
  rw [hacc, res_ok_bind]
  dsimp only
  rw [hrun, res_ok_bind]
  rfl

omit h in
/-- The slot is still bound when the control block has been read. -/
theorem slot_of_access {x : Slot} (hx : s.slot m = some x) {i u : State} {va : Nat} {ps : List Part}
    (ht : s.ahead.tagTurn (capTag x.cap) = .ok i)
    (hacc : (i.fillRev (capTag x.cap)).niAccess (BitVec.ofNat 64 va) 128 1 true .update .bank = .ok (u, ps)) : u.slot m = some x :=
  (((keepsCores_fillRev ht).trans (keepsCores_niReach hacc)).slot m).trans ((s.slot_setPc _ m).trans hx)

theorem exec_mreserve_of_bound {x : Slot} (hx : s.slot m = some x) (d b : BitVec 5) :
    exec (.mreserve g d m b) s = finish (do
      let (u, ok) ← s.ahead.meshRun m (reserve x.cap (s.S b).toNat)
      return u.setS d (if ok then 1 else 0)) := by
  rw [exec_mreserve, execMreserve, run_body h, State.slot_setPc, hx, State.S_setPc]
  rfl

theorem mreserve_of_run {x : Slot} (hx : s.slot m = some x) (d b : BitVec 5) {u : State} {ok : Bool}
    (hrun : s.ahead.meshRun m (reserve x.cap (s.S b).toNat) = .ok (u, ok)) :
    exec (.mreserve g d m b) s = .next (u.setS d (if ok then 1 else 0)) := by
  rw [exec_mreserve_of_bound h hx, hrun]
  rfl

theorem mreserve_of_bad {x : Slot} (hx : s.slot m = some x) (d b : BitVec 5) (hbad : mcbRound x.mcb = 0 ∨ 0xFFFFFF < (s.S b).toNat) :
    Traps (exec (.mreserve g d m b) s) s 15 0 0 s.hand.pc := by
  refine ⟨s.ahead, ?_, .inr rfl⟩
  rw [exec_mreserve_of_bound h hx, meshRun_of_fault ((s.slot_setPc _ m).trans hx) (reserve_of_bad hbad)]
  rfl

theorem mreserve_of_small {x : Slot} (hx : s.slot m = some x) (d b : BitVec 5) (hround : mcbRound x.mcb ≠ 0) (hn : (s.S b).toNat ≤ 0xFFFFFF)
    (hnext : ∀ k ∈ meshKinds x.mcb, mcbNext x.mcb k = 0)
    (hsmall : ∃ k ∈ meshKinds x.mcb, mcbCap x.mcb k < (s.S b).toNat * quota (mcbDim x.mcb) k) :
    WritesS (exec (.mreserve g d m b) s) s d 0 0 := by
  have hrun : s.ahead.meshRun m (reserve x.cap (s.S b).toNat) = .ok (s.ahead, false) :=
    meshRun_of_pure ((s.slot_setPc _ m).trans hx) (reserve_of_small hround hn hnext hsmall)
  exact ⟨s.ahead.setS d 0, mreserve_of_run h hx d b hrun, by simp, by simp, by simp, (RegFrame.pc s s.nextPc).setS d 0⟩

end

/-- Settles O35: each instruction by its own lemma; that the slot is still bound after the reads is `KeepsCores.slot`. -/
theorem meshSlotsAndRounds : Obligations.MeshSlotsAndRounds := by
  intro s g m a d b h
  refine ⟨fun i va ht hc => ?_, fun hx => unbound_traps h hx d b, fun x hx => ⟨fun i va ht hc => ?_, fun i va u ps ht hc hacc w r hcase => ?_,
    mreserve_of_bad h hx d b, mreserve_of_small h hx d b, fun u ok => mreserve_of_run h hx d b⟩⟩
  · rw [exec_mopen_of_runs h]
    exact bindSlot_outcomes s.ahead m (s.A a) _ ht hc
  · rw [exec_mrefresh_of_bound h hx]
    exact bindSlot_outcomes s.ahead m x.cap 16 ht hc
  · refine ⟨_, ?_, rfl⟩
    rcases hcase with ⟨hold, rfl, rfl⟩ | ⟨hold, hrun, rfl⟩
    · have hold' : mcbRound (bytesOf 128 (w.readParts ps)) ≠ 255 := hold
      exact mround_of_access h hx d ht hc hacc (by rw [if_neg hold']; exact meshRun_of_pure (slot_of_access hx ht hacc) rfl) (if_neg hold')
    · have hold' : mcbRound (bytesOf 128 (u.readParts ps)) = 255 := hold
      exact mround_of_access h hx d ht hc hacc (by rw [if_pos hold']; exact hrun) (if_pos hold')

end Sys2Proof.Machine
end

section
/-! SUPPORT. The finite numbers of a format in their order, and the rounding of a positive rational to one of its two neighbours
(R31, R40). -/

namespace Sys2Proof.Machine

/-! ### The numbers of a format in order -/

/-- The number that magnitude `b` stands for; past the bits of ∞ the steps go on as if the format had larger exponents, as R40 rounds before it
looks for overflow. -/
def Fmt.ladder (f : Fmt) (b : Nat) : Rat :=
  if b < 2 ^ f.fw then b * (2 : Rat) ^ (1 - (f.bias : Int) - f.fw)
  else (2 ^ f.fw + b % 2 ^ f.fw : Nat) * (2 : Rat) ^ (((b / 2 ^ f.fw : Nat) : Int) - f.bias - f.fw)

/-- The step between the numbers of block `k`: the subnormals and the first binade are block 0. -/
def Fmt.ulp (f : Fmt) (k : Nat) : Rat := (2 : Rat) ^ ((k : Int) + 1 - f.bias - f.fw)

theorem Fmt.ulp_pos (f : Fmt) (k : Nat) : 0 < f.ulp k := zpow_pos two_pos _

theorem Fmt.ulp_succ (f : Fmt) (k : Nat) : f.ulp (k + 1) = 2 * f.ulp k := by
  have hexp : ((k + 1 : Nat) : Int) + 1 - f.bias - f.fw = ((k : Int) + 1 - f.bias - f.fw) + 1 := by push_cast; ring
  unfold Fmt.ulp
  rw [hexp, zpow_add_one₀ two_ne_zero, mul_comm]

theorem Fmt.ladder_of_subnormal (f : Fmt) {b : Nat} (h : b < 2 ^ f.fw) : f.ladder b = b * f.ulp 0 := by
  simp [Fmt.ladder, Fmt.ulp, h]

theorem Fmt.ladder_of_normal (f : Fmt) (k : Nat) {r : Nat} (h : r < 2 ^ f.fw) :
    f.ladder ((k + 1) * 2 ^ f.fw + r) = (2 ^ f.fw + r : Nat) * f.ulp k := by
  have hpos : 0 < 2 ^ f.fw := Nat.two_pow_pos _
  have hdiv : ((k + 1) * 2 ^ f.fw + r) / 2 ^ f.fw = k + 1 := by
    rw [Nat.mul_comm, Nat.mul_add_div hpos, Nat.div_eq_of_lt h, Nat.add_zero]
  have hmod : ((k + 1) * 2 ^ f.fw + r) % 2 ^ f.fw = r := by rw [Nat.mul_add_mod', Nat.mod_eq_of_lt h]
  have hlarge : ¬(k + 1) * 2 ^ f.fw + r < 2 ^ f.fw := by nlinarith
  rw [Fmt.ladder, if_neg hlarge, hdiv, hmod]
  simp [Fmt.ulp]

/-- Within a block, ends included, a number is its significand times the step. -/
theorem Fmt.ladder_block (f : Fmt) {k m : Nat} (hm : m ≤ 2 ^ (f.fw + 1)) (hk : k = 0 ∨ 2 ^ f.fw ≤ m) :
    f.ladder (k * 2 ^ f.fw + m) = m * f.ulp k := by
  rw [pow_succ] at hm
  rcases Nat.lt_or_ge m (2 ^ f.fw) with hsmall | hlarge
  · obtain rfl : k = 0 := by omega
    simpa using f.ladder_of_subnormal hsmall
  · obtain ⟨r, rfl⟩ := Nat.exists_eq_add_of_le hlarge
    rcases Nat.lt_or_ge r (2 ^ f.fw) with hr | hr
    · rw [← f.ladder_of_normal k hr]
      congr 1
      ring
    · obtain rfl : r = 2 ^ f.fw := by omega
      have h := f.ladder_of_normal (k + 1) (Nat.two_pow_pos f.fw)
      rw [f.ulp_succ] at h
      calc f.ladder (k * 2 ^ f.fw + (2 ^ f.fw + 2 ^ f.fw)) = f.ladder ((k + 1 + 1) * 2 ^ f.fw + 0) := by congr 1; ring
        _ = ((2 ^ f.fw + 2 ^ f.fw : Nat) : Rat) * f.ulp k := by rw [h]; push_cast; ring

/-- Every magnitude lies in a block, below its upper end. -/
theorem Fmt.exists_block (f : Fmt) (b : Nat) : ∃ k m, b = k * 2 ^ f.fw + m ∧ m < 2 ^ (f.fw + 1) ∧ (k = 0 ∨ 2 ^ f.fw ≤ m) := by
  have hdecomp := Nat.div_add_mod' b (2 ^ f.fw)
  have hr := Nat.mod_lt b (Nat.two_pow_pos f.fw)
  rw [pow_succ]
  cases hq : b / 2 ^ f.fw with
  | zero => exact ⟨0, b, by simp, by rw [hq] at hdecomp; omega, .inl rfl⟩
  | succ k =>
    rw [hq, Nat.succ_mul] at hdecomp
    exact ⟨k, 2 ^ f.fw + b % 2 ^ f.fw, by omega, by omega, .inr (by omega)⟩

theorem Fmt.ladder_strictMono (f : Fmt) : StrictMono f.ladder := by
  refine strictMono_nat_of_lt_succ fun b => ?_
  obtain ⟨k, m, rfl, hm, hk⟩ := f.exists_block b
  rw [Nat.add_assoc, f.ladder_block hm.le hk, f.ladder_block hm (hk.imp_right (by omega))]
  have hstep := f.ulp_pos k
  push_cast
  linarith

theorem Fmt.inf_lt_sign (f : Fmt) : f.inf < f.sign := by
  have hfw := Nat.two_pow_pos f.fw
  have hew := Nat.two_pow_pos f.ew
  rw [Fmt.inf, Fmt.sign, pow_add]
  exact Nat.mul_lt_mul_of_pos_right (by omega) hfw

/-- Below the bits of ∞, a magnitude has the value of R31. -/
theorem Fmt.unpack_value (f : Fmt) {b : Nat} (h : b < f.inf) : (unpack f b).value = f.ladder b := by
  have hfw := Nat.two_pow_pos f.fw
  have hdiv : b / 2 ^ f.fw < 2 ^ f.ew - 1 := (Nat.div_lt_iff_lt_mul hfw).2 h
  have hmod : b / 2 ^ f.fw % 2 ^ f.ew = b / 2 ^ f.fw := Nat.mod_eq_of_lt (hdiv.trans_le (Nat.sub_le _ _))
  have hsign : b / f.sign = 0 := Nat.div_eq_of_lt (h.trans f.inf_lt_sign)
  unfold unpack Fmt.ladder
  simp only [hmod, hsign, hdiv.ne, Nat.div_eq_zero_iff_lt hfw, if_false]
  split_ifs with hsub
  · simp [FVal.value, Nat.mod_eq_of_lt hsub]
  · simp [FVal.value]

/-! ### Quotients rounded to integers -/

/-- Whether R40 rounds a magnitude `y` up to the next integer: to nearest, ties to even; towards zero; down; up. -/
def RoundsUp (mode : BitVec 2) (neg : Bool) (y : Rat) : Prop :=
  (⌊y⌋₊ : Rat) ≠ y ∧
    match mode.toNat with
    | 0 => 1 < 2 * (y - ⌊y⌋₊) ∨ (2 * (y - ⌊y⌋₊) = 1 ∧ ⌊y⌋₊ % 2 = 1)
    | 1 => False
    | 2 => neg = true
    | _ => neg = false

/-- A remainder compares with its divisor as the fraction left by the floor compares with 1. -/
theorem roundsUp_iff (mode : BitVec 2) (neg : Bool) (n : Nat) {d : Nat} (hd : 0 < d) :
    roundsUp mode neg (n / d % 2 == 1) (n % d) d = true ↔ RoundsUp mode neg ((n : Rat) / d) := by
  have hd' : (0 : Rat) < d := by exact_mod_cast hd
  have hfrac : (n : Rat) / d - (n / d : Nat) = (n % d : Nat) / d := by
    have h : (n : Rat) = d * (n / d : Nat) + (n % d : Nat) := by exact_mod_cast (Nat.div_add_mod n d).symm
    field_simp
    linarith
  have hexact : ((n / d : Nat) : Rat) ≠ (n : Rat) / d ↔ n % d ≠ 0 := by
    rw [ne_comm, ← sub_ne_zero, hfrac]
    simp [hd.ne']
  have hmore : 1 < 2 * (((n % d : Nat) : Rat) / d) ↔ d < 2 * (n % d) := by
    rw [mul_div_assoc', one_lt_div hd']
    exact_mod_cast Iff.rfl
  have htie : 2 * (((n % d : Nat) : Rat) / d) = 1 ↔ d = 2 * (n % d) := by
    rw [mul_div_assoc', div_eq_one_iff_eq hd'.ne', eq_comm]
    exact_mod_cast Iff.rfl
  unfold roundsUp RoundsUp
  rw [Nat.floor_div_eq_div, hexact, hfrac, hmore, htie, Bool.and_eq_true, bne_iff_ne]
  refine and_congr_right fun _ => ?_
  generalize mode.toNat = t
  rcases t with _ | _ | _ | t <;> simp

/-- `quantize` rounds num/den in units of 2^q to one of the two integers beside it. -/
theorem quantize_cases (mode : BitVec 2) (neg : Bool) (num : Nat) {den : Nat} (hden : 0 < den) (q : Int) {y : Rat}
    (hy : y = (num : Rat) / den / 2 ^ q) :
    ((quantize mode neg num den q).2 = true ↔ (⌊y⌋₊ : Rat) ≠ y) ∧
      (RoundsUp mode neg y ∧ (quantize mode neg num den q).1 = ⌊y⌋₊ + 1 ∨ ¬RoundsUp mode neg y ∧ (quantize mode neg num den q).1 = ⌊y⌋₊) := by
  obtain ⟨n, d, hd, rfl, hq⟩ : ∃ n d : Nat, 0 < d ∧ y = (n : Rat) / d ∧ quantize mode neg num den q =
      (if roundsUp mode neg (n / d % 2 == 1) (n % d) d then n / d + 1 else n / d, n % d != 0) := by
    rcases le_or_gt 0 q with h | h
    · refine ⟨num, den * 2 ^ q.toNat, by positivity, ?_, by simp [quantize, h]⟩
      rw [hy, div_div]
      push_cast
      rw [← zpow_natCast, Int.toNat_of_nonneg h]
    · refine ⟨num * 2 ^ (-q).toNat, den, hden, ?_, by simp [quantize, h.not_ge]⟩
      rw [hy, div_right_comm]
      push_cast
      rw [← zpow_natCast, Int.toNat_of_nonneg (by omega), zpow_neg, ← div_eq_mul_inv]
  have hup := roundsUp_iff mode neg n hd
  have hinexact : (n % d != 0) = true ↔ ((n / d : Nat) : Rat) ≠ (n : Rat) / d := by
    have hdecomp := Nat.div_add_mod' n d
    rw [bne_iff_ne, ne_eq, ne_eq, not_iff_not, eq_div_iff (by exact_mod_cast hd.ne'), ← Nat.cast_mul, Nat.cast_inj]
    omega
  rw [hq, Nat.floor_div_eq_div]
  refine ⟨hinexact, ?_⟩
  rw [← hup]
  split_ifs with h
  · exact .inl ⟨h, rfl⟩
  · exact .inr ⟨h, rfl⟩

/-! ### The block in which a rational is rounded -/

theorem ilog2_spec {num den : Nat} (hnum : 0 < num) (hden : 0 < den) :
    (2 : Rat) ^ ilog2 num den ≤ (num : Rat) / den ∧ (num : Rat) / den < 2 ^ (ilog2 num den + 1) := by
  have hd : (0 : Rat) < den := by exact_mod_cast hden
  have two : (2 : Rat) ≠ 0 := two_ne_zero
  have hnum1 : (2 : Rat) ^ (Nat.log2 num : Int) ≤ num := by exact_mod_cast Nat.log2_self_le hnum.ne'
  have hnum2 : (num : Rat) < 2 ^ ((Nat.log2 num : Int) + 1) := by exact_mod_cast Nat.lt_log2_self
  have hden1 : (2 : Rat) ^ (Nat.log2 den : Int) ≤ den := by exact_mod_cast Nat.log2_self_le hden.ne'
  have hden2 : (den : Rat) < 2 ^ ((Nat.log2 den : Int) + 1) := by exact_mod_cast Nat.lt_log2_self
  generalize he : (Nat.log2 num : Int) - Nat.log2 den = e
  have hlow : (2 : Rat) ^ (e - 1) ≤ num / den := by
    rw [le_div_iff₀ hd]
    calc (2 : Rat) ^ (e - 1) * den ≤ 2 ^ (e - 1) * 2 ^ ((Nat.log2 den : Int) + 1) := by gcongr
      _ = 2 ^ (Nat.log2 num : Int) := by rw [← zpow_add₀ two]; congr 1; omega
      _ ≤ num := hnum1
  have hhigh : (num : Rat) / den < 2 ^ (e + 1) := by
    rw [div_lt_iff₀ hd]
    calc (num : Rat) < 2 ^ ((Nat.log2 num : Int) + 1) := hnum2
      _ = 2 ^ (e + 1) * 2 ^ (Nat.log2 den : Int) := by rw [← zpow_add₀ two]; congr 1; omega
      _ ≤ 2 ^ (e + 1) * den := by gcongr
  have hscale {a : Int} (h : 0 ≤ a) : (2 : Rat) ^ a = (2 ^ a.toNat : Nat) := by
    push_cast
    rw [← zpow_natCast, Int.toNat_of_nonneg h]
  have htest : (if 0 ≤ e then den * 2 ^ e.toNat ≤ num else den ≤ num * 2 ^ (-e).toNat) ↔ (2 : Rat) ^ e ≤ num / den := by
    rw [le_div_iff₀ hd]
    split_ifs with h0
    · rw [hscale h0, mul_comm]
      exact_mod_cast Iff.rfl
    · rw [← neg_neg e, zpow_neg, inv_mul_le_iff₀ (by positivity), hscale (by omega), neg_neg, mul_comm]
      exact_mod_cast Iff.rfl
  have hilog : ilog2 num den = if (2 : Rat) ^ e ≤ num / den then e else e - 1 := by
    simp only [ilog2, he, ← htest]
    split_ifs <;> rfl
  rw [hilog]
  split_ifs with h
  · exact ⟨h, hhigh⟩
  · exact ⟨hlow, by rw [sub_add_cancel]; exact not_le.1 h⟩

/-- The block whose step R40 rounds num/den to. -/
def blockOf (f : Fmt) (num den : Nat) : Nat := (max (ilog2 num den) (1 - (f.bias : Int)) + f.bias - 1).toNat

/-- What `quantize` makes of num/den in that step. -/
def signifOf (f : Fmt) (mode : BitVec 2) (neg : Bool) (num den : Nat) : Nat :=
  (quantize mode neg num den ((blockOf f num den : Int) + 1 - f.bias - f.fw)).1

/-- The magnitude bits that it gives, before overflow is looked for. -/
def magOf (f : Fmt) (mode : BitVec 2) (neg : Bool) (num den : Nat) : Nat := blockOf f num den * 2 ^ f.fw + signifOf f mode neg num den

theorem roundRat_exponent (f : Fmt) (num den : Nat) :
    (if ilog2 num den < 1 - (f.bias : Int) then 1 - (f.bias : Int) else ilog2 num den) - f.fw = (blockOf f num den : Int) + 1 - f.bias - f.fw := by
  unfold blockOf
  split_ifs <;> omega

section
variable (f : Fmt) (neg : Bool) {num den : Nat}

section
variable (hnum : num ≠ 0)
include hnum

theorem roundRat_of_lt_inf (mode : BitVec 2) (h : magOf f mode neg num den < f.inf) :
    (roundRat f mode neg num den).1 = (if neg then f.sign else 0) + magOf f mode neg num den := by
  have hblock : ((blockOf f num den : Int) + 1 - f.bias - f.fw + f.fw + f.bias).toNat - 1 = blockOf f num den := by omega
  unfold magOf signifOf at *
  simp only [roundRat, if_neg hnum, roundRat_exponent, hblock, if_neg h.not_ge]

/-- Overflow to nearest gives ∞, with OF and NX. -/
theorem roundRat_nearest_of_inf_le (h : f.inf ≤ magOf f 0 neg num den) :
    roundRat f 0 neg num den = ((if neg then f.sign else 0) + f.inf, fOF ||| fNX) := by
  have hblock : ((blockOf f num den : Int) + 1 - f.bias - f.fw + f.fw + f.bias).toNat - 1 = blockOf f num den := by omega
  unfold magOf signifOf at *
  simp only [roundRat, if_neg hnum, roundRat_exponent, hblock, if_pos h]
  rfl

/-- Overflow towards zero gives the largest number. -/
theorem roundRat_towardsZero_of_inf_le (h : f.inf ≤ magOf f 1 neg num den) :
    (roundRat f 1 neg num den).1 = (if neg then f.sign else 0) + f.max := by
  have hblock : ((blockOf f num den : Int) + 1 - f.bias - f.fw + f.fw + f.bias).toNat - 1 = blockOf f num den := by omega
  unfold magOf signifOf at *
  simp only [roundRat, if_neg hnum, roundRat_exponent, hblock, if_pos h]
  rfl

end

/-! ### The two neighbours of a positive rational -/

/-- The magnitude below num/den, or at it. -/
def lowerOf (f : Fmt) (num den : Nat) : Nat := blockOf f num den * 2 ^ f.fw + ⌊(num : Rat) / den / f.ulp (blockOf f num den)⌋₊

theorem ulp_blockOf : f.ulp (blockOf f num den) = (2 : Rat) ^ (max (ilog2 num den) (1 - (f.bias : Int)) - f.fw) := by
  unfold Fmt.ulp blockOf
  congr 1
  omega

section
variable (hnum : 0 < num) (hden : 0 < den)
include hden

/-- Round takes the lower neighbour, or the next one when its mode rounds up. -/
theorem magOf_cases (mode : BitVec 2) :
    let y := (num : Rat) / den / f.ulp (blockOf f num den)
    RoundsUp mode neg y ∧ magOf f mode neg num den = lowerOf f num den + 1 ∨ ¬RoundsUp mode neg y ∧ magOf f mode neg num den = lowerOf f num den := by
  refine (quantize_cases mode neg num hden _ rfl).2.imp (fun ⟨hup, h⟩ => ⟨hup, ?_⟩) fun ⟨hup, h⟩ => ⟨hup, ?_⟩
  · rw [magOf, signifOf, h]; rfl
  · rw [magOf, signifOf, h]; rfl

theorem magOf_towardsZero : magOf f 1 neg num den = lowerOf f num den := by
  obtain ⟨⟨_, hup⟩, _⟩ | ⟨_, h⟩ := magOf_cases f neg hden 1
  · exact hup.elim
  · exact h

include hnum

/-- The significand has the bits of the format, and only in block 0 fewer. -/
theorem significand_bounds :
    (num : Rat) / den / f.ulp (blockOf f num den) < 2 ^ (f.fw + 1) ∧
      (blockOf f num den = 0 ∨ (2 : Rat) ^ f.fw ≤ (num : Rat) / den / f.ulp (blockOf f num den)) := by
  obtain ⟨hlow, hhigh⟩ := ilog2_spec hnum hden
  have hulp := f.ulp_pos (blockOf f num den)
  have two : (2 : Rat) ≠ 0 := two_ne_zero
  rw [div_lt_iff₀ hulp, le_div_iff₀ hulp, ulp_blockOf, ← zpow_natCast, ← zpow_natCast, ← zpow_add₀ two, ← zpow_add₀ two]
  refine ⟨hhigh.trans_le (zpow_le_zpow_right₀ one_le_two (by push_cast; omega)), ?_⟩
  by_cases hzero : blockOf f num den = 0
  · exact .inl hzero
  · refine .inr ((zpow_le_zpow_right₀ one_le_two ?_).trans hlow)
    unfold blockOf at hzero
    omega

theorem ladder_lowerOf :
    f.ladder (lowerOf f num den) = ⌊(num : Rat) / den / f.ulp (blockOf f num den)⌋₊ * f.ulp (blockOf f num den) ∧
      f.ladder (lowerOf f num den + 1) = f.ladder (lowerOf f num den) + f.ulp (blockOf f num den) := by
  obtain ⟨hhigh, hlow⟩ := significand_bounds f hnum hden
  have hm : ⌊(num : Rat) / den / f.ulp (blockOf f num den)⌋₊ < 2 ^ (f.fw + 1) := by
    rw [Nat.floor_lt' (by positivity)]
    exact_mod_cast hhigh
  have hk : blockOf f num den = 0 ∨ 2 ^ f.fw ≤ ⌊(num : Rat) / den / f.ulp (blockOf f num den)⌋₊ :=
    hlow.imp_right fun h => Nat.le_floor (by exact_mod_cast h)
  unfold lowerOf
  rw [f.ladder_block hm.le hk, Nat.add_assoc, f.ladder_block hm (hk.imp_right (by omega))]
  refine ⟨rfl, ?_⟩
  push_cast
  ring

theorem ladder_lowerOf_le : f.ladder (lowerOf f num den) ≤ (num : Rat) / den := by
  rw [(ladder_lowerOf f hnum hden).1, ← le_div_iff₀ (f.ulp_pos _)]
  exact Nat.floor_le (by have := f.ulp_pos (blockOf f num den); positivity)

theorem lt_ladder_lowerOf_succ : (num : Rat) / den < f.ladder (lowerOf f num den + 1) := by
  obtain ⟨hat, hnext⟩ := ladder_lowerOf f hnum hden
  rw [hnext, hat, ← add_one_mul, ← div_lt_iff₀ (f.ulp_pos _)]
  exact Nat.lt_floor_add_one _

/-- To nearest, the neighbour that Round takes is no farther than the other. -/
theorem magOf_nearest_cases :
    let x := (num : Rat) / den
    let lo := lowerOf f num den
    (magOf f 0 neg num den = lo + 1 ∧ f.ladder lo < x ∧ f.ladder (lo + 1) - x ≤ x - f.ladder lo) ∨
      magOf f 0 neg num den = lo ∧ x - f.ladder lo ≤ f.ladder (lo + 1) - x := by
  obtain ⟨hat, hnext⟩ := ladder_lowerOf f hnum hden
  have hulp := f.ulp_pos (blockOf f num den)
  have hx : (num : Rat) / den = (num : Rat) / den / f.ulp (blockOf f num den) * f.ulp (blockOf f num den) := by
    rw [div_mul_cancel₀ _ hulp.ne']
  have hcases := magOf_cases f neg (num := num) hden 0
  dsimp only at hcases ⊢
  rw [hnext, hat]
  have hpos : (0 : Rat) ≤ (num : Rat) / den / f.ulp (blockOf f num den) := by positivity
  generalize f.ulp (blockOf f num den) = u at *
  generalize (num : Rat) / den / u = y at *
  rw [hx]
  obtain ⟨⟨hne, hup⟩, h⟩ | ⟨hup, h⟩ := hcases
  · refine .inl ⟨h, ?_, ?_⟩
    · have hfloor : (⌊y⌋₊ : Rat) < y := lt_of_le_of_ne (Nat.floor_le hpos) hne
      gcongr
    · have hhalf : 1 ≤ 2 * (y - ⌊y⌋₊) := hup.elim le_of_lt fun h => h.1.ge
      nlinarith
  · refine .inr ⟨h, ?_⟩
    have hhalf : 2 * (y - ⌊y⌋₊) ≤ 1 := by
      by_contra hmore
      refine hup ⟨fun he => ?_, .inl (not_le.1 hmore)⟩
      rw [he] at hmore
      norm_num at hmore
    nlinarith

/-- To nearest, no number of the ladder is nearer. -/
theorem magOf_nearest (c : Nat) : |(num : Rat) / den - f.ladder (magOf f 0 neg num den)| ≤ |(num : Rat) / den - f.ladder c| := by
  have hlow := ladder_lowerOf_le f hnum hden
  have hhigh := lt_ladder_lowerOf_succ f hnum hden
  have hbeside : (num : Rat) / den - f.ladder (lowerOf f num den) ≤ |(num : Rat) / den - f.ladder c| ∨
      f.ladder (lowerOf f num den + 1) - (num : Rat) / den ≤ |(num : Rat) / den - f.ladder c| := by
    rcases Nat.lt_or_ge (lowerOf f num den) c with hc | hc
    · have := f.ladder_strictMono.monotone (Nat.succ_le_of_lt hc)
      exact .inr (le_abs.2 (.inr (by linarith)))
    · have := f.ladder_strictMono.monotone hc
      exact .inl (le_abs.2 (.inl (by linarith)))
  obtain ⟨h, _, hnear⟩ | ⟨h, hnear⟩ := magOf_nearest_cases f neg hnum hden
  · rw [h, abs_of_neg (by linarith)]
    rcases hbeside with hb | hb <;> linarith
  · rw [h, abs_of_nonneg (by linarith)]
    rcases hbeside with hb | hb <;> linarith

end
end

end Sys2Proof.Machine
end

section
/-! PROOF. Rounding towards zero and to nearest gives the neighbouring number of the format (R40). -/

namespace Sys2Proof.Machine

theorem towardsZero_neighbour (f : Fmt) (hinf : 0 < f.inf) (neg : Bool) {num den : Nat} (hnum : 0 < num) (hden : 0 < den) :
    ∃ b ≤ f.max, (roundRat f 1 neg num den).1 = (if neg then f.sign else 0) + b ∧ (unpack f b).value ≤ (num : Rat) / den ∧
      (b < f.max → (num : Rat) / den < (unpack f (b + 1)).value) := by
  have hmag := magOf_towardsZero f neg (num := num) hden
  have hlow := ladder_lowerOf_le f hnum hden
  have hmax : f.max + 1 = f.inf := Nat.sub_add_cancel hinf
  rcases Nat.lt_or_ge (lowerOf f num den) f.inf with h | h
  · refine ⟨lowerOf f num den, by omega, ?_, ?_, fun hlt => ?_⟩
    · rw [roundRat_of_lt_inf f neg hnum.ne' 1 (hmag ▸ h), hmag]
    · rwa [f.unpack_value h]
    · rw [f.unpack_value (by omega)]
      exact lt_ladder_lowerOf_succ f hnum hden
  · refine ⟨f.max, le_rfl, roundRat_towardsZero_of_inf_le f neg hnum.ne' (hmag ▸ h), ?_, fun hlt => absurd hlt (lt_irrefl _)⟩
    rw [f.unpack_value (by omega)]
    exact (f.ladder_strictMono.monotone (by omega)).trans hlow

theorem nearest_neighbour (f : Fmt) (hinf : 0 < f.inf) (neg : Bool) {num den : Nat} (hnum : 0 < num) (hden : 0 < den) :
    ∃ b ≤ f.inf, (roundRat f 0 neg num den).1 = (if neg then f.sign else 0) + b ∧
      (b < f.inf → ∀ c ≤ f.max, |(num : Rat) / den - (unpack f b).value| ≤ |(num : Rat) / den - (unpack f c).value|) ∧
      (b = f.inf → (unpack f f.max).value < (num : Rat) / den ∧ (roundRat f 0 neg num den).2 = fOF ||| fNX) := by
  have hmax : f.max + 1 = f.inf := Nat.sub_add_cancel hinf
  rcases Nat.lt_or_ge (magOf f 0 neg num den) f.inf with h | h
  · refine ⟨magOf f 0 neg num den, h.le, roundRat_of_lt_inf f neg hnum.ne' 0 h, fun _ c hc => ?_, fun he => absurd he h.ne⟩
    rw [f.unpack_value h, f.unpack_value (by omega)]
    exact magOf_nearest f neg hnum hden c
  · have hover := roundRat_nearest_of_inf_le f neg hnum.ne' h
    refine ⟨f.inf, le_rfl, by rw [hover], fun he => absurd he (lt_irrefl _), fun _ => ⟨?_, by rw [hover]⟩⟩
    rw [f.unpack_value (by omega)]
    obtain ⟨hup, hlt, _⟩ | ⟨hlo, _⟩ := magOf_nearest_cases f neg hnum hden
    · exact (f.ladder_strictMono.monotone (by omega)).trans_lt hlt
    · exact (f.ladder_strictMono (by omega)).trans_le (ladder_lowerOf_le f hnum hden)

/-- Settles O33: the result is one of the two neighbours in the ladder of the format, by the floor of the significand. -/
theorem roundingIsToTheNextNumber : Obligations.RoundingIsToTheNextNumber := by
  intro f hf neg num den hnum hden
  have hinf : 0 < f.inf := by obtain rfl | rfl | rfl | rfl | rfl | rfl := hf <;> decide
  exact ⟨towardsZero_neighbour f hinf neg hnum hden, nearest_neighbour f hinf neg hnum hden⟩

end Sys2Proof.Machine
end

section
/-! SUPPORT. What a floating-point instruction writes, and the exact results of the operations on finite operands (R44, R50, R137). -/

namespace Sys2Proof.Machine

/-! ### The instructions -/

@[simp] theorem State.fOperand_setPc (s : State) (pc : Word) (f : Fmt) (mo : BitVec 6) (i : Nat) (r : BitVec 5) :
    (s.setPc pc).fOperand f mo i r = s.fOperand f mo i r := by
  simp [State.fOperand]

section
variable {s : State} {g : Guard} {f : Fmt} {mo : BitVec 6} {mr : BitVec 8} {d a b c : BitVec 5} {e : Exact} {fl : FFlags}

/-- A body that writes a floating-point result forms it. -/
theorem formsS_run (h : s.runs true false g) {body : State → Res State} (hb : body s.ahead = .ok (s.ahead.setF f mr d (e, fl))) :
    FormsS (run true false g s body) s f mr d e fl := writesS_run h hb

variable (h : s.runs true false g)
include h

theorem formsS_fBin (op : BitVec 2) (hr : fpBin op mr (s.fOperand f mo 0 a) (s.fOperand f mo 1 b) = (e, fl)) :
    FormsS (execFBin f op g mo mr d a b s) s f mr d e fl := formsS_run h (by simp [hr])

theorem formsS_fmaIn (hr : fpFma (mrRound mr) (s.fOperand f mo 0 a) (s.fOperand f mo 1 b) (s.fOperand f mo 2 c) = (e, fl)) :
    FormsS (execFmaIn f g mo mr d a b c s) s f mr d e fl := formsS_run h (by simp [hr])

variable (wide : Bool)

theorem formsS_fadd (hf : f = if wide then f64 else f32) (hr : fpAdd (mrRound mr) (s.fOperand f mo 0 a) (s.fOperand f mo 1 b) = (e, fl)) :
    FormsS (exec (if wide then .faddD g mo mr d a b else .fadd g mo mr d a b) s) s f mr d e fl := by
  subst hf
  cases wide <;> exact formsS_fBin h 0 hr

theorem formsS_fsub (hf : f = if wide then f64 else f32) (hr : fpSub (mrRound mr) (s.fOperand f mo 0 a) (s.fOperand f mo 1 b) = (e, fl)) :
    FormsS (exec (if wide then .fsubD g mo mr d a b else .fsub g mo mr d a b) s) s f mr d e fl := by
  subst hf
  cases wide <;> exact formsS_fBin h 1 hr

theorem formsS_fmul (hf : f = if wide then f64 else f32) (hr : fpMul (s.fOperand f mo 0 a) (s.fOperand f mo 1 b) = (e, fl)) :
    FormsS (exec (if wide then .fmulD g mo mr d a b else .fmul g mo mr d a b) s) s f mr d e fl := by
  subst hf
  cases wide <;> exact formsS_fBin h 2 hr

theorem formsS_fdiv (hf : f = if wide then f64 else f32) (hr : fpDiv (s.fOperand f mo 0 a) (s.fOperand f mo 1 b) = (e, fl)) :
    FormsS (exec (if wide then .fdivD g mo mr d a b else .fdiv g mo mr d a b) s) s f mr d e fl := by
  subst hf
  cases wide <;> exact formsS_fBin h 3 hr

theorem formsS_fma (hf : f = if wide then f64 else f32)
    (hr : fpFma (mrRound mr) (s.fOperand f mo 0 a) (s.fOperand f mo 1 b) (s.fOperand f mo 2 c) = (e, fl)) :
    FormsS (exec (if wide then .fmaD g mo mr d a b c else .fma g mo mr d a b c) s) s f mr d e fl := by
  subst hf
  cases wide <;> exact formsS_fmaIn h hr

end

/-! ### Flags -/

@[simp] theorem flagIf_true (f : FFlags) : flagIf true f = f := rfl
@[simp] theorem flagIf_false (f : FFlags) : flagIf false f = 0 := rfl
@[simp] theorem FVal.isSNaN_nan (s : Bool) : (FVal.nan s).isSNaN = s := rfl
@[simp] theorem FVal.isSNaN_inf (n : Bool) : (FVal.inf n).isSNaN = false := rfl
@[simp] theorem FVal.isSNaN_fin (n : Bool) (m : Nat) (e : Int) : (FVal.fin n m e).isSNaN = false := rfl

/-! ### Exact values -/

@[simp] theorem FVal.exact_nan (s : Bool) : (FVal.nan s).exact = .nan := rfl
@[simp] theorem FVal.exact_inf (n : Bool) : (FVal.inf n).exact = .inf n := rfl

/-- The number with this sign and magnitude. -/
def signed (n : Bool) (v : Rat) : Rat := (if n then -1 else 1) * v

theorem signed_not (n : Bool) (v : Rat) : signed (!n) v = signed n (-v) := by cases n <;> simp [signed]

theorem signed_sign (n : Bool) {v : Rat} (hv : 0 < v) : signed n v ≠ 0 ∧ decide (signed n v < 0) = n := by
  cases n <;> simp [signed, hv, hv.ne', hv.le]

theorem signed_mul (n k : Bool) (v w : Rat) : signed n v * signed k w = signed (n != k) (v * w) := by cases n <;> cases k <;> simp [signed]

theorem Exact.value_rat (n : Bool) (a b : Nat) : (Exact.rat n a b).value = some (signed n ((a : Rat) / b)) := rfl

/-- A finite operand as a fraction. -/
theorem exists_exact_fin (n : Bool) (m : Nat) (e : Int) : ∃ a b : Nat, (FVal.fin n m e).exact = .rat n a b ∧ 0 < b ∧ (a = 0 ↔ m = 0) ∧
    (FVal.fin n m e).value = signed n ((a : Rat) / b) := by
  rcases le_or_gt 0 e with h | h
  · refine ⟨m * 2 ^ e.toNat, 1, by simp [FVal.exact, ratOf, h], one_pos, by simp, ?_⟩
    obtain ⟨k, rfl⟩ := Int.eq_ofNat_of_zero_le h
    simp [FVal.value, signed]
  · refine ⟨m, 2 ^ (-e).toNat, by simp [FVal.exact, ratOf, h.not_ge], Nat.two_pow_pos _, Iff.rfl, ?_⟩
    obtain ⟨k, hk⟩ := Int.eq_ofNat_of_zero_le (Int.neg_nonneg_of_nonpos h.le)
    obtain rfl : e = -k := by omega
    simp [FVal.value, signed, div_eq_mul_inv]

/-- The exact sum and its sign (R137); a zero sum of operands of opposite sign is +0, and −0 towards −∞. -/
theorem ratAdd_spec (mode : BitVec 2) (n1 : Bool) (a1 : Nat) {b1 : Nat} (h1 : 0 < b1) (n2 : Bool) (a2 : Nat) {b2 : Nat} (h2 : 0 < b2) {v1 v2 : Rat}
    (hv1 : v1 = signed n1 ((a1 : Rat) / b1)) (hv2 : v2 = signed n2 ((a2 : Rat) / b2)) :
    (ratAdd mode n1 a1 b1 n2 a2 b2).value = some (v1 + v2) ∧
      (ratAdd mode n1 a1 b1 n2 a2 b2).isNeg = if n1 = n2 then n1 else if v1 + v2 = 0 then decide (mode = 2) else decide (v1 + v2 < 0) := by
  have hb1 : (b1 : Rat) ≠ 0 := by exact_mod_cast h1.ne'
  have hb2 : (b2 : Rat) ≠ 0 := by exact_mod_cast h2.ne'
  have hD : (0 : Rat) < (b1 * b2 : Nat) := by exact_mod_cast Nat.mul_pos h1 h2
  have hx : (a1 : Rat) / b1 = (a1 * b2 : Nat) / (b1 * b2 : Nat) := by push_cast; field_simp
  have hy : (a2 : Rat) / b2 = (a2 * b1 : Nat) / (b1 * b2 : Nat) := by push_cast; field_simp
  unfold ratAdd
  subst hv1 hv2
  rw [hx, hy]
  generalize a1 * b2 = x
  generalize a2 * b1 = y
  generalize b1 * b2 = D at *
  by_cases hn : n1 = n2
  · subst hn
    simp [Exact.value_rat, Exact.isNeg, signed, mul_add, add_div]
  obtain rfl : n2 = !n1 := by cases n1 <;> cases n2 <;> simp at hn ⊢
  have hsum : signed n1 ((x : Rat) / D) + signed (!n1) (y / D) = signed n1 ((x - y) / D) := by
    cases n1 <;> simp [signed] <;> ring
  rw [hsum, if_neg hn, if_neg (by simp)]
  rcases lt_trichotomy x y with hlt | rfl | hgt
  · have hback : signed n1 (((x : Rat) - y) / D) = signed (!n1) ((y - x : Nat) / D) := by
      rw [signed_not, Nat.cast_sub hlt.le, neg_div', neg_sub]
    obtain ⟨hne, hneg⟩ := signed_sign (!n1) (div_pos (by exact_mod_cast Nat.sub_pos_of_lt hlt) hD : (0 : Rat) < (y - x : Nat) / D)
    rw [if_neg hlt.ne, if_neg hlt.not_gt, hback, if_neg hne, hneg]
    exact ⟨rfl, rfl⟩
  · simp [Exact.value_rat, Exact.isNeg, signed]
    rfl
  · have hback : signed n1 (((x : Rat) - y) / D) = signed n1 ((x - y : Nat) / D) := by rw [Nat.cast_sub hgt.le]
    obtain ⟨hne, hneg⟩ := signed_sign n1 (div_pos (by exact_mod_cast Nat.sub_pos_of_lt hgt) hD : (0 : Rat) < (x - y : Nat) / D)
    rw [if_neg hgt.ne', if_pos hgt, hback, if_neg hne, hneg]
    exact ⟨rfl, rfl⟩

/-! ### Finite operands -/

section
variable (mode : BitVec 2) (n1 : Bool) (m1 : Nat) (e1 : Int) (n2 : Bool) (m2 : Nat) (e2 : Int)

theorem fpAdd_fin : ∃ r, fpAdd mode (.fin n1 m1 e1) (.fin n2 m2 e2) = (r, 0) ∧ r.value = some ((FVal.fin n1 m1 e1).value + (FVal.fin n2 m2 e2).value) ∧
    r.isNeg = if n1 = n2 then n1 else if (FVal.fin n1 m1 e1).value + (FVal.fin n2 m2 e2).value = 0 then decide (mode = 2)
      else decide ((FVal.fin n1 m1 e1).value + (FVal.fin n2 m2 e2).value < 0) := by
  obtain ⟨a1, b1, hx1, hb1, -, hv1⟩ := exists_exact_fin n1 m1 e1
  obtain ⟨a2, b2, hx2, hb2, -, hv2⟩ := exists_exact_fin n2 m2 e2
  exact ⟨ratAdd mode n1 a1 b1 n2 a2 b2, by simp [fpAdd, hx1, hx2, exactAdd, snan], ratAdd_spec mode n1 a1 hb1 n2 a2 hb2 hv1 hv2⟩

theorem FVal.value_flip (x : FVal) : x.flip.value = -x.value := by
  cases x with
  | nan => simp [FVal.flip, FVal.value]
  | inf => simp [FVal.flip, FVal.value]
  | fin n m e => cases n <;> simp [FVal.flip, FVal.value]

theorem fpSub_fin : ∃ r, fpSub mode (.fin n1 m1 e1) (.fin n2 m2 e2) = (r, 0) ∧ r.value = some ((FVal.fin n1 m1 e1).value - (FVal.fin n2 m2 e2).value) := by
  obtain ⟨r, hr, hv, -⟩ := fpAdd_fin mode n1 m1 e1 (!n2) m2 e2
  refine ⟨r, hr, ?_⟩
  rw [hv, sub_eq_add_neg, ← FVal.value_flip]
  rfl

/-- The exact product of finite operands, as `fmul` rounds it and `fma` adds to it. -/
theorem exactMul_fin : ∃ a b : Nat, exactMul (FVal.fin n1 m1 e1).exact (FVal.fin n2 m2 e2).exact = (.rat (n1 != n2) a b, false) ∧ 0 < b ∧
    (FVal.fin n1 m1 e1).value * (FVal.fin n2 m2 e2).value = signed (n1 != n2) ((a : Rat) / b) := by
  obtain ⟨a1, b1, hx1, hb1, -, hv1⟩ := exists_exact_fin n1 m1 e1
  obtain ⟨a2, b2, hx2, hb2, -, hv2⟩ := exists_exact_fin n2 m2 e2
  refine ⟨a1 * a2, b1 * b2, by rw [hx1, hx2]; rfl, Nat.mul_pos hb1 hb2, ?_⟩
  rw [hv1, hv2, signed_mul, div_mul_div_comm]
  push_cast
  rfl

theorem fpMul_fin : ∃ r, fpMul (.fin n1 m1 e1) (.fin n2 m2 e2) = (r, 0) ∧ r.value = some ((FVal.fin n1 m1 e1).value * (FVal.fin n2 m2 e2).value) ∧
    r.isNeg = (n1 != n2) := by
  obtain ⟨a, b, hp, -, hv⟩ := exactMul_fin n1 m1 e1 n2 m2 e2
  exact ⟨.rat (n1 != n2) a b, by simp [fpMul, hp, snan], by rw [hv]; rfl, rfl⟩

theorem fpFma_fin (n3 : Bool) (m3 : Nat) (e3 : Int) :
    let v := (FVal.fin n1 m1 e1).value * (FVal.fin n2 m2 e2).value + (FVal.fin n3 m3 e3).value
    ∃ r, fpFma mode (.fin n1 m1 e1) (.fin n2 m2 e2) (.fin n3 m3 e3) = (r, 0) ∧ r.value = some v ∧
      r.isNeg = if (n1 != n2) = n3 then n3 else if v = 0 then decide (mode = 2) else decide (v < 0) := by
  obtain ⟨a, b, hp, hb, hv⟩ := exactMul_fin n1 m1 e1 n2 m2 e2
  obtain ⟨a3, b3, hx3, hb3, -, hv3⟩ := exists_exact_fin n3 m3 e3
  obtain ⟨hval, hneg⟩ := ratAdd_spec mode (n1 != n2) a hb n3 a3 hb3 hv hv3
  refine ⟨ratAdd mode (n1 != n2) a b n3 a3 b3, by simp [fpFma, hp, hx3, exactAdd, snan], hval, hneg.trans ?_⟩
  split_ifs with h
  · exact h
  all_goals rfl

theorem fpDiv_fin :
    let x := FVal.fin n1 m1 e1
    let y := FVal.fin n2 m2 e2
    (m2 ≠ 0 → ∃ r, fpDiv x y = (r, 0) ∧ r.value = some (x.value / y.value) ∧ r.isNeg = (n1 != n2)) ∧
      (m2 = 0 → m1 ≠ 0 → fpDiv x y = (.inf (n1 != n2), fDZ)) ∧ (m2 = 0 → m1 = 0 → fpDiv x y = (.nan, fNV)) := by
  obtain ⟨a1, b1, hx1, hb1, hz1, hv1⟩ := exists_exact_fin n1 m1 e1
  obtain ⟨a2, b2, hx2, hb2, hz2, hv2⟩ := exists_exact_fin n2 m2 e2
  simp only [ne_eq, ← hz1, ← hz2]
  refine ⟨fun h => ?_, fun h h' => ?_, fun h h' => ?_⟩
  · refine ⟨.rat (n1 != n2) (a1 * b2) (b1 * a2), by simp [fpDiv, hx1, hx2, h, snan], ?_, rfl⟩
    have hinv : (signed n2 ((a2 : Rat) / b2))⁻¹ = signed n2 ((b2 : Rat) / a2) := by cases n2 <;> simp [signed]
    rw [hv1, hv2, div_eq_mul_inv, hinv, signed_mul, div_mul_div_comm, Exact.value_rat]
    push_cast
    rfl
  · simp [fpDiv, hx1, hx2, h, h', snan]
  · simp [fpDiv, hx1, hx2, h, h', snan]

end

/-! ### NaNs and infinities -/

theorem snan_pair (x y : FVal) : snan [x, y] = flagIf (x.isSNaN || y.isSNaN) fNV := by simp [snan]

theorem snan_triple (x y z : FVal) : snan [x, y, z] = flagIf (x.isSNaN || y.isSNaN || z.isSNaN) fNV := by simp [snan, Bool.or_assoc]

theorem FVal.isNaN_iff {x : FVal} : x.isNaN = true ↔ ∃ b, x = .nan b := by cases x <;> simp [FVal.isNaN]

theorem FVal.isSNaN_of_isNaN_false {x : FVal} (h : x.isNaN = false) : x.isSNaN = false := by
  cases x with
  | nan => cases h
  | inf => rfl
  | fin => rfl

theorem exactAdd_nan_right (mode : BitVec 2) (p : Exact) : exactAdd mode p .nan = (.nan, false) := by cases p <;> rfl

theorem exactMul_nan_right (p : Exact) : exactMul p .nan = (.nan, false) := by cases p <;> rfl

section
variable (mode : BitVec 2) {x y z : FVal}

theorem fpAdd_of_isNaN (h : x.isNaN = true ∨ y.isNaN = true) : fpAdd mode x y = (.nan, snan [x, y]) := by
  rcases h with h | h
  · obtain ⟨b, rfl⟩ := FVal.isNaN_iff.1 h
    simp [fpAdd, exactAdd]
  · obtain ⟨b, rfl⟩ := FVal.isNaN_iff.1 h
    simp [fpAdd, exactAdd_nan_right]

theorem FVal.isNaN_flip (x : FVal) : x.flip.isNaN = x.isNaN := by cases x <;> rfl

theorem FVal.isSNaN_flip (x : FVal) : x.flip.isSNaN = x.isSNaN := by cases x <;> rfl

theorem fpSub_of_isNaN (h : x.isNaN = true ∨ y.isNaN = true) : fpSub mode x y = (.nan, snan [x, y]) := by
  rw [fpSub, fpAdd_of_isNaN mode (by rwa [FVal.isNaN_flip])]
  simp [snan_pair, FVal.isSNaN_flip]

theorem exactMul_of_isNaN (h : x.isNaN = true ∨ y.isNaN = true) : exactMul x.exact y.exact = (.nan, false) := by
  rcases h with h | h
  · obtain ⟨b, rfl⟩ := FVal.isNaN_iff.1 h
    rfl
  · obtain ⟨b, rfl⟩ := FVal.isNaN_iff.1 h
    exact exactMul_nan_right _

theorem fpMul_of_isNaN (h : x.isNaN = true ∨ y.isNaN = true) : fpMul x y = (.nan, snan [x, y]) := by
  simp [fpMul, exactMul_of_isNaN h]

theorem fpDiv_of_isNaN (h : x.isNaN = true ∨ y.isNaN = true) : fpDiv x y = (.nan, snan [x, y]) := by
  rcases h with h | h
  · obtain ⟨b, rfl⟩ := FVal.isNaN_iff.1 h
    rfl
  · obtain ⟨b, rfl⟩ := FVal.isNaN_iff.1 h
    unfold fpDiv
    cases x.exact <;> rfl

end

/-! ### Infinities -/

theorem exactMul_inf_fin (n1 n2 : Bool) (m : Nat) (e : Int) :
    exactMul (.inf n1) (FVal.fin n2 m e).exact = if m = 0 then (.nan, true) else (.inf (n1 != n2), false) := by
  obtain ⟨a, b, hx, -, hz, -⟩ := exists_exact_fin n2 m e
  simp [hx, exactMul, hz]

theorem exactMul_fin_inf (n1 n2 : Bool) (m : Nat) (e : Int) :
    exactMul (FVal.fin n1 m e).exact (.inf n2) = if m = 0 then (.nan, true) else (.inf (n1 != n2), false) := by
  obtain ⟨a, b, hx, -, hz, -⟩ := exists_exact_fin n1 m e
  simp [hx, exactMul, hz]

section
variable (mode : BitVec 2) (n1 n2 : Bool)

theorem fpAdd_inf_inf : fpAdd mode (.inf n1) (.inf n2) = if n1 = n2 then (.inf n1, 0) else (.nan, fNV) := by
  by_cases h : n1 = n2 <;> simp [fpAdd, exactAdd, snan, h]

theorem fpAdd_inf_fin (m : Nat) (e : Int) : fpAdd mode (.inf n1) (.fin n2 m e) = (.inf n1, 0) := by
  obtain ⟨a, b, hx, -⟩ := exists_exact_fin n2 m e
  simp [fpAdd, hx, exactAdd, snan]

theorem fpAdd_fin_inf (m : Nat) (e : Int) : fpAdd mode (.fin n1 m e) (.inf n2) = (.inf n2, 0) := by
  obtain ⟨a, b, hx, -⟩ := exists_exact_fin n1 m e
  simp [fpAdd, hx, exactAdd, snan]

theorem fpMul_inf_inf : fpMul (.inf n1) (.inf n2) = (.inf (n1 != n2), 0) := by simp [fpMul, exactMul, snan]

theorem fpMul_inf_fin (m : Nat) (e : Int) : fpMul (.inf n1) (.fin n2 m e) = if m = 0 then (.nan, fNV) else (.inf (n1 != n2), 0) := by
  simp only [fpMul, FVal.exact_inf, exactMul_inf_fin]
  split_ifs <;> simp [snan]

theorem fpMul_fin_inf (m : Nat) (e : Int) : fpMul (.fin n1 m e) (.inf n2) = if m = 0 then (.nan, fNV) else (.inf (n1 != n2), 0) := by
  simp only [fpMul, FVal.exact_inf, exactMul_fin_inf]
  split_ifs <;> simp [snan]

theorem fpDiv_inf_inf : fpDiv (.inf n1) (.inf n2) = (.nan, fNV) := by simp [fpDiv, snan]

theorem fpDiv_inf_fin (m : Nat) (e : Int) : fpDiv (.inf n1) (.fin n2 m e) = (.inf (n1 != n2), 0) := by
  obtain ⟨a, b, hx, -⟩ := exists_exact_fin n2 m e
  simp [fpDiv, hx, snan]

theorem fpDiv_fin_inf (m : Nat) (e : Int) : fpDiv (.fin n1 m e) (.inf n2) = (.rat (n1 != n2) 0 1, 0) := by
  obtain ⟨a, b, hx, -⟩ := exists_exact_fin n1 m e
  simp [fpDiv, hx, snan]

end

/-! ### Fused sums -/

/-- 0 × ∞ (R50). -/
def MulInvalid (x y : FVal) : Prop := (∃ n, x = .inf n) ∧ (∃ n e, y = .fin n 0 e) ∨ (∃ n e, x = .fin n 0 e) ∧ ∃ n, y = .inf n

theorem exactMul_of_invalid {x y : FVal} (h : MulInvalid x y) : exactMul x.exact y.exact = (.nan, true) := by
  obtain ⟨⟨n1, rfl⟩, n2, e, rfl⟩ | ⟨⟨n1, e, rfl⟩, n2, rfl⟩ := h
  · exact exactMul_inf_fin n1 n2 0 e
  · exact exactMul_fin_inf n1 n2 0 e

theorem exactMul_of_inf {x y : FVal} (hv : ¬MulInvalid x y)
    (h : (∃ n, x = .inf n) ∧ y.isNaN = false ∨ x.isNaN = false ∧ ∃ n, y = .inf n) : exactMul x.exact y.exact = (.inf (x.neg != y.neg), false) := by
  obtain ⟨⟨n1, rfl⟩, hy⟩ | ⟨hx, n2, rfl⟩ := h
  · cases y with
    | nan => cases hy
    | inf n2 => rfl
    | fin n2 m e => exact (exactMul_inf_fin n1 n2 m e).trans (if_neg fun hm => hv (.inl ⟨⟨n1, rfl⟩, n2, e, by rw [hm]⟩))
  · cases x with
    | nan => cases hx
    | inf n1 => rfl
    | fin n1 m e => exact (exactMul_fin_inf n1 n2 m e).trans (if_neg fun hm => hv (.inr ⟨⟨n1, e, by rw [hm]⟩, n2, rfl⟩))

/-- Only 0 × ∞ is invalid. -/
theorem exactMul_snd_of_valid {x y : FVal} (hv : ¬MulInvalid x y) : (exactMul x.exact y.exact).2 = false := by
  by_cases hnan : x.isNaN = true ∨ y.isNaN = true
  · rw [exactMul_of_isNaN hnan]
  simp only [not_or, Bool.not_eq_true] at hnan
  by_cases hinf : (∃ n, x = .inf n) ∨ ∃ n, y = .inf n
  · rw [exactMul_of_inf hv (hinf.imp (⟨·, hnan.2⟩) (⟨hnan.1, ·⟩))]
  obtain ⟨n1, m1, e1, rfl⟩ : ∃ n m e, x = .fin n m e := by cases x <;> simp_all [FVal.isNaN]
  obtain ⟨n2, m2, e2, rfl⟩ : ∃ n m e, y = .fin n m e := by cases y <;> simp_all [FVal.isNaN]
  obtain ⟨a, b, hp, -⟩ := exactMul_fin n1 m1 e1 n2 m2 e2
  rw [hp]

section
variable (mode : BitVec 2) {x y : FVal}

theorem fpFma_eq (z : FVal) :
    fpFma mode x y z = ((exactAdd mode (exactMul x.exact y.exact).1 z.exact).1,
      snan [x, y, z] ||| flagIf ((exactMul x.exact y.exact).2 || (exactAdd mode (exactMul x.exact y.exact).1 z.exact).2) fNV) := rfl

theorem snan_or_fNV (l : List FVal) : snan l ||| fNV = fNV := by
  unfold snan
  cases l.any FVal.isSNaN <;> decide

theorem fpFma_of_invalid (h : MulInvalid x y) (z : FVal) : fpFma mode x y z = (.nan, fNV) := by
  rw [fpFma_eq, exactMul_of_invalid h]
  simp [exactAdd, snan_or_fNV]

theorem fpFma_of_isNaN (hv : ¬MulInvalid x y) {z : FVal} (h : x.isNaN = true ∨ y.isNaN = true ∨ z.isNaN = true) :
    fpFma mode x y z = (.nan, snan [x, y, z]) := by
  rw [← or_assoc] at h
  rcases h with h | h
  · rw [fpFma_eq, exactMul_of_isNaN h]
    simp [exactAdd]
  · obtain ⟨b, rfl⟩ := FVal.isNaN_iff.1 h
    simp [fpFma_eq, exactMul_snd_of_valid hv, exactAdd_nan_right]

theorem fpFma_of_inf (hv : ¬MulInvalid x y) (h : (∃ n, x = .inf n) ∧ y.isNaN = false ∨ x.isNaN = false ∧ ∃ n, y = .inf n) {z : FVal}
    (hz : z.isNaN = false) : fpFma mode x y z = if z = .inf (!(x.neg != y.neg)) then (.nan, fNV) else (.inf (x.neg != y.neg), 0) := by
  have hquiet : snan [x, y, z] = 0 := by
    have hx : x.isSNaN = false := h.elim (fun ⟨⟨n, hn⟩, _⟩ => by rw [hn]; rfl) fun ⟨hx, _⟩ => FVal.isSNaN_of_isNaN_false hx
    have hy : y.isSNaN = false := h.elim (fun ⟨_, hy⟩ => FVal.isSNaN_of_isNaN_false hy) fun ⟨_, n, hn⟩ => by rw [hn]; rfl
    simp [snan_triple, hx, hy, FVal.isSNaN_of_isNaN_false hz]
  rw [fpFma_eq, exactMul_of_inf hv h, hquiet]
  generalize (x.neg != y.neg) = k
  cases z with
  | nan => cases hz
  | inf n => cases k <;> cases n <;> simp [exactAdd]
  | fin n m e =>
    obtain ⟨a, b, hx, -⟩ := exists_exact_fin n m e
    simp [hx, exactAdd]

theorem fpFma_fin_inf (n1 : Bool) (m1 : Nat) (e1 : Int) (n2 : Bool) (m2 : Nat) (e2 : Int) (n3 : Bool) :
    fpFma mode (.fin n1 m1 e1) (.fin n2 m2 e2) (.inf n3) = (.inf n3, 0) := by
  obtain ⟨a, b, hp, -⟩ := exactMul_fin n1 m1 e1 n2 m2 e2
  rw [fpFma_eq, hp]
  simp [exactAdd, snan]

end

end Sys2Proof.Machine
end

section
/-! PROOF. Sums, products, quotients and fused sums (R44, R50, R137, R139). -/

namespace Sys2Proof.Machine

/-- Settles O31: what each instruction forms is read off its exact operation, kind of operand by kind of operand. -/
theorem floatArithmeticIsExactThenRounded : Obligations.FloatArithmeticIsExactThenRounded := by
  intro s g mo mr d a b c wide h f x y z add sub mul div fma
  have hadd {e fl} : fpAdd (mrRound mr) x y = (e, fl) → FormsS add s f mr d e fl := formsS_fadd h wide rfl
  have hsub {e fl} : fpSub (mrRound mr) x y = (e, fl) → FormsS sub s f mr d e fl := formsS_fsub h wide rfl
  have hmul {e fl} : fpMul x y = (e, fl) → FormsS mul s f mr d e fl := formsS_fmul h wide rfl
  have hdiv {e fl} : fpDiv x y = (e, fl) → FormsS div s f mr d e fl := formsS_fdiv h wide rfl
  have hfma {e fl} : fpFma (mrRound mr) x y z = (e, fl) → FormsS fma s f mr d e fl := formsS_fma h wide rfl
  clear_value x y z add sub mul div fma
  refine ⟨fun hnan => ?_, fun n1 m1 e1 n2 m2 e2 hx hy => ?_, ?_, fun n1 n2 hx hy => ?_, fun n1 n2 m2 e2 hx hy => ?_, fun n1 m1 e1 n2 hx hy => ?_⟩
  · dsimp only
    rw [← snan_pair]
    exact ⟨hadd (fpAdd_of_isNaN _ hnan), hsub (fpSub_of_isNaN _ hnan), hmul (fpMul_of_isNaN hnan), hdiv (fpDiv_of_isNaN hnan)⟩
  · subst hx hy
    obtain ⟨hquot, hdz, hnv⟩ := fpDiv_fin n1 m1 e1 n2 m2 e2
    refine ⟨?_, ?_, ?_, fun h2 => ?_, fun h2 h1 => hdiv (hdz h2 h1), fun h2 h1 => hdiv (hnv h2 h1), fun n3 m3 e3 hz => ?_⟩
    · exact (fpAdd_fin (mrRound mr) n1 m1 e1 n2 m2 e2).imp fun r hr => ⟨hadd hr.1, hr.2⟩
    · exact (fpSub_fin (mrRound mr) n1 m1 e1 n2 m2 e2).imp fun r hr => ⟨hsub hr.1, hr.2⟩
    · exact (fpMul_fin n1 m1 e1 n2 m2 e2).imp fun r hr => ⟨hmul hr.1, hr.2⟩
    · exact (hquot h2).imp fun r hr => ⟨hdiv hr.1, hr.2⟩
    · subst hz
      exact (fpFma_fin (mrRound mr) n1 m1 e1 n2 m2 e2 n3 m3 e3).imp fun r hr => ⟨hfma hr.1, hr.2⟩
  · refine ⟨fun hinv => hfma (fpFma_of_invalid _ hinv z), fun hval hnan => ?_, fun hval hinf => ⟨fun n3 hz => ?_, fun hz => ?_⟩,
      fun n3 ⟨n1, m1, e1, hx⟩ ⟨n2, m2, e2, hy⟩ hz => ?_⟩
    · rw [← snan_triple]
      exact hfma (fpFma_of_isNaN _ hval hnan)
    · have hr := fpFma_of_inf (mrRound mr) hval hinf (z := z) (by rw [hz]; rfl)
      split_ifs with hn
      · exact hfma (hr.trans (if_neg (by simp [hz, hn])))
      · exact hfma (hr.trans (if_pos (by rw [hz, Bool.eq_not_of_ne hn])))
    · obtain ⟨n3, m3, e3, rfl⟩ := hz
      exact hfma ((fpFma_of_inf _ hval hinf rfl).trans (if_neg (by simp)))
    · subst hx hy hz
      exact hfma (fpFma_fin_inf _ n1 m1 e1 n2 m2 e2 n3)
  · subst hx hy
    have hs := fpAdd_inf_inf (mrRound mr) n1 n2
    have hd := fpAdd_inf_inf (mrRound mr) n1 !n2
    refine ⟨?_, hmul (fpMul_inf_inf n1 n2), hdiv (fpDiv_inf_inf n1 n2)⟩
    split_ifs with hn
    · exact ⟨hadd (hs.trans (if_pos hn)), hsub (hd.trans (if_neg (by simp [hn])))⟩
    · exact ⟨hadd (hs.trans (if_neg hn)), hsub (hd.trans (if_pos (Bool.eq_not_of_ne hn)))⟩
  · subst hx hy
    refine ⟨hadd (fpAdd_inf_fin _ n1 n2 m2 e2), hsub (fpAdd_inf_fin _ n1 (!n2) m2 e2), hdiv (fpDiv_inf_fin n1 n2 m2 e2), ?_⟩
    split_ifs with hm
    · exact hmul ((fpMul_inf_fin n1 n2 m2 e2).trans (if_pos hm))
    · exact hmul ((fpMul_inf_fin n1 n2 m2 e2).trans (if_neg hm))
  · subst hx hy
    refine ⟨hadd (fpAdd_fin_inf _ n1 n2 m1 e1), hsub (fpAdd_fin_inf _ n1 (!n2) m1 e1), hdiv (fpDiv_fin_inf n1 n2 m1 e1), ?_⟩
    split_ifs with hm
    · exact hmul ((fpMul_fin_inf n1 n2 m1 e1).trans (if_pos hm))
    · exact hmul ((fpMul_fin_inf n1 n2 m1 e1).trans (if_neg hm))

end Sys2Proof.Machine
end

section
/-! SUPPORT. Minima, maxima, comparisons, classes and roots of exact values (R44, R138, R140). -/

namespace Sys2Proof.Machine

/-! ### The instructions -/

section
variable {s : State} {g : Guard} {f : Fmt} {mo : BitVec 6} {mr : BitVec 8} {d a b : BitVec 5} {p : BitVec 3} {e : Exact} {fl : FFlags}
variable (h : s.runs true false g)
include h

theorem formsS_fMinMax (mx : Bool) (hr : fpMinMax mx (s.fOperand f mo 0 a) (s.fOperand f mo 1 b) = (e, fl)) :
    FormsS (execFMinMax f mx g mo d a b s) s f 0 d e fl := formsS_run h (by simp [hr])

theorem formsS_fSqrtIn (hr : fpSqrt (s.fOperand f mo 0 a) = (e, fl)) : FormsS (execFSqrtIn f g mo mr d a s) s f mr d e fl :=
  formsS_run h (by simp [hr])

theorem writesS_fClassIn : WritesS (execFClassIn f g d a s) s d (fWord (fpClass f (fBits f (s.S a)))) 0 :=
  writesS_run' h (by simp)

theorem writesP_fCmpIn {cond : BitVec 2} {v : Bool} (hr : fpCond cond (s.fOperand f mo 0 a) (s.fOperand f mo 1 b) = (v, fl)) :
    WritesP (execFCmpIn f g mo cond p a b s) s p v fl := writesP_run h (by simp [hr])

variable (wide : Bool)

theorem formsS_fmin (hf : f = if wide then f64 else f32) (hr : fpMinMax false (s.fOperand f mo 0 a) (s.fOperand f mo 1 b) = (e, fl)) :
    FormsS (exec (if wide then .fminD g mo d a b else .fmin g mo d a b) s) s f 0 d e fl := by
  subst hf
  cases wide <;> exact formsS_fMinMax h false hr

theorem formsS_fmax (hf : f = if wide then f64 else f32) (hr : fpMinMax true (s.fOperand f mo 0 a) (s.fOperand f mo 1 b) = (e, fl)) :
    FormsS (exec (if wide then .fmaxD g mo d a b else .fmax g mo d a b) s) s f 0 d e fl := by
  subst hf
  cases wide <;> exact formsS_fMinMax h true hr

theorem formsS_fsqrt (hf : f = if wide then f64 else f32) (hr : fpSqrt (s.fOperand f mo 0 a) = (e, fl)) :
    FormsS (exec (if wide then .fsqrtD g mo mr d a else .fsqrt g mo mr d a) s) s f mr d e fl := by
  subst hf
  cases wide <;> exact formsS_fSqrtIn h hr

theorem writesS_fclass (hf : f = if wide then f64 else f32) :
    WritesS (exec (if wide then .fclassD g d a else .fclass g d a) s) s d (fWord (fpClass f (fBits f (s.S a)))) 0 := by
  subst hf
  cases wide <;> exact writesS_fClassIn h

theorem writesP_fcmp (hf : f = if wide then f64 else f32) {cond : BitVec 2} {v : Bool}
    (hr : fpCond cond (s.fOperand f mo 0 a) (s.fOperand f mo 1 b) = (v, fl)) :
    WritesP (exec (if wide then .fcmpD g mo cond p a b else .fcmp g mo cond p a b) s) s p v fl := by
  subst hf
  cases wide <;> exact writesP_fCmpIn h hr

end

/-! ### Order -/

theorem exactCmp_rat (n1 : Bool) (a1 : Nat) {b1 : Nat} (h1 : 0 < b1) (n2 : Bool) (a2 : Nat) {b2 : Nat} (h2 : 0 < b2) :
    let v1 := signed n1 ((a1 : Rat) / b1)
    let v2 := signed n2 ((a2 : Rat) / b2)
    exactCmp (.rat n1 a1 b1) (.rat n2 a2 b2) = if v1 < v2 then -1 else if v2 < v1 then 1 else 0 := by
  intro v1 v2
  have hb1 : (0 : Rat) < b1 := by exact_mod_cast h1
  have hb2 : (0 : Rat) < b2 := by exact_mod_cast h2
  have hcross (n m : Bool) (a b c d : Nat) (hb : (0 : Rat) < b) (hd : (0 : Rat) < d) :
      (if n then -1 else 1) * ((a * d : Nat) : Int) < (if m then -1 else 1) * ((c * b : Nat) : Int) ↔
        signed n ((a : Rat) / b) < signed m ((c : Rat) / d) := by
    have hleft : signed n ((a : Rat) / b) = signed n a / b := by cases n <;> simp [signed, neg_div]
    have hright : signed m ((c : Rat) / d) = signed m c / d := by cases m <;> simp [signed, neg_div]
    rw [hleft, hright, div_lt_div_iff₀ hb hd, ← @Int.cast_lt Rat]
    cases n <;> cases m <;> simp [signed]
  unfold exactCmp
  simp only [hcross n1 n2 a1 b1 a2 b2 hb1 hb2, hcross n2 n1 a2 b2 a1 b1 hb2 hb1]
  rfl

theorem exactCmp_fin (n1 : Bool) (m1 : Nat) (e1 : Int) (n2 : Bool) (m2 : Nat) (e2 : Int) :
    let x := FVal.fin n1 m1 e1
    let y := FVal.fin n2 m2 e2
    exactCmp x.exact y.exact = if x.value < y.value then -1 else if y.value < x.value then 1 else 0 := by
  obtain ⟨a1, b1, hx1, hb1, -, hv1⟩ := exists_exact_fin n1 m1 e1
  obtain ⟨a2, b2, hx2, hb2, -, hv2⟩ := exists_exact_fin n2 m2 e2
  intro x y
  rw [hx1, hx2, hv1, hv2, exactCmp_rat n1 a1 hb1 n2 a2 hb2]

theorem exactCmp_inf_fin (n1 n2 : Bool) (m : Nat) (e : Int) : exactCmp (.inf n1) (FVal.fin n2 m e).exact = if n1 then -1 else 1 := by
  obtain ⟨a, b, hx, -⟩ := exists_exact_fin n2 m e
  simp [hx, exactCmp]

theorem exactCmp_fin_inf (n1 n2 : Bool) (m : Nat) (e : Int) : exactCmp (FVal.fin n1 m e).exact (.inf n2) = if n2 then 1 else -1 := by
  obtain ⟨a, b, hx, -⟩ := exists_exact_fin n1 m e
  simp [hx, exactCmp]

/-! ### Minima and maxima -/

theorem exact_value_fin (n : Bool) (m : Nat) (e : Int) :
    (FVal.fin n m e).exact.value = some (FVal.fin n m e).value ∧ (FVal.fin n m e).exact.isNeg = n := by
  obtain ⟨a, b, hx, -, -, hv⟩ := exists_exact_fin n m e
  rw [hx, hv]
  exact ⟨rfl, rfl⟩

@[simp] theorem FVal.isNaN_nan (s : Bool) : (FVal.nan s).isNaN = true := rfl
@[simp] theorem FVal.isNaN_inf (n : Bool) : (FVal.inf n).isNaN = false := rfl
@[simp] theorem FVal.isNaN_fin (n : Bool) (m : Nat) (e : Int) : (FVal.fin n m e).isNaN = false := rfl

/-- One NaN gives the other operand, two the NaN (R44). -/
theorem fpMinMax_of_isNaN (mx : Bool) {x y : FVal} (h : x.isNaN = true ∨ y.isNaN = true) :
    fpMinMax mx x y = (if x.isNaN then if y.isNaN then .nan else y.exact else x.exact, snan [x, y]) := by
  unfold fpMinMax
  rcases Bool.eq_false_or_eq_true x.isNaN with hx | hx <;> rcases Bool.eq_false_or_eq_true y.isNaN with hy | hy <;> simp_all

section
variable (mx : Bool)

/-- Of two finite operands; −0 counts as less than +0 (R44). -/
theorem fpMinMax_fin (n1 : Bool) (m1 : Nat) (e1 : Int) (n2 : Bool) (m2 : Nat) (e2 : Int) :
    let x := FVal.fin n1 m1 e1
    let y := FVal.fin n2 m2 e2
    ∃ r, fpMinMax mx x y = (r, 0) ∧ (r = x.exact ∨ r = y.exact) ∧ r.value = some (if mx then max x.value y.value else min x.value y.value) ∧
      (x.value = 0 → y.value = 0 → r.isNeg = if mx then n1 && n2 else n1 || n2) := by
  intro x y
  obtain ⟨hvx, hnx⟩ : x.exact.value = some x.value ∧ x.exact.isNeg = n1 := exact_value_fin n1 m1 e1
  obtain ⟨hvy, hny⟩ : y.exact.value = some y.value ∧ y.exact.isNeg = n2 := exact_value_fin n2 m2 e2
  have hcmp : exactCmp x.exact y.exact = if x.value < y.value then -1 else if y.value < x.value then 1 else 0 := exactCmp_fin n1 m1 e1 n2 m2 e2
  have hless : fpLess x y = (decide (x.value < y.value) || (decide (x.value = y.value) && n1 && !n2)) := by
    unfold fpLess
    rw [hcmp]
    rcases lt_trichotomy x.value y.value with hlt | heq | hgt
    · simp [hlt, hlt.ne]
    · simp [heq, x, y, FVal.neg]
    · simp [hgt.not_gt, hgt, hgt.ne']
  have hmin : fpMinMax mx x y = if fpLess x y == mx then (y.exact, 0) else (x.exact, 0) := by simp [fpMinMax, x, y, snan]
  refine ⟨if fpLess x y == mx then y.exact else x.exact, by rw [hmin]; split_ifs <;> rfl, by split_ifs <;> simp, ?_, fun h1 h2 => ?_⟩
  · rw [apply_ite Exact.value, hvx, hvy, hless]
    rcases lt_trichotomy x.value y.value with hlt | heq | hgt
    · cases mx <;> simp [hlt, hlt.le]
    · simp [heq, ite_self]
    · cases mx <;> simp [hgt.not_gt, hgt.ne', hgt.le]
  · rw [hless, h1, h2]
    cases n1 <;> cases n2 <;> cases mx <;> simp [hnx, hny]

/-- An infinity that is not less (for a maximum: not more) than anything gives the other operand; the other infinity is the result. -/
theorem fpMinMax_inf_left (n : Bool) {y : FVal} (hy : y.isNaN = false) : fpMinMax mx (.inf n) y = (if n = mx then y.exact else .inf n, 0) := by
  cases y with
  | nan => cases hy
  | inf m => cases n <;> cases m <;> cases mx <;> rfl
  | fin m k e =>
    have hcmp := exactCmp_inf_fin n m k e
    cases n <;> cases mx <;> simp [fpMinMax, fpLess, hcmp, snan, FVal.neg]

theorem fpMinMax_inf_right (n : Bool) {x : FVal} (hx : x.isNaN = false) : fpMinMax mx x (.inf n) = (if n = mx then x.exact else .inf n, 0) := by
  cases x with
  | nan => cases hx
  | inf m => cases n <;> cases m <;> cases mx <;> rfl
  | fin m k e =>
    have hcmp := exactCmp_fin_inf m n k e
    cases n <;> cases mx <;> simp [fpMinMax, fpLess, hcmp, snan, FVal.neg]

end

/-! ### Conditions -/

/-- The conditions on two operands that are no NaN; the last, unordered, is false (R140). -/
theorem fpCond_of_ordered {x y : FVal} (hx : x.isNaN = false) (hy : y.isNaN = false) (hs : snan [x, y] = 0) :
    fpCond 0 x y = (exactCmp x.exact y.exact == 0, 0) ∧ fpCond 1 x y = (exactCmp x.exact y.exact == -1, 0) ∧
      fpCond 2 x y = (exactCmp x.exact y.exact != 1, 0) ∧ fpCond 3 x y = (false, 0) := by
  simp [fpCond, hx, hy, hs]

theorem fpCond_of_isNaN {x y : FVal} (h : x.isNaN = true ∨ y.isNaN = true) (cond : BitVec 2) :
    fpCond cond x y = (decide (cond = 3), flagIf (x.isSNaN || y.isSNaN) fNV) := by
  have hcond : ∀ c : BitVec 2, c = 0 ∨ c = 1 ∨ c = 2 ∨ c = 3 := by decide
  have hor : (x.isNaN || y.isNaN) = true := by simpa using h
  rw [← snan_pair]
  obtain rfl | rfl | rfl | rfl := hcond cond <;> simp [fpCond, hor]

/-- The order of two operands of which one is an infinity and none a NaN. -/
theorem exactCmp_of_inf {x y : FVal} (hx : x.isNaN = false) (hy : y.isNaN = false) (h : ∃ n, x = .inf n ∨ y = .inf n) :
    exactCmp x.exact y.exact = if x = y then 0 else if x = .inf true ∨ y = .inf false then -1 else 1 := by
  cases x with
  | nan => cases hx
  | inf n =>
    cases y with
    | nan => cases hy
    | inf k => cases n <;> cases k <;> rfl
    | fin k m e => cases n <;> simp [exactCmp_inf_fin]
  | fin n m e =>
    cases y with
    | nan => cases hy
    | inf k => cases k <;> simp [exactCmp_fin_inf]
    | fin => simp at h

/-! ### Classes -/

/-- The four kinds of bits of a format (R31). -/
theorem unpack_cases (f : Fmt) (bits : Nat) :
    let neg := bits / f.sign % 2 == 1
    let e := bits / 2 ^ f.fw % 2 ^ f.ew
    let m := bits % 2 ^ f.fw
    unpack f bits = .inf neg ∨ unpack f bits = .nan (decide (m < 2 ^ (f.fw - 1))) ∨
      (e = 0 ∧ unpack f bits = .fin neg m (1 - (f.bias : Int) - f.fw)) ∨
      (e ≠ 0 ∧ unpack f bits = .fin neg (2 ^ f.fw + m) ((e : Int) - f.bias - f.fw)) := by
  intro neg e m
  by_cases hspecial : e = 2 ^ f.ew - 1
  · by_cases hm : m = 0
    · exact .inl ((if_pos hspecial).trans (if_pos hm))
    · exact .inr (.inl ((if_pos hspecial).trans (if_neg hm)))
  · by_cases he : e = 0
    · exact .inr (.inr (.inl ⟨he, (if_neg hspecial).trans (if_pos he)⟩))
    · exact .inr (.inr (.inr ⟨he, (if_neg hspecial).trans (if_neg he)⟩))

section
variable {f : Fmt} {bits : Nat}

theorem unpack_inf_sign {n : Bool} (h : unpack f bits = .inf n) : n = (bits / f.sign % 2 == 1) := by
  obtain hu | hu | ⟨_, hu⟩ | ⟨_, hu⟩ := unpack_cases f bits <;> rw [hu] at h <;> cases h
  rfl

/-- A finite operand has the sign of its sign bit, and is subnormal when its significand lacks the leading bit. -/
theorem unpack_fin_bits {n : Bool} {m : Nat} {e : Int} (h : unpack f bits = .fin n m e) :
    n = (bits / f.sign % 2 == 1) ∧ (bits % f.sign < 2 ^ f.fw ↔ m < 2 ^ f.fw) := by
  have hfw := Nat.two_pow_pos f.fw
  have hmod : bits % f.sign = bits % 2 ^ f.fw + 2 ^ f.fw * (bits / 2 ^ f.fw % 2 ^ f.ew) := by
    rw [Fmt.sign, Nat.add_comm, pow_add, Nat.mod_mul]
  have hlow := Nat.mod_lt bits hfw
  obtain hu | hu | ⟨he, hu⟩ | ⟨he, hu⟩ := unpack_cases f bits <;> rw [hu] at h <;> cases h <;> refine ⟨rfl, ?_⟩ <;> rw [hmod]
  · simp [he]
  · have := Nat.le_mul_of_pos_right (2 ^ f.fw) (Nat.pos_of_ne_zero he)
    omega

theorem fpClass_nan {sg : Bool} (h : unpack f bits = .nan sg) : fpClass f bits = if sg then 256 else 512 := by simp [fpClass, h]

theorem fpClass_inf {n : Bool} (h : unpack f bits = .inf n) : fpClass f bits = if n then 1 else 128 := by simp [fpClass, h]

theorem fpClass_fin {n : Bool} {m : Nat} {e : Int} (h : unpack f bits = .fin n m e) :
    fpClass f bits = if m = 0 then (if n then 8 else 16) else if m < 2 ^ f.fw then (if n then 4 else 32) else if n then 2 else 64 := by
  simp [fpClass, h, (unpack_fin_bits h).2]

end

/-! ### Square roots -/

theorem isqrtGo_spec (x n r : Nat) (hlow : r * r ≤ x) (hhigh : x < (r + 2 ^ n) * (r + 2 ^ n)) :
    isqrtGo x n r * isqrtGo x n r ≤ x ∧ x < (isqrtGo x n r + 1) * (isqrtGo x n r + 1) := by
  induction n generalizing r with
  | zero => exact ⟨hlow, hhigh⟩
  | succ n ih =>
    simp only [isqrtGo]
    split_ifs with h
    · exact ih _ h (by rw [pow_succ] at hhigh; convert hhigh using 2 <;> ring)
    · exact ih _ hlow (not_le.1 h)

theorem isqrt_eq_sqrt (x : Nat) : isqrt x = Nat.sqrt x := by
  have hpow : x < 2 ^ (Nat.log2 x / 2 + 1) * 2 ^ (Nat.log2 x / 2 + 1) := by
    rw [← pow_add]
    exact Nat.lt_log2_self.trans_le (Nat.pow_le_pow_right two_pos (by omega))
  obtain ⟨hlow, hhigh⟩ := isqrtGo_spec x (Nat.log2 x / 2 + 1) 0 (Nat.zero_le _) (by simpa using hpow)
  exact Nat.eq_sqrt.2 ⟨hlow, hhigh⟩

/-- A natural number whose rational square root exists is a square. -/
theorem sqrt_mul_self_of_rat {N D : Nat} (hD : 0 < D) (h : ∃ u : Rat, u * u = (N : Rat) / (D * D)) : Nat.sqrt N * Nat.sqrt N = N := by
  obtain ⟨u, hu⟩ := h
  have hD' : (D : Rat) ≠ 0 := by exact_mod_cast hD.ne'
  have hsq : IsSquare (N : Rat) := ⟨u * D, by rw [mul_mul_mul_comm, hu]; field_simp⟩
  obtain ⟨k, rfl⟩ := Rat.isSquare_natCast_iff.1 hsq
  rw [Nat.sqrt_eq]

/-- Halfway between two neighbouring integers of which the smaller is the floor of √N, the square differs from N by a small part of it. -/
theorem sqrt_midpoint {N D : Nat} (hD : 0 < D) (hbig : 2 ^ 101 ≤ Nat.sqrt N) {v : Rat} (hv : v = (2 * Nat.sqrt N + 1 : Nat) / (D * 2 : Nat)) :
    |v * v - (N : Rat) / (D * D)| * 2 ^ 100 ≤ (N : Rat) / (D * D) := by
  have hD' : (0 : Rat) < D := by exact_mod_cast hD
  have hlow : (Nat.sqrt N : Rat) * Nat.sqrt N ≤ N := by exact_mod_cast Nat.sqrt_le N
  have hhigh : (N : Rat) < (Nat.sqrt N + 1) * (Nat.sqrt N + 1) := by exact_mod_cast Nat.lt_succ_sqrt N
  have hbig' : (2 : Rat) ^ 101 ≤ Nat.sqrt N := by exact_mod_cast hbig
  have hdiff : v * v - (N : Rat) / (D * D) = ((2 * Nat.sqrt N + 1) * (2 * Nat.sqrt N + 1) - 4 * N) / (4 * (D * D)) := by
    rw [hv]
    push_cast
    field_simp
    ring
  generalize (Nat.sqrt N : Rat) = r at *
  have hpos : 0 < r := lt_of_lt_of_le (by positivity) hbig'
  have hnear : |(2 * r + 1) * (2 * r + 1) - 4 * (N : Rat)| ≤ 8 * r := abs_le.2 ⟨by nlinarith, by nlinarith⟩
  rw [hdiff, abs_div, abs_of_pos (by positivity : (0 : Rat) < 4 * (D * D)), div_mul_eq_mul_div, div_le_div_iff₀ (by positivity) (by positivity)]
  have hsmall : |(2 * r + 1) * (2 * r + 1) - 4 * (N : Rat)| * 2 ^ 100 ≤ 4 * N := by
    calc _ ≤ 8 * r * 2 ^ 100 := by gcongr
      _ = 4 * (r * 2 ^ 101) := by ring
      _ ≤ 4 * (r * r) := by gcongr
      _ ≤ 4 * N := by gcongr
  calc _ ≤ 4 * N * ((D : Rat) * D) := by gcongr
    _ = N * (4 * (D * D)) := by ring

/-- The fraction that stands for the root: the root itself where it is rational, else near it (R138). -/
theorem ratSqrt_spec {num den : Nat} (hnum : 0 < num) (hden : 0 < den) {x v : Rat} (hx : x = (num : Rat) / den)
    (hv : v = ((ratSqrt num den).1 : Rat) / (ratSqrt num den).2) :
    0 < v ∧ |v * v - x| * 2 ^ 100 ≤ x ∧ ((∃ u : Rat, u * u = x) → v * v = x) := by
  obtain ⟨N, hN⟩ : ∃ N, N = num * den * 4 ^ (200 + Nat.log2 den) := ⟨_, rfl⟩
  obtain ⟨D, hD⟩ : ∃ D, D = den * 2 ^ (200 + Nat.log2 den) := ⟨_, rfl⟩
  have hD0 : 0 < D := hD ▸ Nat.mul_pos hden (by positivity)
  have hD1 : (0 : Rat) < D := by exact_mod_cast hD0
  have hquot : x = (N : Rat) / (D * D) := by
    have h4 : (4 : Rat) ^ (200 + Nat.log2 den) = 2 ^ (200 + Nat.log2 den) * 2 ^ (200 + Nat.log2 den) := by rw [← mul_pow]; norm_num
    have hden' : (den : Rat) ≠ 0 := by exact_mod_cast hden.ne'
    rw [hx, hN, hD]
    push_cast
    rw [h4]
    field_simp
  have hroot : ratSqrt num den = if Nat.sqrt N * Nat.sqrt N = N then (Nat.sqrt N, D) else (2 * Nat.sqrt N + 1, D * 2) := by
    simp only [ratSqrt, isqrt_eq_sqrt, ← hN, ← hD, pow_succ, ← Nat.mul_assoc]
  have hbig : 2 ^ 101 ≤ Nat.sqrt N := by
    have h1 : 1 ≤ num * den * 4 ^ Nat.log2 den := Nat.mul_pos (Nat.mul_pos hnum hden) (by positivity)
    rw [Nat.le_sqrt, hN, pow_add, mul_left_comm]
    exact (by norm_num : (2 ^ 101 * 2 ^ 101 : Nat) ≤ 4 ^ 200 * 1).trans (Nat.mul_le_mul_left _ h1)
  have hxpos : 0 < x := by rw [hx]; positivity
  rw [hroot] at hv
  split_ifs at hv with hsq
  · have hsq' : (Nat.sqrt N : Rat) * Nat.sqrt N = N := by exact_mod_cast hsq
    have hvv : v * v = x := by rw [hv, hquot, div_mul_div_comm, hsq']
    refine ⟨?_, by simp [hvv, hxpos.le], fun _ => hvv⟩
    rw [hv]
    exact div_pos (by exact_mod_cast (by positivity : 0 < 2 ^ 101).trans_le hbig) hD1
  · refine ⟨by rw [hv]; positivity, ?_, fun hu => absurd (sqrt_mul_self_of_rat hD0 (hquot ▸ hu)) hsq⟩
    rw [hquot]
    exact sqrt_midpoint hD0 hbig hv

theorem fpSqrt_inf (n : Bool) : fpSqrt (.inf n) = if n then (.nan, fNV) else (.inf false, 0) := rfl

theorem fpSqrt_fin (n : Bool) (m : Nat) (e : Int) :
    let x := FVal.fin n m e
    (m = 0 → fpSqrt x = (.rat n 0 1, 0)) ∧ (m ≠ 0 → n = true → fpSqrt x = (.nan, fNV)) ∧
      (m ≠ 0 → n = false → ∃ r v, fpSqrt x = (r, 0) ∧ r.value = some v ∧ 0 < v ∧ |v * v - x.value| * 2 ^ 100 ≤ x.value ∧
        ((∃ u : Rat, u * u = x.value) → v * v = x.value)) := by
  intro x
  obtain ⟨a, b, hx, hb, hz, hv⟩ := exists_exact_fin n m e
  refine ⟨fun hm => ?_, fun hm hn => ?_, fun hm hn => ?_⟩
  · simp [fpSqrt, x, hx, hz.2 hm]
  · subst hn
    simp [fpSqrt, x, hx, hz, hm]
  · subst hn
    have hval : x.value = (a : Rat) / b := hv.trans (by simp [signed])
    refine ⟨.rat false (ratSqrt a b).1 (ratSqrt a b).2, _, by simp [fpSqrt, x, hx, hz, hm], rfl, ?_⟩
    exact ratSqrt_spec (Nat.pos_of_ne_zero (hz.not.2 hm)) hb hval (one_mul _)

end Sys2Proof.Machine
end

section
/-! SUPPORT. Conversions: scaling, and rounding to an integer (R40, R46, R141). -/

namespace Sys2Proof.Machine

/-- Whether the mode rounds `v` to `q`: to nearest, ties to even; towards zero; down; up (R40). -/
def RoundsTo (mode : BitVec 2) (v : Rat) (q : Int) : Prop :=
  match mode.toNat with
  | 0 => |v - q| * 2 < 1 ∨ (|v - q| * 2 = 1 ∧ q % 2 = 0)
  | 1 => q = if v < 0 then ⌈v⌉ else ⌊v⌋
  | 2 => q = ⌊v⌋
  | _ => q = ⌈v⌉

theorem mode_cases (mode : BitVec 2) : mode = 0 ∨ mode = 1 ∨ mode = 2 ∨ mode = 3 := by revert mode; decide

/-- Of two integers one number cannot round to nearest to both: at the distance ½ of each one of them is odd. -/
theorem nearest_not_lt {v : Rat} {q r : Int} (hq : |v - q| * 2 < 1 ∨ (|v - q| * 2 = 1 ∧ q % 2 = 0))
    (hr : |v - r| * 2 < 1 ∨ (|v - r| * 2 = 1 ∧ r % 2 = 0)) : ¬q < r := by
  intro hlt
  have hstep : (q : Rat) + 1 ≤ r := by exact_mod_cast hlt
  have hleft : v - q ≤ |v - q| := le_abs_self _
  have hright : -(v - r) ≤ |v - r| := neg_le_abs _
  obtain hq | ⟨hq, hqeven⟩ := hq <;> obtain hr | ⟨hr, hreven⟩ := hr
  · linarith
  · linarith
  · linarith
  · have hnext : (r : Rat) = q + 1 := by linarith
    have hnext' : r = q + 1 := by exact_mod_cast hnext
    omega

theorem roundsTo_unique {mode : BitVec 2} {v : Rat} {q r : Int} (hq : RoundsTo mode v q) (hr : RoundsTo mode v r) : q = r := by
  obtain rfl | rfl | rfl | rfl := mode_cases mode
  · exact le_antisymm (not_lt.1 (nearest_not_lt hr hq)) (not_lt.1 (nearest_not_lt hq hr))
  all_goals exact Eq.trans hq hr.symm

/-- The quotient that `quantize` takes, with the sign put back, is what the value rounds to. -/
theorem roundsTo_quantize (mode : BitVec 2) (n : Bool) (a : Nat) {b : Nat} (hb : 0 < b) :
    RoundsTo mode (signed n ((a : Rat) / b)) (if n then -((quantize mode n a b 0).1 : Int) else (quantize mode n a b 0).1) := by
  obtain ⟨-, hcases⟩ := quantize_cases mode n a hb 0 (y := (a : Rat) / b) (by simp)
  have hy : (0 : Rat) ≤ (a : Rat) / b := by positivity
  generalize (a : Rat) / b = y at *
  generalize (quantize mode n a b 0).1 = M at *
  have hfloor : ⌊y⌋ = (⌊y⌋₊ : Int) := (Int.natCast_floor_eq_floor hy).symm
  have hlow := Nat.floor_le hy
  have hhigh := Nat.lt_floor_add_one y
  have hceil : ⌈y⌉ = if (⌊y⌋₊ : Rat) = y then (⌊y⌋₊ : Int) else ⌊y⌋₊ + 1 := by
    rw [Int.ceil_eq_iff]
    split_ifs with h
    · simp [h]
    · push_cast
      exact ⟨by linarith [lt_of_le_of_ne hlow h], hhigh.le⟩
  have hfloorM (h : ¬RoundsUp mode n y) : (M : Int) = ⌊y⌋ := by
    obtain ⟨hup, -⟩ | ⟨-, rfl⟩ := hcases
    · exact absurd hup h
    · exact hfloor.symm
  have hceilM (h : RoundsUp mode n y ↔ (⌊y⌋₊ : Rat) ≠ y) : (M : Int) = ⌈y⌉ := by
    rw [hceil]
    obtain ⟨hup, rfl⟩ | ⟨hup, rfl⟩ := hcases
    · rw [if_neg (h.1 hup)]
      push_cast
      rfl
    · rw [if_pos (not_not.1 (mt h.2 hup))]
  obtain rfl | rfl | rfl | rfl := mode_cases mode
  · have habs : |signed n y - ((if n then -(M : Int) else M : Int) : Rat)| = |y - M| := by
      cases n
      · simp [signed]
      · simp [signed, abs_sub_comm, neg_add_eq_sub]
    have heven : (if n then -(M : Int) else M) % 2 = 0 ↔ M % 2 = 0 := by cases n <;> simp <;> omega
    show _ ∨ _
    rw [habs, heven]
    obtain ⟨⟨hne, hup⟩, rfl⟩ | ⟨hup, rfl⟩ := hcases
    · push_cast
      rw [abs_of_neg (by linarith)]
      exact hup.imp (fun h => by linarith) fun ⟨h, hodd⟩ => ⟨by linarith, by omega⟩
    · rw [abs_of_nonneg (by linarith)]
      rcases lt_trichotomy ((y - ⌊y⌋₊) * 2) 1 with hlt | heq | hgt
      · exact .inl hlt
      · refine .inr ⟨heq, ?_⟩
        by_contra hodd
        exact hup ⟨fun he => by rw [he] at heq; norm_num at heq, .inr ⟨by linarith, by omega⟩⟩
      · exact absurd ⟨fun he => by rw [he] at hgt; norm_num at hgt, .inl (by linarith)⟩ hup
  · have hM := hfloorM fun h => h.2
    show _ = _
    rw [hM]
    cases n
    · simp [signed, hy.not_gt]
    · rcases hy.eq_or_lt with rfl | hpos
      · simp [signed]
      · simp [signed, hpos, Int.ceil_neg]
  · show _ = _
    cases n
    · simp [signed, hfloorM fun h => Bool.noConfusion h.2]
    · simp [signed, hceilM ⟨And.left, fun h => ⟨h, rfl⟩⟩, Int.floor_neg]
  · show _ = _
    cases n
    · simp [signed, hceilM ⟨And.left, fun h => ⟨h, rfl⟩⟩]
    · simp [signed, hfloorM fun h => Bool.noConfusion h.2, Int.ceil_neg]

theorem Exact.scale_rat (k : Int) (n : Bool) (a : Nat) {b : Nat} (hb : 0 < b) :
    ∃ a' b' : Nat, (Exact.rat n a b).scale k = .rat n a' b' ∧ 0 < b' ∧ (a' : Rat) / b' = (a : Rat) / b * 2 ^ k := by
  rcases le_or_gt 0 k with h | h
  · obtain ⟨j, rfl⟩ := Int.eq_ofNat_of_zero_le h
    exact ⟨a * 2 ^ j, b, by simp [Exact.scale], hb, by push_cast; rw [zpow_natCast]; ring⟩
  · obtain ⟨j, hj⟩ := Int.eq_ofNat_of_zero_le (Int.neg_nonneg_of_nonpos h.le)
    obtain rfl : k = -j := by omega
    have hj0 : j ≠ 0 := by omega
    refine ⟨a, b * 2 ^ j, by simp [Exact.scale, hj0], by positivity, ?_⟩
    push_cast
    rw [zpow_neg, zpow_natCast]
    field_simp

/-- A rational rounds to the integer `q` of its mode, and saturates with NV where that lies outside the range (R46). -/
theorem toInt_rat (mode : BitVec 2) (lo hi : Int) (n : Bool) (a : Nat) {b : Nat} (hb : 0 < b) {v : Rat} (hv : v = signed n ((a : Rat) / b)) {q : Int}
    (hq : RoundsTo mode v q) :
    toInt mode lo hi (.rat n a b) = if q < lo then (lo, fNV) else if hi < q then (hi, fNV) else (q, if (q : Rat) = v then 0 else fNX) := by
  have hround := roundsTo_quantize mode n a hb
  obtain ⟨hinexact, hcases⟩ := quantize_cases mode n a hb 0 (y := (a : Rat) / b) (by simp)
  obtain rfl := roundsTo_unique hq (hv ▸ hround)
  have hsame : (((if n then -((quantize mode n a b 0).1 : Int) else (quantize mode n a b 0).1 : Int)) : Rat) = v ↔
      (quantize mode n a b 0).2 = false := by
    rw [← Bool.not_eq_true, hinexact, not_not, hv]
    generalize (a : Rat) / b = y at *
    generalize (quantize mode n a b 0).1 = M at *
    have hmag : (((if n then -(M : Int) else M : Int)) : Rat) = signed n y ↔ (M : Rat) = y := by cases n <;> simp [signed]
    rw [hmag]
    obtain ⟨⟨hne, -⟩, rfl⟩ | ⟨-, rfl⟩ := hcases
    · refine iff_of_false (fun he => absurd (congrArg Nat.floor he) ?_) hne
      rw [Nat.floor_natCast]
      exact Nat.succ_ne_self _
    · rfl
  have hflag : flagIf (quantize mode n a b 0).2 fNX =
      if (((if n then -((quantize mode n a b 0).1 : Int) else (quantize mode n a b 0).1 : Int)) : Rat) = v then 0 else fNX := by
    simp only [hsame]
    cases (quantize mode n a b 0).2 <;> rfl
  rw [← hflag]
  rfl

/-! ### The instruction -/

/-- The source of a conversion: an integer, or a number of a format with NV where it is a signalling NaN (R141). -/
def cvtSource (fr : BitVec 3) (x : Word) : Exact × FFlags :=
  if 4 ≤ fr.toNat then (intExact (cvtInt fr x), 0)
  else ((unpack (cvtFmt fr) (fBits (cvtFmt fr) x)).exact, snan [unpack (cvtFmt fr) (fBits (cvtFmt fr) x)])

theorem cvtCode_getLsbD (c : BitVec 3) : c.getLsbD 2 = decide (4 ≤ c.toNat) := by revert c; decide

theorem fpConvert_eq (mr : BitVec 8) (fr tgt : BitVec 3) (x : Word) :
    fpConvert mr fr tgt x =
      if 4 ≤ tgt.toNat then
        let r := toInt (mrRound mr) (cvtRange tgt).1 (cvtRange tgt).2 ((cvtSource fr x).1.scale (mrScale mr))
        (BitVec.ofInt 64 r.1, (cvtSource fr x).2 ||| r.2)
      else (fWord (formResult (cvtFmt tgt) mr (cvtSource fr x).1 (cvtSource fr x).2).1, (formResult (cvtFmt tgt) mr (cvtSource fr x).1 (cvtSource fr x).2).2) := by
  simp only [fpConvert, cvtSource, cvtCode_getLsbD, decide_eq_true_eq]

section
variable {s : State} {g : Guard} {mr : BitVec 8} {fr tgt : BitVec 3} {d a : BitVec 5} {e : Exact} {fl : FFlags}
variable (h : s.runs true false g) (hsrc : cvtSource fr (s.S a) = (e, fl))
include h hsrc

/-- Into a format of floating point: one rounding (R141). -/
theorem formsS_fcvt (htgt : tgt.toNat < 4) : FormsS (exec (.fcvt g mr fr tgt d a) s) s (cvtFmt tgt) mr d e fl := by
  refine writesS_run h ?_
  simp [fpConvert_eq, hsrc, htgt.not_ge]

/-- Into an integer format (R46). -/
theorem writesS_fcvt (htgt : 4 ≤ tgt.toNat) {q : Int} {fl' : FFlags}
    (hq : toInt (mrRound mr) (cvtRange tgt).1 (cvtRange tgt).2 (e.scale (mrScale mr)) = (q, fl')) :
    WritesS (exec (.fcvt g mr fr tgt d a) s) s d (BitVec.ofInt 64 q) (fl ||| fl') := by
  refine writesS_run h ?_
  simp [fpConvert_eq, hsrc, htgt, hq]

end

theorem intExact_value (v : Int) : (intExact v).value = some (v : Rat) := by
  rcases lt_or_ge v 0 with h | h
  · simp [intExact, Exact.value_rat, signed, h, abs_of_neg (Int.cast_lt_zero.2 h : (v : Rat) < 0)]
  · simp [intExact, Exact.value_rat, signed, h.not_gt, abs_of_nonneg (Int.cast_nonneg h : (0 : Rat) ≤ v)]

end Sys2Proof.Machine
end

section
/-! PROOF. Minima, maxima, roots, classes, comparisons and conversions (R44, R46, R138, R140, R141). -/

namespace Sys2Proof.Machine

/-- The class of bits as a mask of one bit, by their kind (R138). -/
theorem fclass_bit (f : Fmt) (bits : Nat) :
    let neg := bits / f.sign % 2 = 1
    ∃ k < 10, fpClass f bits = 2 ^ k ∧
      match unpack f bits with
      | .nan sg => k = if sg then 8 else 9
      | .inf _ => k = if neg then 0 else 7
      | .fin _ m _ =>
        if m = 0 then k = if neg then 3 else 4
        else if m < 2 ^ f.fw then k = if neg then 2 else 5
        else k = if neg then 1 else 6 := by
  intro neg
  cases hu : unpack f bits with
  | nan sg => exact ⟨if sg then 8 else 9, by split_ifs <;> decide, by rw [fpClass_nan hu]; split_ifs <;> rfl, rfl⟩
  | inf n =>
    have hn : n = true ↔ neg := by rw [unpack_inf_sign hu, beq_iff_eq]
    exact ⟨if neg then 0 else 7, by split_ifs <;> decide, by rw [fpClass_inf hu]; simp only [hn]; split_ifs <;> rfl, rfl⟩
  | fin n m e =>
    have hn : n = true ↔ neg := by rw [(unpack_fin_bits hu).1, beq_iff_eq]
    refine ⟨if m = 0 then (if neg then 3 else 4) else if m < 2 ^ f.fw then (if neg then 2 else 5) else if neg then 1 else 6,
      by split_ifs <;> decide, by rw [fpClass_fin hu]; simp only [hn]; split_ifs <;> rfl, ?_⟩
    dsimp only
    split_ifs <;> rfl

theorem conversionsRoundOnce (s : State) (g : Guard) (mr : BitVec 8) (fr tgt : BitVec 3) (d a : BitVec 5) (h : s.runs true false g) :
    let o := exec (.fcvt g mr fr tgt d a) s
    let x := unpack (cvtFmt fr) (fBits (cvtFmt fr) (s.S a))
    (4 ≤ fr.toNat → tgt.toNat < 4 → ∃ r, FormsS o s (cvtFmt tgt) mr d r 0 ∧ r.value = some ((cvtInt fr (s.S a) : Int) : Rat)) ∧
    (fr.toNat < 4 → tgt.toNat < 4 →
      (∀ n m e, x = .fin n m e → ∃ r, FormsS o s (cvtFmt tgt) mr d r 0 ∧ r.value = some x.value ∧ r.isNeg = n) ∧
      (∀ n, x = .inf n → FormsS o s (cvtFmt tgt) mr d (.inf n) 0) ∧
      (∀ sg, x = .nan sg → FormsS o s (cvtFmt tgt) mr d .nan (flagIf sg fNV))) ∧
    (fr.toNat < 4 → 4 ≤ tgt.toNat →
      (∀ sg, x = .nan sg → WritesS o s d 0 fNV) ∧
      (∀ n, x = .inf n → WritesS o s d (BitVec.ofInt 64 (if n then (cvtRange tgt).1 else (cvtRange tgt).2)) fNV) ∧
      (∀ n m e, x = .fin n m e → ∀ q, RoundsTo (mrRound mr) (x.value * (2 : Rat) ^ mrScale mr) q →
        if q < (cvtRange tgt).1 then WritesS o s d (BitVec.ofInt 64 (cvtRange tgt).1) fNV
        else if (cvtRange tgt).2 < q then WritesS o s d (BitVec.ofInt 64 (cvtRange tgt).2) fNV
        else WritesS o s d (BitVec.ofInt 64 q) (if (q : Rat) = x.value * (2 : Rat) ^ mrScale mr then 0 else fNX))) := by
  intro o x
  have hsrc (hfr : fr.toNat < 4) : cvtSource fr (s.S a) = (x.exact, snan [x]) := if_neg hfr.not_ge
  refine ⟨fun hfr htgt => ⟨_, formsS_fcvt h (if_pos hfr) htgt, intExact_value _⟩, fun hfr htgt => ⟨fun n m e hx => ?_, fun n hx => ?_, fun sg hx => ?_⟩,
    fun hfr htgt => ⟨fun sg hx => ?_, fun n hx => ?_, fun n m e hx q hq => ?_⟩⟩
  all_goals
    have hsrc := hsrc hfr
    rw [hx] at hsrc
  · rw [hx]
    exact ⟨_, formsS_fcvt h hsrc htgt, exact_value_fin n m e⟩
  · exact formsS_fcvt h hsrc htgt
  · rw [show snan [FVal.nan sg] = flagIf sg fNV by simp [snan]] at hsrc
    exact formsS_fcvt h hsrc htgt
  · have := writesS_fcvt (mr := mr) (d := d) h hsrc htgt (q := 0) (fl' := fNV) rfl
    rwa [snan_or_fNV] at this
  · have := writesS_fcvt (mr := mr) (d := d) h hsrc htgt (q := if n then (cvtRange tgt).1 else (cvtRange tgt).2) (fl' := fNV) rfl
    rwa [snan_or_fNV] at this
  · obtain ⟨a', b', hexact, hb, -, hv⟩ := exists_exact_fin n m e
    obtain ⟨a'', b'', hscale, hb', hv'⟩ := Exact.scale_rat (mrScale mr) n a' hb
    have hvalue : x.value * (2 : Rat) ^ mrScale mr = signed n ((a'' : Rat) / b'') := by rw [hx, hv, hv', signed, signed, mul_assoc]
    rw [show snan [FVal.fin n m e] = 0 by simp [snan]] at hsrc
    have hint := toInt_rat (mrRound mr) (cvtRange tgt).1 (cvtRange tgt).2 n a'' hb' hvalue hq
    have hwrites {r : Int} {fl : FFlags} (hr : toInt (mrRound mr) (cvtRange tgt).1 (cvtRange tgt).2 (.rat n a'' b'') = (r, fl)) :
        WritesS o s d (BitVec.ofInt 64 r) fl := by
      have := writesS_fcvt (mr := mr) (d := d) h hsrc htgt (q := r) (fl' := fl) (by rw [hexact, hscale, hr])
      rwa [show (0 : FFlags) ||| fl = fl from BitVec.zero_or] at this
    split_ifs at hint ⊢ <;> exact hwrites hint

/-- Settles O32: what each instruction writes is read off its operation on exact values, kind of operand by kind of operand. -/
theorem floatSelectionsRootsAndConversions : Obligations.FloatSelectionsRootsAndConversions := by
  refine ⟨fun s g mo mr d a b p wide h => ?_, conversionsRoundOnce⟩
  intro f x y fl least most root cls cmp
  have hleast {e fl} : fpMinMax false x y = (e, fl) → FormsS least s f 0 d e fl := formsS_fmin h wide rfl
  have hmost {e fl} : fpMinMax true x y = (e, fl) → FormsS most s f 0 d e fl := formsS_fmax h wide rfl
  have hcmp {cond v fl} : fpCond cond x y = (v, fl) → WritesP (cmp cond) s p v fl := writesP_fcmp h wide rfl
  have hroot {e fl} : fpSqrt x = (e, fl) → FormsS root s f mr d e fl := formsS_fsqrt h wide rfl
  have hcls : WritesS cls s d (fWord (fpClass f (fBits f (s.S a)))) 0 := writesS_fclass h wide rfl
  clear_value x y least most root cls cmp
  refine ⟨fun hx hy => ?_, fun hx hy => ?_, fun hx hy => ?_, fun hnan cond => hcmp (fpCond_of_isNaN hnan cond),
    fun n1 m1 e1 n2 m2 e2 hx hy => ?_, fun hx hy => ⟨?_, ?_, ?_, ?_, ?_, ?_, fun hinf => ?_⟩, fun n m e hx => ?_,
    fun hx => hroot (by rw [hx]; rfl), fun hx => hroot (by rw [hx]; rfl), ?_⟩
  · have hr (mx) : fpMinMax mx x y = (.nan, fl) := by rw [fpMinMax_of_isNaN mx (.inl hx), hx, hy, snan_pair]; rfl
    exact ⟨hleast (hr false), hmost (hr true)⟩
  · have hr (mx) : fpMinMax mx x y = (y.exact, fl) := by rw [fpMinMax_of_isNaN mx (.inl hx), hx, hy, snan_pair]; rfl
    exact ⟨hleast (hr false), hmost (hr true)⟩
  · have hr (mx) : fpMinMax mx x y = (x.exact, fl) := by rw [fpMinMax_of_isNaN mx (.inr hy), hx, snan_pair]; rfl
    exact ⟨hleast (hr false), hmost (hr true)⟩
  · have horder := exactCmp_fin n1 m1 e1 n2 m2 e2
    subst hx hy
    obtain ⟨heq, hlt, hle, hun⟩ := fpCond_of_ordered (x := .fin n1 m1 e1) (y := .fin n2 m2 e2) rfl rfl (by simp [snan])
    dsimp only at horder
    rw [horder] at heq hlt hle
    refine ⟨?_, ?_, hcmp (heq.trans ?_), hcmp (hlt.trans ?_), hcmp (hle.trans ?_), hcmp hun⟩
    · exact (fpMinMax_fin false n1 m1 e1 n2 m2 e2).imp fun r hr => ⟨hleast hr.1, hr.2⟩
    · exact (fpMinMax_fin true n1 m1 e1 n2 m2 e2).imp fun r hr => ⟨hmost hr.1, hr.2⟩
    all_goals
      rcases lt_trichotomy (FVal.fin n1 m1 e1).value (FVal.fin n2 m2 e2).value with h | h | h
      · simp [h, h.ne, h.le]
      · simp [h]
      · simp [h, h.ne', h.not_gt, h.not_ge]
  · rintro (rfl | rfl)
    · exact hleast (fpMinMax_inf_left false true hy)
    · exact hleast (fpMinMax_inf_right false true hx)
  · rintro rfl
    exact hleast (fpMinMax_inf_left false false hy)
  · rintro rfl
    exact hleast (fpMinMax_inf_right false false hx)
  · rintro (rfl | rfl)
    · exact hmost (fpMinMax_inf_left true false hy)
    · exact hmost (fpMinMax_inf_right true false hx)
  · rintro rfl
    exact hmost (fpMinMax_inf_left true true hy)
  · rintro rfl
    exact hmost (fpMinMax_inf_right true true hx)
  · have hquiet : snan [x, y] = 0 := by simp [snan_pair, FVal.isSNaN_of_isNaN_false hx, FVal.isSNaN_of_isNaN_false hy]
    obtain ⟨heq, hlt, hle, hun⟩ := fpCond_of_ordered hx hy hquiet
    rw [exactCmp_of_inf hx hy hinf] at heq hlt hle
    refine ⟨hcmp (heq.trans ?_), hcmp (hlt.trans ?_), hcmp (hle.trans ?_), hcmp hun⟩
    · split_ifs with h1 h2 <;> simp [h1]
    · by_cases h1 : x = y <;> by_cases h2 : x = .inf true ∨ y = .inf false <;> simp [h1, h2]
    · by_cases h1 : x = y
      · subst h1
        obtain ⟨n, hn⟩ := hinf
        obtain rfl : x = .inf n := hn.elim id id
        cases n <;> simp
      · by_cases h2 : x = .inf true ∨ y = .inf false <;> simp [h1, h2]
  · subst hx
    obtain ⟨hzero, hneg, hpos⟩ := fpSqrt_fin n m e
    refine ⟨fun hm => hroot (hzero hm), fun hm hn => hroot (hneg hm hn), fun hm hn => ?_⟩
    obtain ⟨r, v, hr, hrest⟩ := hpos hm hn
    exact ⟨r, v, hroot hr, hrest⟩
  · obtain ⟨k, hk, hbit, hkind⟩ := fclass_bit f (fBits f (s.S a))
    exact ⟨k, hk, by rw [hbit] at hcls; exact hcls, hkind⟩

end Sys2Proof.Machine
end

section
/-! SUPPORT. What an event of a row changes of each core, and the GANGABORT that a context takes (R168, R359). -/

namespace Sys2Proof.Machine

/-! ### Rows -/

@[simp] theorem State.coreAt_setRow (s : State) (n : Nat) (r : Row) (g : Nat) : (s.setRow n r).coreAt g = s.coreAt g := rfl

@[simp] theorem State.row_setRow (s : State) (n m : Nat) (r : Row) : (s.setRow n r).row m = if m = n then r else s.row m := by
  unfold State.row State.setRow
  simp only [smapGet?_smapSet]
  split <;> rfl

theorem State.row_congr {s t : State} (h : t.rows = s.rows) (n : Nat) : t.row n = s.row n := by rw [State.row, State.row, h]

theorem rowCores_eq (row : Nat) : rowCores row = [4 * row, 4 * row + 1, 4 * row + 2, 4 * row + 3] := rfl

theorem rowCores_nodup (row : Nat) : (rowCores row).Nodup := List.Nodup.map (fun _ _ h => Nat.add_left_cancel h) List.nodup_range

/-- Core `g` has this `gang` at the head of its queue: its command word, entry and next pc, and what stands behind it. -/
def Offers (s : State) (g : Nat) (w : Word) (x : VEntry) (n : Word) (rest : List VEntry) : Prop := (s.coreAt g).vq = x :: rest ∧ x.op = .gang w n

theorem Offers.gangHead {s : State} {g : Nat} {w n : Word} {x : VEntry} {rest : List VEntry} (h : Offers s g w x n rest) :
    s.gangHead g = some (x.cap.ctx, w, n) := by simp [State.gangHead, h.1, h.2]

/-! ### One core after another -/

/-- `t` is `s` but for core `g`, memory and what belongs to no core, row or launch. -/
structure OnlyCore (g : Nat) (s t : State) : Prop where
  rows     : t.rows = s.rows
  launches : t.launches = s.launches
  other    : ∀ k ≠ g, t.coreAt k = s.coreAt k

theorem onlyCore_setCore (s : State) (g : Nat) (c : Core) : OnlyCore g s (s.setCore g c) := ⟨rfl, rfl, fun k hk => by simp [hk]⟩

theorem OnlyCore.refl (g : Nat) (s : State) : OnlyCore g s s := ⟨rfl, rfl, fun _ _ => rfl⟩

theorem OnlyCore.trans {g : Nat} {s t u : State} (h : OnlyCore g s t) (h' : OnlyCore g t u) : OnlyCore g s u :=
  ⟨h'.rows.trans h.rows, h'.launches.trans h.launches, fun k hk => (h'.other k hk).trans (h.other k hk)⟩

/-- What is done to the cores of a list, one after another, is done to each as if alone. -/
theorem foldl_onlyCore {α : Type} {f : State → α → State} {key : α → Nat} (hf : ∀ s x, OnlyCore (key x) s (f s x)) (xs : List α) (s : State) :
    (xs.foldl f s).rows = s.rows ∧ (xs.foldl f s).launches = s.launches ∧ (∀ k, (∀ x ∈ xs, key x ≠ k) → (xs.foldl f s).coreAt k = s.coreAt k) ∧
      ((xs.map key).Nodup → ∀ x ∈ xs, ∃ u : State, u.rows = s.rows ∧ u.launches = s.launches ∧ u.coreAt (key x) = s.coreAt (key x) ∧
        (xs.foldl f s).coreAt (key x) = (f u x).coreAt (key x)) := by
  induction xs generalizing s with
  | nil => exact ⟨rfl, rfl, fun _ _ => rfl, fun _ x hx => nomatch hx⟩
  | cons y ys ih =>
    obtain ⟨hrows, hlaunches, hother, hmem⟩ := ih (f s y)
    have hy := hf s y
    refine ⟨hrows.trans hy.rows, hlaunches.trans hy.launches, fun k hk => ?_, fun hnodup x hx => ?_⟩
    · rw [List.foldl_cons, hother k fun x hx => hk x (List.mem_cons_of_mem _ hx)]
      exact hy.other k (hk y List.mem_cons_self).symm
    · rw [List.map_cons, List.nodup_cons] at hnodup
      obtain rfl | hx := List.mem_cons.1 hx
      · exact ⟨s, rfl, rfl, rfl, hother _ fun z hz he => hnodup.1 (he ▸ List.mem_map_of_mem hz)⟩
      · obtain ⟨u, hu, hu', hcore, hfold⟩ := hmem hnodup.2 x hx
        have hne : key x ≠ key y := fun he => hnodup.1 (he ▸ List.mem_map_of_mem hx)
        exact ⟨u, hu.trans hy.rows, hu'.trans hy.launches, hcore.trans (hy.other _ hne), hfold⟩

/-! ### Taking a cause -/

/-- `t` differs from `s` in the core in hand, outside its queue, and in what belongs to no core, row or launch. -/
structure InHandOnly (s t : State) : Prop where
  hand : t.hand = s.hand
  only : OnlyCore s.hand.core s t
  vq   : (t.coreAt s.hand.core).vq = (s.coreAt s.hand.core).vq

theorem InHandOnly.trans {s t u : State} (h : InHandOnly s t) (h' : InHandOnly t u) : InHandOnly s u := by
  have h2 := h'.only
  have h3 := h'.vq
  rw [h.hand] at h2 h3
  exact ⟨h'.hand.trans h.hand, h.only.trans h2, h3.trans h.vq⟩

theorem inHandOnly_modMe (s : State) (f : Core → Core) (hf : ∀ c, (f c).vq = c.vq) : InHandOnly s (s.modMe f) :=
  ⟨rfl, onlyCore_setCore s _ _, by simp [State.coreAt_modMe, hf, State.me]⟩

theorem inHandOnly_modMy (s : State) (f : Context → Context) : InHandOnly s (s.modMy f) := inHandOnly_modMe s _ fun _ => rfl

theorem inHandOnly_report (s : State) (r : Report) : InHandOnly s (s.report r) := ⟨rfl, ⟨rfl, rfl, fun _ _ => rfl⟩, rfl⟩

theorem inHandOnly_raiseEvent (s : State) (ld cls : Nat) : InHandOnly s (s.raiseEvent ld cls) := ⟨rfl, ⟨rfl, rfl, fun _ _ => rfl⟩, rfl⟩

theorem inHandOnly_endUnit (s : State) (err : BitVec 16) (fcode : Nat) : InHandOnly s (s.endUnit s.hand.core err fcode) :=
  ⟨rfl, onlyCore_setCore s _ _, by simp [State.endUnit]⟩

/-- GANGABORT is none of the causes that an upcall takes (R361). -/
theorem deliverNow_gangAbort (s : State) (addr info epc : Word) :
    s.deliverNow ⟨cGANGABORT, addr, info⟩ epc =
      if s.isAvlyn then
        if s.me.inHandler || s.me.tvec = 0 then ((s.setPc epc).modMe fun c => { c with stopped := true }).report (.avlyn (s.hand.core - nCores))
        else (s.enterHandler ⟨cGANGABORT, addr, info⟩ epc).modMe fun c => { c with inHandler := true }
      else if s.inCable then s.modMy fun c => { c with pc := epc, st := .waiting (.held cGANGABORT addr info) }
      else if s.my.sys || s.me.tvec = 0 then
        (((s.setPc epc).endUnit s.hand.core errFAULT cGANGABORT).report (.unitFault s.hand.core cGANGABORT)).raiseEvent s.partNo 5
      else s.enterHandler ⟨cGANGABORT, addr, info⟩ epc := rfl

theorem inHandOnly_deliverNow (s : State) (addr info epc : Word) : InHandOnly s (s.deliverNow ⟨cGANGABORT, addr, info⟩ epc) := by
  rw [deliverNow_gangAbort]
  split_ifs
  · refine InHandOnly.trans ?_ (inHandOnly_report _ _)
    refine InHandOnly.trans (inHandOnly_modMy s fun c => { c with pc := epc }) ?_
    exact inHandOnly_modMe _ _ fun _ => rfl
  · have henter : InHandOnly s (s.enterHandler ⟨cGANGABORT, addr, info⟩ epc) := inHandOnly_modMy s _
    exact henter.trans (inHandOnly_modMe _ _ fun _ => rfl)
  · exact inHandOnly_modMy s _
  · exact (((inHandOnly_modMy s _).trans (inHandOnly_endUnit _ _ _)).trans (inHandOnly_report _ _)).trans (inHandOnly_raiseEvent _ _ _)
  · exact inHandOnly_modMy s _

/-! ### GANGABORT -/

/-- The handler's view of a GANGABORT: what R359 saves. -/
def Context.gangAborted (c : Context) (info tvec : Word) : Context :=
  { c with epc := c.pc, ecause := 16, eaddr := 0, einfo := info, sys := true, pc := tvec, st := .ready }

/-- What a `gang` that faults leaves (R168): it has left the queue, and its context is at the handler, when it may take a cause. -/
structure GangAborts (s t : State) (g : Nat) (info : Word) : Prop where
  queue   : ∀ w x n rest, Offers s g w x n rest → (t.coreAt g).vq = rest
  handler : ∀ w x n rest, Offers s g w x n rest → s.coreInCable g = false → g < 4608 → (s.coreAt g).ending = none →
    ((s.coreAt g).ctxAt x.cap.ctx).sys = false → (s.coreAt g).tvec ≠ 0 →
    (t.coreAt g).ctxAt x.cap.ctx = ((s.coreAt g).ctxAt x.cap.ctx).gangAborted info (s.coreAt g).tvec

theorem coreInCable_congr {s t : State} {g : Nat} (hl : t.launches = s.launches) (hu : (t.coreAt g).unit = (s.coreAt g).unit) :
    t.coreInCable g = s.coreInCable g := by
  simp [State.coreInCable, State.launchOf, State.launchAt, hl, hu]

/-- In user mode, outside a cable step, with a handler: the handler at TVEC is entered. -/
theorem my_deliverNow_gangAbort {s : State} (hg : s.hand.core < 4608) (hc : s.inCable = false) (hs : s.my.sys = false) (ht : s.me.tvec ≠ 0) (info : Word) :
    (s.deliverNow ⟨cGANGABORT, 0, info⟩ s.my.pc).my = s.my.gangAborted info s.me.tvec := by
  have hav : s.isAvlyn = false := decide_eq_false (not_le.2 hg)
  have hsys : s.inSys = false := by simp [State.inSys, hav, hs]
  have hhandler : (s.my.sys || decide (s.me.tvec = 0)) = false := by rw [hs, decide_eq_false ht, Bool.false_or]
  rw [deliverNow_gangAbort, hav, hc, hhandler]
  simp only [Bool.false_eq_true, if_false, State.enterHandler, State.my_modMy, hsys]
  rfl

/-- The core as the fault of its `gang` finds it: the entry has left the queue. -/
def State.gangDropped (s : State) (g : Nat) : State := s.setCore g { s.coreAt g with vq := (s.coreAt g).vq.tail }

theorem gangFault_of_gangHead {s : State} {g n : Nat} {w next : Word} (hf : (s.coreAt g).frozen = false) (h : s.gangHead g = some (n, w, next)) (code : Nat)
    (info : Word) :
    s.gangFault g code info = if (s.coreAt g).ending.isSome then s.gangDropped g
      else { ((s.gangDropped g).at g n).deliverNow ⟨code, 0, info⟩ ((s.coreAt g).ctxAt n).pc with hand := s.hand } := by
  simp [State.gangFault, State.gangDropped, hf, h, Core.ctxAt]

theorem onlyCore_gangDropped (s : State) (g : Nat) : OnlyCore g s (s.gangDropped g) := onlyCore_setCore s g _

theorem onlyCore_gangFault (s : State) (g : Nat) (info : Word) : OnlyCore g s (s.gangFault g cGANGABORT info) := by
  cases hf : (s.coreAt g).frozen with
  | true => simpa [State.gangFault, hf] using OnlyCore.refl g s
  | false =>
    cases hh : s.gangHead g with
    | none => simpa [State.gangFault, hf, hh] using OnlyCore.refl g s
    | some x =>
      obtain ⟨n, w, next⟩ := x
      rw [gangFault_of_gangHead hf hh]
      split_ifs
      · exact onlyCore_gangDropped s g
      · obtain ⟨-, ⟨hrows, hlaunches, hother⟩, -⟩ := inHandOnly_deliverNow ((s.gangDropped g).at g n) 0 info ((s.coreAt g).ctxAt n).pc
        exact (onlyCore_gangDropped s g).trans ⟨hrows, hlaunches, hother⟩

theorem gangAborts_gangFault {s : State} {g : Nat} (hf : (s.coreAt g).frozen = false) (info : Word) : GangAborts s (s.gangFault g cGANGABORT info) g info := by
  have hdropped : ((s.gangDropped g).coreAt g) = { s.coreAt g with vq := (s.coreAt g).vq.tail } := by simp [State.gangDropped]
  refine ⟨fun w x n rest h => ?_, fun w x n rest h hc hg he hs ht => ?_⟩ <;> rw [gangFault_of_gangHead hf h.gangHead]
  · have hvq : ((s.gangDropped g).coreAt g).vq = rest := by rw [hdropped, h.1]; rfl
    split_ifs
    · exact hvq
    · exact (inHandOnly_deliverNow ((s.gangDropped g).at g x.cap.ctx) 0 info _).vq.trans hvq
  · rw [he, if_neg (by simp)]
    have hcore : ((s.gangDropped g).at g x.cap.ctx).me = { s.coreAt g with vq := (s.coreAt g).vq.tail } := hdropped
    have hmy : ((s.gangDropped g).at g x.cap.ctx).my = (s.coreAt g).ctxAt x.cap.ctx := by rw [State.my, hcore]; rfl
    have hcable : ((s.gangDropped g).at g x.cap.ctx).inCable = false := by
      rw [← hc]
      have hunit := congrArg Core.unit hdropped
      exact coreInCable_congr rfl hunit
    have hhand := (inHandOnly_deliverNow ((s.gangDropped g).at g x.cap.ctx) 0 info ((s.coreAt g).ctxAt x.cap.ctx).pc).hand
    have hdeliver := my_deliverNow_gangAbort (s := (s.gangDropped g).at g x.cap.ctx) hg hcable (by rw [hmy]; exact hs) (by rw [hcore]; exact ht) info
    rw [hmy, hcore, State.my, State.me, hhand] at hdeliver
    exact hdeliver

/-- The `gang`s of some cores that fault one after another (R168). -/
theorem foldl_gangFault {gs : List Nat} (hnd : gs.Nodup) {s : State} (hf : ∀ g ∈ gs, (s.coreAt g).frozen = false) (info : Word) :
    (gs.foldl (fun s g => s.gangFault g cGANGABORT info) s).rows = s.rows ∧
      ∀ g ∈ gs, GangAborts s (gs.foldl (fun s g => s.gangFault g cGANGABORT info) s) g info := by
  obtain ⟨hrows, -, -, hcores⟩ := foldl_onlyCore (key := id) (fun s g => onlyCore_gangFault s g info) gs s
  refine ⟨hrows, fun g hg => ?_⟩
  obtain ⟨u, -, hlaunches, hcore, hfold⟩ := hcores (by simpa using hnd) g hg
  simp only [id] at hcore hfold
  obtain ⟨hqueue, hhandler⟩ := gangAborts_gangFault (s := u) (g := g) (by rw [hcore]; exact hf g hg) info
  have hoffers {w x n rest} (h : Offers s g w x n rest) : Offers u g w x n rest := ⟨hcore ▸ h.1, h.2⟩
  refine ⟨fun w x n rest h => by rw [hfold]; exact hqueue w x n rest (hoffers h), fun w x n rest h hc hlt he hs ht => ?_⟩
  have := hhandler w x n rest (hoffers h) (by rw [coreInCable_congr hlaunches (by rw [hcore])]; exact hc) hlt
  rw [hcore] at this
  rw [hfold]
  exact this he hs ht

end Sys2Proof.Machine
end

section
/-! SUPPORT. The match of the `gang`s of a row, and the start of the operation (R168, R169, R368). -/

namespace Sys2Proof.Machine

/-! ### What the match looks at -/

section
variable {s : State} {row l : Nat}

/-- The row is held by launch `l`, with no unit that is ending and no fault due for a missing core. -/
structure RowWhole (s : State) (row l : Nat) : Prop where
  unbroken : (s.row row).broken = false
  stayed   : (s.row row).left = []
  held     : ∀ g ∈ rowCores row, (s.coreAt g).unit.map (·.launch) = some l ∧ (s.coreAt g).ending = none

theorem mem_rowCores {g : Nat} : g ∈ rowCores row ↔ ∃ j < 4, g = 4 * row + j := by simp [rowCores, eq_comm]

theorem RowWhole.rowMissing (h : RowWhole s row l) : s.rowMissing row = false := by
  have hheld : s.rowHeld row = some l := rowHeld_of_all fun j hj => (h.held _ (mem_rowCores.2 ⟨j, hj, rfl⟩)).1
  have hending : ((rowCores row).any fun g => (s.coreAt g).ending.isSome) = false :=
    List.any_eq_false.2 fun g hg => by simp [(h.held g hg).2]
  simp [State.rowMissing, h.unbroken, hheld, hending]

theorem RowWhole.lost (h : RowWhole s row l) (gangs : List (Nat × Nat × Nat)) : (gangs.filter fun x => s.gangLost row x.1) = [] := by
  simp [State.gangLost, h.rowMissing, h.stayed]

theorem rowHeld_eq_some {k : Nat} (h : s.rowHeld row = some k) {g : Nat} (hg : g ∈ rowCores row) : (s.coreAt g).unit.map (·.launch) = some k := by
  obtain ⟨j, hj, rfl⟩ := mem_rowCores.1 hg
  unfold State.rowHeld at h
  dsimp only at h
  split at h
  · split_ifs at h with hall
    cases h
    exact eq_of_beq (List.all_eq_true.1 hall _ (List.mem_map_of_mem (List.mem_range.2 hj)))
  · cases h

/-- A row lacks a core of the launch: one holds no unit of it, or a unit that is ending. -/
theorem rowMissing_of_absent (hl : ∃ g ∈ rowCores row, (s.coreAt g).unit.map (·.launch) = some l)
    (h : ∃ g ∈ rowCores row, (s.coreAt g).unit.map (·.launch) ≠ some l ∨ (s.coreAt g).ending.isSome = true) : s.rowMissing row = true := by
  obtain ⟨g, hg, h⟩ := h
  rcases h with h | h
  · cases hheld : s.rowHeld row with
    | none => simp [State.rowMissing, hheld]
    | some k =>
      obtain ⟨g', hg', hl⟩ := hl
      exact absurd (rowHeld_eq_some hheld hg) (by rw [← rowHeld_eq_some hheld hg', hl]; exact h)
  · have hany : ((rowCores row).any fun g => (s.coreAt g).ending.isSome) = true := List.any_eq_true.2 ⟨g, hg, h⟩
    simp [State.rowMissing, hany]

/-- The offers are those of the cores that are not frozen and have a `gang` at the head of their queue. -/
theorem gangsOf_map_fst : (s.gangsOf row).map (·.1) = (rowCores row).filter fun g => !(s.coreAt g).frozen && (s.gangHead g).isSome := by
  unfold State.gangsOf
  induction rowCores row with
  | nil => rfl
  | cons g gs ih =>
    rw [List.filterMap_cons, List.filter_cons]
    cases hf : (s.coreAt g).frozen <;> cases hh : s.gangHead g <;> simp [ih]

theorem gangsOf_length_of_offers (hf : ∀ g ∈ rowCores row, (s.coreAt g).frozen = false)
    (ho : ∀ g ∈ rowCores row, ∃ w x n rest, Offers s g w x n rest) : (s.gangsOf row).length = 4 := by
  rw [← List.length_map (f := (·.1)), gangsOf_map_fst, List.filter_eq_self.2 fun g hg => ?_]
  · rfl
  · obtain ⟨w, x, n, rest, h⟩ := ho g hg
    simp [hf g hg, h.gangHead]

/-- A frozen core offers no `gang` (R368). -/
theorem gangsOf_length_of_frozen (hf : ∃ g ∈ rowCores row, (s.coreAt g).frozen = true) : (s.gangsOf row).length < 4 := by
  obtain ⟨g, hg, hf⟩ := hf
  rw [← List.length_map (f := (·.1)), gangsOf_map_fst]
  exact List.length_filter_lt_length_iff_exists.2 ⟨g, hg, by simp [hf]⟩

/-- The command words of the four offers. -/
theorem words_of_offers {words : Nat → Word} (ho : ∀ g ∈ rowCores row, ∃ x n rest, Offers s g (words g) x n rest) :
    ((rowCores row).filterMap fun g => (s.gangHead g).map (·.2.1)) = (rowCores row).map words := by
  refine List.filterMap_eq_map_iff_forall_eq_some.2 fun g hg => ?_
  obtain ⟨x, n, rest, h⟩ := ho g hg
  simp [h.gangHead]

theorem RowWhole.rowHalted (h : RowWhole s row l) (hf : ∀ g ∈ rowCores row, (s.coreAt g).frozen = false) : s.rowHalted row = false := by
  have hfrozen : ((rowCores row).any fun g => (s.coreAt g).frozen) = false := List.any_eq_false.2 fun g hg => by simp [hf g hg]
  simp [State.rowHalted, h.rowMissing, h.stayed, hfrozen]

end

/-! ### The match -/

section
variable {s : State} {row l : Nat}

/-- Fewer than four offers with no fault due: nothing happens. -/
theorem matchRow_of_few (h : RowWhole s row l) (hfew : (s.gangsOf row).length < 4) : s.matchRow row = s := by
  simp [State.matchRow, h.lost, hfew]

/-- Where a core is missing, the `gang`s that wait fault (R168). -/
theorem matchRow_of_missing (hm : s.rowMissing row = true) (hsome : s.gangsOf row ≠ []) (hsettled : ∀ g ∈ rowCores row, s.gangSettled g = true) :
    s.matchRow row = ((s.gangsOf row).map (·.1)).foldl (fun s g => s.gangFault g cGANGABORT 1)
      (s.setRow row { s.row row with broken := false, left := [], matched := none }) := by
  have hlost : ((s.gangsOf row).filter fun x => s.gangLost row x.1) = s.gangsOf row := List.filter_eq_self.2 fun x _ => by simp [State.gangLost, hm]
  have hall : ((s.gangsOf row).all fun x => s.gangSettled x.1) = true := List.all_eq_true.2 fun x hx => by
    have : x.1 ∈ (s.gangsOf row).map (·.1) := List.mem_map_of_mem hx
    rw [gangsOf_map_fst] at this
    exact hsettled _ (List.mem_filter.1 this).1
  rw [List.foldl_map]
  simp [State.matchRow, hlost, hall, hsome]

theorem words_agree {word : Word} (hw : word &&& 0xFFFFFFFFFFFF00F0 = 0) (gs : List Nat) :
    ((gs.map fun _ => word).all fun x => x == word && x &&& 0xFFFFFFFFFFFF00F0 == 0) = true := by
  refine List.all_eq_true.2 fun x hx => ?_
  obtain ⟨_, _, rfl⟩ := List.mem_map.1 hx
  rw [hw]
  simp

section
variable (h : RowWhole s row l) (hm : (s.row row).matched = none) (hf : ∀ g ∈ rowCores row, (s.coreAt g).frozen = false)
include h hm hf

theorem matchRow_of_differing {words : Nat → Word} (ho : ∀ g ∈ rowCores row, ∃ x n rest, Offers s g (words g) x n rest)
    (hsettled : ∀ g ∈ rowCores row, s.gangSettled g = true)
    (hw : ∃ g ∈ rowCores row, words g ≠ words (4 * row) ∨ words g &&& 0xFFFFFFFFFFFF00F0 ≠ 0) : s.matchRow row = s.gangAbort row 0 := by
  have hlen := gangsOf_length_of_offers hf fun g hg => ⟨words g, ho g hg⟩
  have hne : s.gangsOf row ≠ [] := fun he => by rw [he] at hlen; cases hlen
  have hall : (((rowCores row).map words).all fun x => x == ((rowCores row).map words).headD 0 && x &&& 0xFFFFFFFFFFFF00F0 == 0) = false := by
    obtain ⟨g, hg, hw⟩ := hw
    refine List.all_eq_false.2 ⟨words g, List.mem_map_of_mem hg, fun he => ?_⟩
    rw [Bool.and_eq_true, beq_iff_eq, beq_iff_eq] at he
    exact hw.elim (fun hne => hne he.1) fun hres => hres he.2
  have hsettled' : (rowCores row).all s.gangSettled = true := List.all_eq_true.2 hsettled
  unfold State.matchRow
  simp only [h.lost, words_of_offers ho, hall, hsettled']
  simp [hne, hlen, hm]

/-- What a match leaves (R168, R169): the operation waits for its cycle S, two cycles from now by the clock of the lead. -/
structure Matched (s t : State) (row lead : Nat) (parts : BitVec 4) (m : RowOp) : Prop where
  state : t = s.setRow row { s.row row with matched := some m }
  leads : m.lead = lead
  takes : m.parts = parts
  due   : m.due = (s.coreAt lead).cycles + 2

section
variable {word : Word} (ho : ∀ g ∈ rowCores row, ∃ x n rest, Offers s g word x n rest) (hw : word &&& 0xFFFFFFFFFFFF00F0 = 0)
include ho hw

theorem matchRow_of_none (hp : partsOf row (word.setWidth 4) = []) : ∃ m, Matched s (s.matchRow row) row (4 * row) 0 m := by
  have hlen := gangsOf_length_of_offers hf fun g hg => ⟨word, ho g hg⟩
  have hne : s.gangsOf row ≠ [] := fun he => by rw [he] at hlen; cases hlen
  have hhead : ((rowCores row).map fun _ => word).headD 0 = word := rfl
  refine ⟨⟨0, 4 * row, ((s.gangsOf row).headD (0, 0, 0)).2.1, 0, 0, false, s.gangsOf row, (s.coreAt (4 * row)).cycles + 2⟩, ?_, rfl, rfl, rfl⟩
  unfold State.matchRow
  simp only [h.lost, words_of_offers (words := fun _ => word) ho, hhead, words_agree hw, hp]
  simp [hne, hlen, hm]

theorem matchRow_of_lead {lead : Nat} {tl : List Nat} (hp : partsOf row (word.setWidth 4) = lead :: tl)
    (hrange : ∀ g ∈ rowCores row, s.badRange lead (word.setWidth 4) g = false) :
    ∃ m, Matched s (s.matchRow row) row lead (word.setWidth 4) m := by
  have hlen := gangsOf_length_of_offers hf fun g hg => ⟨word, ho g hg⟩
  have hne : s.gangsOf row ≠ [] := fun he => by rw [he] at hlen; cases hlen
  have hhead : ((rowCores row).map fun _ => word).headD 0 = word := rfl
  have hbad : (rowCores row).filter (s.badRange lead (word.setWidth 4)) = [] := List.filter_eq_nil_iff.2 fun g hg => by simp [hrange g hg]
  obtain ⟨own, hown⟩ : ∃ own, own = (((s.gangsOf row).find? fun x => x.1 == lead).getD (0, 0, 0)) := ⟨_, rfl⟩
  refine ⟨⟨own.2.2, lead, own.2.1, word.setWidth 4, 0, false, s.gangsOf row, (s.coreAt lead).cycles + 2⟩, ?_, rfl, rfl, rfl⟩
  unfold State.matchRow
  simp only [h.lost, words_of_offers (words := fun _ => word) ho, hhead, words_agree hw, hp, hbad, ← hown]
  simp [hne, hlen, hm]

end
end

/-- The participants by their place in the row. -/
theorem partsOf_eq (parts : BitVec 4) : partsOf row parts = ((List.range 4).filter parts.getLsbD).map (4 * row + ·) := by
  rw [partsOf, rowCores, List.filter_map]
  congr 1
  refine List.filter_congr fun j hj => ?_
  rw [List.mem_range] at hj
  rw [Function.comp_apply, show (4 * row + j) % 4 = j by omega]

/-- The lead is the lowest participant (R168). -/
theorem partsOf_lead {parts : BitVec 4} {i : Nat} (hi : i < 4) (hbit : parts.getLsbD i = true) (hlow : ∀ j < i, parts.getLsbD j = false) :
    ∃ tl, partsOf row parts = (4 * row + i) :: tl := by
  have hleast : ∀ p : BitVec 4, ∀ i < 4, p.getLsbD i = true → (∀ j < i, p.getLsbD j = false) → ((List.range 4).filter p.getLsbD).head? = some i := by
    decide
  obtain ⟨tl, htl⟩ := List.head?_eq_some_iff.1 (hleast parts i hi hbit hlow)
  exact ⟨tl.map (4 * row + ·), by rw [partsOf_eq, htl]; rfl⟩

theorem mem_partsOf {parts : BitVec 4} {g : Nat} : g ∈ partsOf row parts ↔ g ∈ rowCores row ∧ parts.getLsbD (g % 4) = true := List.mem_filter

end

/-! ### The start -/

section
variable {s : State} {row : Nat}

/-- A `gang` that is released: it leaves the queue and its context goes on after it (R169). -/
theorem gangRelease_of_offers {g : Nat} {w n : Word} {x : VEntry} {rest : List VEntry} (h : Offers s g w x n rest) :
    ((s.gangRelease g).coreAt g).vq = rest ∧ (((s.gangRelease g).coreAt g).ctxAt x.cap.ctx).pc = n ∧
      (((s.gangRelease g).coreAt g).ctxAt x.cap.ctx).st = .ready := by
  simp [State.gangRelease, h.gangHead, h.1, State.modCtx]

theorem onlyCore_gangRelease (s : State) (g : Nat) : OnlyCore g s (s.gangRelease g) := by
  unfold State.gangRelease
  split
  · exact .refl g s
  · exact (onlyCore_setCore s g _).trans (onlyCore_setCore _ g _)

/-- Marking the tile registers of the participants changes them only. -/
def State.markInFlight (s : State) (gs : List Nat) : State :=
  gs.foldl (fun s g => s.setCore g { s.coreAt g with t0 := inFlight (s.coreAt g).t0, t1 := inFlight (s.coreAt g).t1 }) s

theorem markInFlight_rows (s : State) (gs : List Nat) : (s.markInFlight gs).rows = s.rows :=
  (foldl_onlyCore (key := id) (fun s g => onlyCore_setCore s g _) gs s).1

theorem coreAt_markInFlight (s : State) (gs : List Nat) (g : Nat) :
    ∃ t0 t1, (s.markInFlight gs).coreAt g = { s.coreAt g with t0 := t0, t1 := t1 } := by
  induction gs generalizing s with
  | nil => exact ⟨_, _, rfl⟩
  | cons k ks ih =>
    obtain ⟨t0, t1, h⟩ := ih (s.setCore k { s.coreAt k with t0 := inFlight (s.coreAt k).t0, t1 := inFlight (s.coreAt k).t1 })
    refine ⟨t0, t1, h.trans ?_⟩
    rw [State.coreAt_setCore]
    split_ifs with hk
    · rw [hk]
    · rfl

/-- A matched operation whose cycle has not come, or that finds the array busy or its clock held, does not start. -/
theorem startRow_of_not_due {m : RowOp} (hm : (s.row row).matched = some m) (hr : (s.row row).running = none) (hd : s.rowDue m = false) :
    s.startRow row = s := by
  simp [State.startRow, hm, hr, hd]

/-- In its cycle S, with the array idle and its clock running, a matched operation starts (R169, R427): the four contexts go on. -/
theorem startRow_of_due {m : RowOp} (hm : (s.row row).matched = some m) (hr : (s.row row).running = none) (hc : s.clockHeld (row / 288) = false)
    (hh : s.rowHalted row = false) (hd : s.rowDue m = true) :
    ((s.startRow row).row row).matched = none ∧ ((s.startRow row).row row).running =
        (if m.parts = 0 then none else some { m with cfg := (s.coreAt m.lead).cfg, half := (s.coreAt m.lead).half }) ∧
      ∀ g ∈ rowCores row, ∀ w x n rest, Offers s g w x n rest → ((s.startRow row).coreAt g).vq = rest ∧
        (((s.startRow row).coreAt g).ctxAt x.cap.ctx).pc = n ∧ (((s.startRow row).coreAt g).ctxAt x.cap.ctx).st = .ready := by
  obtain ⟨released, hreleased⟩ : ∃ t, t = (rowCores row).foldl State.gangRelease s := ⟨_, rfl⟩
  have hstart : s.startRow row = if m.parts = 0 then released.setRow row { s.row row with matched := none }
      else (released.setRow row { s.row row with
        matched := none, running := some { m with cfg := (s.coreAt m.lead).cfg, half := (s.coreAt m.lead).half } }).markInFlight (partsOf row m.parts) := by
    simp only [State.startRow, hm, hr, hc, hh, hd, ← hreleased]
    rfl
  have hgo : ∀ g ∈ rowCores row, ∀ w x n rest, Offers s g w x n rest →
      (released.coreAt g).vq = rest ∧ ((released.coreAt g).ctxAt x.cap.ctx).pc = n ∧ ((released.coreAt g).ctxAt x.cap.ctx).st = .ready := fun g hg w x n rest h => by
    obtain ⟨-, -, -, hcores⟩ := foldl_onlyCore (key := id) onlyCore_gangRelease (rowCores row) s
    obtain ⟨u, -, -, hcore, hfold⟩ := hcores (by simpa using rowCores_nodup row) g hg
    simp only [id] at hcore hfold
    rw [hreleased, hfold]
    exact gangRelease_of_offers ⟨hcore ▸ h.1, h.2⟩
  rw [hstart]
  split_ifs with hp
  · exact ⟨by simp, by simpa using hr, hgo⟩
  · rw [State.row_congr (markInFlight_rows _ _)]
    refine ⟨by simp, by simp, fun g hg w x n rest h => ?_⟩
    obtain ⟨t0, t1, hcore⟩ := coreAt_markInFlight (released.setRow row { s.row row with
      matched := none, running := some { m with cfg := (s.coreAt m.lead).cfg, half := (s.coreAt m.lead).half } }) (partsOf row m.parts) g
    rw [hcore]
    exact hgo g hg w x n rest h

/-- A core two cycles later by its clock. -/
def Core.twoCyclesLater (c : Core) : Core := { c with cycles := c.cycles + 2#64 }

/-- The same state two cycles later by the clocks of the cores. -/
def State.twoCyclesLater (s : State) : State := { s with cores := s.cores.map fun x => (x.1, x.2.twoCyclesLater) }

/-- A core that has anything in its queue is listed, and its clock advances. -/
theorem coreAt_twoCyclesLater {g : Nat} (h : (s.coreAt g).vq ≠ []) : s.twoCyclesLater.coreAt g = (s.coreAt g).twoCyclesLater := by
  have hget : smapGet? s.twoCyclesLater.cores g = (smapGet? s.cores g).map Core.twoCyclesLater :=
    smapGet?_mapVal (fun _ => Core.twoCyclesLater) s.cores g
  unfold State.coreAt at h ⊢
  rw [hget]
  cases hc : smapGet? s.cores g with
  | none => exact absurd rfl (by rw [hc] at h; exact h)
  | some c => rfl

theorem rowDue_at_match {m : RowOp} {c : Word} (hdue : m.due = c + 2) (h : (s.coreAt m.lead).cycles = c) : s.rowDue m = false := by
  rw [State.rowDue, h, hdue, show c - (c + 2) = -2 by ring]
  decide

theorem rowDue_two_cycles_after {m : RowOp} {c : Word} (hdue : m.due = c + 2) (h : (s.coreAt m.lead).cycles = c + 2#64) : s.rowDue m = true := by
  rw [State.rowDue, h, hdue, show c + 2#64 - (c + 2) = 0 from sub_self _]
  decide

/-- What the match of four whole `gang`s leads to (R169): nothing starts at once, and two cycles later the operation does. -/
theorem starts_after_match {l lead : Nat} {parts : BitVec 4} {m : RowOp} {t : State} (h : RowWhole s row l)
    (hf : ∀ g ∈ rowCores row, (s.coreAt g).frozen = false) {word : Word} (ho : ∀ g ∈ rowCores row, ∃ x n rest, Offers s g word x n rest)
    (hlead : lead ∈ rowCores row) (hm : Matched s t row lead parts m) (hr : (t.row row).running = none) (hc : t.clockHeld (row / 288) = false) :
    t.startRow row = t ∧ ((t.twoCyclesLater.startRow row).row row).matched = none ∧ ((t.twoCyclesLater.startRow row).row row).running =
        (if parts = 0 then none else some { m with cfg := (s.coreAt lead).cfg, half := (s.coreAt lead).half }) ∧
      ∀ g ∈ rowCores row, ∀ w x n rest, Offers s g w x n rest → ((t.twoCyclesLater.startRow row).coreAt g).vq = rest ∧
        (((t.twoCyclesLater.startRow row).coreAt g).ctxAt x.cap.ctx).pc = n ∧ (((t.twoCyclesLater.startRow row).coreAt g).ctxAt x.cap.ctx).st = .ready := by
  obtain ⟨rfl, rfl, rfl, hdue⟩ := hm
  have hmatched : ((s.setRow row { s.row row with matched := some m }).row row).matched = some m := by simp
  have hlisted : ∀ g ∈ rowCores row, (s.coreAt g).vq ≠ [] := fun g hg he => by
    obtain ⟨x, n, rest, hvq, -⟩ := ho g hg
    rw [he] at hvq
    cases hvq
  have hcore : ∀ g ∈ rowCores row, (s.setRow row { s.row row with matched := some m }).twoCyclesLater.coreAt g =
      (s.coreAt g).twoCyclesLater := fun g hg => coreAt_twoCyclesLater (hlisted g hg)
  refine ⟨startRow_of_not_due hmatched hr (rowDue_at_match hdue rfl), ?_⟩
  generalize hT : s.setRow row { s.row row with matched := some m } = T at *
  have hwhole : RowWhole T.twoCyclesLater row l := by
    refine ⟨?_, ?_, fun g hg => by rw [hcore g hg]; exact h.held g hg⟩
    · show (T.row row).broken = false
      rw [← hT, State.row_setRow, if_pos rfl]
      exact h.unbroken
    · show (T.row row).left = []
      rw [← hT, State.row_setRow, if_pos rfl]
      exact h.stayed
  obtain ⟨hnone, hrun, hgo⟩ := startRow_of_due (s := T.twoCyclesLater) hmatched hr hc (hwhole.rowHalted fun g hg => by rw [hcore g hg]; exact hf g hg)
    (rowDue_two_cycles_after hdue (by rw [hcore _ hlead]; rfl))
  rw [hcore _ hlead] at hrun
  refine ⟨hnone, hrun, fun g hg w x n rest hoff => hgo g hg w x n rest ?_⟩
  exact ⟨by rw [hcore g hg]; exact hoff.1, hoff.2⟩

end

end Sys2Proof.Machine
end

section
/-! SUPPORT. The completion of a row-array operation: the chunked sums, and the slices as they are stored (R51, R170). -/

namespace Sys2Proof.Machine

/-! ### The sum of an element -/

/-- One product of R51: it joins the partial, and at the end of a chunk of P, or at the last of K, the partial joins C. -/
def macStep (a b : Nat → Nat) (P K : Nat) : Nat × Nat → Nat → Nat × Nat := fun (p, c) k =>
  let q := (roundExact e8m15 0 (fpFma 0 (unpack e8m10 (a k)) (unpack e8m10 (b k)) (unpack e8m15 p)).1).1
  if (k + 1) % P = 0 ∨ k + 1 = K then (0, (roundExact f32 0 (fpAdd 0 (unpack f32 c) (unpack e8m15 q)).1).1)
  else (q, c)

theorem succ_mod {P : Nat} (hP : 0 < P) (k : Nat) : (k + 1) % P = if k % P + 1 = P then 0 else k % P + 1 := by
  rw [← Nat.mod_add_mod]
  split_ifs with h
  · rw [h, Nat.mod_self]
  · exact Nat.mod_eq_of_lt (lt_of_le_of_ne (Nat.mod_lt k hP) h)

/-- The model's count of a chunk is the index modulo P. -/
theorem macGo_eq_foldl {a b : Nat → Nat} {P K : Nat} (hP : 0 < P) (m k part c : Nat) (fl : FFlags) (hK : K = k + m) :
    (macGo a b P m k part (k % P) c fl).1 = ((List.range' k m).foldl (macStep a b P K) (part, c)).2 := by
  induction m generalizing k part c fl with
  | zero => rfl
  | succ m ih =>
    have hnext := succ_mod hP k
    have hchunk : k % P + 1 = P ↔ (k + 1) % P = 0 := by
      rw [hnext]
      split_ifs with h <;> simp [h]
    have hlast : m = 0 ↔ k + 1 = K := by omega
    rw [List.range'_succ, List.foldl_cons, macGo, macStep]
    simp only [Bool.or_eq_true, decide_eq_true_eq, hlast, ← hchunk]
    split_ifs with hend
    · obtain hfull | hlast' := hend
      · rw [if_pos hfull] at hnext
        exact hnext ▸ ih (k + 1) 0 _ _ (by omega)
      · obtain rfl := hlast.2 hlast'
        rfl
    · rw [if_neg fun h => hend (.inl h)] at hnext
      exact hnext ▸ ih (k + 1) _ _ _ (by omega)

/-- The elements of a slice (R170). -/
theorem slice_getD (s : State) (row : Nat) (op : RowOp) (g : Nat) {e : Nat} (he : e < 1024) :
    (s.slice row op g).1.getD e 0 = BitVec.ofNat 32 ((List.range (cfgK op.cfg)).foldl
      (macStep (s.arrayA op (e / 32)) (fun k => s.arrayB row op k (32 * (g % 4) + e % 32)) (cfgP op.cfg) (cfgK op.cfg))
      (0, if cfgACC op.cfg then ((s.coreAt g).t0.data.getD e 0).toNat else 0)).2 := by
  have hP : 0 < cfgP op.cfg := Nat.succ_pos _
  rw [List.range_eq_range', ← macGo_eq_foldl hP _ _ _ _ 0 (Nat.zero_add _).symm, Nat.zero_mod]
  simp [State.slice, List.getD_eq_getElem?_getD, he]

/-! ### Words in memory -/

/-- The first `n` words of a list, written from `a` on. -/
def storeWords (m : Bytes) (a : Nat) (d : List W32) (n : Nat) : Bytes := (List.range n).foldl (fun m i => bytesWrite m (a + 4 * i) 4 (d.getD i 0).toNat) m

theorem storeWords_succ (m : Bytes) (a : Nat) (d : List W32) (n : Nat) :
    storeWords m a d (n + 1) = bytesWrite (storeWords m a d n) (a + 4 * n) 4 (d.getD n 0).toNat := by
  simp [storeWords, List.range_succ]

theorem bytesGet_storeWords (m : Bytes) {a b : Nat} (d : List W32) {n : Nat} (h : b < a ∨ a + 4 * n ≤ b) :
    bytesGet (storeWords m a d n) b = bytesGet m b := by
  induction n with
  | zero => rfl
  | succ n ih => rw [storeWords_succ, bytesGet_bytesWrite, if_neg (by omega), ih (by omega)]

theorem bytesRead_storeWords (m : Bytes) (a : Nat) (d : List W32) {n e : Nat} (he : e < n) :
    bytesRead (storeWords m a d n) (a + 4 * e) 4 = (d.getD e 0).toNat := by
  induction n with
  | zero => cases he
  | succ n ih =>
    rw [storeWords_succ]
    by_cases heq : e = n
    · rw [heq, bytesRead_bytesWrite_same]
      exact Nat.mod_eq_of_lt (d.getD n 0).isLt
    · rw [bytesRead_bytesWrite_apart _ _ (by omega), ih (by omega)]

/-- Slices stored one after another, each at the same offset of its core's scratchpad. -/
def storeSlices (m : Bytes) (off : Nat) (xs : List (Nat × List W32 × FFlags)) : Bytes :=
  xs.foldl (fun m x => storeWords m (spadPa x.1 off) x.2.1 1024) m

/-- Bytes at the same offset of two scratchpads are far apart. -/
theorem spadPa_apart {g k : Nat} (h : g ≠ k) (off : Nat) : spadPa g off + 4096 ≤ spadPa k off ∨ spadPa k off + 4096 ≤ spadPa g off := by
  unfold spadPa
  omega

theorem bytesGet_storeSlices {off b : Nat} (xs : List (Nat × List W32 × FFlags)) (m : Bytes)
    (h : ∀ x ∈ xs, b < spadPa x.1 off ∨ spadPa x.1 off + 4096 ≤ b) : bytesGet (storeSlices m off xs) b = bytesGet m b := by
  induction xs generalizing m with
  | nil => rfl
  | cons y ys ih =>
    rw [storeSlices, List.foldl_cons]
    exact (ih _ fun x hx => h x (List.mem_cons_of_mem _ hx)).trans (bytesGet_storeWords m y.2.1 (h y List.mem_cons_self))

theorem bytesRead_storeSlices {off e : Nat} (he : e < 1024) (xs : List (Nat × List W32 × FFlags)) (hnd : (xs.map (·.1)).Nodup) (m : Bytes)
    {x : Nat × List W32 × FFlags} (hx : x ∈ xs) : bytesRead (storeSlices m off xs) (spadPa x.1 off + 4 * e) 4 = (x.2.1.getD e 0).toNat := by
  induction xs generalizing m with
  | nil => cases hx
  | cons y ys ih =>
    rw [List.map_cons, List.nodup_cons] at hnd
    rw [storeSlices, List.foldl_cons]
    obtain rfl | hx := List.mem_cons.1 hx
    · rw [← bytesRead_storeWords m (spadPa x.1 off) x.2.1 he]
      refine bytesRead_congr fun b hlo hhi => bytesGet_storeSlices ys _ fun z hz => ?_
      have := spadPa_apart (fun heq : z.1 = x.1 => hnd.1 (heq ▸ List.mem_map_of_mem hz)) off
      omega
    · exact ih hnd.2 _ hx

/-! ### A slice that is stored -/

/-- The words of the image of a tile register (R174). -/
theorem tileBytes_word (t : TileReg) {i : Nat} (hi : i < 1024) :
    let l := (tileBytes t).take 4096
    (l.getD (4 * i) 0).toNat + 256 * (l.getD (4 * i + 1) 0).toNat + 65536 * (l.getD (4 * i + 2) 0).toNat + 16777216 * (l.getD (4 * i + 3) 0).toNat =
      (t.data.getD i 0).toNat := by
  have hbyte : ∀ j < 4, ((tileBytes t).take 4096).getD (4 * i + j) 0 = BitVec.ofNat 8 ((t.data.getD i 0).toNat / 256 ^ j) := fun j hj => by
    rw [tileBytes, List.take_left' (by simp), List.getD_eq_getElem?_getD, List.getElem?_map, List.getElem?_range (by omega), Option.map_some,
      show (4 * i + j) / 4 = i by omega, show (4 * i + j) % 4 = j by omega]
    rfl
  have h0 := hbyte 0 (by decide)
  rw [Nat.add_zero] at h0
  dsimp only
  rw [h0, hbyte 1 (by decide), hbyte 2 (by decide), hbyte 3 (by decide)]
  have := (t.data.getD i 0).isLt
  simp only [BitVec.toNat_ofNat]
  omega

/-- `t` differs from `s` in the flits that core `g` has to send, and in memory. -/
structure FlitsOnly (g : Nat) (s t : State) : Prop where
  rows     : t.rows = s.rows
  launches : t.launches = s.launches
  cores    : ∃ fl, ∀ k, t.coreAt k = if k = g then { s.coreAt g with flits := fl } else s.coreAt k

theorem FlitsOnly.refl (g : Nat) (s : State) : FlitsOnly g s s := ⟨rfl, rfl, (s.coreAt g).flits, fun k => by split_ifs with h <;> simp [h]⟩

theorem FlitsOnly.trans {g : Nat} {s t u : State} (h : FlitsOnly g s t) (h' : FlitsOnly g t u) : FlitsOnly g s u := by
  obtain ⟨fl, hc⟩ := h.cores
  obtain ⟨fl', hc'⟩ := h'.cores
  refine ⟨h'.rows.trans h.rows, h'.launches.trans h.launches, fl', fun k => ?_⟩
  rw [hc' k, hc g, hc k]
  by_cases hk : k = g <;> simp [hk]

theorem flitsOnly_forwardWrite (s : State) (g off n v : Nat) : FlitsOnly g s (s.forwardWrite g off n v) := by
  unfold State.forwardWrite
  dsimp only
  split_ifs
  · exact .refl g s
  · exact ⟨rfl, rfl, _, fun k => State.coreAt_setCore s g k _⟩

theorem flitsOnly_spWrite (s : State) (g off n v : Nat) (full : Bool) : FlitsOnly g s (s.spWrite g off n v full true) := by
  have hmem (m : Phys) : FlitsOnly g s { s with mem := m } := ⟨rfl, rfl, (FlitsOnly.refl g s).cores⟩
  exact (hmem _).trans (flitsOnly_forwardWrite _ g off n v)

theorem flitsOnly_spWriteBytes (s : State) (g off : Nat) (l : List Byte) (full : Bool) : FlitsOnly g s (s.spWriteBytes g off l full true) := by
  unfold State.spWriteBytes
  generalize List.range (l.length / 4) = xs
  induction xs generalizing s with
  | nil => exact .refl g s
  | cons i xs ih => exact (flitsOnly_spWrite s g _ _ _ full).trans (ih _)

/-- The bytes that the first 1024 words of an image of a tile register leave. -/
theorem spWriteBytes_tile_bytes (s : State) (g off : Nat) (t : TileReg) (fwd : Bool) :
    (s.spWriteBytes g off ((tileBytes t).take 4096) false fwd).mem.bytes = storeWords s.mem.bytes (spadPa g off) t.data 1024 := by
  have hlen : ((tileBytes t).take 4096).length / 4 = 1024 := by simp [tileBytes]
  have hstep (s : State) (i v : Nat) : (s.spWrite g (off + 4 * i) 4 v false fwd).mem.bytes = bytesWrite s.mem.bytes (spadPa g off + 4 * i) 4 v := by
    rw [State.spWrite_mem, show spadPa g (off + 4 * i) = spadPa g off + 4 * i from (Nat.add_assoc _ _ _).symm]
    simp
  rw [State.spWriteBytes, hlen, List.foldl_ext _ (fun s i => s.spWrite g (off + 4 * i) 4 (t.data.getD i 0).toNat false fwd) s fun u i hi => by
    rw [tileBytes_word t (List.mem_range.1 hi)]]
  exact (List.foldl_hom (fun u : State => u.mem.bytes) fun u i => (hstep u i _).symm).symm

/-! ### The completion -/

/-- The slice of a participant in its core: t0 holds it, the partials in t1 are no longer valid (R170, R174). -/
def State.putSlice (s : State) (x : Nat × List W32 × FFlags) : State :=
  let c := s.coreAt x.1
  let st := (List.range 1024).map fun e => (Config.freeByte s.fresh e).setWidth 3 &&& 3
  { s.setCore x.1 { c with t0 := ⟨x.2.1, st⟩, t1 := ⟨c.t1.data, []⟩ } with fresh := s.fresh + 1 }

/-- What the completion does to a participant: its slice is put, and stored where the configuration says so. -/
def State.completeSlice (op : RowOp) (s : State) (x : Nat × List W32 × FFlags) : State :=
  if cfgSTORE op.cfg then
    (s.putSlice x).asCore x.1 fun s => s.spWriteBytes x.1 (cfgCOff op.cfg) ((tileBytes ⟨x.2.1, []⟩).take 4096) false true
  else s.putSlice x

/-- The active configuration of a core becomes its shadow (R166). -/
def State.takeShadow (s : State) (g : Nat) : State := s.setCore g { s.coreAt g with cfg := (s.coreAt g).shadow }

theorem flitsOnly_asCore {g : Nat} {s : State} {f : State → State} (h : FlitsOnly g (s.at g 0) (f (s.at g 0))) : FlitsOnly g s (s.asCore g f) :=
  ⟨h.rows, h.launches, h.cores⟩

theorem State.at_mem (s : State) (g n : Nat) : (s.at g n).mem = s.mem := rfl

theorem asCore_spWriteBytes_mem (s : State) (g off : Nat) (l : List Byte) :
    (s.asCore g fun s => s.spWriteBytes g off l false true).mem = ((s.at g 0).spWriteBytes g off l false true).mem := rfl

theorem State.putSlice_mem (s : State) (x : Nat × List W32 × FFlags) : (s.putSlice x).mem = s.mem := rfl

theorem flitsOnly_completeSlice (op : RowOp) (s : State) (x : Nat × List W32 × FFlags) : FlitsOnly x.1 (s.putSlice x) (s.completeSlice op x) := by
  unfold State.completeSlice
  split_ifs
  · exact flitsOnly_asCore (flitsOnly_spWriteBytes _ x.1 _ _ false)
  · exact .refl _ _

theorem onlyCore_completeSlice (op : RowOp) (s : State) (x : Nat × List W32 × FFlags) : OnlyCore x.1 s (s.completeSlice op x) := by
  obtain ⟨hrows, hlaunches, fl, hcores⟩ := flitsOnly_completeSlice op s x
  have hput : OnlyCore x.1 s (s.putSlice x) := ⟨rfl, rfl, (onlyCore_setCore s x.1 _).other⟩
  exact hput.trans ⟨hrows, hlaunches, fun k hk => by rw [hcores, if_neg hk]⟩

theorem coreAt_completeSlice (op : RowOp) (s : State) (x : Nat × List W32 × FFlags) :
    ((s.completeSlice op x).coreAt x.1).t0.data = x.2.1 ∧ ((s.completeSlice op x).coreAt x.1).shadow = (s.coreAt x.1).shadow := by
  obtain ⟨-, -, fl, hcores⟩ := flitsOnly_completeSlice op s x
  have hput : (s.putSlice x).coreAt x.1 = _ := (State.coreAt_setCore s x.1 x.1 _).trans (if_pos rfl)
  rw [hcores, if_pos rfl, hput]
  exact ⟨rfl, rfl⟩

theorem asCore_spWriteBytes_bytes (s : State) (g off : Nat) (t : TileReg) :
    (s.asCore g fun s => s.spWriteBytes g off ((tileBytes t).take 4096) false true).mem.bytes = storeWords s.mem.bytes (spadPa g off) t.data 1024 := by
  rw [asCore_spWriteBytes_mem, spWriteBytes_tile_bytes, State.at_mem]

theorem completeSlice_bytes (op : RowOp) (s : State) (x : Nat × List W32 × FFlags) : (s.completeSlice op x).mem.bytes =
    if cfgSTORE op.cfg then storeWords s.mem.bytes (spadPa x.1 (cfgCOff op.cfg)) x.2.1 1024 else s.mem.bytes := by
  unfold State.completeSlice
  split_ifs
  · exact asCore_spWriteBytes_bytes (s.putSlice x) x.1 (cfgCOff op.cfg) ⟨x.2.1, []⟩
  · rw [State.putSlice_mem]

/-- The completion, in its three parts. -/
theorem completeRow_of_running {s : State} {row : Nat} {op : RowOp} (h : (s.row row).running = some op) :
    ∃ r : Row, r.running = none ∧ ∃ n f, s.completeRow row = (rowCores row).foldl State.takeShadow
      ((((partsOf row op.parts).map fun g => (g, s.slice row op g)).foldl (State.completeSlice op) (s.setRow row r)).modLive op.lead n f) := by
  unfold State.completeRow
  rw [h]
  exact ⟨_, rfl, _, _, rfl⟩

/-- A context changes: nothing of its core does outside the contexts. -/
theorem coreAt_modLive (s : State) (g n : Nat) (f : Context → Context) (k : Nat) :
    ∃ c : SMap Context, (s.modLive g n f).coreAt k = { s.coreAt k with ctxs := c } := by
  unfold State.modLive State.modCtx
  split_ifs
  · exact ⟨(s.coreAt k).ctxs, rfl⟩
  · rw [State.coreAt_setCore]
    split_ifs with hk
    · rw [hk]
      exact ⟨_, rfl⟩
    · exact ⟨(s.coreAt k).ctxs, rfl⟩

theorem modLive_rows (s : State) (g n : Nat) (f : Context → Context) : (s.modLive g n f).rows = s.rows := by
  unfold State.modLive
  split_ifs <;> rfl

theorem modLive_mem (s : State) (g n : Nat) (f : Context → Context) : (s.modLive g n f).mem = s.mem := by
  unfold State.modLive
  split_ifs <;> rfl

theorem foldl_takeShadow_mem (gs : List Nat) (s : State) : (gs.foldl State.takeShadow s).mem = s.mem := by
  induction gs generalizing s with
  | nil => rfl
  | cons g gs ih => exact (ih _).trans rfl

theorem foldl_completeSlice_bytes (op : RowOp) (xs : List (Nat × List W32 × FFlags)) (s : State) :
    (xs.foldl (State.completeSlice op) s).mem.bytes = if cfgSTORE op.cfg then storeSlices s.mem.bytes (cfgCOff op.cfg) xs else s.mem.bytes := by
  induction xs generalizing s with
  | nil => split_ifs <;> rfl
  | cons x xs ih =>
    rw [List.foldl_cons, ih, completeSlice_bytes]
    split_ifs
    · rw [storeSlices, storeSlices, List.foldl_cons]
    · rfl

/-- What the completion of `op` leaves (R166, R170). -/
structure Completes (s t : State) (row : Nat) (op : RowOp) : Prop where
  idle   : (t.row row).running = none
  shadow : ∀ g ∈ rowCores row, (t.coreAt g).cfg = (s.coreAt g).shadow
  slice  : ∀ g ∈ partsOf row op.parts, (t.coreAt g).t0.data = (s.slice row op g).1
  others : ∀ g ∈ rowCores row, g ∉ partsOf row op.parts → (t.coreAt g).t0 = (s.coreAt g).t0
  bytes  : t.mem.bytes = if cfgSTORE op.cfg then
      storeSlices s.mem.bytes (cfgCOff op.cfg) ((partsOf row op.parts).map fun g => (g, s.slice row op g)) else s.mem.bytes

theorem State.setRow_mem (s : State) (n : Nat) (r : Row) : (s.setRow n r).mem = s.mem := rfl

theorem partsOf_nodup (row : Nat) (parts : BitVec 4) : (partsOf row parts).Nodup := (rowCores_nodup row).filter _

theorem completes_completeRow {s : State} {row : Nat} {op : RowOp} (h : (s.row row).running = some op) : Completes s (s.completeRow row) row op := by
  obtain ⟨r, hr, n, f, ht⟩ := completeRow_of_running h
  rw [ht]
  obtain ⟨xs, hxs⟩ : ∃ xs, xs = (partsOf row op.parts).map fun g => (g, s.slice row op g) := ⟨_, rfl⟩
  have hkeys : xs.map (·.1) = partsOf row op.parts := by rw [hxs, List.map_map]; exact List.map_id _
  rw [← hxs]
  obtain ⟨hrows, -, hother, hslice⟩ := foldl_onlyCore (onlyCore_completeSlice op) xs (s.setRow row r)
  obtain ⟨u, hu⟩ : ∃ u, u = xs.foldl (State.completeSlice op) (s.setRow row r) := ⟨_, rfl⟩
  rw [← hu] at hrows hother hslice ⊢
  obtain ⟨hrows', -, -, htake⟩ := foldl_onlyCore (key := id) (f := State.takeShadow) (fun s g => onlyCore_setCore s g _) (rowCores row)
    (u.modLive op.lead n f)
  have hcore : ∀ g ∈ rowCores row, (((rowCores row).foldl State.takeShadow (u.modLive op.lead n f)).coreAt g).t0 = (u.coreAt g).t0 ∧
      (((rowCores row).foldl State.takeShadow (u.modLive op.lead n f)).coreAt g).cfg = (u.coreAt g).shadow := fun g hg => by
    obtain ⟨v, -, -, hv, hfold⟩ := htake (by simpa using rowCores_nodup row) g hg
    obtain ⟨c, hc⟩ := coreAt_modLive u op.lead n f g
    simp only [id] at hv hfold
    rw [hfold, State.takeShadow, State.coreAt_setCore, if_pos rfl, hv, hc]
    exact ⟨rfl, rfl⟩
  have hpart : ∀ g ∈ partsOf row op.parts, (u.coreAt g).t0.data = (s.slice row op g).1 ∧ (u.coreAt g).shadow = (s.coreAt g).shadow := fun g hg => by
    obtain ⟨v, -, -, hv, hfold⟩ := hslice (by rw [hkeys]; exact partsOf_nodup row op.parts) (g, s.slice row op g) (hxs ▸ List.mem_map_of_mem hg)
    obtain ⟨hdata, hshadow⟩ := coreAt_completeSlice op v (g, s.slice row op g)
    rw [hfold, hshadow, hv]
    exact ⟨hdata, rfl⟩
  have hrest : ∀ g, g ∉ partsOf row op.parts → u.coreAt g = s.coreAt g := fun g hg =>
    hother g fun x hx he => hg (by rw [← hkeys, ← he]; exact List.mem_map_of_mem hx)
  refine ⟨?_, fun g hg => (hcore g hg).2.trans ?_, fun g hg => ?_, fun g hg hno => ?_, ?_⟩
  · rw [State.row_congr (hrows'.trans ((modLive_rows _ _ _ _).trans hrows)), State.row_setRow, if_pos rfl, hr]
  · by_cases hp : g ∈ partsOf row op.parts
    · exact (hpart g hp).2
    · rw [hrest g hp]
  · rw [(hcore g (List.mem_filter.1 hg).1).1, (hpart g hg).1]
  · rw [(hcore g hg).1, hrest g hno]
  · rw [foldl_takeShadow_mem, modLive_mem, hu, foldl_completeSlice_bytes, State.setRow_mem, hxs]

end Sys2Proof.Machine
end

section
/-! PROOF. The obligation about the row arrays (R51, R167 to R170, R368). -/

namespace Sys2Proof.Machine

/-! ### The mask of the participants -/

theorem setWidth_eq_zero_of_masked {w : Word} (h : w &&& 0xFFFFFFFFFFFF00FF = 0) : w.setWidth 4 = 0 := by
  calc w.setWidth 4 = w.setWidth 4 &&& BitVec.allOnes 4 := BitVec.and_allOnes.symm
    _ = (w &&& 0xFFFFFFFFFFFF00FF).setWidth 4 := by rw [BitVec.setWidth_and]; rfl
    _ = 0 := by rw [h]; rfl

theorem reserved_of_masked {w : Word} (h : w &&& 0xFFFFFFFFFFFF00FF = 0) : w &&& 0xFFFFFFFFFFFF00F0 = 0 := by
  calc w &&& 0xFFFFFFFFFFFF00F0 = w &&& 0xFFFFFFFFFFFF00FF &&& 0xFFFFFFFFFFFF00F0 := by rw [BitVec.and_assoc]; rfl
    _ = 0 := by rw [h]; exact BitVec.zero_and

theorem getLsbD_parts (w : Word) {j : Nat} (hj : j < 4) : (w.setWidth 4).getLsbD j = w.getLsbD j := by
  rw [BitVec.getLsbD_setWidth, decide_eq_true hj, Bool.true_and]

theorem partsOf_zero (row : Nat) : partsOf row 0 = [] := List.filter_eq_nil_iff.2 fun g _ => by simp

/-! ### The match and the start -/

/-- The contexts whose `gang`s carry `word` have gone on after them (R169). -/
def GoesOn (s u : State) (row : Nat) (word : Word) : Prop :=
  ∀ g ∈ rowCores row, ∀ x n rest, Offers s g word x n rest →
    (u.coreAt g).vq = rest ∧ ((u.coreAt g).ctxAt x.cap.ctx).pc = n ∧ ((u.coreAt g).ctxAt x.cap.ctx).st = .ready

/-- A match, and the start two cycles later (R168, R169); `run` is what the array then executes. -/
structure MatchesAndStarts (s : State) (row : Nat) (word : Word) (t : State) (m : RowOp) (run : Option RowOp) : Prop where
  steps   : exec (.gangMatch row) s = .next t
  matched : (t.row row).matched = some m
  cores   : ∀ g, t.coreAt g = s.coreAt g
  starts  : (t.row row).running = none → t.clockHeld (row / 288) = false → exec (.rowArrayStart row) t = .next t ∧
    ∃ u, exec (.rowArrayStart row) t.twoCyclesLater = .next u ∧ (u.row row).matched = none ∧ (u.row row).running = run ∧ GoesOn s u row word

section
variable {s : State} {row l : Nat} (h : RowWhole s row l) (hf : ∀ g ∈ rowCores row, (s.coreAt g).frozen = false)
include h hf

theorem Matched.matchesAndStarts {word : Word} (ho : ∀ g ∈ rowCores row, ∃ x n rest, Offers s g word x n rest) {lead : Nat} {parts : BitVec 4} {m : RowOp}
    (hlead : lead ∈ rowCores row) (hm : Matched s (s.matchRow row) row lead parts m) :
    MatchesAndStarts s row word (s.matchRow row) m
      (if parts = 0 then none else some { m with cfg := (s.coreAt lead).cfg, half := (s.coreAt lead).half }) := by
  refine ⟨rfl, by rw [hm.state]; simp, fun g => by rw [hm.state]; rfl, fun hr hc => ?_⟩
  obtain ⟨hwait, hnone, hrun, hgo⟩ := starts_after_match h hf ho hlead hm hr hc
  refine ⟨?_, _, rfl, hnone, hrun, fun g hg x n rest => hgo g hg word x n rest⟩
  rw [exec_rowArrayStart, execRowArrayStart, hwait, event]

theorem matchesAndStarts_of_no_participant (hm : (s.row row).matched = none) {word : Word} (hw : word &&& 0xFFFFFFFFFFFF00FF = 0)
    (ho : ∀ g ∈ rowCores row, ∃ x n rest, Offers s g word x n rest) : ∃ t m, MatchesAndStarts s row word t m none ∧ m.parts = 0 := by
  obtain ⟨m, hmatch⟩ := matchRow_of_none h hm hf ho (reserved_of_masked hw) (by rw [setWidth_eq_zero_of_masked hw, partsOf_zero])
  exact ⟨_, m, hmatch.matchesAndStarts h hf ho (by simp [rowCores_eq]), hmatch.takes⟩

theorem matchesAndStarts_of_lead (hm : (s.row row).matched = none) {word : Word} (hw : word &&& 0xFFFFFFFFFFFF00F0 = 0)
    (ho : ∀ g ∈ rowCores row, ∃ x n rest, Offers s g word x n rest) {i : Nat} (hi : i < 4) (hbit : word.getLsbD i = true)
    (hlow : ∀ j < i, word.getLsbD j = false) (hrange : ∀ g ∈ rowCores row, s.badRange (4 * row + i) (word.setWidth 4) g = false) :
    ∃ t m, MatchesAndStarts s row word t m (some { m with cfg := (s.coreAt (4 * row + i)).cfg, half := (s.coreAt (4 * row + i)).half }) ∧
      m.lead = 4 * row + i ∧ m.parts = word.setWidth 4 := by
  have hbit' : (word.setWidth 4).getLsbD i = true := by rw [getLsbD_parts word hi, hbit]
  obtain ⟨tl, htl⟩ := partsOf_lead (row := row) hi hbit' fun j hj => by rw [getLsbD_parts word (hj.trans hi), hlow j hj]
  obtain ⟨m, hmatch⟩ := matchRow_of_lead h hm hf ho hw htl hrange
  have hstarts := hmatch.matchesAndStarts h hf ho (mem_rowCores.2 ⟨i, hi, rfl⟩)
  have hne : word.setWidth 4 ≠ 0 := fun he => by simp [he] at hbit'
  rw [if_neg hne] at hstarts
  exact ⟨_, m, hstarts, hmatch.leads, hmatch.takes⟩

end

/-! ### The faults -/

/-- The row after a GANGABORT of its `gang`s (R168). -/
structure RowAborts (s t : State) (row : Nat) (info : Word) : Prop where
  unmatched : (t.row row).matched = none
  unbroken  : (t.row row).broken = false
  gangs     : ∀ g ∈ rowCores row, ∀ w x n rest, Offers s g w x n rest → GangAborts s t g info

section
variable {s : State} {row l : Nat} (hf : ∀ g ∈ rowCores row, (s.coreAt g).frozen = false) (hsettled : ∀ g ∈ rowCores row, s.gangSettled g = true)
include hf hsettled

theorem rowAborts_of_differing (h : RowWhole s row l) (hm : (s.row row).matched = none) {words : Nat → Word}
    (ho : ∀ g ∈ rowCores row, ∃ x n rest, Offers s g (words g) x n rest)
    (hw : ∃ g ∈ rowCores row, words g ≠ words (4 * row) ∨ words g &&& 0xFFFFFFFFFFFF00F0 ≠ 0) : RowAborts s (s.matchRow row) row 0 := by
  rw [matchRow_of_differing h hm hf ho hsettled hw]
  obtain ⟨hrows, hgangs⟩ := foldl_gangFault (rowCores_nodup row) hf 0
  have hrow : (s.gangAbort row 0).row row = s.row row := State.row_congr hrows row
  exact ⟨by rw [hrow, hm], by rw [hrow, h.unbroken], fun g hg _ _ _ _ _ => hgangs g hg⟩

theorem rowAborts_of_missing (hmissing : s.rowMissing row = true) (hsome : ∃ g ∈ rowCores row, ∃ w x n rest, Offers s g w x n rest) :
    RowAborts s (s.matchRow row) row 1 := by
  have hwaits : ∀ g ∈ rowCores row, ∀ w x n rest, Offers s g w x n rest → g ∈ (s.gangsOf row).map (·.1) := fun g hg w x n rest hoff => by
    rw [gangsOf_map_fst]
    exact List.mem_filter.2 ⟨hg, by simp [hf g hg, hoff.gangHead]⟩
  have hne : s.gangsOf row ≠ [] := fun he => by
    obtain ⟨g, hg, w, x, n, rest, hoff⟩ := hsome
    have hmem := hwaits g hg w x n rest hoff
    rw [he] at hmem
    cases hmem
  rw [matchRow_of_missing hmissing hne hsettled]
  generalize hr : ({ s.row row with broken := false, left := [], matched := none } : Row) = r
  have hsub : ∀ g ∈ (s.gangsOf row).map (·.1), ((s.setRow row r).coreAt g).frozen = false := fun g hg => by
    rw [gangsOf_map_fst] at hg
    exact hf g (List.mem_filter.1 hg).1
  have hnd : ((s.gangsOf row).map (·.1)).Nodup := by
    rw [gangsOf_map_fst]
    exact (rowCores_nodup row).filter _
  obtain ⟨hrows, hgangs⟩ := foldl_gangFault hnd hsub 1
  have hrow := (State.row_congr hrows row).trans ((State.row_setRow s row row r).trans (if_pos rfl))
  rw [← hr] at hrow
  refine ⟨by rw [← hr, hrow], by rw [← hr, hrow], fun g hg w x n rest hoff => ?_⟩
  obtain ⟨hqueue, hhandler⟩ := hgangs g (hwaits g hg w x n rest hoff)
  exact ⟨hqueue, hhandler⟩

end

/-! ### The completion -/

section
variable {s t : State} {row : Nat} {op : RowOp} (h : Completes s t row op)
include h

theorem Completes.stored {g e : Nat} (hg : g ∈ partsOf row op.parts) (he : e < 1024) (hstore : cfgSTORE op.cfg = true) :
    bytesRead t.mem.bytes (spadPa g (cfgCOff op.cfg + 4 * e)) 4 = ((s.slice row op g).1.getD e 0).toNat := by
  have hkeys : (((partsOf row op.parts).map fun g => (g, s.slice row op g)).map (·.1)).Nodup := by
    rw [List.map_map]
    exact (List.map_id (partsOf row op.parts)).symm ▸ partsOf_nodup row op.parts
  rw [h.bytes, if_pos hstore, show spadPa g (cfgCOff op.cfg + 4 * e) = spadPa g (cfgCOff op.cfg) + 4 * e from (Nat.add_assoc _ _ _).symm]
  exact bytesRead_storeSlices (x := (g, s.slice row op g)) he _ hkeys s.mem.bytes (List.mem_map_of_mem (f := fun g => (g, s.slice row op g)) hg)

theorem Completes.bytesGet_outside {b : Nat}
    (hb : cfgSTORE op.cfg = true → ∀ g ∈ partsOf row op.parts, b < spadPa g (cfgCOff op.cfg) ∨ spadPa g (cfgCOff op.cfg) + 4096 ≤ b) :
    bytesGet t.mem.bytes b = bytesGet s.mem.bytes b := by
  rw [h.bytes]
  split_ifs with hstore
  · refine bytesGet_storeSlices _ _ fun x hx => ?_
    obtain ⟨g, hg, rfl⟩ := List.mem_map.1 hx
    exact hb hstore g hg
  · rfl

end

/-- Four cores that are held by one launch, are not ending and offer a `gang`. -/
theorem rowWhole_of_ready {s : State} {row l : Nat} (hb : (s.row row).broken = false) (hl : (s.row row).left = []) {words : Nat → Word}
    (hready : ∀ g ∈ rowCores row, (s.coreAt g).unit.map (·.launch) = some l ∧ (s.coreAt g).ending = none ∧
      ∃ x rest n, Offers s g (words g) x n rest) :
    RowWhole s row l ∧ ∀ g ∈ rowCores row, ∃ x n rest, Offers s g (words g) x n rest := by
  refine ⟨⟨hb, hl, fun g hg => ?_⟩, fun g hg => ?_⟩ <;> obtain ⟨hlaunch, hending, x, rest, n, hoff⟩ := hready g hg
  · exact ⟨hlaunch, hending⟩
  · exact ⟨x, n, rest, hoff⟩

/-- Settles O17, from what the match, the start, the faults and the completion of a row leave. -/
theorem rowArrayMatchesStartsCompletes : Obligations.RowArrayMatchesStartsCompletes := by
  intro s row word l cores offers goOn later aborts
  have haborts {info : Word} (h : RowAborts s (s.matchRow row) row info) : ∃ t, exec (.gangMatch row) s = .next t ∧ aborts info t :=
    ⟨_, rfl, h.unmatched, h.unbroken, fun g hg w x n rest hoff =>
      ⟨(h.gangs g hg w x n rest hoff).queue w x n rest hoff, (h.gangs g hg w x n rest hoff).handler w x n rest hoff⟩⟩
  refine ⟨fun m hm hr hc hh hd => ?starts, fun hm hb hl => ⟨fun hheld hfrozen => ?frozen, fun hf => ⟨fun hready =>
    ⟨fun hw => ?releases, fun hw i hi hbit hlow => ?leads⟩, fun words hready hsettled hw => ?differ, fun hmissing hsome hsettled => ?missing⟩,
    fun op hop => ?ends⟩⟩
  case starts =>
    obtain ⟨hnone, hrun, -⟩ := startRow_of_due hm hr hc hh hd
    exact ⟨_, rfl, hnone, hrun⟩
  case frozen =>
    rw [exec_gangMatch, execGangMatch, matchRow_of_few ⟨hb, hl, hheld⟩ (gangsOf_length_of_frozen hfrozen), event]
  case releases =>
    obtain ⟨hwhole, hoff⟩ := rowWhole_of_ready hb hl hready
    obtain ⟨t, m, ⟨hsteps, hmatched, hcores, hstarts⟩, hparts⟩ := matchesAndStarts_of_no_participant hwhole hf hm hw hoff
    exact ⟨t, m, hsteps, hmatched, hparts, hcores, hstarts⟩
  case leads =>
    intro lead hrange
    obtain ⟨hwhole, hoff⟩ := rowWhole_of_ready hb hl hready
    obtain ⟨t, m, ⟨hsteps, hmatched, hcores, hstarts⟩, hlead, hparts⟩ := matchesAndStarts_of_lead hwhole hf hm hw hoff hi hbit hlow hrange
    exact ⟨t, m, hsteps, hmatched, hlead, hparts, hcores, hstarts⟩
  case differ =>
    obtain ⟨hwhole, hoff⟩ := rowWhole_of_ready hb hl hready
    exact haborts (rowAborts_of_differing hf hsettled hwhole hm hoff hw)
  case missing =>
    obtain ⟨g, hg, hlaunch, hoff⟩ := hsome
    exact haborts (rowAborts_of_missing hf hsettled (rowMissing_of_absent ⟨g, hg, hlaunch⟩ hmissing) ⟨g, hg, hoff⟩)
  case ends =>
    have hcompletes := completes_completeRow hop
    refine ⟨_, rfl, hcompletes.idle, hcompletes.shadow, fun g hpart e he => ?_, fun g hg hno => hcompletes.others g hg fun hpart => hno (mem_partsOf.1 hpart),
      fun b hb => hcompletes.bytesGet_outside fun hstore g hpart => hb hstore g (mem_partsOf.1 hpart)⟩
    have hsum := slice_getD s row op g he
    refine ⟨?_, fun hstore => ?_⟩
    · rw [hcompletes.slice g (mem_partsOf.2 hpart)]
      exact hsum
    · exact (hcompletes.stored (mem_partsOf.2 hpart) he hstore).trans (congrArg BitVec.toNat hsum)

end Sys2Proof.Machine
end

section
/-! SUPPORT. The checks of CheckCap and of an access through the NI, in their order, and the faults they end in (R54, R180, R182). -/

namespace Sys2Proof.Machine

/-! ### What the pc does not bear on -/

@[simp] theorem State.physMode_setPc (s : State) (pc : Word) : (s.setPc pc).physMode = s.physMode := by simp [State.physMode]
@[simp] theorem State.aperture_setPc (s : State) (pc : Word) (va : Nat) : (s.setPc pc).aperture va = s.aperture va := by simp [State.aperture]
@[simp] theorem State.partEntry_setPc (s : State) (pc : Word) (p : Nat) : (s.setPc pc).partEntry p = s.partEntry p := rfl
@[simp] theorem State.tagLine_setPc (s : State) (pc : Word) (tag : Nat) : (s.setPc pc).tagLine tag = s.tagLine tag := by simp [State.tagLine]
@[simp] theorem State.tagRead_setPc (s : State) (pc : Word) (tag : Nat) : (s.setPc pc).tagRead tag = s.tagRead tag := by simp [State.tagRead]
@[simp] theorem State.tagPoisoned_setPc (s : State) (pc : Word) (tag : Nat) : (s.setPc pc).tagPoisoned tag = s.tagPoisoned tag := by
  simp [State.tagPoisoned]
@[simp] theorem State.revoked_setPc (s : State) (pc : Word) (tag : Nat) : (s.setPc pc).revoked tag = s.revoked tag := by
  simp [State.revoked, State.revokedHome]
@[simp] theorem State.checkCap_setPc (s : State) (pc : Word) (c : CapBits) (off : Int) (n : Nat) (perm : BitVec 6) (info : Word) :
    (s.setPc pc).checkCap c off n perm info = s.checkCap c off n perm info := by
  simp [State.checkCap]

theorem tagFree_setPc {s : State} {tag : Nat} (h : TagFree s tag) (pc : Word) : TagFree (s.setPc pc) tag :=
  fun k hk => h k (by simpa using hk)

/-! ### CheckCap (R54) -/

section

variable (s : State) {c : CapBits} {off : Int} {n : Nat} {perm : BitVec 6} (info : Word)

theorem checkCap_of_null : s.checkCap 0 off n perm info = .error ⟨cCAPNULL, 0, info⟩ := rfl

theorem checkCap_of_forbidden (hc : c ≠ 0) (h : capSeal c = true ∨ capPerm c &&& perm ≠ perm) :
    s.checkCap c off n perm info = .error ⟨cCAPPERM, capAddr c, info⟩ := by
  have hbad : (capSeal c || capPerm c &&& perm != perm) = true := by simpa using h
  unfold State.checkCap capPermits
  rw [if_neg hc, if_pos hbad]
  rfl

/-- A capability that is not null, not sealed and has the permissions. -/
theorem capPermits_of_allowed (hc : c ≠ 0) (hseal : capSeal c = false) (hperm : capPerm c &&& perm = perm) : capPermits c perm info = .ok () := by
  unfold capPermits
  rw [if_neg hc, hseal, hperm]
  simp

variable {info} (hok : capPermits c perm info = .ok ())
include hok

theorem checkCap_of_outside (h : off < 0 ∨ (capLen c : Int) < off + n) :
    s.checkCap c off n perm info = .error ⟨cCAPBOUND, capAddr c, info⟩ := by
  have hout : (decide (off < 0) || decide ((capLen c : Int) < off + n)) = true := by simpa using h
  unfold State.checkCap
  rw [hok]
  simp only [bind, Except.bind, hout, if_true]

/-- Within the bound, the last checks are of the address and of the tag. -/
theorem checkCap_of_inside (h0 : 0 ≤ off) (hfit : off + n ≤ capLen c) : s.checkCap c off n perm info =
    if 2 ^ 57 ≤ capBase c + off.toNat then .error ⟨cCAPBOUND, BitVec.ofNat 64 (capBase c + off.toNat), info⟩
    else if s.tagPoisoned (capTag c) then .error ⟨cPOISON, BitVec.ofNat 64 (capBase c + off.toNat), 0⟩
    else if capTag c != 0 && s.revoked (capTag c) then .error ⟨cCAPREVOKED, BitVec.ofNat 64 (capBase c + off.toNat), info⟩
    else .ok (capBase c + off.toNat) := by
  have hin : (decide (off < 0) || decide ((capLen c : Int) < off + n)) = false := by
    simp only [Bool.or_eq_false_iff, decide_eq_false_iff_not]
    omega
  unfold State.checkCap
  rw [hok]
  simp only [bind, Except.bind, hin, Bool.false_eq_true, if_false]

variable (h0 : 0 ≤ off) (hfit : off + n ≤ capLen c)
include h0 hfit

theorem checkCap_of_high (h : 2 ^ 57 ≤ capBase c + off.toNat) :
    s.checkCap c off n perm info = .error ⟨cCAPBOUND, BitVec.ofNat 64 (capBase c + off.toNat), info⟩ :=
  (checkCap_of_inside s hok h0 hfit).trans (if_pos h)

variable (hlow : capBase c + off.toNat < 2 ^ 57)
include hlow

theorem checkCap_of_poisoned (h : s.tagPoisoned (capTag c) = true) :
    s.checkCap c off n perm info = .error ⟨cPOISON, BitVec.ofNat 64 (capBase c + off.toNat), 0⟩ := by
  rw [checkCap_of_inside s hok h0 hfit, if_neg (Nat.not_le.mpr hlow), if_pos h]

theorem checkCap_of_revoked (hclean : s.tagPoisoned (capTag c) = false) (htag : capTag c ≠ 0) (h : s.revoked (capTag c) = true) :
    s.checkCap c off n perm info = .error ⟨cCAPREVOKED, BitVec.ofNat 64 (capBase c + off.toNat), info⟩ := by
  have hrev : (capTag c != 0 && s.revoked (capTag c)) = true := by simp [htag, h]
  rw [checkCap_of_inside s hok h0 hfit, if_neg (Nat.not_le.mpr hlow), if_neg (Bool.eq_false_iff.mp hclean), if_pos hrev]

end

/-- Supplying a line moves the directory only. -/
theorem supply_eq (s : State) (k : Nat) : ∃ d, s.supply k = { s with dir := d } := by
  unfold State.supply
  dsimp only
  split <;> exact ⟨_, rfl⟩

/-- The turn of a tag whose line no host holds comes at once. -/
theorem tagTurn_of_tagFree {s : State} {tag : Nat} (h : TagFree s tag) : ∃ t, s.tagTurn tag = .ok t ∧ ∃ d, t = { s with dir := d } := by
  unfold State.tagTurn
  split
  · rename_i k hk
    rw [if_pos (by simp [h k hk])]
    exact ⟨_, rfl, supply_eq s k⟩
  · exact ⟨s, rfl, s.dir, rfl⟩

/-! ### The checks of an access through the NI (R180) -/

section

variable {s : State} {va : Word} (n : Nat) (acc : Acc)

theorem niForm_of_high (h : 2 ^ 57 ≤ va.toNat) : s.niForm va n 1 false acc = .error ⟨cPAGE, va, accInfo acc⟩ := by
  simp only [State.niForm, h, if_true]

variable (hlow : ¬2 ^ 57 ≤ va.toNat)
include hlow

theorem niForm_of_window (hap : s.aperture va.toNat = true) (h : 6 ≤ vaWindow va.toNat) :
    s.niForm va n 1 false acc = .error ⟨cWINDOW, va, 0⟩ := by
  simp only [State.niForm, hlow, if_false, hap, h, decide_true, Bool.true_or, Bool.and_self, if_true]

/-- Through an aperture window that exists, other than FE, RAW asks for the size's alignment and the 16-bit windows for an even address. -/
theorem niForm_of_misaligned (hap : s.aperture va.toNat = true)
    (h : vaWindow va.toNat = 0 ∧ va.toNat % n ≠ 0 ∨ (vaWindow va.toNat = 3 ∨ vaWindow va.toNat = 4) ∧ va.toNat % 2 ≠ 0) :
    s.niForm va n 1 false acc = .error ⟨cALIGN, va, 0⟩ := by
  have hbad : ((vaWindow va.toNat == 0 && va.toNat % n != 0) ||
      ((vaWindow va.toNat == 3 || vaWindow va.toNat == 4) && va.toNat % 2 != 0)) = true := by simpa using h
  have hwin : ¬6 ≤ vaWindow va.toNat ∧ vaWindow va.toNat ≠ 5 := by omega
  have hwin' : (vaWindow va.toNat == 5) = false := by simpa using hwin.2
  simp only [State.niForm, hlow, if_false, hap, hwin.1, hwin', hbad, decide_false, Bool.false_or, Bool.false_and, Bool.and_false,
    Bool.false_eq_true, Bool.and_self, if_true]

theorem niForm_of_outside (hap : s.aperture va.toNat = false) : s.niForm va n 1 false acc = .ok () := by
  simp only [State.niForm, hlow, if_false, hap, Bool.false_and, Bool.false_eq_true, Nat.mod_one, bne_self_eq_false]

end

section

variable {s : State} {va : Word} {size align : Nat} {raw : Bool} {acc : Acc} (h : Hint)

theorem niAccess_of_form {f : Flt} (hf : s.niForm va size align raw acc = .error f) :
    s.niAccess va size align raw acc h = .error (.trap s f s.hand.pc) := by
  unfold State.niAccess State.niReach
  rw [hf]
  rfl

theorem niAccess_of_parts {x : State × Bad × Nat} (hf : s.niForm va size align raw acc = .ok ())
    (hp : s.niParts va.toNat (s.vaUnits va.toNat size) acc = .error x) : s.niAccess va size align raw acc h = .error (badStop x) := by
  unfold State.niAccess State.niReach
  rw [hf, State.lift_ok, res_ok_bind]
  dsimp only
  rw [hp]

end

section

variable {s : State} {va n : Nat} {acc : Acc}

theorem niParts_of_untranslated {t : State} {b : Bad} (h : s.translateMy va acc = .error (t, b)) : s.niParts va n acc = .error (t, b, va) := by
  simp only [State.niParts, State.niPart, h]

/-- The data of an access that lies in one line fail their check. -/
theorem niParts_of_bad {t : State} {l : Loc} {b : Bad} (hline : va % 128 + n ≤ 128) (htr : s.translateMy va acc = .ok (t, l))
    (hbad : t.dataBadFor t.my.linkLost ⟨l, n⟩ acc = some b) : s.niParts va n acc = .error (t, b, va) := by
  have hmin : min n (128 - va % 128) = n := by omega
  simp only [State.niParts, State.niPart, hmin, htr, hbad]

end

/-- A unit that a write meets poisoned a read meets poisoned too. -/
theorem poisoned_of_write {m : Phys} {w : Bool} {pa n : Nat} (h : m.poisoned true pa n = true) : m.poisoned w pa n = true := by
  simp only [Phys.poisoned, List.any_eq_true, Bool.and_eq_true] at h ⊢
  obtain ⟨x, hx, hmem, hpart⟩ := h
  refine ⟨x, hx, hmem, ?_⟩
  cases w
  · simp
  · exact hpart

theorem dataBad_of_poisoned {s : State} {pa n : Nat} {acc : Acc} (lost : Bool) (hpa : pa < hbmSize) (h : s.mem.poisoned true pa n = true) :
    s.dataBadFor lost ⟨⟨0, pa⟩, n⟩ acc = some (.flt cPOISON (if acc.writes then 1 else 0)) := by
  simp [State.dataBadFor, State.dataBad, isSpad_of_hbm hpa, State.phys_zero, poisoned_of_write h]

end Sys2Proof.Machine
end

section
/-! PROOF. The faults of `ldc` on its capability, and of `ldg` and `stg` on their address (R54, R180, R182, R184). -/

namespace Sys2Proof.Machine

/-- `ldc` faults as CheckCap does, once a dirty copy has supplied the line of the tag's bit. -/
theorem ldc_traps {s : State} {g : Guard} (h : s.runs true false g) (d a : BitVec 4) {imm : Word} (hfree : TagFree s (capTag (s.A a)))
    {code : Nat} {addr info : Word} (hc : s.checkCap (s.A a) imm.toInt 16 permREAD (a.setWidth 64) = .error ⟨code, addr, info⟩) :
    ∃ dir, Traps (exec (.ldc g d a imm) s) { s with dir := dir } code addr info s.hand.pc := by
  obtain ⟨t, hturn, dir, ht⟩ := tagTurn_of_tagFree (tagFree_setPc hfree s.nextPc)
  have hA : t.A a = s.A a := by
    rw [ht]
    exact s.A_setPc s.nextPc a
  have hcheck : t.checkCap (s.A a) imm.toInt 16 permREAD (capInfo a) = .error ⟨code, addr, info⟩ := by
    rw [ht]
    exact (s.checkCap_setPc s.nextPc _ _ _ _ _).trans hc
  refine ⟨dir, t, ?_, .inr ht⟩
  rw [exec_ldc, execLdc, run_body h, State.A_setPc, hturn, res_ok_bind]
  dsimp only
  rw [hA, hcheck, show s.hand.pc = t.hand.pc by rw [ht]; rfl]
  rfl

theorem sizeOf2_eq (sz : BitVec 2) : sizeOf2 sz = if sz = 0 then 8 else if sz = 1 then 1 else if sz = 2 then 2 else 4 := by
  revert sz
  decide

/-- Both accesses fail at address `va` with this code, the read with EINFO `r` and the write with `w`. -/
def AccessesFail (s : State) (va : Word) (n code : Nat) (r w : Word) : Prop :=
  ∀ h : Hint, s.ahead.niAccess va n 1 false .read h = .error (.trap s.ahead ⟨code, va, r⟩ s.hand.pc) ∧
    s.ahead.niAccess va n 1 false .write h = .error (.trap s.ahead ⟨code, va, w⟩ s.hand.pc)

section

variable {s : State} {g : Guard} {sz : BitVec 2} {a : BitVec 5} {imm va : Word} {code : Nat}

theorem AccessesFail.traps {r w : Word} (hrun : s.runs true false g) (h : AccessesFail s (s.S a + imm) (sizeOf2 sz) code r w)
    (sx byp na : Bool) (d : BitVec 5) :
    Traps (exec (.ldg g sz sx false byp na d a imm) s) s code (s.S a + imm) r s.hand.pc ∧
      Traps (exec (.stg g sz false byp na d a imm) s) s code (s.S a + imm) w s.hand.pc := by
  obtain ⟨hread, hwrite⟩ := h (hintOf byp na)
  have hbase (perm : BitVec 6) : s.ahead.globalBase false a imm (sizeOf2 sz) perm = .ok (s.S a + imm) := by
    simp [State.globalBase, State.ea]
  refine ⟨⟨s.ahead, ?_, .inr rfl⟩, ⟨s.ahead, ?_, .inr rfl⟩⟩
  · rw [exec_ldg, execLdg, run_body hrun]
    dsimp only
    rw [hbase, res_ok_bind, hread]
    rfl
  · rw [exec_stg, execStg, run_body hrun]
    dsimp only
    rw [hbase, res_ok_bind, State.niWrite, hwrite]
    rfl

variable {n : Nat}

/-- The form of the address is wrong. -/
theorem AccessesFail.of_form {info : Acc → Word} (h : ∀ acc, s.ahead.niForm va n 1 false acc = .error ⟨code, va, info acc⟩) :
    AccessesFail s va n code (info .read) (info .write) := fun hint => ⟨niAccess_of_form hint (h _), niAccess_of_form hint (h _)⟩

variable (hlow : va.toNat < 2 ^ 57) (hap : s.aperture va.toNat = false)
include hlow hap

/-- The form is right, but the part at the address fails. -/
theorem AccessesFail.of_parts {r w : Word} (hr : s.ahead.niParts va.toNat n .read = .error (s.ahead, .flt code r, va.toNat))
    (hw : s.ahead.niParts va.toNat n .write = .error (s.ahead, .flt code w, va.toNat)) : AccessesFail s va n code r w := by
  have hap' : s.ahead.aperture va.toNat = false := (s.aperture_setPc _ _).trans hap
  have hunits : s.ahead.vaUnits va.toNat n = n := by simp [State.vaUnits, hap]
  have hstop (i : Word) : badStop (s.ahead, .flt code i, va.toNat) = .trap s.ahead ⟨code, va, i⟩ s.hand.pc := by
    simp [badStop]
  refine fun hint => ⟨?_, ?_⟩
  · rw [niAccess_of_parts hint (niForm_of_outside n _ (Nat.not_le.mpr hlow) hap') (by rw [hunits]; exact hr), hstop]
  · rw [niAccess_of_parts hint (niForm_of_outside n _ (Nat.not_le.mpr hlow) hap') (by rw [hunits]; exact hw), hstop]

end

theorem capPerm_and_permREAD (c : CapBits) : capPerm c &&& permREAD = permREAD ↔ c.getLsbD 97 = true := by
  have hbit : (capPerm c).getLsbD 0 = c.getLsbD 97 := by simp [capPerm]
  rw [← hbit]
  generalize capPerm c = p
  revert p
  decide

/-- Settles O20: CheckCap branch by branch, then the checks of the NI, each by the lemma about it. -/
theorem capabilityAndGlobalFaultsInOrder : Obligations.CapabilityAndGlobalFaultsInOrder := by
  refine ⟨fun s g d a imm h => ?caps, fun s g sz sx byp na d a imm h => ?access⟩
  case caps =>
    intro c base len faults hfree
    have hfault {code : Nat} {addr info : Word} (hc : s.checkCap c imm.toInt 16 permREAD (a.setWidth 64) = .error ⟨code, addr, info⟩) :
        faults code addr info := ldc_traps h d a hfree hc
    refine ⟨fun hc => hfault ?_, fun hc hbad => hfault ?_, fun hc hseal hread => ?_⟩
    · rw [hc]
      exact checkCap_of_null s _
    · exact checkCap_of_forbidden s _ hc (hbad.imp id fun hno hyes => Bool.false_ne_true (hno.symm.trans ((capPerm_and_permREAD c).mp hyes)))
    have hok : capPermits c permREAD (a.setWidth 64) = .ok () := capPermits_of_allowed _ hc hseal ((capPerm_and_permREAD c).mpr hread)
    refine ⟨fun hout => hfault (checkCap_of_outside s hok hout), fun h0 hfit => ?_⟩
    have hoff : imm.toInt.toNat = imm.toNat := by
      rw [BitVec.toInt_eq_toNat_cond] at h0 ⊢
      split at h0 <;> omega
    rw [← hoff]
    exact ⟨fun hhigh => hfault (checkCap_of_high s hok h0 hfit hhigh), fun hlow htag =>
      ⟨fun hp => hfault (checkCap_of_poisoned s hok h0 hfit hlow hp),
        fun hp hr => hfault (checkCap_of_revoked s hok h0 hfit hlow hp htag hr)⟩⟩
  case access =>
    intro va x n faults
    have hfault {code : Nat} {r w : Word} (hf : AccessesFail s va n code r w) : faults code r w :=
      AccessesFail.traps h (by rwa [sizeOf2_eq]) sx byp na d
    have hap {b : Bool} (hb : s.aperture x = b) : s.ahead.aperture x = b := (s.aperture_setPc _ _).trans hb
    refine ⟨fun hhigh => hfault (.of_form (info := accInfo) fun acc => niForm_of_high n acc hhigh),
      fun hlow ha hw => hfault (.of_form (info := fun _ => 0) fun acc => niForm_of_window n acc (Nat.not_le.mpr hlow) (hap ha) hw),
      fun hlow ha hw hodd => hfault (.of_form (info := fun _ => 0) fun acc => niForm_of_misaligned n acc (Nat.not_le.mpr hlow) (hap ha) (.inl ⟨hw, hodd⟩)),
      fun hlow ha hw hodd => hfault (.of_form (info := fun _ => 0) fun acc => niForm_of_misaligned n acc (Nat.not_le.mpr hlow) (hap ha) (.inr ⟨hw, hodd⟩)),
      fun hlow ha code r w hr hw => hfault (.of_parts hlow ha (niParts_of_untranslated hr) (niParts_of_untranslated hw)),
      fun hlow ha hline pa hr hw hpa hp => hfault (.of_parts hlow ha (niParts_of_bad hline hr ?_) (niParts_of_bad hline hw ?_))⟩
    · exact dataBad_of_poisoned _ hpa hp
    · exact dataBad_of_poisoned _ hpa hp

end Sys2Proof.Machine
end

section
/-! PROOF. Mesh elements read through a capability whose tag's bit stands beyond the physical addresses (R55, R228, R233, R388). -/

namespace Sys2Proof.Machine

/-- A partition whose revocation bitmap is said to start past the 52-bit physical addresses of R373. -/
def strayPartition : Partition := { smallPartition with bitmap := 2 ^ 52 }

/-- The snapshot of a mesh with one vertex: POOL is 16 readable bytes at address 0 with tag 1, the record of the vertex is at offset 0 and its
generation byte at offset 8. -/
def oneVertex : Bytes := [(0x17, 0x20), (0x1C, 2), (0x1D, 1), (0x35, 1)]

/-- The vertex is live and word 0 of its record holds 5. The tile holds the translation of the page and no line of the bitmap. In the memory of
this device the bit of tag 1 is clear; the key of the bitmap's line is that of the first line of peer 1, where the bit is set. -/
def strayBitmap : State :=
  { State.reset with
    mem := ⟨[(0, 5), (8, 1)], [], []⟩, parts := [(0, strayPartition)],
    cores := [(0, { Core.reset with m := Vector.replicate 4 (some ⟨oneVertex, 0⟩) })],
    peers := [(1, { Peer.none with bytes := [(0, 2)] })], caches := ⟨[⟨.tlb 0, 0, 0, 4096, 0, 0, 7, []⟩], [], [], [], []⟩ }

/-- A scalar register and the fault mailbox after a step that has a next state. -/
def scalarAndReports (o : Out) (r : BitVec 5) : Option (Word × List Report) :=
  match o with
  | .next t => some (t.S r, t.mailbox)
  | _ => none

/-- The check of the tag passes while the bit is read at its home, and fails once the tile keeps the line: `mget` reads the generation byte,
then faults CAPREVOKED at the record, whose word it would have written. -/
theorem strayBitmap_mget : strayBitmap.revoked 1 = false ∧ (strayBitmap.fillRev 1).revoked 1 = true ∧
    scalarAndReports (exec (.mget .always false 0 0 1 0 0) strayBitmap) 1 = some (0, [.unitFault 0 cCAPREVOKED]) :=
  ⟨by decide, by decide, by decide⟩

section

variable {off n v : Nat} (hoff : off < 0x1000) (hn : 0 < n) (hline : off % 128 + n ≤ 128)
  (hmap : strayBitmap.ahead.translateMy off .read = .ok (strayBitmap.ahead, ⟨0, off⟩)) (hplain : strayBitmap.ahead.appendLine off = none)
include hoff hn hline hmap hplain

theorem strayBitmap_hbmReady : HbmReady strayBitmap.ahead (BitVec.ofNat 64 off) n .read off where
  canonical := by rw [BitVec.toNat_ofNat]; omega
  outside := by
    have hwin : ¬0xF00000000000 ≤ off % 2 ^ 64 % 2 ^ 48 := by omega
    have hphys : strayBitmap.ahead.physMode = false := by decide
    simp only [State.aperture, hphys, inAperture, BitVec.toNat_ofNat, hwin, decide_false, Bool.false_and, Bool.false_eq_true, if_false]
  oneLine := by rw [BitVec.toNat_ofNat]; omega
  some := hn
  mapped := by rwa [BitVec.toNat_ofNat, Nat.mod_eq_of_lt (by omega)]
  hbm := by unfold hbmSize; omega
  inPage := by rw [BitVec.toNat_ofNat]; omega
  clean := poisoned_of_clean rfl _ _ _
  room := by decide
  alone := rfl
  granted := fun h => nomatch h
  plain := hplain

theorem strayBitmap_capReads (hcheck : strayBitmap.ahead.checkCap (mcbPool oneVertex) off n permREAD 16 = .ok off)
    (hv : bytesRead strayBitmap.mem.bytes off n = v) : CapReads strayBitmap.ahead (mcbPool oneVertex) off n v := by
  have hcached : (strayBitmap.ahead.xlatAt strayBitmap.ahead.tlb strayBitmap.ahead.partNo (off % 2 ^ 48)).isSome = true := by
    rw [Nat.mod_eq_of_lt (by omega)]
    exact List.find?_isSome.mpr ⟨_, List.mem_singleton_self _, by simpa using ⟨by decide, hoff⟩⟩
  refine ⟨off, off, fun _ _ => rfl, hcheck, ?_, strayBitmap_hbmReady hoff hn hline hmap hplain, hv⟩
  rw [Steady, if_pos hcached]
  decide

end

theorem strayBitmap_live : LiveElem strayBitmap.ahead oneVertex 0 0 :=
  ⟨by decide, rfl, by decide, 1, strayBitmap_capReads (by decide) (by decide) (by decide) rfl rfl rfl rfl, rfl, rfl⟩

theorem strayBitmap_word : RecReads strayBitmap.ahead oneVertex 0 0 0 5 :=
  strayBitmap_capReads (by decide) (by decide) (by decide) rfl rfl rfl rfl

/-- Refutes O36, in its clause on `mget` of a live element: where the partition's entry puts the revocation bitmap past the 52-bit physical
addresses, the line that the tile keeps after the first check of POOL's tag is not the one that check has read, and the second check fails. -/
theorem not_meshElementsAreReadAndWritten : ¬ Obligations.MeshElementsAreReadAndWritten := by
  intro h
  have hrun : strayBitmap.runs false false .always := by unfold State.runs; decide
  obtain ⟨-, -, hget, -⟩ := h strayBitmap .always 0 1 0 0 false 0 0 0 0 ⟨oneVertex, 0⟩ hrun rfl
  obtain ⟨hlive, -⟩ := hget (by decide) (.inr (by decide))
  obtain ⟨t, ht, -, hword⟩ := hlive strayBitmap_live (fun _ => 5) fun j hj => by
    obtain rfl : j = 0 := by simpa using hj
    exact strayBitmap_word
  have hfive : t.S 1 = 5 := hword 0 (by decide) (by decide)
  obtain ⟨-, -, hzero⟩ := strayBitmap_mget
  rw [ht] at hzero
  exact absurd (hfive.symm.trans (congrArg Prod.fst (Option.some.inj hzero))) (by decide)

end Sys2Proof.Machine
end

section
/-! SUPPORT. Integer results: wrapped and saturated, quotients and products, and what the bit operations give, bit by bit (R113 to R118). -/

namespace Sys2Proof.Machine

/-! ### Results that `sat` may saturate (R113) -/

/-- The exact result brought into the range of a signed doubleword (R113). -/
def satWord (x : Int) : Word := if x < -(2 ^ 63) then 0x8000000000000000 else if 2 ^ 63 ≤ x then 0x7FFFFFFFFFFFFFFF else BitVec.ofInt 64 x

/-- FFLAGS.SAT where that changes it. -/
def satFlag (x : Int) : FFlags := if -(2 ^ 63) ≤ x ∧ x < 2 ^ 63 then 0 else fSAT

theorem flagIf_bne_of_eq {x y : Int} (h : y = x) (f : FFlags) : flagIf (y != x) f = 0 := by simp [flagIf, h]

theorem flagIf_bne_of_ne {x y : Int} (h : y ≠ x) (f : FFlags) : flagIf (y != x) f = f := by simp [flagIf, h]

theorem intResult_sat (x : Int) : intResult 0x40 x = (satWord x, satFlag x) := by
  have hmode : mrMode 0x40 = 1 := rfl
  rw [intResult, if_pos hmode, satWord, satFlag]
  rcases lt_or_ge x (-(2 ^ 63)) with hlo | hlo
  · rw [if_pos hlo, if_neg (by omega), show max (-(2 ^ 63)) (min x (2 ^ 63 - 1)) = -(2 ^ 63) by omega]
    exact Prod.ext (rfl : BitVec.ofInt 64 (-(2 ^ 63)) = _) (flagIf_bne_of_ne (by omega) _)
  · rcases lt_or_ge x (2 ^ 63) with hhi | hhi
    · rw [if_neg (by omega), if_neg (by omega), if_pos ⟨hlo, hhi⟩, show max (-(2 ^ 63)) (min x (2 ^ 63 - 1)) = x by omega]
      exact Prod.ext rfl (flagIf_bne_of_eq rfl _)
    · rw [if_neg (by omega), if_pos hhi, if_neg (by omega), show max (-(2 ^ 63)) (min x (2 ^ 63 - 1)) = 2 ^ 63 - 1 by omega]
      exact Prod.ext (rfl : BitVec.ofInt 64 (2 ^ 63 - 1) = _) (flagIf_bne_of_ne (by omega) _)

/-! ### Quotients, remainders and high products (R45, R116) -/

theorem intMulh_unsigned (a b : Word) : ∃ lo : Nat, lo < 2 ^ 64 ∧ a.toNat * b.toNat = (intMulh true a b).toNat * 2 ^ 64 + lo := by
  have hlt : a.toNat * b.toNat < 2 ^ 64 * 2 ^ 64 := Nat.mul_lt_mul'' a.isLt b.isLt
  refine ⟨a.toNat * b.toNat % 2 ^ 64, Nat.mod_lt _ (by decide), ?_⟩
  rw [intMulh, if_pos rfl, BitVec.toNat_ofNat, Nat.mod_eq_of_lt (Nat.div_lt_of_lt_mul hlt)]
  exact (Nat.div_add_mod' _ _).symm

theorem abs_toInt_le (a : Word) : |a.toInt| ≤ 2 ^ 63 := by
  have h1 := BitVec.le_toInt a
  have h2 := @BitVec.toInt_lt 64 a
  rw [abs_le]
  constructor <;> omega

theorem intMulh_signed (a b : Word) : ∃ lo : Nat, lo < 2 ^ 64 ∧ a.toInt * b.toInt = (intMulh false a b).toInt * 2 ^ 64 + lo := by
  have habs : |a.toInt * b.toInt| ≤ 2 ^ 63 * 2 ^ 63 := by
    rw [abs_mul]
    exact mul_le_mul (abs_toInt_le a) (abs_toInt_le b) (abs_nonneg _) (by norm_num)
  obtain ⟨hlo, hhi⟩ := abs_le.1 habs
  have hrem := Int.emod_nonneg (a.toInt * b.toInt) (show (2 ^ 64 : Int) ≠ 0 by norm_num)
  have hrem' := Int.emod_lt_of_pos (a.toInt * b.toInt) (show (0 : Int) < 2 ^ 64 by norm_num)
  have hdiv := Int.mul_ediv_add_emod (a.toInt * b.toInt) (2 ^ 64)
  refine ⟨(a.toInt * b.toInt % 2 ^ 64).toNat, by omega, ?_⟩
  rw [intMulh, if_neg (by decide), BitVec.toInt_ofInt_eq_self (by decide) (by norm_num; omega) (by norm_num; omega)]
  omega

theorem intDiv_zero (u : Bool) (a : Word) : intDiv u a 0 = BitVec.allOnes 64 := if_pos rfl

theorem intRem_zero (u : Bool) (a : Word) : intRem u a 0 = a := if_pos rfl

theorem intDiv_signed {a b : Word} (hb : b ≠ 0) : intDiv false a b = a.sdiv b := by
  rw [intDiv, if_neg hb, if_neg (by decide)]
  exact BitVec.eq_of_toInt_eq (by rw [BitVec.toInt_ofInt, BitVec.toInt_sdiv])

theorem intRem_signed {a b : Word} (hb : b ≠ 0) : intRem false a b = a.srem b := by
  rw [intRem, if_neg hb, if_neg (by decide), ← BitVec.toInt_srem, BitVec.ofInt_toInt]

/-- The quotient that does not fit is the dividend (R45). -/
theorem intDiv_overflow {a : Word} (ha : a.toInt = -(2 ^ 63)) : intDiv false a (BitVec.allOnes 64) = a ∧ intRem false a (BitVec.allOnes 64) = 0 := by
  have hmin : a = BitVec.intMin 64 := BitVec.eq_of_toInt_eq (by rw [ha]; decide)
  rw [intDiv_signed (by decide), intRem_signed (by decide), hmin]
  decide

theorem abs_tmod_lt (x : Int) {y : Int} (hy : y ≠ 0) : |x.tmod y| < |y| := by
  rw [Int.abs_eq_natAbs, Int.abs_eq_natAbs, Int.natAbs_tmod]
  exact_mod_cast Nat.mod_lt _ (Int.natAbs_pos.2 hy)

/-- A remainder has the sign of the dividend. -/
theorem tmod_sign (x y : Int) : x.tmod y = 0 ∨ (x.tmod y < 0 ↔ x < 0) := by
  have h := Int.sign_tmod x y
  split_ifs at h with hdvd
  · exact .inl (Int.sign_eq_zero_iff_zero.1 h)
  · right
    rw [← Int.sign_eq_neg_one_iff_neg, h, Int.sign_eq_neg_one_iff_neg]

theorem intDiv_intRem_signed {a b : Word} (hb : b ≠ 0) (hfit : ¬(a.toInt = -(2 ^ 63) ∧ b = BitVec.allOnes 64)) :
    a.toInt = (intDiv false a b).toInt * b.toInt + (intRem false a b).toInt ∧ |(intRem false a b).toInt| < |b.toInt| ∧
      ((intRem false a b).toInt = 0 ∨ ((intRem false a b).toInt < 0 ↔ a.toInt < 0)) := by
  have hb' : b.toInt ≠ 0 := fun h => hb (BitVec.eq_of_toInt_eq (by rw [h]; rfl))
  have hfit' : a ≠ BitVec.intMin 64 ∨ b ≠ -1#64 := by
    by_contra h
    rw [not_or, not_not, not_not] at h
    exact hfit ⟨by rw [h.1]; decide, by rw [h.2]; decide⟩
  rw [intDiv_signed hb, intRem_signed hb, BitVec.toInt_sdiv_of_ne_or_ne _ _ hfit', BitVec.toInt_srem]
  exact ⟨(Int.tdiv_mul_add_tmod _ _).symm, abs_tmod_lt _ hb', tmod_sign _ _⟩

theorem intDiv_intRem_unsigned {a b : Word} (hb : b ≠ 0) :
    a.toNat = (intDiv true a b).toNat * b.toNat + (intRem true a b).toNat ∧ (intRem true a b).toNat < b.toNat := by
  rw [intDiv, intRem, if_neg hb, if_neg hb, if_pos rfl, if_pos rfl, BitVec.toNat_udiv, BitVec.toNat_umod]
  exact ⟨(Nat.div_add_mod' _ _).symm, Nat.mod_lt _ (Nat.pos_of_ne_zero fun h => hb (BitVec.eq_of_toNat_eq h))⟩

/-! ### Shifts and rotation, bit by bit (R115) -/

theorem getLsbD_sra (a : Word) (n : Nat) {i : Nat} (hi : i < 64) : (a.sshiftRight n).getLsbD i = a.getLsbD (min (i + n) 63) := by
  rw [BitVec.getLsbD_sshiftRight, BitVec.msb_eq_getLsbD_last]
  by_cases h : n + i < 64
  · simp [h, hi, show min (i + n) 63 = n + i by omega]
  · simp [h, hi, show min (i + n) 63 = 63 by omega]

theorem getLsbD_rol (a : Word) {n i : Nat} (hn : n < 64) (hi : i < 64) : (a.rotateLeft n).getLsbD ((i + n) % 64) = a.getLsbD i := by
  rw [BitVec.getLsbD_rotateLeft, Nat.mod_eq_of_lt hn]
  by_cases h : i + n < 64
  · simp [Nat.mod_eq_of_lt h, show ¬i + n < n by omega, h]
  · rw [Nat.mod_eq_sub_mod (by omega), Nat.mod_eq_of_lt (by omega)]
    simp [show i + n - 64 < n by omega, show 64 - n + (i + n - 64) = i by omega]

/-! ### Counts and the reversal of bytes (R117) -/

theorem clzGo_spec (a : Word) (n : Nat) : clzGo a n ≤ n ∧ (∀ i < n, n ≤ i + clzGo a n → a.getLsbD i = false) ∧
    (clzGo a n < n → a.getLsbD (n - 1 - clzGo a n) = true) := by
  induction n with
  | zero => simp [clzGo]
  | succ n ih =>
    obtain ⟨hle, hzeros, hone⟩ := ih
    rw [clzGo]
    split_ifs with hbit
    · exact ⟨by omega, fun i hi h => by omega, fun _ => hbit⟩
    · refine ⟨by omega, fun i hi h => ?_, fun h => ?_⟩
      · obtain rfl | hlt := Nat.eq_or_lt_of_le (Nat.le_of_lt_succ hi)
        · simpa using hbit
        · exact hzeros i hlt (by omega)
      · rw [show n + 1 - 1 - (1 + clzGo a n) = n - 1 - clzGo a n by omega]
        exact hone (by omega)

theorem ctzGo_spec (a : Word) (n i : Nat) : ctzGo a n i ≤ n ∧ (∀ j < ctzGo a n i, a.getLsbD (i + j) = false) ∧
    (ctzGo a n i < n → a.getLsbD (i + ctzGo a n i) = true) := by
  induction n generalizing i with
  | zero => simp [ctzGo]
  | succ n ih =>
    obtain ⟨hle, hzeros, hone⟩ := ih (i + 1)
    rw [ctzGo]
    split_ifs with hbit
    · exact ⟨by omega, fun j hj => by omega, fun _ => hbit⟩
    · refine ⟨by omega, fun j hj => ?_, fun h => ?_⟩
      · cases j with
        | zero => simpa using hbit
        | succ j => rw [show i + (j + 1) = i + 1 + j by omega]; exact hzeros j (by omega)
      · rw [← Nat.add_assoc]
        exact hone (by omega)

theorem popGo_eq (a : Word) (n : Nat) : popGo a n = ((List.range n).filter fun i => a.getLsbD i).length := by
  induction n with
  | zero => rfl
  | succ n ih =>
    rw [popGo, ih, List.range_succ, List.filter_append, List.length_append, Nat.add_comm]
    cases h : a.getLsbD n <;> simp [h]

theorem getLsbD_byteSwap (a : Word) {i j : Nat} (hi : i < 8) (hj : j < 8) :
    (byteSwap a).getLsbD (8 * i + j) = a.getLsbD (8 * (7 - i) + j) := by
  unfold byteSwap
  simp only [BitVec.getLsbD_append, BitVec.getLsbD_extractLsb']
  interval_cases i <;> simp [hj] <;> grind

/-! ### Comparisons and selections (R112, R121) -/

theorem not_slt_eq (x y : Word) : (!x.slt y) = decide (y.toInt ≤ x.toInt) := by
  rw [BitVec.slt_eq_decide, ← decide_not, decide_eq_decide, not_lt]

theorem not_ult_eq (x y : Word) : (!x.ult y) = decide (y.toNat ≤ x.toNat) := by
  rw [BitVec.ult_eq_decide, ← decide_not, decide_eq_decide, not_lt]

theorem bne_eq_decide_ne (x y : Word) : (x != y) = decide (x ≠ y) := by rw [Bool.eq_iff_iff, bne_iff_ne, decide_eq_true_iff]

/-- The condition of `cmp` that tests for a common one bit. -/
theorem intCond_common (x y : Word) : intCond 6 x y = true ↔ ∃ i < 64, x.getLsbD i = true ∧ y.getLsbD i = true := by
  have hcond : intCond 6 x y = (x &&& y != 0) := rfl
  rw [hcond, bne_iff_ne, ← not_iff_not, not_not]
  refine ⟨fun h ⟨i, _, hx, hy⟩ => ?_, fun h => BitVec.eq_of_getLsbD_eq fun i hi => ?_⟩
  · have := congrArg (·.getLsbD i) h
    simp [hx, hy] at this
  · rw [BitVec.getLsbD_and, show (0 : Word).getLsbD i = false from BitVec.getLsbD_zero, Bool.and_eq_false_iff]
    by_contra hno
    simp only [not_or, Bool.not_eq_false] at hno
    exact h ⟨i, hi, hno⟩

theorem select_min_signed (x y : Word) : (if intLess false y x then y else x) = BitVec.ofInt 64 (min x.toInt y.toInt) := by
  have hless : intLess false y x = decide (y.toInt < x.toInt) := BitVec.slt_eq_decide
  rw [hless]
  by_cases h : y.toInt < x.toInt
  · simp [h, min_eq_right h.le]
  · simp [h, min_eq_left (not_lt.1 h)]

theorem select_min_unsigned (x y : Word) : (if intLess true y x then y else x) = BitVec.ofNat 64 (min x.toNat y.toNat) := by
  have hless : intLess true y x = decide (y.toNat < x.toNat) := BitVec.ult_eq_decide
  rw [hless]
  by_cases h : y.toNat < x.toNat
  · simp [h, min_eq_right h.le]
  · simp [h, min_eq_left (not_lt.1 h)]

theorem select_max_signed (x y : Word) : (if intLess false x y then y else x) = BitVec.ofInt 64 (max x.toInt y.toInt) := by
  have hless : intLess false x y = decide (x.toInt < y.toInt) := BitVec.slt_eq_decide
  rw [hless]
  by_cases h : x.toInt < y.toInt
  · simp [h, max_eq_right h.le]
  · simp [h, max_eq_left (not_lt.1 h)]

theorem select_max_unsigned (x y : Word) : (if intLess true x y then y else x) = BitVec.ofNat 64 (max x.toNat y.toNat) := by
  have hless : intLess true x y = decide (x.toNat < y.toNat) := BitVec.ult_eq_decide
  rw [hless]
  by_cases h : x.toNat < y.toNat
  · simp [h, max_eq_right h.le]
  · simp [h, max_eq_left (not_lt.1 h)]

/-! ### Bit fields (R118) -/

theorem getLsbD_fieldBits (off n : Nat) {i : Nat} (hi : i < 64) :
    (BitVec.ofNat 64 (2 ^ n - 1) <<< off : Word).getLsbD i = decide (off ≤ i ∧ i < off + n) := by
  rw [BitVec.getLsbD_shiftLeft, BitVec.getLsbD_ofNat, Nat.testBit_two_pow_sub_one]
  grind

/-- The width of the field of R118 at bit `off`: `w` bits, cut at bit 63. -/
def fieldWidth (off w : Word) : Nat := min w.toNat (64 - off.toNat)

theorem fieldMask_eq (off w : Word) : fieldMask off w =
    if fieldWidth off w = 0 then none else some (fieldWidth off w, BitVec.ofNat 64 (2 ^ fieldWidth off w - 1) <<< off.toNat) := by
  have hw : w = 0 ↔ w.toNat = 0 := ⟨fun h => by rw [h]; rfl, fun h => BitVec.eq_of_toNat_eq h⟩
  have hempty : (64 ≤ off.toNat || decide (w = 0)) = decide (fieldWidth off w = 0) := by
    rw [← Bool.decide_or, decide_eq_decide, hw, fieldWidth]
    omega
  simp only [fieldMask, hempty, decide_eq_true_eq]
  rfl

theorem getLsbD_bitExtract (sx : Bool) (x off w : Word) {i : Nat} (hi : i < 64) : (bitExtract sx x off w).getLsbD i =
    if fieldWidth off w = 0 then false
    else if i < fieldWidth off w then x.getLsbD (off.toNat + i) else sx && x.getLsbD (off.toNat + fieldWidth off w - 1) := by
  rw [bitExtract, fieldMask_eq]
  have hwidth : off.toNat + fieldWidth off w ≤ 64 ∨ fieldWidth off w = 0 := by unfold fieldWidth; omega
  generalize fieldWidth off w = n at hwidth ⊢
  by_cases h0 : n = 0
  · simp [h0]
  · have hfield : ∀ j, ((x &&& BitVec.ofNat 64 (2 ^ n - 1) <<< off.toNat) >>> off.toNat).getLsbD j =
        (x.getLsbD (off.toNat + j) && decide (j < n)) := fun j => by
      rw [BitVec.getLsbD_ushiftRight, BitVec.getLsbD_and]
      by_cases hj : off.toNat + j < 64
      · rw [getLsbD_fieldBits off.toNat n hj]
        grind
      · rw [BitVec.getLsbD_of_ge x _ (by omega), Bool.false_and, Bool.false_and]
    have hlast : off.toNat + (n - 1) = off.toNat + n - 1 := by omega
    have hones : (BitVec.allOnes 64 <<< n : Word).getLsbD i = decide (n ≤ i) := by
      rw [BitVec.getLsbD_shiftLeft, BitVec.getLsbD_allOnes]
      grind
    simp only [if_neg h0]
    generalize (x &&& BitVec.ofNat 64 (2 ^ n - 1) <<< off.toNat) >>> off.toNat = y at hfield ⊢
    rw [hfield (n - 1), hlast, show decide (n - 1 < n) = true by simp; omega, Bool.and_true]
    by_cases hsign : (sx && x.getLsbD (off.toNat + n - 1)) = true
    · rw [if_pos hsign, hsign, BitVec.getLsbD_or, hfield, hones]
      by_cases hlt : i < n <;> simp [hlt, Nat.le_of_not_lt]
    · rw [if_neg hsign, hfield, Bool.eq_false_of_not_eq_true hsign]
      by_cases hlt : i < n <;> simp [hlt]

theorem getLsbD_bitInsert (d x off w : Word) {i : Nat} (hi : i < 64) : (bitInsert d x off w).getLsbD i =
    if off.toNat ≤ i ∧ i < off.toNat + fieldWidth off w then x.getLsbD (i - off.toNat) else d.getLsbD i := by
  rw [bitInsert, fieldMask_eq]
  generalize fieldWidth off w = n
  by_cases h0 : n = 0
  · rw [if_pos h0, if_neg (by omega)]
  · simp only [if_neg h0, BitVec.getLsbD_or, BitVec.getLsbD_and, BitVec.getLsbD_not, getLsbD_fieldBits off.toNat n hi, BitVec.getLsbD_shiftLeft, hi]
    by_cases h : off.toNat ≤ i ∧ i < off.toNat + n
    · simp [h]
    · simp [h]

end Sys2Proof.Machine
end

section
/-! SUPPORT. The scalar integer instructions write one register, from registers as they are before the pc moves (R112 to R122). -/

namespace Sys2Proof.Machine

variable {s : State} {g : Guard} {av cable : Bool} {d a b c : BitVec 5} {imm : Word}

theorem WritesS.wraps {o : Out} {x : Int} (h : WritesS o s d (intResult 0 x).1 (intResult 0 x).2) {v : Word} (hv : BitVec.ofInt 64 x = v) :
    WritesS o s d v 0 := hv ▸ h

theorem WritesS.saturates {o : Out} {x : Int} (h : WritesS o s d (intResult 0x40 x).1 (intResult 0x40 x).2) :
    WritesS o s d (satWord x) (satFlag x) := by
  rwa [intResult_sat] at h

/-- A body that writes what `sat` may saturate (R113). -/
theorem writesS_setInt (h : s.runs av cable g) (mr : BitVec 8) {body : State → Int} {x : Int} (hx : body s.ahead = x) :
    WritesS (run av cable g s fun s => .ok (s.setInt mr d (body s))) s d (intResult mr x).1 (intResult mr x).2 :=
  writesS_run h (by subst hx; rfl)

/-- A body that writes a value. -/
theorem writesS_setS (h : s.runs av cable g) {body : State → Word} {v : Word} (hv : body s.ahead = v) :
    WritesS (run av cable g s fun s => .ok (s.setS d (body s))) s d v 0 :=
  writesS_run' h (by subst hv; rfl)

/-- A body that writes a predicate. -/
theorem writesP_setP (h : s.runs av cable g) {p : BitVec 3} {body : State → Bool} {v : Bool} (hv : body s.ahead = v) :
    WritesP (run av cable g s fun s => .ok (s.setP p (body s))) s p v 0 :=
  writesP_run' h (by subst hv; rfl)

/-! ### Instructions that `sat` may saturate -/

theorem add_writes (h : s.runs true true g) (mr : BitVec 8) :
    WritesS (exec (.add g mr d a b) s) s d (intResult mr ((s.S a).toInt + (s.S b).toInt)).1 (intResult mr ((s.S a).toInt + (s.S b).toInt)).2 :=
  writesS_setInt h mr (body := fun s => (s.S a).toInt + (s.S b).toInt) (by simp)

theorem sub_writes (h : s.runs true true g) (mr : BitVec 8) :
    WritesS (exec (.sub g mr d a b) s) s d (intResult mr ((s.S a).toInt - (s.S b).toInt)).1 (intResult mr ((s.S a).toInt - (s.S b).toInt)).2 :=
  writesS_setInt h mr (body := fun s => (s.S a).toInt - (s.S b).toInt) (by simp)

theorem addImm_writes (h : s.runs true true g) (mr : BitVec 8) :
    WritesS (exec (.addImm g mr d a imm) s) s d (intResult mr ((s.S a).toInt + imm.toInt)).1 (intResult mr ((s.S a).toInt + imm.toInt)).2 :=
  writesS_setInt h mr (body := fun s => (s.S a).toInt + imm.toInt) (by simp)

theorem shl_writes (h : s.runs true true g) (mr : BitVec 8) : WritesS (exec (.shl g mr d a b) s) s d
    (intResult mr ((s.S a).toInt * 2 ^ ((s.S b).toNat % 64))).1 (intResult mr ((s.S a).toInt * 2 ^ ((s.S b).toNat % 64))).2 :=
  writesS_setInt h mr (body := fun s => (s.S a).toInt * 2 ^ shiftCount (s.S b)) (by simp [shiftCount])

theorem shiftCount_imm (h : imm < 64#64) : shiftCount imm = imm.toNat := Nat.mod_eq_of_lt (BitVec.lt_def.1 h)

theorem shlImm_writes (h : s.runs true true g) (mr : BitVec 8) (himm : imm < 64#64) : WritesS (exec (.shlImm g mr d a imm) s) s d
    (intResult mr ((s.S a).toInt * 2 ^ imm.toNat)).1 (intResult mr ((s.S a).toInt * 2 ^ imm.toNat)).2 :=
  writesS_setInt h mr (body := fun s => (s.S a).toInt * 2 ^ shiftCount imm) (by simp [shiftCount_imm himm])

theorem mul_writes (h : s.runs true false g) (mr : BitVec 8) :
    WritesS (exec (.mul g mr d a b) s) s d (intResult mr ((s.S a).toInt * (s.S b).toInt)).1 (intResult mr ((s.S a).toInt * (s.S b).toInt)).2 :=
  writesS_setInt h mr (body := fun s => (s.S a).toInt * (s.S b).toInt) (by simp)

theorem ofInt_toInt_add (x y : Word) : BitVec.ofInt 64 (x.toInt + y.toInt) = x + y := by simp [BitVec.ofInt_add]

theorem ofInt_toInt_sub (x y : Word) : BitVec.ofInt 64 (x.toInt - y.toInt) = x - y := by
  rw [Int.sub_eq_add_neg, BitVec.ofInt_add, BitVec.ofInt_neg, BitVec.ofInt_toInt, BitVec.ofInt_toInt, BitVec.sub_eq_add_neg]

theorem ofInt_toInt_mul (x y : Word) : BitVec.ofInt 64 (x.toInt * y.toInt) = x * y := by simp [BitVec.ofInt_mul]

theorem ofInt_toInt_shiftLeft (x : Word) (n : Nat) : BitVec.ofInt 64 (x.toInt * 2 ^ n) = x <<< n := by
  have hpow : BitVec.ofInt 64 (2 ^ n) = BitVec.twoPow 64 n := by
    rw [show (2 ^ n : Int) = ((2 ^ n : Nat) : Int) by norm_cast, BitVec.ofInt_natCast]
    exact BitVec.eq_of_toNat_eq (by rw [BitVec.toNat_ofNat, BitVec.toNat_twoPow])
  rw [BitVec.ofInt_mul, BitVec.ofInt_toInt, hpow, BitVec.shiftLeft_eq_mul_twoPow]

/-! ### Products, quotients and remainders -/

theorem mulh_writes (h : s.runs true false g) (u : Bool) : WritesS (exec (.mulh g u d a b) s) s d (intMulh u (s.S a) (s.S b)) 0 :=
  writesS_setS h (body := fun s => intMulh u (s.S a) (s.S b)) (by simp)

theorem div_writes (h : s.runs true false g) (u : Bool) : WritesS (exec (.div g u d a b) s) s d (intDiv u (s.S a) (s.S b)) 0 :=
  writesS_setS h (body := fun s => intDiv u (s.S a) (s.S b)) (by simp)

theorem rem_writes (h : s.runs true false g) (u : Bool) : WritesS (exec (.rem g u d a b) s) s d (intRem u (s.S a) (s.S b)) 0 :=
  writesS_setS h (body := fun s => intRem u (s.S a) (s.S b)) (by simp)

/-! ### Minima, maxima and comparisons -/

theorem min_writes (h : s.runs true true g) (u : Bool) :
    WritesS (exec (.min g u d a b) s) s d (if intLess u (s.S b) (s.S a) then s.S b else s.S a) 0 :=
  writesS_setS h (body := fun s => if intLess u (s.S b) (s.S a) then s.S b else s.S a) (by simp)

theorem max_writes (h : s.runs true true g) (u : Bool) :
    WritesS (exec (.max g u d a b) s) s d (if intLess u (s.S a) (s.S b) then s.S b else s.S a) 0 :=
  writesS_setS h (body := fun s => if intLess u (s.S a) (s.S b) then s.S b else s.S a) (by simp)

theorem cmp_writes (h : s.runs true true g) (cond : BitVec 3) {p : BitVec 3} :
    WritesP (exec (.cmp g cond p a b) s) s p (intCond cond (s.S a) (s.S b)) 0 :=
  writesP_setP h (body := fun s => intCond cond (s.S a) (s.S b)) (by simp)

/-! ### Shifts, counts and fields -/

theorem shr_writes (h : s.runs true true g) : WritesS (exec (.shr g d a b) s) s d (s.S a >>> ((s.S b).toNat % 64)) 0 :=
  writesS_setS h (body := fun s => s.S a >>> shiftCount (s.S b)) (by simp [shiftCount])

theorem sra_writes (h : s.runs true true g) : WritesS (exec (.sra g d a b) s) s d ((s.S a).sshiftRight ((s.S b).toNat % 64)) 0 :=
  writesS_setS h (body := fun s => (s.S a).sshiftRight (shiftCount (s.S b))) (by simp [shiftCount])

theorem rol_writes (h : s.runs true true g) : WritesS (exec (.rol g d a b) s) s d ((s.S a).rotateLeft ((s.S b).toNat % 64)) 0 :=
  writesS_setS h (body := fun s => (s.S a).rotateLeft (shiftCount (s.S b))) (by simp [shiftCount])

theorem shrImm_writes (h : s.runs true true g) (himm : imm < 64#64) : WritesS (exec (.shrImm g d a imm) s) s d (s.S a >>> imm.toNat) 0 :=
  writesS_setS h (body := fun s => s.S a >>> shiftCount imm) (by simp [shiftCount_imm himm])

theorem sraImm_writes (h : s.runs true true g) (himm : imm < 64#64) : WritesS (exec (.sraImm g d a imm) s) s d ((s.S a).sshiftRight imm.toNat) 0 :=
  writesS_setS h (body := fun s => (s.S a).sshiftRight (shiftCount imm)) (by simp [shiftCount_imm himm])

theorem clz_writes (h : s.runs true true g) : WritesS (exec (.clz g d a) s) s d (BitVec.ofNat 64 (clzGo (s.S a) 64)) 0 :=
  writesS_setS h (body := fun s => BitVec.ofNat 64 (clzGo (s.S a) 64)) (by simp)

theorem ctz_writes (h : s.runs true true g) : WritesS (exec (.ctz g d a) s) s d (BitVec.ofNat 64 (ctzGo (s.S a) 64 0)) 0 :=
  writesS_setS h (body := fun s => BitVec.ofNat 64 (ctzGo (s.S a) 64 0)) (by simp)

theorem popc_writes (h : s.runs true true g) :
    WritesS (exec (.popc g d a) s) s d (BitVec.ofNat 64 ((List.range 64).filter fun i => (s.S a).getLsbD i).length) 0 :=
  writesS_setS h (body := fun s => BitVec.ofNat 64 (popGo (s.S a) 64)) (by simp [popGo_eq])

theorem bswap_writes (h : s.runs true true g) : WritesS (exec (.bswap g d a) s) s d (byteSwap (s.S a)) 0 :=
  writesS_setS h (body := fun s => byteSwap (s.S a)) (by simp)

theorem bext_writes (h : s.runs true true g) (sx : Bool) :
    WritesS (exec (.bext g sx d a b c) s) s d (bitExtract sx (s.S a) (s.S b) (s.S c)) 0 :=
  writesS_setS h (body := fun s => bitExtract sx (s.S a) (s.S b) (s.S c)) (by simp)

theorem bins_writes (h : s.runs true true g) : WritesS (exec (.bins g d a b c) s) s d (bitInsert (s.S d) (s.S a) (s.S b) (s.S c)) 0 :=
  writesS_setS h (body := fun s => bitInsert (s.S d) (s.S a) (s.S b) (s.S c)) (by simp)

end Sys2Proof.Machine
end

section
/-! PROOF. The obligations about the scalar integer and predicate instructions (R45, R112 to R122). -/

namespace Sys2Proof.Machine

/-- Settles O1: each instruction writes what `intResult`, `intDiv`, `intRem` and `intMulh` give, and these are the values of the statement. -/
theorem scalarArithmeticAndDivision : Obligations.ScalarArithmeticAndDivision := by
  refine ⟨fun s g d a b imm => ?_, fun s g d a b h => ?_⟩
  · refine ⟨fun h => ⟨?_, ?_, ?_, ?_, ?_, ?_, ?_, ?_, fun himm => ⟨?_, ?_⟩⟩, fun h => ⟨?_, ?_⟩⟩
    · exact (add_writes h 0).wraps (ofInt_toInt_add _ _)
    · exact (add_writes h 0x40).saturates
    · exact (sub_writes h 0).wraps (ofInt_toInt_sub _ _)
    · exact (sub_writes h 0x40).saturates
    · exact (addImm_writes h 0).wraps (ofInt_toInt_add _ _)
    · exact (addImm_writes h 0x40).saturates
    · exact (shl_writes h 0).wraps (ofInt_toInt_shiftLeft _ _)
    · exact (shl_writes h 0x40).saturates
    · exact (shlImm_writes h 0 himm).wraps (ofInt_toInt_shiftLeft _ _)
    · exact (shlImm_writes h 0x40 himm).saturates
    · exact (mul_writes h 0).wraps (ofInt_toInt_mul _ _)
    · exact (mul_writes h 0x40).saturates
  · refine ⟨⟨_, mulh_writes h false, intMulh_signed _ _⟩, ⟨_, mulh_writes h true, intMulh_unsigned _ _⟩,
      ⟨_, _, div_writes h false, rem_writes h false, fun hb => ?_, fun ha hb => ?_, intDiv_intRem_signed⟩,
      ⟨_, _, div_writes h true, rem_writes h true, fun hb => ?_, intDiv_intRem_unsigned⟩⟩
    · rw [hb]
      exact ⟨intDiv_zero _ _, intRem_zero _ _⟩
    · rw [hb]
      exact intDiv_overflow ha
    · rw [hb]
      exact ⟨intDiv_zero _ _, intRem_zero _ _⟩

/-- Settles O3: each instruction writes one value, and the bits of that value are those of the statement. -/
theorem scalarShiftsCountsAndFields : Obligations.ScalarShiftsCountsAndFields := by
  refine ⟨fun s g d a b imm h => ⟨⟨_, shr_writes h, fun i _ => ?_⟩, ⟨_, sra_writes h, fun i hi => getLsbD_sra _ _ hi⟩,
    ⟨_, rol_writes h, fun i hi => getLsbD_rol _ (Nat.mod_lt _ (by decide)) hi⟩, fun himm => ⟨⟨_, shrImm_writes h himm, fun i _ => ?_⟩,
    ⟨_, sraImm_writes h himm, fun i hi => getLsbD_sra _ _ hi⟩⟩⟩, fun s g d a b c h => ?_⟩
  · rw [BitVec.getLsbD_ushiftRight, Nat.add_comm]
  · rw [BitVec.getLsbD_ushiftRight, Nat.add_comm]
  · obtain ⟨hclz, hlead, hfirst⟩ := clzGo_spec (s.S a) 64
    obtain ⟨hctz, htrail, hlast⟩ := ctzGo_spec (s.S a) 64 0
    simp only [Nat.zero_add] at htrail hlast
    exact ⟨⟨_, hclz, clz_writes h, hlead, hfirst⟩, ⟨_, hctz, ctz_writes h, htrail, hlast⟩, popc_writes h,
      ⟨_, bswap_writes h, fun i hi j hj => getLsbD_byteSwap _ hi hj⟩, fun sx => ⟨_, bext_writes h sx, fun i hi => getLsbD_bitExtract sx _ _ _ hi⟩,
      ⟨_, bins_writes h, fun i hi => getLsbD_bitInsert _ _ _ _ hi⟩⟩

/-- Settles O2: each instruction writes one value or predicate, read off the registers. -/
theorem scalarLogicMovesAndComparisons : Obligations.ScalarLogicMovesAndComparisons := by
  refine ⟨fun s g d a b c imm h => ⟨?_, ?_, ?_, ?_, ?_, ?_, ?_, ?_, ?_, ?_, ?_, ?_, ?_, ?_⟩,
    fun s g d x y a b h => ⟨?_, ?_, ?_, ?_, ?_, ?_, ⟨_, ?_, intCond_common _ _⟩, ?_, ?_, ?_⟩⟩
  · exact writesS_setS h (body := fun s => s.S a &&& s.S b) (by simp)
  · exact writesS_setS h (body := fun s => s.S a ||| s.S b) (by simp)
  · exact writesS_setS h (body := fun s => s.S a ^^^ s.S b) (by simp)
  · exact writesS_setS h (body := fun s => s.S a &&& ~~~(s.S b)) (by simp)
  · exact writesS_setS h (body := fun s => s.S a &&& imm) (by simp)
  · exact writesS_setS h (body := fun s => s.S a ||| imm) (by simp)
  · exact writesS_setS h (body := fun s => s.S a ^^^ imm) (by simp)
  · exact writesS_setS h (body := fun _ => imm) rfl
  · exact writesS_setS h (body := fun s => s.S a) (by simp)
  · exact writesS_setS h (body := fun s => if s.P c then s.S a else s.S b) (by simp)
  · exact (select_min_signed (s.S a) (s.S b)) ▸ min_writes h false
  · exact (select_min_unsigned (s.S a) (s.S b)) ▸ min_writes h true
  · exact (select_max_signed (s.S a) (s.S b)) ▸ max_writes h false
  · exact (select_max_unsigned (s.S a) (s.S b)) ▸ max_writes h true
  · exact cmp_writes h 0
  · exact (show intCond 1 (s.S a) (s.S b) = _ from bne_eq_decide_ne _ _) ▸ cmp_writes h 1
  · exact (show intCond 2 (s.S a) (s.S b) = _ from BitVec.slt_eq_decide) ▸ cmp_writes h 2
  · exact (show intCond 3 (s.S a) (s.S b) = _ from not_slt_eq _ _) ▸ cmp_writes h 3
  · exact (show intCond 4 (s.S a) (s.S b) = _ from BitVec.ult_eq_decide) ▸ cmp_writes h 4
  · exact (show intCond 5 (s.S a) (s.S b) = _ from not_ult_eq _ _) ▸ cmp_writes h 5
  · exact cmp_writes h 6
  · exact writesP_setP h (body := fun s => s.P x && s.P y) (by simp)
  · exact writesP_setP h (body := fun s => s.P x || s.P y) (by simp)
  · exact writesP_setP h (body := fun s => s.P x != s.P y) (by simp)

end Sys2Proof.Machine
end

section
/-! PROOF. Control transfers and `brk`: their targets, their links and their faults (R89, R123 to R125, R130). -/

namespace Sys2Proof.Machine

section

variable {s : State} {g : Guard}

/-- A body that writes a register and moves the pc. -/
theorem links_run {av cable : Bool} {body : State → Res State} {d : BitVec 5} {v pc : Word} (h : s.runs av cable g) (hd : d ≠ 0)
    (hb : body s.ahead = .ok ((s.ahead.setS d v).setPc pc)) :
    ∃ t, run av cable g s body = .next t ∧ t.S d = v ∧ t.my.pc = pc ∧ t.my.fflags = s.my.fflags ∧ RegFrame s t [d] [] [] [] := by
  refine ⟨_, by rw [run_body h, hb]; rfl, ?_, by simp, by simp, ((RegFrame.pc s s.nextPc).setS d v).setPc pc⟩
  rw [State.S_setPc, State.S_setS, if_pos rfl, orZero, if_neg hd]

theorem needEven_of_even {t : Word} (h : t.getLsbD 0 = false) : s.needEven t = .ok () := by rw [State.needEven, h]; rfl

theorem needEven_of_odd {t : Word} (h : t.getLsbD 0 = true) : s.needEven t = s.fault cALIGN t 0 := by rw [State.needEven, h]; rfl

@[simp] theorem State.setPc_setPc (pc pc' : Word) : (s.setPc pc).setPc pc' = s.setPc pc' := by simp [State.setPc]

theorem br_jumps (h : s.runs true true g) (p : BitVec 3) (off : Word) :
    JumpsTo (exec (.br g p off) s) s (if s.P p then s.hand.pc + 2 * off else s.nextPc) := by
  refine jumpsTo_run h ?_
  rw [State.P_setPc]
  split_ifs
  · rfl
  · rw [State.setPc_setPc]

theorem loop_counts (h : s.issuable true true = true) {c : BitVec 5} (hc : c ≠ 0) (off : Word) :
    ∃ t, exec (.loop c off) s = .next t ∧ t.S c = s.S c - 1 ∧ t.my.pc = (if s.S c = 1 then s.nextPc else s.hand.pc + 2 * off) ∧
      t.my.fflags = s.my.fflags ∧ RegFrame s t [c] [] [] [] := by
  have hruns : s.runs true true .always := ⟨h, rfl⟩
  have hlast : (s.S c - 1 != 0) = true ↔ s.S c ≠ 1 := by rw [bne_iff_ne, ne_eq, ne_eq, sub_eq_zero]
  have hbody : (s.ahead.setS c (s.S c - 1)).target off = s.hand.pc + 2 * off := by rw [State.target, State.setS_hand]; rfl
  refine links_run (body := fun s => .ok (if s.S c - 1 != 0 then (s.setS c (s.S c - 1)).setPc ((s.setS c (s.S c - 1)).target off)
    else s.setS c (s.S c - 1))) hruns hc ?_
  simp only [State.S_setPc, hlast, ite_not, hbody]
  split_ifs
  · simp only [State.setS, if_neg hc, State.setPc, State.modMy_modMy]
  · rfl

theorem call_links (h : s.runs true false g) (off : Word) :
    ∃ t, exec (.call g off) s = .next t ∧ t.S 31 = s.nextPc ∧ t.my.pc = s.hand.pc + 2 * off ∧ t.my.fflags = s.my.fflags ∧
      RegFrame s t [31] [] [] [] :=
  links_run h (by decide) rfl

theorem callr_links (h : s.runs true false g) {a : BitVec 5} (heven : (s.S a).getLsbD 0 = false) :
    ∃ t, exec (.callr g a) s = .next t ∧ t.S 31 = s.nextPc ∧ t.my.pc = s.S a ∧ t.my.fflags = s.my.fflags ∧ RegFrame s t [31] [] [] [] :=
  links_run h (by decide) (by rw [State.S_setPc, needEven_of_even heven]; rfl)

theorem callr_traps (h : s.runs true false g) {a : BitVec 5} (hodd : (s.S a).getLsbD 0 = true) :
    Traps (exec (.callr g a) s) s 3 (s.S a) 0 s.hand.pc :=
  traps_run h (by rw [State.S_setPc, needEven_of_odd hodd]; rfl)

theorem jr_jumps (h : s.runs true false g) {a : BitVec 5} (heven : (s.S a).getLsbD 0 = false) : JumpsTo (exec (.jr g a) s) s (s.S a) :=
  jumpsTo_run h (by rw [State.S_setPc, needEven_of_even heven]; rfl)

theorem jr_traps (h : s.runs true false g) {a : BitVec 5} (hodd : (s.S a).getLsbD 0 = true) :
    Traps (exec (.jr g a) s) s 3 (s.S a) 0 s.hand.pc :=
  traps_run h (by rw [State.S_setPc, needEven_of_odd hodd]; rfl)

/-- `ret` is `jr` to the link. -/
theorem exec_ret_eq_jr : exec (.ret g) s = exec (.jr g 31) s := rfl

end

/-- Settles O6, from the target and the link of each transfer. -/
theorem controlTransfers : Obligations.ControlTransfers :=
  fun _ _ p _ _ off => ⟨fun h => ⟨br_jumps h p off, jumpsTo_run h rfl⟩, fun h hc => loop_counts h hc off, fun h =>
    ⟨call_links h off, fun heven => ⟨jr_jumps h heven, callr_links h heven⟩, fun hodd => ⟨jr_traps h hodd, callr_traps h hodd⟩,
      fun heven => exec_ret_eq_jr ▸ jr_jumps h heven, fun hodd => exec_ret_eq_jr ▸ jr_traps h hodd⟩⟩

/-- Settles O7: the decoder reads one halfword, and the body of `brk` is the fault. -/
theorem brkFaultsAtItself : Obligations.BrkFaultsAtItself :=
  ⟨fun _ => rfl, fun _ _ h => traps_run h rfl⟩

end Sys2Proof.Machine
end

section
/-! SUPPORT. The helpers of a core: which are free, which have retired, and what a retired one leaves in the queue (R126 to R129). -/

namespace Sys2Proof.Machine

variable {s : State}

/-! ### What the pc does not bear on -/

@[simp] theorem State.budget_setPc (pc : Word) : (s.setPc pc).budget = s.budget := by simp [State.budget]

theorem State.ctxAt_setPc_ne (pc : Word) {n : Nat} (h : n ≠ s.hand.ctx) : (s.setPc pc).me.ctxAt n = s.me.ctxAt n := by simp [h]

/-! ### A release (R129, R317, R321) -/

theorem releaseTurn_of_performed (hq : s.queueQuiet s.hand.core s.hand.ctx = true) (hs : s.storesPerformed = true) : s.releaseTurn = .ok () := by
  rw [State.releaseTurn, State.queueTurn, hq, hs]
  rfl

theorem releaseTurn_of_queued (hq : s.queueQuiet s.hand.core s.hand.ctx = false) : s.releaseTurn = .error (.wait s .queued) := by
  rw [State.releaseTurn, State.queueTurn, hq]
  rfl

theorem releaseTurn_of_unperformed (hq : s.queueQuiet s.hand.core s.hand.ctx = true) (hs : s.storesPerformed = false) :
    s.releaseTurn = .error (.wait s .performed) := by
  rw [State.releaseTurn, State.queueTurn, hq, hs]
  rfl

/-! ### The lowest free context -/

theorem freeHelper_eq_some {b n : Nat} (h1 : 1 ≤ n) (hb : n ≤ b) (hfree : (s.me.ctxAt n).st = .free)
    (hlow : ∀ m, 1 ≤ m → m < n → (s.me.ctxAt m).st ≠ .free) : s.freeHelper b = some n := by
  obtain ⟨i, rfl⟩ : ∃ i, n = i + 1 := ⟨n - 1, by omega⟩
  have hfind : (List.range b).find? (fun i => (s.me.ctxAt (i + 1)).st == .free) = some i := by
    rw [List.find?_range_eq_some]
    exact ⟨by simpa using hfree, by simp; omega, fun j hj => by simpa using hlow (j + 1) (by omega) (by omega)⟩
  rw [State.freeHelper, hfind]
  rfl

theorem freeHelper_eq_none {b : Nat} (h : ∀ n, 1 ≤ n → n ≤ b → (s.me.ctxAt n).st ≠ .free) : s.freeHelper b = none := by
  rw [State.freeHelper, Option.map_eq_none_iff, List.find?_eq_none]
  intro i hi
  simpa using h (i + 1) (by omega) (by simpa using hi)

/-! ### The state in which a helper starts (R126) -/

theorem helperStart_s (n : Nat) (pc x : Word) (r : Fin 32) :
    (s.helperStart n pc x).s.get r = if r = 1 then x else if r = 2 then BitVec.ofNat 64 n else 0 := by
  simp only [State.helperStart, Context.reset, Vector.get_eq_getElem, Vector.getElem_set, Vector.getElem_replicate, Fin.ext_iff, Fin.val_one,
    Fin.val_two]
  grind

theorem helperStart_a (n : Nat) (pc x : Word) (r : Fin 16) :
    (s.helperStart n pc x).a.get r = if r = 1 then s.A 1 else if r = 15 then s.A 15 else 0 := by
  have h15 : ((15 : Fin 16) : Nat) = 15 := rfl
  simp only [State.helperStart, Context.reset, Vector.get_eq_getElem, Vector.getElem_set, Vector.getElem_replicate, Fin.ext_iff, Fin.val_one, h15]
  grind

/-! ### What a started helper leaves -/

/-- The core in hand with a helper started in context `n`, and the pc moved on. -/
def State.withHelper (s : State) (n : Nat) (pc x : Word) : State := s.ahead.modMe fun c => c.setCtx n (s.ahead.helperStart n pc x)

section

variable {n : Nat} (hn : n ≠ s.hand.ctx) (pc x : Word)

include hn in
theorem State.my_withHelper : (s.withHelper n pc x).my = s.ahead.my := by
  have hne : s.ahead.hand.ctx ≠ n := Ne.symm hn
  rw [State.withHelper, State.my_modMe, Core.ctxAt_setCtx, if_neg hne]
  rfl

theorem State.ctxAt_withHelper {m : Nat} (hm : m ≠ s.hand.ctx) :
    (s.withHelper n pc x).me.ctxAt m = if m = n then s.ahead.helperStart n pc x else s.me.ctxAt m := by
  rw [State.withHelper, State.me_modMe, Core.ctxAt_setCtx, State.ctxAt_setPc_ne _ hm]

theorem State.coreAt_withHelper {k : Nat} (hk : k ≠ s.hand.core) : (s.withHelper n pc x).coreAt k = s.coreAt k := by
  have hne : k ≠ s.ahead.hand.core := hk
  rw [State.withHelper, State.coreAt_modMe, if_neg hne, State.coreAt_setPc, if_neg hk]

end

/-- Registers are those of the context in hand. -/
theorem SameRegs.of_my {t u : State} (h : u.my = t.my) {ds ps as hs} (hs' : SameRegs s t ds ps as hs) : SameRegs s u ds ps as hs where
  S r hr := by rw [← hs'.S r hr, State.S, State.S, h]
  P r hr := by rw [← hs'.P r hr, State.P, State.P, h]
  A r hr := by rw [← hs'.A r hr, State.A, State.A, h]
  H r hr := by rw [← hs'.H r hr, State.H, State.H, h]
  rest := h ▸ hs'.rest

theorem State.ctxAt_modMy_ne (f : Context → Context) {m : Nat} (hm : m ≠ s.hand.ctx) : (s.modMy f).me.ctxAt m = s.me.ctxAt m := by
  rw [State.me_modMy, Core.ctxAt_setCtx, if_neg hm]

theorem State.coreAt_modMy_ne (f : Context → Context) {k : Nat} (hk : k ≠ s.hand.core) : (s.modMy f).coreAt k = s.coreAt k := by
  rw [State.coreAt_modMy, if_neg hk]

theorem State.ctxAt_setS_ne (d : BitVec 5) (v : Word) {m : Nat} (hm : m ≠ s.hand.ctx) : (s.setS d v).me.ctxAt m = s.me.ctxAt m := by
  unfold State.setS
  split_ifs
  · rfl
  · exact State.ctxAt_modMy_ne _ hm

theorem State.coreAt_setS_ne (d : BitVec 5) (v : Word) {k : Nat} (hk : k ≠ s.hand.core) : (s.setS d v).coreAt k = s.coreAt k := by
  unfold State.setS
  split_ifs
  · rfl
  · exact State.coreAt_modMy_ne _ hk

theorem ctxAt_withHelper_setS {n m : Nat} (hm : m ≠ s.hand.ctx) (pc x : Word) (d : BitVec 5) (v : Word) :
    ((s.withHelper n pc x).setS d v).me.ctxAt m = if m = n then s.ahead.helperStart n pc x else s.me.ctxAt m :=
  (State.ctxAt_setS_ne (s := s.withHelper n pc x) d v hm).trans (State.ctxAt_withHelper pc x hm)

theorem coreAt_withHelper_setS {n k : Nat} (hk : k ≠ s.hand.core) (pc x : Word) (d : BitVec 5) (v : Word) :
    ((s.withHelper n pc x).setS d v).coreAt k = s.coreAt k :=
  (State.coreAt_setS_ne (s := s.withHelper n pc x) d v hk).trans (State.coreAt_withHelper pc x hk)

/-- The registers after a helper has started and its number is written are those after the number is written. -/
theorem sameRegs_withHelper {n : Nat} (hn : n ≠ s.hand.ctx) (pc x : Word) (d : BitVec 5) (v : Word) :
    SameRegs s ((s.withHelper n pc x).setS d v) [d] [] [] [] := by
  refine SameRegs.of_my ?_ ((RegFrame.pc s s.nextPc).setS d v).regs
  rw [State.my_setS, State.my_setS, State.my_withHelper hn]

/-! ### The helpers that `hwait` names (R127) -/

/-- Helper `n` is named by the operand of `hwait`. -/
def Named (x : Word) (n : Nat) : Prop :=
  if x.extractLsb' 1 10 = 0 then 1 ≤ n ∧ n ≤ 10 else 1 ≤ n ∧ n ≤ 10 ∧ x.getLsbD n = true

theorem getLsbD_helperBits (x : Word) {i : Nat} (hi : i < 10) : (x.setWidth 11 &&& 0x7FE).getLsbD (i + 1) = x.getLsbD (i + 1) := by
  have hbit : ∀ i < 10, (0x7FE : BitVec 11).getLsbD (i + 1) = true := by decide
  rw [BitVec.getLsbD_and, hbit i hi, BitVec.getLsbD_setWidth]
  simp; omega

theorem helperBits_eq_zero (x : Word) : x.setWidth 11 &&& 0x7FE = 0 ↔ x.extractLsb' 1 10 = 0 := by
  have hzero : x.extractLsb' 1 10 = 0 ↔ ∀ i < 10, x.getLsbD (i + 1) = false := by
    have hget : ∀ i < 10, (x.extractLsb' 1 10).getLsbD i = x.getLsbD (i + 1) := fun i hi => by simp [hi, Nat.add_comm]
    exact ⟨fun h i hi => by rw [← hget i hi, h]; exact BitVec.getLsbD_zero,
      fun h => BitVec.eq_of_getLsbD_eq fun i hi => by rw [hget i hi, h i hi]; exact BitVec.getLsbD_zero.symm⟩
  rw [hzero]
  refine ⟨fun h i hi => ?_, fun h => BitVec.eq_of_getLsbD_eq fun i hi => ?_⟩
  · rw [← getLsbD_helperBits x hi, h]
    exact BitVec.getLsbD_zero
  · cases i with
    | zero => rw [BitVec.getLsbD_and, show (0x7FE : BitVec 11).getLsbD 0 = false from rfl, Bool.and_false]; exact BitVec.getLsbD_zero.symm
    | succ i => rw [getLsbD_helperBits x (by omega), h i (by omega)]; exact BitVec.getLsbD_zero.symm

theorem getLsbD_hwaitMask (x : Word) {i : Nat} (hi : i < 10) : (hwaitMask x).getLsbD (i + 1) = true ↔ Named x (i + 1) := by
  have hbit : ∀ i < 10, (0x7FE : BitVec 11).getLsbD (i + 1) = true := by decide
  rw [hwaitMask, Named]
  simp only [helperBits_eq_zero]
  split_ifs
  · rw [hbit i hi]
    exact ⟨fun _ => ⟨by omega, by omega⟩, fun _ => rfl⟩
  · rw [getLsbD_helperBits x hi]
    simp; omega

theorem helpersDone_iff (x : Word) (core : Nat) : s.helpersDone core (hwaitMask x) = true ↔
    ∀ n, Named x n → ((s.coreAt core).ctxAt n).st = .free ∧ s.queueQuiet core (orphan n) = true := by
  have hall : s.helpersDone core (hwaitMask x) = true ↔ ∀ i < 10, (hwaitMask x).getLsbD (i + 1) = true →
      ((s.coreAt core).ctxAt (i + 1)).st = .free ∧ s.queueQuiet core (orphan (i + 1)) = true := by
    simp only [State.helpersDone, Core.helpersFree, Bool.and_eq_true, List.all_eq_true, List.mem_range, Bool.or_eq_true, Bool.not_eq_true',
      beq_iff_eq, Bool.eq_false_iff, ← forall_and, ← or_and_left, imp_iff_not_or]
  rw [hall]
  refine ⟨fun h n hn => ?_, fun h i hi hm => h _ ((getLsbD_hwaitMask x hi).1 hm)⟩
  obtain ⟨i, rfl, hi⟩ : ∃ i, n = i + 1 ∧ i < 10 := ⟨n - 1, by unfold Named at hn; split_ifs at hn <;> omega⟩
  exact h i hi ((getLsbD_hwaitMask x hi).2 hn)

theorem helpersDone_setPc (h : s.hand.ctx = 0) (pc x : Word) :
    (s.setPc pc).helpersDone s.hand.core (hwaitMask x) = s.helpersDone s.hand.core (hwaitMask x) := by
  rw [Bool.eq_iff_iff, helpersDone_iff, helpersDone_iff]
  refine forall₂_congr fun n hn => ?_
  have hctx : ((s.setPc pc).coreAt s.hand.core).ctxAt n = (s.coreAt s.hand.core).ctxAt n :=
    State.ctxAt_setPc_ne pc (by unfold Named at hn; split_ifs at hn <;> omega)
  rw [hctx, State.queueQuiet_setPc]

/-! ### What a retired helper leaves (R128) -/

/-- What the context queued goes on under another number: the entries and their order stay. -/
theorem orphaned_keeps (core n : Nat) : (s.orphaned core n).mem = s.mem ∧ (s.orphaned core n).peers = s.peers ∧ (s.orphaned core n).hand = s.hand ∧
    ∃ vq : List VEntry, vq.map (fun e => (e.id, e.op)) = (s.coreAt core).vq.map (fun e => (e.id, e.op)) ∧
      ∀ k, (s.orphaned core n).coreAt k = if k = core then { s.coreAt core with vq := vq } else s.coreAt k := by
  obtain ⟨u, hu⟩ : ∃ u, u = if (s.coreAt core).vq.all fun e => e.cap.ctx != n then s
      else s.setCore core { s.coreAt core with
        vq := (s.coreAt core).vq.map fun e => if e.cap.ctx = n then { e with cap := { e.cap with ctx := orphan n } } else e } := ⟨_, rfl⟩
  have hrows : ∃ r, s.orphaned core n = { u with rows := r } := by
    unfold State.orphaned
    rw [hu]
    dsimp only
    split
    · exact ⟨_, rfl⟩
    · exact ⟨_, rfl⟩
  obtain ⟨r, hr⟩ := hrows
  have hcore : ∀ k, (s.orphaned core n).coreAt k = u.coreAt k := fun k => by rw [hr]; rfl
  rw [hr]
  split_ifs at hu with hall
  · subst hu
    exact ⟨rfl, rfl, rfl, (u.coreAt core).vq, rfl, fun k => by split_ifs with hk <;> [rw [hk]; skip] <;> rfl⟩
  · subst hu
    refine ⟨rfl, rfl, rfl, _, ?_, fun k => State.coreAt_setCore s core k _⟩
    rw [List.map_map]
    refine List.map_congr_left fun e _ => ?_
    simp only [Function.comp]
    split_ifs <;> rfl

end Sys2Proof.Machine
end

section
/-! PROOF. The obligation about helpers (R29, R126 to R129). -/

namespace Sys2Proof.Machine

section

variable {s : State} {g : Guard} {d a b : BitVec 5}

/-- An instruction whose body waits at the start of its effect. -/
theorem waits_run {av cable : Bool} {body : State → Res State} {c : Cond} (h : s.runs av cable g) (hb : body s.ahead = .error (.wait s.ahead c)) :
    Waits (run av cable g s body) s c :=
  ⟨s.ahead, by rw [run_body h, hb]; rfl, .inr rfl⟩

/-- `hstart` and `hwait` from a helper (R126, R127). -/
theorem legal_of_helper (h : s.hand.ctx ≠ 0) : s.legal (s.hand.ctx == 0) = s.illegal := by
  rw [State.legal, if_neg (by simpa using h)]

theorem legal_of_zero (h : s.hand.ctx = 0) : s.legal (s.hand.ctx == 0) = .ok () := by
  rw [State.legal, if_pos (by simpa using h)]

section

variable (h : s.runs false false g) (hctx : s.hand.ctx = 0)
include h hctx

/-! ### `hstart` -/

/-- `hstart` by context 0, past its checks: the release, then the lowest free context. -/
theorem exec_hstart_of_even (heven : (s.S a).getLsbD 0 = false) : exec (.hstart g d a b) s = finish (do
    s.ahead.releaseTurn
    match s.ahead.freeHelper s.budget with
    | none => return s.ahead.setS d 0
    | some n => return (s.withHelper n (s.S a) (s.S b)).setS d (BitVec.ofNat 64 n)) := by
  have hlegal : s.ahead.legal (s.hand.ctx == 0) = .ok () := legal_of_zero hctx
  have hneed : s.ahead.needEven (s.S a) = .ok () := needEven_of_even heven
  rw [exec_hstart, execHstart, run_body h]
  simp only [State.setPc_hand, hlegal, hneed, res_ok_bind, State.budget_setPc, State.S_setPc]
  rfl

theorem hstart_traps (hodd : (s.S a).getLsbD 0 = true) : Traps (exec (.hstart g d a b) s) s 3 (s.S a) 0 s.hand.pc := by
  have hlegal : s.ahead.legal (s.hand.ctx == 0) = .ok () := legal_of_zero hctx
  have hneed : s.ahead.needEven (s.S a) = s.ahead.fault cALIGN (s.S a) 0 := needEven_of_odd hodd
  refine traps_run h ?_
  simp only [State.setPc_hand, State.S_setPc, hlegal, hneed, res_ok_bind]
  rfl

theorem hstart_waits_queued (heven : (s.S a).getLsbD 0 = false) (hq : s.queueQuiet s.hand.core s.hand.ctx = false) :
    Waits (exec (.hstart g d a b) s) s .queued := by
  rw [exec_hstart_of_even h hctx heven, releaseTurn_of_queued (by simpa using hq)]
  exact ⟨_, rfl, .inr rfl⟩

theorem hstart_waits_performed (heven : (s.S a).getLsbD 0 = false) (hq : s.queueQuiet s.hand.core s.hand.ctx = true)
    (hst : s.storesPerformed = false) : Waits (exec (.hstart g d a b) s) s .performed := by
  rw [exec_hstart_of_even h hctx heven, releaseTurn_of_unperformed (by simpa using hq) (by simpa using hst)]
  exact ⟨_, rfl, .inr rfl⟩

theorem hstart_writes_zero (heven : (s.S a).getLsbD 0 = false) (hq : s.queueQuiet s.hand.core s.hand.ctx = true) (hst : s.storesPerformed = true)
    (hnone : ∀ n, 1 ≤ n → n ≤ s.budget → (s.me.ctxAt n).st ≠ .free) : WritesS (exec (.hstart g d a b) s) s d 0 0 := by
  have hfree : s.ahead.freeHelper s.budget = none :=
    freeHelper_eq_none fun n h1 hn => by rw [State.ctxAt_setPc_ne _ (by omega)]; exact hnone n h1 hn
  rw [exec_hstart_of_even h hctx heven, releaseTurn_of_performed (by simpa using hq) (by simpa using hst), hfree]
  refine ⟨_, rfl, by simp, by simp, by simp, (RegFrame.pc s s.nextPc).setS d 0⟩

theorem hstart_starts (heven : (s.S a).getLsbD 0 = false) (hq : s.queueQuiet s.hand.core s.hand.ctx = true) (hst : s.storesPerformed = true)
    {n : Nat} (h1 : 1 ≤ n) (hn : n ≤ s.budget) (hfree : (s.me.ctxAt n).st = .free) (hlow : ∀ m, 1 ≤ m → m < n → (s.me.ctxAt m).st ≠ .free) :
    exec (.hstart g d a b) s = .next ((s.withHelper n (s.S a) (s.S b)).setS d (BitVec.ofNat 64 n)) := by
  have hsome : s.ahead.freeHelper s.budget = some n := by
    refine freeHelper_eq_some h1 hn ?_ fun m hm hmn => ?_
    · rw [State.ctxAt_setPc_ne _ (by omega)]
      exact hfree
    · rw [State.ctxAt_setPc_ne _ (by omega)]
      exact hlow m hm hmn
  rw [exec_hstart_of_even h hctx heven, releaseTurn_of_performed (by simpa using hq) (by simpa using hst), hsome]
  rfl

/-! ### `hwait` and `retire` -/

theorem exec_hwait_of_zero : exec (.hwait g a) s = finish (do
    s.ahead.await (s.helpersDone s.hand.core (hwaitMask (s.S a))) (.helpers (hwaitMask (s.S a)))
    s.ahead.await s.storesPerformed .performed
    return s.ahead) := by
  have hlegal : s.ahead.legal (s.hand.ctx == 0) = .ok () := legal_of_zero hctx
  rw [exec_hwait, execHwait, run_body h]
  simp only [State.setPc_hand, hlegal, res_ok_bind, State.S_setPc, State.storesPerformed_setPc, helpersDone_setPc hctx]

theorem hwait_goes_on (hdone : s.helpersDone s.hand.core (hwaitMask (s.S a)) = true) (hst : s.storesPerformed = true) :
    JumpsTo (exec (.hwait g a) s) s s.nextPc := by
  rw [exec_hwait_of_zero h hctx, hdone, hst]
  exact ⟨_, rfl, by simp, by simp, .pc s s.nextPc⟩

theorem hwait_waits_performed (hdone : s.helpersDone s.hand.core (hwaitMask (s.S a)) = true) (hst : s.storesPerformed = false) :
    Waits (exec (.hwait g a) s) s .performed := by
  rw [exec_hwait_of_zero h hctx, hdone, hst]
  exact ⟨_, rfl, .inr rfl⟩

theorem hwait_waits_helpers (hdone : s.helpersDone s.hand.core (hwaitMask (s.S a)) = false) :
    Waits (exec (.hwait g a) s) s (.helpers (hwaitMask (s.S a))) := by
  rw [exec_hwait_of_zero h hctx, hdone]
  exact ⟨_, rfl, .inr rfl⟩

theorem retire_waits_end : Waits (exec (.retire g) s) s .retire :=
  waits_run h (if_pos hctx)

end

section

variable (h : s.runs false false g) (hctx : s.hand.ctx ≠ 0)
include h hctx

theorem hstart_of_helper : Traps (exec (.hstart g d a b) s) s 1 0 (s.hand.hw.setWidth 64) s.hand.pc := by
  have hlegal : s.ahead.legal (s.hand.ctx == 0) = s.ahead.illegal := legal_of_helper hctx
  exact traps_run h (by simp only [State.setPc_hand, hlegal]; rfl)

theorem hwait_of_helper : Traps (exec (.hwait g a) s) s 1 0 (s.hand.hw.setWidth 64) s.hand.pc := by
  have hlegal : s.ahead.legal (s.hand.ctx == 0) = s.ahead.illegal := legal_of_helper hctx
  exact traps_run h (by simp only [State.setPc_hand, hlegal]; rfl)

theorem retire_waits_replies (hr : s.my.replies ≠ []) : Waits (exec (.retire g) s) s .replies := by
  have hne : ¬s.ahead.hand.ctx = 0 := hctx
  have hawait : s.ahead.await s.ahead.my.replies.isEmpty .replies = .error (.wait s.ahead .replies) :=
    State.await_of_not (by simpa using hr) _
  exact waits_run h (by simp only [if_neg hne, hawait, res_error_bind])

theorem retire_frees (hr : s.my.replies = []) :
    exec (.retire g) s = .next ((s.ahead.orphaned s.hand.core s.hand.ctx).modMy fun _ => Context.reset) := by
  have hne : ¬s.ahead.hand.ctx = 0 := hctx
  have hawait : s.ahead.await s.ahead.my.replies.isEmpty .replies = .ok () := by simp [hr]
  rw [exec_retire, execRetire, run_body h]
  simp only [if_neg hne, hawait, res_ok_bind]
  rfl

/-- What a helper's `retire` leaves: its context free, the queue in its order, all else as before. -/
theorem retire_of_helper (hr : s.my.replies = []) : ∃ t, exec (.retire g) s = .next t ∧ t.my = Context.reset ∧
    (∀ n, n ≠ s.hand.ctx → t.me.ctxAt n = s.me.ctxAt n) ∧ t.me.vq.map (fun e => (e.id, e.op)) = s.me.vq.map (fun e => (e.id, e.op)) ∧
    (∀ k, k ≠ s.hand.core → t.coreAt k = s.coreAt k) ∧ SameMemory s t := by
  obtain ⟨hmem, hpeers, hhand, vq, hvq, hcores⟩ := orphaned_keeps (s := s.ahead) s.hand.core s.hand.ctx
  obtain ⟨t, ht⟩ : ∃ t, t = s.ahead.orphaned s.hand.core s.hand.ctx := ⟨_, rfl⟩
  have hexec := retire_frees h hctx hr
  rw [← ht] at hmem hpeers hhand hcores hexec
  have hme : t.me = { s.ahead.me with vq := vq } := by rw [State.me, hhand]; exact (hcores _).trans (if_pos rfl)
  refine ⟨_, hexec, State.my_modMy _ _, fun n hn => ?_, ?_, fun k hk => ?_, .of_eq hmem hpeers⟩
  · rw [State.ctxAt_modMy_ne _ (by rwa [hhand]), hme]
    exact State.ctxAt_setPc_ne _ hn
  · rw [State.me_modMy, Core.setCtx_vq, hme]
    exact hvq.trans (by rw [State.coreAt_setPc_vq]; rfl)
  · rw [State.coreAt_modMy_ne _ (by rwa [hhand]), hcores, if_neg hk, State.coreAt_setPc, if_neg hk]

end

theorem yield_names (h : s.runs false false g) : exec (.yield g) s = .next (s.ahead.modMy fun c => { c with
    yielded := (List.range 11).filter fun n => n != s.hand.ctx && s.ahead.isReady s.hand.core n }) := by
  have hcompute : s.ahead.isAvlyn = false := by simpa [State.coreHas] using s.coreHas_of_issuable h.1
  have hruns : s.runs true false g := ⟨by have hi := h.1; simp_all [State.issuable, State.coreHas], h.2⟩
  rw [exec_yield, execYield, run_body hruns]
  simp only [hcompute]
  rfl

end

/-- Settles O11, from what each of the four instructions does in each of its cases. -/
theorem helpersStartAndEnd : Obligations.HelpersStartAndEnd := by
  intro s g d a b h free named quiet idle
  have hdone : s.helpersDone s.hand.core (hwaitMask (s.S a)) = true ↔ ∀ n, named n → free n ∧ idle n := helpersDone_iff (s.S a) s.hand.core
  refine ⟨fun hctx heven hq hst => ⟨fun n h1 hn hfree hlow => ?_, fun hnone => hstart_writes_zero h hctx heven hq hst hnone⟩,
    fun hctx heven hq => hstart_waits_queued h hctx heven (Bool.eq_false_of_not_eq_true hq),
    fun hctx heven hq hst => hstart_waits_performed h hctx heven hq hst, fun hctx hodd => hstart_traps h hctx hodd,
    fun hctx => ⟨fun hall hst => hwait_goes_on h hctx (hdone.2 hall) hst, fun hall hst => hwait_waits_performed h hctx (hdone.2 hall) hst,
      fun ⟨n, hn, hno⟩ => ⟨_, hwait_waits_helpers h hctx (Bool.eq_false_of_not_eq_true fun hd => hno (hdone.1 hd n hn))⟩⟩,
    fun hctx => ⟨hstart_of_helper h hctx, hwait_of_helper h hctx, retire_of_helper h hctx, retire_waits_replies h hctx⟩,
    retire_waits_end h, ⟨_, yield_names h, rfl⟩⟩
  · have hne : n ≠ s.hand.ctx := by omega
    have hstarted : ((s.withHelper n (s.S a) (s.S b)).setS d (BitVec.ofNat 64 n)).me.ctxAt n = s.ahead.helperStart n (s.S a) (s.S b) := by
      rw [ctxAt_withHelper_setS hne, if_pos rfl]
    refine ⟨_, hstart_starts h hctx heven hq hst h1 hn hfree hlow, by simp, ?_, ?_, sameRegs_withHelper hne _ _ d _, .of_eq ?_ ?_, ?_,
      fun m hmn hm => ?_, fun k hk => ?_⟩
    · rw [State.my_setS_pc, State.my_withHelper hne, State.my_setPc]
    · rw [hstarted]
      exact ⟨rfl, rfl, rfl, rfl, by simp [State.helperStart], by simp [State.helperStart], fun r => helperStart_s n _ _ r,
        fun r => vector_get_replicate true r, fun r => by rw [helperStart_a, State.A_setPc, State.A_setPc], fun r => vector_get_replicate none r⟩
    · rw [State.setS_mem]
      rfl
    · rw [State.setS_peers]
      rfl
    · rw [State.my_setS_fflags, State.my_withHelper hne, State.my_setPc]
    · have hm' : m ≠ s.hand.ctx := by omega
      rw [ctxAt_withHelper_setS hm', if_neg hmn]
    · rw [coreAt_withHelper_setS hk]

end Sys2Proof.Machine
end

section
/-! SUPPORT. The elements of a shape region in row-major order, and sums over them (R49, R143, R158). -/

namespace Sys2Proof.Machine

/-! ### The region -/

variable (shape : BitVec 8)

/-- The number of rows of a shape. -/
def shapeRows : Nat := (shape.setWidth 4).toNat + 1

theorem shapeCols_pos : 0 < shapeCols shape := Nat.succ_pos _
theorem shapeCols_le : shapeCols shape ≤ 16 := (shape.extractLsb' 4 4).isLt
theorem shapeRows_le : shapeRows shape ≤ 16 := (shape.setWidth 4).isLt

theorem inRegion_iff (e : Nat) : inRegion shape e = true ↔ e / 16 < shapeRows shape ∧ e % 16 < shapeCols shape := by
  simp [inRegion, shapeRows, shapeCols]

theorem inRegion_lt {e : Nat} (h : inRegion shape e = true) : e < 256 := by
  have := ((inRegion_iff shape e).1 h).1
  have := shapeRows_le shape
  omega

/-- Element number `q` of a region of `c` columns. -/
def cellAt (c q : Nat) : Nat := 16 * (q / c) + q % c

/-- The place of an element in the row-major order of a region of `c` columns. -/
def placeIn (c e : Nat) : Nat := e / 16 * c + e % 16

theorem placeIn_cellAt {c : Nat} (h0 : 0 < c) (hc : c ≤ 16) (q : Nat) : placeIn c (cellAt c q) = q := by
  have hq := Nat.mod_lt q h0
  rw [placeIn, cellAt, show (16 * (q / c) + q % c) / 16 = q / c by omega, show (16 * (q / c) + q % c) % 16 = q % c by omega]
  exact Nat.div_add_mod' q c

theorem cellAt_placeIn {c e : Nat} (he : e % 16 < c) : cellAt c (placeIn c e) = e := by
  have hdiv : placeIn c e / c = e / 16 := by rw [placeIn, Nat.add_comm, Nat.add_mul_div_right _ _ (by omega), Nat.div_eq_of_lt he, Nat.zero_add]
  have hmod : placeIn c e % c = e % 16 := by rw [placeIn, Nat.add_comm, Nat.add_mul_mod_self_right, Nat.mod_eq_of_lt he]
  rw [cellAt, hdiv, hmod]
  omega

theorem placeIn_lt {e : Nat} (h : inRegion shape e = true) : placeIn (shapeCols shape) e < shapeRows shape * shapeCols shape := by
  obtain ⟨hr, hc⟩ := (inRegion_iff shape e).1 h
  calc e / 16 * shapeCols shape + e % 16 < (e / 16 + 1) * shapeCols shape := by rw [Nat.add_mul]; omega
    _ ≤ shapeRows shape * shapeCols shape := Nat.mul_le_mul_right _ hr

theorem rows_eq_map_cellAt (c r : Nat) (hc : 0 < c) :
    ((List.range r).flatMap fun i => (List.range c).map fun j => 16 * i + j) = (List.range (r * c)).map (cellAt c) := by
  induction r with
  | zero => simp
  | succ r ih =>
    rw [List.range_succ, List.flatMap_append, ih, Nat.add_mul, Nat.one_mul, List.range_add, List.map_append, List.flatMap_singleton, List.map_map]
    congr 1
    refine List.map_congr_left fun j hj => ?_
    have hj' : j < c := by simpa using hj
    rw [Function.comp, cellAt, Nat.add_comm (r * c) j, Nat.add_mul_div_right _ _ hc, Nat.add_mul_mod_self_right, Nat.div_eq_of_lt hj', Nat.mod_eq_of_lt hj',
      Nat.zero_add]

theorem regionElems_eq_map : regionElems shape = (List.range (shapeRows shape * shapeCols shape)).map (cellAt (shapeCols shape)) :=
  rows_eq_map_cellAt _ _ (shapeCols_pos shape)

theorem regionElems_length : (regionElems shape).length = shapeRows shape * shapeCols shape := by rw [regionElems_eq_map]; simp

theorem regionElems_getD {q : Nat} (h : q < shapeRows shape * shapeCols shape) (x : Nat) :
    (regionElems shape).getD q x = cellAt (shapeCols shape) q := by
  rw [regionElems_eq_map]
  simp [List.getD_eq_getElem?_getD, h]

theorem mem_regionElems {e : Nat} : e ∈ regionElems shape ↔ inRegion shape e = true := by
  have hc := shapeCols_pos shape
  rw [regionElems_eq_map, inRegion_iff, List.mem_map]
  refine ⟨fun ⟨q, hq, he⟩ => ?_, fun h => ⟨placeIn (shapeCols shape) e, ?_, cellAt_placeIn h.2⟩⟩
  · have hmod := Nat.mod_lt q hc
    have hdiv := Nat.div_lt_of_lt_mul (Nat.mul_comm _ _ ▸ List.mem_range.1 hq : q < shapeCols shape * shapeRows shape)
    have hcols := shapeCols_le shape
    subst he
    unfold cellAt
    omega
  · exact List.mem_range.2 (placeIn_lt shape ((inRegion_iff shape e).2 h))

theorem regionElems_pairwise : (regionElems shape).Pairwise (· < ·) := by
  rw [regionElems_eq_map, List.pairwise_map]
  refine List.pairwise_lt_range.imp fun {p q} h => ?_
  have hp := Nat.mod_lt p (shapeCols_pos shape)
  have hq := Nat.mod_lt q (shapeCols_pos shape)
  have hcols := shapeCols_le shape
  have hp' := Nat.div_add_mod' p (shapeCols shape)
  have hq' := Nat.div_add_mod' q (shapeCols shape)
  have hle : p / shapeCols shape ≤ q / shapeCols shape := Nat.div_le_div_right h.le
  unfold cellAt
  rcases Nat.eq_or_lt_of_le hle with heq | hlt
  · rw [heq] at hp' ⊢
    omega
  · omega

/-- The region is the elements that lie in it, in rising order. -/
theorem regionElems_eq_filter : regionElems shape = (List.range 256).filter (inRegion shape) := by
  refine (regionElems_pairwise shape).eq_of_mem_iff (List.pairwise_lt_range.filter _) fun e => ?_
  rw [mem_regionElems, List.mem_filter, List.mem_range]
  exact ⟨fun h => ⟨inRegion_lt shape h, h⟩, fun h => h.2⟩

theorem filter_regionElems (p : Nat → Bool) : (regionElems shape).filter p = (List.range 256).filter fun e => inRegion shape e && p e := by
  rw [regionElems_eq_filter, List.filter_filter]
  exact List.filter_congr fun e _ => Bool.and_comm _ _

theorem filter_le_range (m n : Nat) : (List.range n).filter (fun q => decide (q ≤ m)) = List.range (min (m + 1) n) := by
  refine (List.pairwise_lt_range.filter _).eq_of_mem_iff List.pairwise_lt_range fun q => ?_
  simp only [List.mem_filter, List.mem_range, decide_eq_true_eq]
  omega

/-- The first elements of the region are those of the lowest places. -/
theorem take_regionElems (m : Nat) :
    (regionElems shape).take (m + 1) = (regionElems shape).filter fun q => decide (placeIn (shapeCols shape) q ≤ m) := by
  rw [regionElems_eq_map, ← List.map_take, List.take_range, List.filter_map, ← filter_le_range]
  congr 1
  exact List.filter_congr fun q _ => by rw [Function.comp, placeIn_cellAt (shapeCols_pos shape) (shapeCols_le shape)]

end Sys2Proof.Machine
end

section
/-! SUPPORT. TreeCombine of an addition is the sum (R49). -/

namespace Sys2Proof.Machine

variable {op : W32 → W32 → W32 × FFlags} (hop : ∀ x y, (op x y).1 = x + y)
include hop

theorem treeLevel_sum : ∀ l : List W32, (treeLevel op l).1.sum = l.sum ∧ (treeLevel op l).1.length = (l.length + 1) / 2
  | [] => ⟨rfl, rfl⟩
  | [_] => by simp [treeLevel]
  | x :: y :: t => by
    obtain ⟨hsum, hlen⟩ := treeLevel_sum t
    have hlevel : (treeLevel op (x :: y :: t)).1 = (x + y) :: (treeLevel op t).1 := congrArg (· :: (treeLevel op t).1) (hop x y)
    rw [hlevel]
    simp only [List.sum_cons, List.length_cons, hsum, hlen, add_assoc, true_and]
    omega

theorem treeGo_sum (n : Nat) (l : List W32) (f : FFlags) (h : l.length ≤ n) : (treeGo op n l f).1.sum = l.sum ∧ (treeGo op n l f).1.length ≤ 1 := by
  induction n generalizing l f with
  | zero => simp_all [treeGo]
  | succ n ih =>
    match l with
    | [] => simp [treeGo]
    | [x] => simp [treeGo]
    | x :: y :: t =>
      obtain ⟨hsum, hlen⟩ := treeLevel_sum hop (x :: y :: t)
      rw [treeGo]
      obtain ⟨hsum', hlen'⟩ := ih (treeLevel op (x :: y :: t)).1 (f ||| (treeLevel op (x :: y :: t)).2) (by rw [hlen]; simp at h ⊢; omega)
      exact ⟨hsum'.trans hsum, hlen'⟩

theorem treeCombine_sum {canon : W32 → W32} (hcanon : ∀ x, canon x = x) (l : List W32) : (treeCombine op canon 0 l).1 = l.sum := by
  obtain ⟨hsum, hlen⟩ := treeGo_sum hop l.length l 0 le_rfl
  show canon ((treeGo op l.length l 0).1.headD 0) = l.sum
  rw [hcanon, ← hsum]
  generalize (treeGo op l.length l 0).1 = r at hlen
  match r with
  | [] => rfl
  | [x] => simp

end Sys2Proof.Machine
end

section
/-! SUPPORT. Reductions and scans of integers that wrap (R158). -/

namespace Sys2Proof.Machine

theorem foldl_add_eq_sum (f : Nat → W32) (l : List Nat) : l.foldl (fun v e => v + f e) 0 = (l.map f).sum := by
  rw [List.sum_eq_foldl, List.foldl_map]

theorem sum_map_ite (p : Nat → Bool) (f : Nat → W32) (l : List Nat) : (l.map fun e => if p e then f e else 0).sum = ((l.filter p).map f).sum := by
  induction l with
  | nil => rfl
  | cons e l ih =>
    rw [List.map_cons, List.sum_cons, ih, List.filter_cons]
    split_ifs
    · rw [List.map_cons, List.sum_cons]
    · exact zero_add _

/-! ### Integer elements (R41, R148) -/

section

variable {ty : BitVec 2} {mr : BitVec 8}

theorem ofInt_i32Val (ty : BitVec 2) (x : W32) : BitVec.ofInt 32 (i32Val ty x) = x := by
  unfold i32Val
  split_ifs
  · exact BitVec.ofInt_toInt
  · rw [BitVec.ofInt_natCast, BitVec.ofNat_toNat, BitVec.setWidth_eq]

theorem i32Result_wrap (h : ¬(ty = 1 ∧ mrMode mr = 1)) (x : Int) : i32Result ty mr x = (BitVec.ofInt 32 x, 0) := by
  rw [i32Result, if_neg (by simpa using h)]

theorem i32Result_sat (hty : ty = 1) (hmr : mrMode mr = 1) (x : Int) :
    (i32Result ty mr x).1.toInt = max (-(2 ^ 31)) (min x (2 ^ 31 - 1)) ∧
      (i32Result ty mr x).2 = if -(2 ^ 31) ≤ x ∧ x < 2 ^ 31 then 0 else fSAT := by
  rw [i32Result, if_pos (by simp [hty, hmr])]
  refine ⟨BitVec.toInt_ofInt_eq_self (by decide) (by norm_num) (by norm_num), ?_⟩
  split_ifs with h
  · exact flagIf_bne_of_eq (by omega) _
  · exact flagIf_bne_of_ne (by omega) _

theorem vbin_add_wrap (hty : ty ≠ 0) (h : ¬(ty = 1 ∧ mrMode mr = 1)) (mo : BitVec 6) (x y : W32) : vbin .add ty mo mr x y = (x + y, 0) := by
  simp only [vbin, if_neg hty, i32Result_wrap h, BitVec.ofInt_add, ofInt_i32Val]

theorem vbin_sub_wrap (hty : ty ≠ 0) (h : ¬(ty = 1 ∧ mrMode mr = 1)) (mo : BitVec 6) (x y : W32) : vbin .sub ty mo mr x y = (x - y, 0) := by
  simp only [vbin, if_neg hty, i32Result_wrap h, Int.sub_eq_add_neg, BitVec.ofInt_add, BitVec.ofInt_neg, ofInt_i32Val, BitVec.sub_eq_add_neg]

theorem vbin_mul_wrap (hty : ty ≠ 0) (h : ¬(ty = 1 ∧ mrMode mr = 1)) (mo : BitVec 6) (x y : W32) : vbin .mul ty mo mr x y = (x * y, 0) := by
  simp only [vbin, if_neg hty, i32Result_wrap h, BitVec.ofInt_mul, ofInt_i32Val]

end

/-! ### Sums over a region -/

section

variable (c : Core) (cap : Captured) (mo : BitVec 6) {mr : BitVec 8} {ty : BitVec 2} (a : BitVec 5) (k : BitVec 3) (hty : ty ≠ 0)
include hty

theorem redList_add : c.redList cap mo 0 ty a k = (regionElems cap.shape).map fun e => if (c.mask k).getLsbD e then c.vElem a e else 0 := by
  have hid : ∀ ty : BitVec 2, ty ≠ 0 → redId 0 ty = 0 := by decide
  simp only [Core.redList, if_neg hty, hid ty hty]

variable (hwrap : ¬(ty = 1 ∧ mrMode mr = 1))
include hwrap

/-- A wrapped sum over part of the region. -/
theorem treeCombine_add (l : List Nat) :
    (treeCombine (vbin (redOp 0) ty 0 mr) (vcanon ty) 0 (l.map fun e => if (c.mask k).getLsbD e then c.vElem a e else 0)).1 =
      (l.filter fun e => (c.mask k).getLsbD e).foldl (fun v e => v + c.vElem a e) 0 := by
  have hop : ∀ x y, (vbin (redOp 0) ty 0 mr x y).1 = x + y := fun x y => congrArg Prod.fst (vbin_add_wrap hty hwrap 0 x y)
  have hcanon : ∀ x, vcanon ty x = x := fun x => if_neg hty
  rw [treeCombine_sum hop hcanon, sum_map_ite, foldl_add_eq_sum]

theorem reduction_add : (treeCombine (vbin (redOp 0) ty 0 mr) (vcanon ty) 0 (c.redList cap mo 0 ty a k)).1 =
    ((List.range 256).filter (c.active cap.shape k)).foldl (fun v e => v + c.vElem a e) 0 := by
  rw [redList_add c cap mo a k hty, treeCombine_add c a k hty hwrap, filter_regionElems]
  rfl

theorem scan_add (m : Nat) : (treeCombine (vbin (redOp 0) ty 0 mr) (vcanon ty) 0 ((c.redList cap mo 0 ty a k).take (m + 1))).1 =
    ((List.range 256).filter fun q => c.active cap.shape k q && decide (placeIn (shapeCols cap.shape) q ≤ m)).foldl
      (fun v q => v + c.vElem a q) 0 := by
  rw [redList_add c cap mo a k hty, ← List.map_take, treeCombine_add c a k hty hwrap, take_regionElems, List.filter_filter, filter_regionElems]
  congr 1
  exact List.filter_congr fun q _ => by rw [← Bool.and_assoc]; rfl

end

end Sys2Proof.Machine
end

section
/-! SUPPORT. What the operations of the vector queue do to a core: its registers, its masks and its flags (R143 to R159). -/

namespace Sys2Proof.Machine

/-! ### Flags of a list of elements -/

theorem foldl_or_init (f : Nat → FFlags) (l : List Nat) (a : FFlags) : l.foldl (fun fl e => fl ||| f e) a = a ||| l.foldl (fun fl e => fl ||| f e) 0 := by
  induction l generalizing a with
  | nil => simp
  | cons e l ih => rw [List.foldl_cons, ih, List.foldl_cons, ih (0 ||| f e)]; simp [BitVec.or_assoc]

theorem foldl_or_filter (p : Nat → Bool) (f : Nat → FFlags) (l : List Nat) (a : FFlags) :
    l.foldl (fun fl e => fl ||| if p e then f e else 0) a = (l.filter p).foldl (fun fl e => fl ||| f e) a := by
  induction l generalizing a with
  | nil => rfl
  | cons e l ih =>
    rw [List.foldl_cons, ih, List.filter_cons]
    split_ifs
    · rfl
    · rw [show a ||| 0 = a from BitVec.or_zero]

/-! ### `vmap` -/

section

variable (c : Core) (d : BitVec 5) (act : Nat → Bool) (f : Nat → W32 × FFlags)

theorem vmap_v_same : (c.vmap d act f).core.v.get d.toFin = (List.range 256).map fun e => if act e then (f e).1 else c.vElem d e := by
  rw [Core.vmap, get_set32, if_pos rfl, List.map_map]
  refine List.map_congr_left fun e _ => ?_
  rw [Function.comp]
  split_ifs <;> rfl

theorem vmap_v_ne {r : BitVec 5} (h : r ≠ d) : (c.vmap d act f).core.v.get r.toFin = c.v.get r.toFin := by
  rw [Core.vmap, get_set32, if_neg h]

theorem vmap_vElem {e : Nat} (he : e < 256) : (c.vmap d act f).core.vElem d e = if act e then (f e).1 else c.vElem d e := by
  rw [Core.vElem, vmap_v_same]
  simp [List.getD_eq_getElem?_getD, he]

theorem vmap_flags : (c.vmap d act f).flags = ((List.range 256).filter act).foldl (fun fl e => fl ||| (f e).2) 0 := by
  rw [← foldl_or_filter act fun e => (f e).2]
  simp only [Core.vmap, List.foldl_map]
  congr 1
  funext fl e
  split_ifs <;> rfl

end

/-! ### The outcomes of the statement -/

/-- Core `u` is core `c` with these elements of register `d` written, and no other (R143). -/
def Mapped (c u : Core) (d : BitVec 5) (act : Nat → Prop) (f : Nat → W32) : Prop :=
  (∀ e < 256, (act e → u.vElem d e = f e) ∧ (¬act e → u.vElem d e = c.vElem d e)) ∧ ∀ r ≠ d, u.v.get r.toFin = c.v.get r.toFin

/-- These elements of `d` take an element of `a` of another place, where that is active (R143). -/
def Crossed (c u : Core) (zero : Bool) (d a : BitVec 5) (source act : Nat → Prop) (src : Nat → Nat) : Prop :=
  (∀ e < 256, act e → (src e < 256 ∧ source (src e) → u.vElem d e = c.vElem a (src e)) ∧
    (¬(src e < 256 ∧ source (src e)) → u.vElem d e = if zero then 0 else c.vElem d e)) ∧
  (∀ e < 256, ¬act e → u.vElem d e = c.vElem d e) ∧ ∀ r ≠ d, u.v.get r.toFin = c.v.get r.toFin

/-- Scalar register `d` of a context that is still there is written, and no other (R128). -/
def ScalarWritten (c u : Core) (ctx : Nat) (d : BitVec 5) (v : Word) : Prop :=
  ctx < 11 → ∀ r : BitVec 5, r ≠ 0 → (u.ctxAt ctx).s.get r.toFin = if r = d then v else (c.ctxAt ctx).s.get r.toFin

/-- The flags of these elements are ORed into FFLAGS of a context that is still there (R43, R128). -/
def FlagsOred (c u : Core) (ctx : Nat) (act : Nat → Bool) (f : Nat → FFlags) : Prop :=
  ctx < 11 → (u.ctxAt ctx).fflags = ((List.range 256).filter act).foldl (fun fl e => fl ||| f e) (c.ctxAt ctx).fflags

/-- Mask register `d` holds this test, k0 stays true. -/
def MaskSet (u : Core) (d : BitVec 3) (f : Nat → Bool) : Prop := ∀ e < 256, (u.mask d).getLsbD e = (d = 0 || f e)

section

variable {c u : Core} {d : BitVec 5} {act : Nat → Bool} {f : Nat → W32 × FFlags}

theorem mapped_of_vmap (hv : u.v = (c.vmap d act f).core.v) {p : Nat → Prop} (hp : ∀ e < 256, p e ↔ act e = true) {h : Nat → W32}
    (hf : ∀ e < 256, act e = true → (f e).1 = h e) : Mapped c u d p h := by
  have helem : ∀ e < 256, u.vElem d e = if act e then (f e).1 else c.vElem d e := fun e he => by
    rw [← vmap_vElem c d act f he, Core.vElem, Core.vElem, hv]
  refine ⟨fun e he => ⟨fun ha => ?_, fun ha => ?_⟩, fun r hr => by rw [hv, vmap_v_ne c d act f hr]⟩
  · rw [helem e he, if_pos ((hp e he).1 ha), hf e he ((hp e he).1 ha)]
  · rw [helem e he, if_neg fun h => ha ((hp e he).2 h)]

/-- Element `e` after a move across lanes from `src e`: the source where that is active (R143). -/
def Core.crossElem (c : Core) (x : Captured) (d a : BitVec 5) (k : BitVec 3) (src : Nat → Nat) (e : Nat) : W32 :=
  if src e < 256 ∧ c.active x.shape k (src e) = true then c.vElem a (src e) else if x.zero then 0 else c.vElem d e

theorem crossed_of_cross {x : Captured} {a : BitVec 5} {k : BitVec 3} {dst : Nat → Bool} {src src' : Nat → Nat}
    (hv : u.v = (c.cross x d a k dst src).core.v) {p : Nat → Prop} (hp : ∀ e < 256, p e ↔ dst e = true)
    (hsrc : ∀ e < 256, dst e = true → src e = src' e) {q : Nat → Prop} (hq : ∀ e, q e ↔ c.active x.shape k e = true) :
    Crossed c u x.zero d a q p src' := by
  obtain ⟨helem, hrest⟩ := mapped_of_vmap (h := c.crossElem x d a k src') hv hp fun e he hd => by
    rw [hsrc e he hd, Core.crossElem]
    simp only [Bool.and_eq_true, decide_eq_true_eq]
    split_ifs <;> rfl
  refine ⟨fun e he ha => ⟨fun hs => ?_, fun hs => ?_⟩, fun e he ha => (helem e he).2 ha, hrest⟩
  · rw [hq] at hs
    exact ((helem e he).1 ha).trans (if_pos hs)
  · rw [hq] at hs
    exact ((helem e he).1 ha).trans (if_neg hs)

end

theorem foldl_bits (f : Nat → Bool) (n : Nat) : let v := (List.range n).foldl (fun v e => if f e then v + 2 ^ e else v) 0
    v < 2 ^ n ∧ ∀ e, v.testBit e = (decide (e < n) && f e) := by
  induction n with
  | zero => simp
  | succ n ih =>
    obtain ⟨hlt, hbits⟩ := ih
    simp only [List.range_succ, List.foldl_append, List.foldl_cons, List.foldl_nil]
    generalize (List.range n).foldl (fun v e => if f e then v + 2 ^ e else v) 0 = v at hlt hbits ⊢
    split_ifs with hf
    · refine ⟨by rw [Nat.pow_succ]; omega, fun e => ?_⟩
      have hor : 2 ^ n + v = 2 ^ n ||| v := by simpa using Nat.two_pow_add_eq_or_of_lt hlt 1
      rw [Nat.add_comm, hor, Nat.testBit_or, Nat.testBit_two_pow, hbits]
      grind
    · refine ⟨by rw [Nat.pow_succ]; omega, fun e => ?_⟩
      rw [hbits]
      grind

theorem getLsbD_maskOf (f : Nat → Bool) {e : Nat} (he : e < 256) : (maskOf f).getLsbD e = f e := by
  obtain ⟨-, hbits⟩ := foldl_bits f 256
  rw [maskOf, BitVec.getLsbD_ofNat, hbits, decide_eq_true he, Bool.true_and, Bool.true_and]

theorem mask_setMask (c : Core) (d : BitVec 3) (m : BitVec 256) : (c.setMask d m).mask d = if d = 0 then BitVec.allOnes 256 else m := by
  unfold Core.setMask Core.mask
  split_ifs
  · rfl
  · rw [get_set8, if_pos rfl]

theorem maskSet_of_setMask {c u : Core} {d : BitVec 3} {m : BitVec 256} (hk : u.k = (c.setMask d m).k) {f : Nat → Bool}
    (hf : ∀ e < 256, m.getLsbD e = f e) : MaskSet u d f := fun e he => by
  have hmask : u.mask d = (c.setMask d m).mask d := by rw [Core.mask, Core.mask, hk]
  rw [hmask, mask_setMask]
  split_ifs with hd
  · rw [BitVec.getLsbD_allOnes, decide_eq_true he, decide_eq_true hd, Bool.true_or]
  · rw [hf e he, decide_eq_false hd, Bool.false_or]

end Sys2Proof.Machine
end

section
/-! SUPPORT. How the head of a vector queue executes: the entry is taken, then does what it does (R23, R128, R142). -/

namespace Sys2Proof.Machine

/-! ### Taking the entry -/

/-- A core that has taken the head of its queue and bound it to lane groups. -/
def Core.popped (c : Core) (now free : Nat) (x : VEntry) (rest : List VEntry) : Core := { c.bindLanes now x free with vq := rest }

/-- The state in which the head of the queue of core `g` executes. -/
def State.headTaken (s : State) (g : Nat) (x : VEntry) (rest : List VEntry) : State :=
  (s.setCore g ((s.coreAt g).popped s.beat (s.freeLanes (g / 8)) x rest)).at g 0

/-- The state after the head has executed. -/
def State.afterHead (s : State) (g : Nat) (x : VEntry) (rest : List VEntry) : State :=
  { (s.headTaken g x rest).runEntry g x with hand := s.hand }

section

variable {s : State} {g : Nat} {x : VEntry} {rest : List VEntry}

theorem runHead_of_ready (hq : (s.coreAt g).vq = x :: rest) (hr : s.headReady g x = true) : s.runHead g = s.afterHead g x rest := by
  unfold State.runHead
  rw [hq]
  exact if_pos hr

theorem coreAt_headTaken_same : (s.headTaken g x rest).coreAt g = (s.coreAt g).popped s.beat (s.freeLanes (g / 8)) x rest :=
  (State.coreAt_setCore s g g _).trans (if_pos rfl)

theorem coreAt_headTaken_ne {k : Nat} (hk : k ≠ g) : (s.headTaken g x rest).coreAt k = s.coreAt k :=
  (State.coreAt_setCore s g k _).trans (if_neg hk)

theorem headTaken_mem : (s.headTaken g x rest).mem = s.mem := rfl
theorem headTaken_sram : (s.headTaken g x rest).sram = s.sram := rfl
theorem headTaken_row (n : Nat) : (s.headTaken g x rest).row n = s.row n := rfl

end

/-! ### What an entry leaves of its core's queue and of the other cores -/

/-- `t` has the queue of core `g` and all other cores as `s` has them. -/
structure KeepsQueues (g : Nat) (s t : State) : Prop where
  queue : (t.coreAt g).vq = (s.coreAt g).vq
  other : ∀ k ≠ g, t.coreAt k = s.coreAt k

theorem keepsQueues_setCore (s : State) (g : Nat) (c : Core) (h : c.vq = (s.coreAt g).vq) : KeepsQueues g s (s.setCore g c) :=
  ⟨by rw [State.coreAt_setCore, if_pos rfl, h], fun k hk => by rw [State.coreAt_setCore, if_neg hk]⟩

theorem KeepsQueues.trans {g : Nat} {s t u : State} (h : KeepsQueues g s t) (h' : KeepsQueues g t u) : KeepsQueues g s u :=
  ⟨h'.queue.trans h.queue, fun k hk => (h'.other k hk).trans (h.other k hk)⟩

theorem KeepsQueues.of_flitsOnly {g : Nat} {s t : State} (h : FlitsOnly g s t) : KeepsQueues g s t := by
  obtain ⟨-, -, fl, hcores⟩ := h
  exact ⟨by rw [hcores, if_pos rfl], fun k hk => by rw [hcores, if_neg hk]⟩

theorem keepsQueues_modLive (s : State) (g n : Nat) (f : Context → Context) : KeepsQueues g s (s.modLive g n f) := by
  unfold State.modLive State.modCtx
  split_ifs
  · exact ⟨rfl, fun _ _ => rfl⟩
  · exact keepsQueues_setCore s g _ rfl

theorem vexec_vq (c : Core) (x : Captured) (op : VOp) : (c.vexec x op).core.vq = c.vq := by
  have hmask : ∀ (d : BitVec 3) (m : BitVec 256), (c.setMask d m).vq = c.vq := fun d m => by
    unfold Core.setMask
    split_ifs <;> rfl
  cases op with
  | cmp mo cond d a b => exact hmask _ _
  | kbin op d a b => exact hmask _ _
  | knot d a => exact hmask _ _
  | _ => rfl

theorem flitsOnly_winWriteAs (s : State) (half : Bool) (g w off size v : Nat) (mr : BitVec 8) : FlitsOnly g s (s.winWriteAs half g w off size v mr).1 := by
  unfold State.winWriteAs
  split_ifs
  · exact ⟨rfl, rfl, (FlitsOnly.refl g s).cores⟩
  · exact flitsOnly_spWrite s g _ _ _ false

theorem flitsOnly_codeWrite (s : State) (g w off v : Nat) : FlitsOnly g s (s.codeWrite g w off v) := by
  unfold State.codeWrite
  split <;> exact flitsOnly_spWrite s g _ _ _ false

/-- One element of `vst` (R161, R162). -/
def State.storeElem (u : State) (g : Nat) (half : Bool) (mr : BitVec 8) (code : Bool) (w off v : Nat) : State :=
  if code then u.codeWrite g w off v else (u.winWriteAs half g w off 4 v mr).1

theorem flitsOnly_storeElem (u : State) (g : Nat) (half : Bool) (mr : BitVec 8) (code : Bool) (w off v : Nat) :
    FlitsOnly g u (u.storeElem g half mr code w off v) := by
  unfold State.storeElem
  split_ifs
  · exact flitsOnly_codeWrite u g w off v
  · exact flitsOnly_winWriteAs u half g w off 4 v mr

/-- The offset of an element of a vector store. -/
def storeOff (cap : Captured) (rs : BitVec 3) (a : Word) (e : Nat) : Nat :=
  elemOff (a.toNat % 0x20000) (a.toNat / 0x20000 % 8) cap.shape rs false e

/-- `vst` stores the active elements one after another. -/
theorem vstore_eq_foldl (s : State) (g : Nat) (x : Captured) (mr : BitVec 8) (code : Bool) (rs : BitVec 3) (d : BitVec 5) (a : Word) (k : BitVec 3) :
    (s.vstore g x mr code rs d a k).1 = ((regionElems x.shape).filter fun e => ((s.coreAt g).mask k).getLsbD e).foldl
      (fun u e => u.storeElem g x.half mr code (a.toNat / 0x20000 % 8) (storeOff x rs a e) ((s.coreAt g).vElem d e).toNat) s := by
  rw [List.foldl_filter]
  unfold State.vstore
  dsimp only
  symm
  refine List.foldl_hom (init := (s, (0 : FFlags))) Prod.fst fun y e => ?_
  obtain ⟨u, fl⟩ := y
  unfold State.storeElem
  split_ifs <;> rfl

theorem flitsOnly_vstore (s : State) (g : Nat) (x : Captured) (mr : BitVec 8) (code : Bool) (rs : BitVec 3) (d : BitVec 5) (a : Word) (k : BitVec 3) :
    FlitsOnly g s (s.vstore g x mr code rs d a k).1 := by
  rw [vstore_eq_foldl]
  generalize (regionElems x.shape).filter _ = l
  exact List.foldlRecOn (motive := FlitsOnly g s) l _ (.refl g s) fun u hu e _ => hu.trans (flitsOnly_storeElem u g _ _ _ _ _ _)

/-- The operations that act on their core's registers only (R146 to R159). -/
def VOp.onCore : VOp → Bool
  | .ld .. | .st .. | .sgetv .. | .mldb .. | .mstc .. | .mzc | .ecfg .. | .tsave .. | .trest .. => false
  | _ => true

theorem runEntry_of_onCore {op : VOp} (h : op.onCore = true) (s : State) (g id : Nat) (cap : Captured) :
    s.runEntry g ⟨id, op, cap⟩ = (s.setCore g ((s.coreAt g).vexec cap op).core).modLive g cap.ctx fun c => { c with
      fflags := c.fflags ||| ((s.coreAt g).vexec cap op).flags
      s := match ((s.coreAt g).vexec cap op).out with
        | some (d, v) => if d = 0 then c.s else c.s.set d.toNat v d.isLt
        | none => c.s } := by
  cases op with
  | ld => cases h
  | st => cases h
  | sgetv => cases h
  | mldb => cases h
  | mstc => cases h
  | mzc => cases h
  | ecfg => cases h
  | tsave => cases h
  | trest => cases h
  | _ => rfl

theorem keepsQueues_runEntry (s : State) (g : Nat) (x : VEntry) : KeepsQueues g s (s.runEntry g x) := by
  obtain ⟨id, op, cap⟩ := x
  by_cases hop : op.onCore = true
  · rw [runEntry_of_onCore hop]
    exact (keepsQueues_setCore s g _ (vexec_vq _ _ _)).trans (keepsQueues_modLive _ g _ _)
  · cases op with
    | ld code bc rs d a k => exact keepsQueues_setCore s g _ rfl
    | st mr code rs d a k => exact (KeepsQueues.of_flitsOnly (flitsOnly_vstore s g cap mr code rs d a k)).trans (keepsQueues_modLive _ g _ _)
    | sgetv d h r => exact keepsQueues_setCore s g _ rfl
    | mldb a b n =>
      simp only [State.runEntry]
      split_ifs <;> exact ⟨rfl, fun _ _ => rfl⟩
    | mstc a => exact .of_flitsOnly (flitsOnly_spWriteBytes s g _ _ false)
    | mzc => exact keepsQueues_setCore s g _ rfl
    | ecfg w =>
      refine keepsQueues_setCore s g _ ?_
      split_ifs <;> rfl
    | tsave t a => exact .of_flitsOnly (flitsOnly_spWriteBytes s g _ _ false)
    | trest t a =>
      refine keepsQueues_setCore s g _ ?_
      unfold Core.setTile
      split_ifs <;> rfl
    | _ => exact absurd rfl hop

theorem runEntry_mem {op : VOp} (hst : ∀ mr code rs d a k, op ≠ .st mr code rs d a k) (hmstc : ∀ a, op ≠ .mstc a) (htsave : ∀ n a, op ≠ .tsave n a)
    (s : State) (g id : Nat) (cap : Captured) : (s.runEntry g ⟨id, op, cap⟩).mem = s.mem := by
  by_cases hop : op.onCore = true
  · rw [runEntry_of_onCore hop, modLive_mem]
    rfl
  · cases op with
    | st mr code rs d a k => exact absurd rfl (hst mr code rs d a k)
    | mstc a => exact absurd rfl (hmstc a)
    | tsave t a => exact absurd rfl (htsave t a)
    | mldb a b n =>
      simp only [State.runEntry]
      split_ifs <;> rfl
    | ld code bc rs d a k => rfl
    | sgetv d h r => rfl
    | mzc => rfl
    | ecfg w => rfl
    | trest t a => rfl
    | _ => exact absurd rfl hop

end Sys2Proof.Machine
end

section
/-! SUPPORT. What an entry that acts on its core's registers leaves in the core (R128, R142 to R159). -/

namespace Sys2Proof.Machine

/-- Core `u` is core `c` after an operation with result `r`, issued by context `ctx`. -/
structure Executed (c u : Core) (ctx : Nat) (r : VRes) : Prop where
  v : u.v = r.core.v
  k : u.k = r.core.k
  table : u.table = r.core.table
  nmono0 : u.nmono0 = r.core.nmono0
  nmono1 : u.nmono1 = r.core.nmono1
  flags : ctx < 11 → (u.ctxAt ctx).fflags = (c.ctxAt ctx).fflags ||| r.flags
  out : ∀ d v, r.out = some (d, v) → ScalarWritten c u ctx d v

section

variable (c : Core) (now free : Nat) (x : VEntry) (rest : List VEntry)

theorem vElem_popped : (c.popped now free x rest).vElem = c.vElem := rfl
theorem mask_popped : (c.popped now free x rest).mask = c.mask := rfl
theorem active_popped : (c.popped now free x rest).active = c.active := rfl
theorem table_popped : (c.popped now free x rest).table = c.table := rfl

/-- A result of an operation on the core that has taken its entry. -/
def VRes.popped (r : VRes) : VRes := { r with core := r.core.popped now free x rest }

theorem setMask_popped (d : BitVec 3) (m : BitVec 256) :
    (c.popped now free x rest).setMask d m = (c.setMask d m).popped now free x rest := by
  unfold Core.setMask
  split_ifs <;> rfl

theorem vmap_popped (d : BitVec 5) (act : Nat → Bool) (f : Nat → W32 × FFlags) :
    (c.popped now free x rest).vmap d act f = (c.vmap d act f).popped now free x rest := by
  simp only [Core.vmap, vElem_popped]
  simp only [VRes.popped, Core.popped, Core.bindLanes]

theorem vnarrow1_popped : vnarrow1 (c.popped now free x rest) = vnarrow1 c := rfl

theorem redList_popped : (c.popped now free x rest).redList = c.redList := by
  funext cap mo op ty a k
  simp only [Core.redList, mask_popped, vElem_popped]
  rfl

theorem writeTable_popped (half : BitVec 2) (a : BitVec 5) :
    (c.popped now free x rest).writeTable half a = (c.writeTable half a).popped now free x rest := by
  simp only [Core.writeTable, vElem_popped, table_popped]
  simp only [Core.popped, Core.bindLanes]
  congr 1

theorem cross_popped (cap : Captured) (d a : BitVec 5) (k : BitVec 3) (dst : Nat → Bool) (src : Nat → Nat) :
    (c.popped now free x rest).cross cap d a k dst src = (c.cross cap d a k dst src).popped now free x rest := by
  simp only [Core.cross, vmap_popped, vElem_popped, active_popped]
  rfl

/-- Executed after the entry is taken, an operation does the same. -/
theorem vexec_popped (cap : Captured) (op : VOp) : (c.popped now free x rest).vexec cap op = (c.vexec cap op).popped now free x rest := by
  cases op with
  | cmp | kbin | knot => simp only [Core.vexec, setMask_popped, vElem_popped, mask_popped, VRes.popped]
  | rot | perm | trans => simp only [Core.vexec, cross_popped, vElem_popped, active_popped]
  | bin | fma | mov | bcast | ins | cvt | sf => simp only [Core.vexec, vmap_popped, vElem_popped, active_popped]
  | sel d a b k => exact vmap_popped c now free x rest d _ fun e => (if (c.mask k).getLsbD e then c.vElem a e else c.vElem b e, 0)
  | narrow => simp only [Core.vexec, vmap_popped, vElem_popped, active_popped, vnarrow1_popped]
  | red => simp only [Core.vexec, redList_popped, VRes.popped]
  | scan => simp only [Core.vexec, vmap_popped, active_popped, redList_popped]
  | tbl => simp only [Core.vexec, writeTable_popped, VRes.popped]
  | kpop | ext => simp only [Core.vexec, mask_popped, vElem_popped, VRes.popped]
  | gang | ld | st | sgetv | mldb | mstc | mzc | ecfg | tsave | trest => rfl

end

theorem vexec_ctxs (c : Core) (x : Captured) (op : VOp) : (c.vexec x op).core.ctxs = c.ctxs := by
  have hmask : ∀ (d : BitVec 3) (m : BitVec 256), (c.setMask d m).ctxs = c.ctxs := fun d m => by
    unfold Core.setMask
    split_ifs <;> rfl
  cases op with
  | cmp mo cond d a b => exact hmask _ _
  | kbin op d a b => exact hmask _ _
  | knot d a => exact hmask _ _
  | _ => rfl

/-- A core's context after it was changed, where it is still there. -/
theorem ctxAt_modLive {n : Nat} (h : n < 11) (s : State) (g : Nat) (f : Context → Context) :
    ((s.modLive g n f).coreAt g).ctxAt n = f ((s.coreAt g).ctxAt n) := by
  have hlive : ¬orphan 0 ≤ n := Nat.not_le.2 h
  rw [State.modLive, if_neg hlive, State.modCtx, State.coreAt_setCore, if_pos rfl, Core.ctxAt_setCtx, if_pos rfl]

theorem scalarWritten_of_out {c u : Core} {ctx : Nat} {d : BitVec 5} {v : Word}
    (h : ctx < 11 → (u.ctxAt ctx).s = if d = 0 then (c.ctxAt ctx).s else (c.ctxAt ctx).s.set d.toNat v d.isLt) : ScalarWritten c u ctx d v :=
  fun hctx r hr => by
    rw [h hctx]
    split_ifs with hd hrd hrd
    · exact absurd (hrd.trans hd) hr
    · rfl
    · rw [get_set32, if_pos hrd]
    · rw [get_set32, if_neg hrd]

variable {s : State} {g id : Nat} {op : VOp} {cap : Captured} {rest : List VEntry}

theorem executed_afterHead (hop : op.onCore = true) :
    Executed (s.coreAt g) ((s.afterHead g ⟨id, op, cap⟩ rest).coreAt g) cap.ctx ((s.coreAt g).vexec cap op) := by
  have htaken : (s.afterHead g ⟨id, op, cap⟩ rest).coreAt g = ((s.headTaken g ⟨id, op, cap⟩ rest).runEntry g ⟨id, op, cap⟩).coreAt g := rfl
  rw [htaken, runEntry_of_onCore hop, coreAt_headTaken_same, vexec_popped]
  generalize hu : (s.headTaken g ⟨id, op, cap⟩ rest).setCore g _ = u
  have hcore : u.coreAt g = ((s.coreAt g).vexec cap op).core.popped s.beat (s.freeLanes (g / 8)) ⟨id, op, cap⟩ rest := by
    rw [← hu, State.coreAt_setCore, if_pos rfl]
    rfl
  have hctx : (u.coreAt g).ctxAt cap.ctx = (s.coreAt g).ctxAt cap.ctx := by
    rw [hcore]
    exact congrArg (fun m => (smapGet? m cap.ctx).getD Context.reset) (vexec_ctxs (s.coreAt g) cap op)
  have hfields : ∀ f, ∃ m, (u.modLive g cap.ctx f).coreAt g =
      { ((s.coreAt g).vexec cap op).core.popped s.beat (s.freeLanes (g / 8)) ⟨id, op, cap⟩ rest with ctxs := m } :=
    fun f => hcore ▸ coreAt_modLive u g cap.ctx f g
  obtain ⟨m, hm⟩ := hfields _
  refine ⟨by rw [hm]; rfl, by rw [hm]; rfl, by rw [hm]; rfl, by rw [hm]; rfl, by rw [hm]; rfl, fun h => ?_,
    fun d v hout => scalarWritten_of_out fun h => ?_⟩
  · rw [ctxAt_modLive h, hctx]
    rfl
  · rw [ctxAt_modLive h, hctx, VRes.popped, hout]

theorem afterHead_queue : ((s.afterHead g ⟨id, op, cap⟩ rest).coreAt g).vq = rest := by
  have := (keepsQueues_runEntry (s.headTaken g ⟨id, op, cap⟩ rest) g ⟨id, op, cap⟩).queue
  rw [coreAt_headTaken_same] at this
  exact this

theorem afterHead_other {k : Nat} (hk : k ≠ g) : (s.afterHead g ⟨id, op, cap⟩ rest).coreAt k = s.coreAt k := by
  have := (keepsQueues_runEntry (s.headTaken g ⟨id, op, cap⟩ rest) g ⟨id, op, cap⟩).other k hk
  rw [coreAt_headTaken_ne hk] at this
  exact this

theorem afterHead_mem (hst : ∀ mr code rs d a k, op ≠ .st mr code rs d a k) (hmstc : ∀ a, op ≠ .mstc a) (htsave : ∀ n a, op ≠ .tsave n a) :
    (s.afterHead g ⟨id, op, cap⟩ rest).mem = s.mem :=
  runEntry_mem hst hmstc htsave (s.headTaken g ⟨id, op, cap⟩ rest) g id cap

theorem exec_head_of_ready (hq : (s.coreAt g).vq = ⟨id, op, cap⟩ :: rest) (hr : s.headReady g ⟨id, op, cap⟩ = true) :
    exec (.vectorQueueHead g) s = .next (s.afterHead g ⟨id, op, cap⟩ rest) := by
  rw [← runHead_of_ready hq hr]
  rfl

end Sys2Proof.Machine
end

section
/-! SUPPORT. What each entry that acts on its core's registers writes (R147, R149 to R155, R157 to R159). -/

namespace Sys2Proof.Machine

/-! ### Active elements -/

section

variable (c : Core) (shape : BitVec 8) (k : BitVec 3) (e : Nat)

/-- Element `e` lies in the region of a shape. -/
def InShape : Prop := e / 16 < shapeRows shape ∧ e % 16 < shapeCols shape

/-- Element `e` is active: it lies in the region and its mask bit is set (R143). -/
def Core.ActiveAt : Prop := InShape shape e ∧ (c.mask k).getLsbD e = true

/-- Whether element `e` lies in the region of a shape. -/
def inShape : Bool := decide (e / 16 < shapeRows shape) && decide (e % 16 < shapeCols shape)

/-- Whether element `e` is active. -/
def Core.activeAt : Bool := inShape shape e && (c.mask k).getLsbD e

theorem inShape_eq : inShape shape e = inRegion shape e :=
  Bool.eq_iff_iff.2 (by rw [inRegion_iff, inShape, Bool.and_eq_true, decide_eq_true_eq, decide_eq_true_eq])

theorem activeAt_eq : c.activeAt shape k e = c.active shape k e := congrArg (· && _) (inShape_eq shape e)

theorem inShape_iff : InShape shape e ↔ inRegion shape e = true := (inRegion_iff shape e).symm

theorem activeAt_iff : c.ActiveAt shape k e ↔ c.active shape k e = true := by rw [Core.ActiveAt, inShape_iff, Core.active, Bool.and_eq_true]

end

/-- A shape with rows and columns exchanged. -/
theorem inRegion_transposed (shape : BitVec 8) (e : Nat) :
    inRegion (shape.setWidth 4 ++ shape.extractLsb' 4 4 : BitVec 8) e = true ↔ e / 16 < shapeCols shape ∧ e % 16 < shapeRows shape := by
  have hlo : (shape.setWidth 4 ++ shape.extractLsb' 4 4 : BitVec 8).setWidth 4 = shape.extractLsb' 4 4 := by
    rw [BitVec.setWidth_append_eq_right]
  have hhi : (shape.setWidth 4 ++ shape.extractLsb' 4 4 : BitVec 8).extractLsb' 4 4 = shape.setWidth 4 :=
    BitVec.extractLsb'_append_eq_left
  rw [inRegion_iff, shapeRows, shapeCols, hlo, hhi]
  rfl

/-! ### Maps -/

section

variable {c u : Core} {cap : Captured} {d : BitVec 5} {k : BitVec 3}

theorem mapped_active {f : Nat → W32 × FFlags} (hv : u.v = (c.vmap d (c.active cap.shape k) f).core.v) :
    Mapped c u d (c.ActiveAt cap.shape k) fun e => (f e).1 :=
  mapped_of_vmap hv (fun e _ => activeAt_iff c cap.shape k e) fun _ _ _ => rfl

theorem flagsOred_active {f : Nat → W32 × FFlags} (h : Executed c u cap.ctx (c.vmap d (c.active cap.shape k) f)) :
    FlagsOred c u cap.ctx (c.activeAt cap.shape k) fun e => (f e).2 := fun hctx => by
  rw [h.flags hctx, vmap_flags, foldl_or_init _ _ (c.ctxAt cap.ctx).fflags, List.filter_congr fun e _ => activeAt_eq c cap.shape k e]

/-- An element-wise result and its flags. -/
theorem elementwise {f : Nat → W32 × FFlags} (h : Executed c u cap.ctx (c.vmap d (c.active cap.shape k) f)) :
    (Mapped c u d (c.ActiveAt cap.shape k) fun e => (f e).1) ∧ FlagsOred c u cap.ctx (c.activeAt cap.shape k) fun e => (f e).2 :=
  ⟨mapped_active h.v, flagsOred_active h⟩

theorem executed_ins {x : W32} {i : Word} (h : Executed c u cap.ctx (c.vexec cap (.ins d x i))) : Mapped c u d (fun e => e = i.toNat) fun _ => x :=
  mapped_of_vmap h.v (fun _ _ => beq_iff_eq.symm) fun _ _ _ => rfl

theorem executed_sel {a b : BitVec 5} (h : Executed c u cap.ctx (c.vexec cap (.sel d a b k))) :
    Mapped c u d (InShape cap.shape) fun e => if (c.mask k).getLsbD e then c.vElem a e else c.vElem b e :=
  mapped_of_vmap h.v (fun e _ => inShape_iff cap.shape e) fun _ _ _ => rfl

theorem executed_mov {a : BitVec 5} (h : Executed c u cap.ctx (c.vexec cap (.mov d a k))) : Mapped c u d (c.ActiveAt cap.shape k) (c.vElem a) :=
  mapped_active h.v

theorem executed_bcast {x : W32} (h : Executed c u cap.ctx (c.vexec cap (.bcast d x k))) : Mapped c u d (c.ActiveAt cap.shape k) fun _ => x :=
  mapped_active h.v

/-! ### Masks -/

/-- A condition of `vcmp` (R150). -/
def vtest (mo : BitVec 6) (cond : BitVec 5) (x y : W32) : Bool :=
  match cond.toNat with
  | 0 | 1 | 2 | 3 => (fpCond (cond.setWidth 2) (f32Op mo 0 x) (f32Op mo 1 y)).1
  | 4 => decide (x = y)
  | 5 => decide (x ≠ y)
  | 6 => decide (x.toInt < y.toInt)
  | 7 => decide (y.toInt ≤ x.toInt)
  | 8 => decide (x.toNat < y.toNat)
  | 9 => decide (y.toNat ≤ x.toNat)
  | _ => decide (x &&& y ≠ 0)

theorem vcond_test (mo : BitVec 6) (cond : BitVec 5) (x y : W32) : (vcond mo cond x y).1 = vtest mo cond x y := by
  have hslt : (!x.slt y) = decide (y.toInt ≤ x.toInt) := by rw [BitVec.slt, ← decide_not]; exact decide_eq_decide.2 Int.not_lt
  have hult : (!x.ult y) = decide (y.toNat ≤ x.toNat) := by rw [BitVec.ult, ← decide_not]; exact decide_eq_decide.2 Nat.not_lt
  have hbne (p q : W32) : (p != q) = decide (p ≠ q) := by rw [bne, beq_eq_decide, decide_not]
  unfold vcond vtest
  generalize cond.toNat = n
  match n with
  | 0 | 1 | 2 | 3 => rfl
  | 4 => exact beq_eq_decide x y
  | 5 => exact hbne x y
  | 6 => rfl
  | 7 => exact hslt
  | 8 => rfl
  | 9 => exact hult
  | _ + 10 => exact hbne _ _

theorem executed_cmp {mo : BitVec 6} {cond : BitVec 5} {d : BitVec 3} {a b : BitVec 5} (h : Executed c u cap.ctx (c.vexec cap (.cmp mo cond d a b))) :
    MaskSet u d fun e => inShape cap.shape e && vtest mo cond (c.vElem a e) (c.vElem b e) :=
  maskSet_of_setMask h.k fun e he => by
    rw [getLsbD_maskOf _ he, inShape_eq]
    dsimp only
    split_ifs with hin
    · rw [hin, vcond_test, Bool.true_and]
    · rw [Bool.not_eq_true] at hin
      rw [hin, Bool.false_and]

theorem executed_kand {d a b : BitVec 3} (h : Executed c u cap.ctx (c.vexec cap (.kbin .and d a b))) :
    MaskSet u d fun e => (c.mask a).getLsbD e && (c.mask b).getLsbD e :=
  maskSet_of_setMask h.k fun _ _ => BitVec.getLsbD_and

theorem executed_kor {d a b : BitVec 3} (h : Executed c u cap.ctx (c.vexec cap (.kbin .or d a b))) :
    MaskSet u d fun e => (c.mask a).getLsbD e || (c.mask b).getLsbD e :=
  maskSet_of_setMask h.k fun _ _ => BitVec.getLsbD_or

theorem executed_knot {d a : BitVec 3} (h : Executed c u cap.ctx (c.vexec cap (.knot d a))) : MaskSet u d fun e => !(c.mask a).getLsbD e :=
  maskSet_of_setMask h.k fun e he => by rw [BitVec.getLsbD_not, decide_eq_true he, Bool.true_and]

theorem executed_kpop {a : BitVec 3} (h : Executed c u cap.ctx (c.vexec cap (.kpop d a))) :
    ScalarWritten c u cap.ctx d (BitVec.ofNat 64 ((List.range 256).filter (c.activeAt cap.shape a)).length) := by
  rw [List.filter_congr fun e _ => activeAt_eq c cap.shape a e]
  exact h.out d _ (by rw [Core.vexec, filter_regionElems]; rfl)

/-! ### Moves across lanes -/

theorem executed_rot {a : BitVec 5} {n : Word} (h : Executed c u cap.ctx (c.vexec cap (.rot d a n k))) :
    Crossed c u cap.zero d a (c.ActiveAt cap.shape k) (c.ActiveAt cap.shape k) fun e =>
      cellAt (shapeCols cap.shape) ((placeIn (shapeCols cap.shape) e + n.toNat) % (shapeRows cap.shape * shapeCols cap.shape)) := by
  refine crossed_of_cross h.v (fun e _ => activeAt_iff c cap.shape k e) (fun e _ _ => ?_) fun e => activeAt_iff c cap.shape k e
  have hpos : 0 < shapeRows cap.shape * shapeCols cap.shape := Nat.mul_pos (Nat.succ_pos _) (shapeCols_pos _)
  rw [regionElems_length]
  dsimp only
  rw [Nat.add_mod_mod]
  exact regionElems_getD cap.shape (Nat.mod_lt _ hpos) 256

theorem executed_perm {a b : BitVec 5} (h : Executed c u cap.ctx (c.vexec cap (.perm d a b k))) :
    Crossed c u cap.zero d a (c.ActiveAt cap.shape k) (c.ActiveAt cap.shape k) fun e => (c.vElem b e).toNat :=
  crossed_of_cross h.v (fun e _ => activeAt_iff c cap.shape k e) (fun _ _ _ => rfl) fun e => activeAt_iff c cap.shape k e

theorem executed_trans {a : BitVec 5} (h : Executed c u cap.ctx (c.vexec cap (.trans d a k))) :
    Crossed c u cap.zero d a (c.ActiveAt cap.shape k)
      (fun e => e / 16 < shapeCols cap.shape ∧ e % 16 < shapeRows cap.shape ∧ (c.mask k).getLsbD e = true) fun e => 16 * (e % 16) + e / 16 := by
  refine crossed_of_cross h.v (fun e _ => ?_) (fun _ _ _ => rfl) fun e => activeAt_iff c cap.shape k e
  rw [Core.active, Bool.and_eq_true, inRegion_transposed, and_assoc]

/-! ### Reductions and scans -/

section

variable {mo : BitVec 6} {mr : BitVec 8} {o ty : BitVec 2} {a : BitVec 5}

theorem executed_red (h : Executed c u cap.ctx (c.vexec cap (.red mo mr o ty d a k))) :
    let r := treeCombine (vbin (redOp o) ty 0 mr) (vcanon ty) 0 (c.redList cap mo o ty a k)
    ScalarWritten c u cap.ctx d (if ty = 1 then r.1.signExtend 64 else r.1.setWidth 64) ∧
      (ty ≠ 0 → o = 0 → ¬(ty = 1 ∧ mrMode mr = 1) →
        r.1 = ((List.range 256).filter (c.activeAt cap.shape k)).foldl (fun v e => v + c.vElem a e) 0) := by
  refine ⟨h.out d _ (by rw [Core.vexec]), fun hty ho hwrap => ?_⟩
  rw [ho, reduction_add c cap mo a k hty hwrap, List.filter_congr fun e _ => activeAt_eq c cap.shape k e]

theorem executed_scan (h : Executed c u cap.ctx (c.vexec cap (.scan mo mr o ty d a k))) :
    (Mapped c u d (c.ActiveAt cap.shape k) fun e =>
      (treeCombine (vbin (redOp o) ty 0 mr) (vcanon ty) 0 ((c.redList cap mo o ty a k).take (placeIn (shapeCols cap.shape) e + 1))).1) ∧
    (ty ≠ 0 → o = 0 → ¬(ty = 1 ∧ mrMode mr = 1) → ∀ e < 256, c.ActiveAt cap.shape k e → u.vElem d e =
      ((List.range 256).filter fun q => c.activeAt cap.shape k q && decide (placeIn (shapeCols cap.shape) q ≤ placeIn (shapeCols cap.shape) e)).foldl
        (fun v q => v + c.vElem a q) 0) := by
  have hmapped := mapped_active h.v
  refine ⟨hmapped, fun hty ho hwrap e he hact => ?_⟩
  subst ho
  refine ((hmapped.1 e he).1 hact).trans ((scan_add c cap mo a k hty hwrap _).trans ?_)
  rw [List.filter_congr fun q _ => congrArg (· && _) (activeAt_eq c cap.shape k q).symm]
  rfl

end

/-! ### The decode table -/

/-- Somewhere in half `n` of a decode table a value falls, or exceeds infinity (R37). -/
def TableFalls (table : List (BitVec 18)) (n : Nat) : Prop :=
  ∃ i < 127, (table.getD (128 * n + i + 1) 0).toNat < (table.getD (128 * n + i) 0).toNat ∨
    e8m10.inf < (table.getD (128 * n + i) 0).toNat ∨ e8m10.inf < (table.getD (128 * n + i + 1) 0).toNat

theorem executed_tbl {half : BitVec 2} {a : BitVec 5} (h : Executed c u cap.ctx (c.vexec cap (.tbl half a))) :
    (∀ i < 256, u.table.getD i 0 = if half.getLsbD (i / 128) then (c.vElem a i).setWidth 18 else c.table.getD i 0) ∧
      (half.getLsbD 0 = true → (u.nmono0 = true ↔ TableFalls u.table 0)) ∧ (half.getLsbD 1 = true → (u.nmono1 = true ↔ TableFalls u.table 1)) ∧
      (half.getLsbD 0 = false → u.nmono0 = c.nmono0) ∧ (half.getLsbD 1 = false → u.nmono1 = c.nmono1) := by
  rw [h.table, h.nmono0, h.nmono1]
  simp only [Core.vexec, Core.writeTable]
  refine ⟨fun i hi => ?_, fun h0 => ?_, fun h1 => ?_, fun h0 => if_neg (by rw [h0]; decide), fun h1 => if_neg (by rw [h1]; decide)⟩
  · simp [List.getD_eq_getElem?_getD, hi]
  · rw [if_pos h0]
    simp [TableFalls, or_assoc]
  · rw [if_pos h1]
    simp [TableFalls, or_assoc]

end

end Sys2Proof.Machine
end

section
/-! SUPPORT. What each entry that reads or writes memory, the tile registers or the B-operand SRAM does (R161, R162, R166, R172 to R174, R196). -/

namespace Sys2Proof.Machine

/-! ### Bytes -/

/-- Bytes set one after another. -/
theorem bytesGet_foldl_bytesSet (f : Nat → Byte) (a n : Nat) (m : Bytes) (q : Nat) :
    bytesGet ((List.range n).foldl (fun m i => bytesSet m (a + i) (f i)) m) q = if a ≤ q ∧ q < a + n then f (q - a) else bytesGet m q := by
  induction n with
  | zero => rw [if_neg (by omega)]; rfl
  | succ n ih =>
    rw [List.range_succ, List.foldl_append, List.foldl_cons, List.foldl_nil, bytesGet_bytesSet, ih]
    by_cases hq : q = a + n
    · rw [if_pos hq, if_pos (by omega), hq, Nat.add_sub_cancel_left]
    · rw [if_neg hq]
      exact if_congr (by omega) rfl rfl

theorem bytesRead_four (m : Bytes) (a : Nat) : bytesRead m a 4 = (bytesGet m a).toNat + 256 * (bytesGet m (a + 1)).toNat +
    65536 * (bytesGet m (a + 2)).toNat + 16777216 * (bytesGet m (a + 3)).toNat := by
  simp only [bytesRead, Nat.add_assoc, Nat.reduceAdd]
  omega

theorem bytesRead_one (m : Bytes) (a : Nat) : bytesRead m a 1 = (bytesGet m a).toNat := by simp [bytesRead]

/-- The bytes of a word of four. -/
theorem byte_of_four (b : Nat → Byte) {j : Nat} (hj : j < 4) :
    BitVec.ofNat 8 (((b 0).toNat + 256 * (b 1).toNat + 65536 * (b 2).toNat + 16777216 * (b 3).toNat) / 256 ^ j) = b j := by
  apply BitVec.eq_of_toNat_eq
  rw [BitVec.toNat_ofNat]
  have h0 := (b 0).isLt
  have h1 := (b 1).isLt
  have h2 := (b 2).isLt
  have h3 := (b 3).isLt
  match j with
  | 0 | 1 | 2 | 3 => norm_num; omega

theorem spWrite_mem_bytes (s : State) (g off n v : Nat) (full fwd : Bool) :
    (s.spWrite g off n v full fwd).mem.bytes = bytesWrite s.mem.bytes (spadPa g off) n v := by
  rw [State.spWrite_mem]
  dsimp only
  split_ifs
  · exact Phys.cleanse_bytes _ _ _
  · exact Phys.cleanse_bytes _ _ _

/-- A byte after a write of whole words to a scratchpad. -/
theorem bytesGet_spWriteBytes (s : State) (g off : Nat) (l : List Byte) (full fwd : Bool) (q : Nat) :
    bytesGet (s.spWriteBytes g off l full fwd).mem.bytes q =
      if spadPa g off ≤ q ∧ q < spadPa g off + 4 * (l.length / 4) then l.getD (q - spadPa g off) 0 else bytesGet s.mem.bytes q := by
  unfold State.spWriteBytes
  generalize l.length / 4 = n
  induction n with
  | zero => rw [if_neg (by omega)]; rfl
  | succ n ih =>
    rw [List.range_succ, List.foldl_append, List.foldl_cons, List.foldl_nil, spWrite_mem_bytes, bytesGet_bytesWrite, ih,
      show spadPa g (off + 4 * n) = spadPa g off + 4 * n from (Nat.add_assoc _ _ _).symm]
    by_cases hq : spadPa g off + 4 * n ≤ q ∧ q < spadPa g off + 4 * n + 4
    · obtain ⟨j, hj, rfl⟩ : ∃ j < 4, q = spadPa g off + 4 * n + j := ⟨q - (spadPa g off + 4 * n), by omega, by omega⟩
      rw [if_pos hq, if_pos (by omega), Nat.add_sub_cancel_left, show spadPa g off + 4 * n + j - spadPa g off = 4 * n + j by omega]
      exact byte_of_four (fun j => l.getD (4 * n + j) 0) hj
    · rw [if_neg hq]
      exact if_congr (by omega) rfl rfl

/-! ### The head's view of the state -/

variable {s : State} {g id : Nat} {cap : Captured} {rest : List VEntry} {op : VOp}

theorem winReadAs_headTaken (x : VEntry) (half : Bool) (w off n : Nat) : (s.headTaken g x rest).winReadAs half g w off n = s.winReadAs half g w off n := by
  rw [State.winReadAs, coreAt_headTaken_same]
  rfl

theorem unit_headTaken (x : VEntry) (k : Nat) : ((s.headTaken g x rest).coreAt k).unit = (s.coreAt k).unit := by
  by_cases hk : k = g
  · rw [hk, coreAt_headTaken_same]
    rfl
  · rw [coreAt_headTaken_ne hk]

theorem rowHeld_headTaken (x : VEntry) (row : Nat) : (s.headTaken g x rest).rowHeld row = s.rowHeld row := by
  simp only [State.rowHeld, unit_headTaken]

theorem coreAt_afterHead_same {x : VEntry} {c : Core} (h : (s.headTaken g x rest).runEntry g x = (s.headTaken g x rest).setCore g c) :
    (s.afterHead g x rest).coreAt g = c := by
  rw [State.afterHead, h]
  exact (State.coreAt_setCore _ g g c).trans (if_pos rfl)

/-! ### Loads (R161, R162, R196) -/

/-- The value stored at offset `o` of window `w` of a scratchpad: a word, a code, a code of six bits, or a half (R27, R57). -/
def storedField (m : Bytes) (g w o : Nat) : Nat :=
  if w = 0 then bytesRead m (spadPa g o) 4 else if w = 1 then bytesRead m (spadPa g o) 1
  else if w = 2 then bytesRead m (spadPa g (3 * (o / 4))) 3 / 64 ^ (o % 4) % 64 else bytesRead m (spadPa g o) 2

/-- What a load through window `w` makes of the value stored (R57). -/
def loadedField (table : List (BitVec 18)) (half code : Bool) (w v : Nat) : Nat :=
  if code ∨ w = 0 then v
  else if w = 1 then widen e8m10 f32 (decodeCode table half false v)
  else if w = 2 then widen e8m10 f32 (decodeCode table half true v)
  else if w = 3 then widen h16 f32 v else widen b16 f32 v

theorem codeRead_eq {w : Nat} (h0 : w ≠ 0) (h4 : w ≤ 4) (o : Nat) : s.codeRead g w o = storedField s.mem.bytes g w o := by
  match w, h0, h4 with
  | 1, _, _ | 2, _, _ | 3, _, _ | 4, _, _ => rfl

theorem winReadAs_eq {w : Nat} (h4 : w ≤ 4) (half : Bool) (o : Nat) :
    s.winReadAs half g w o 4 = loadedField (s.coreAt g).table half false w (storedField s.mem.bytes g w o) := by
  match w, h4 with
  | 0, _ | 1, _ | 2, _ | 3, _ | 4, _ => rfl

theorem afterHead_ld {code bc : Bool} {rs : BitVec 3} {d : BitVec 5} {a : Word} {k : BitVec 3} (h4 : a.toNat / 0x20000 % 8 ≤ 4)
    (hcode : code = true → a.toNat / 0x20000 % 8 ≠ 0) :
    Mapped (s.coreAt g) ((s.afterHead g ⟨id, .ld code bc rs d a k, cap⟩ rest).coreAt g) d ((s.coreAt g).ActiveAt cap.shape k) fun e =>
      BitVec.ofNat 32 (loadedField (s.coreAt g).table cap.half code (a.toNat / 0x20000 % 8)
        (storedField s.mem.bytes g (a.toNat / 0x20000 % 8) (elemOff (a.toNat % 0x20000) (a.toNat / 0x20000 % 8) cap.shape rs bc e))) := by
  rw [coreAt_afterHead_same rfl, coreAt_headTaken_same, vmap_popped]
  refine mapped_of_vmap rfl (fun e _ => activeAt_iff _ cap.shape k e) fun e _ _ => congrArg (BitVec.ofNat 32) ?_
  dsimp only
  split_ifs with hc
  · rw [codeRead_eq (hcode hc) h4, loadedField, if_pos (.inl hc)]
    rfl
  · rw [winReadAs_headTaken, winReadAs_eq h4, Bool.eq_false_of_not_eq_true hc]

/-- The value of an element of `sgetv` (R196). -/
def State.strandElem (s : State) (g : Nat) (half : Bool) (h : Strand) (j : Nat) : W32 :=
  let a := (h.elemAddr (h.pos.toNat + j)).toNat
  let w := a / 0x20000 % 8
  let v := s.winReadAs half g w (a % 0x20000) (strandSize h.fmt).1
  if h.count ≤ j then 0 else if h.ring then h.list.getD (h.pos.toNat + j) 0
  else if w = 0 ∨ w = 5 then (extend (strandSize h.fmt).1 (strandSize h.fmt).2 v).setWidth 32 else BitVec.ofNat 32 v

theorem afterHead_sgetv {d : BitVec 5} {h : Strand} {r : BitVec 4} :
    Mapped (s.coreAt g) ((s.afterHead g ⟨id, .sgetv d h r, cap⟩ rest).coreAt g) d (fun e => e / 16 = r.toNat) fun e =>
      s.strandElem g cap.half h (e % 16) := by
  rw [coreAt_afterHead_same rfl, coreAt_headTaken_same, vmap_popped]
  refine mapped_of_vmap rfl (fun e _ => beq_iff_eq.symm) fun e _ _ => ?_
  simp only [winReadAs_headTaken, State.strandElem, Bool.or_eq_true, decide_eq_true_eq]
  by_cases hj : e % 16 < h.count
  · rw [if_pos hj, if_neg (Nat.not_le.2 hj)]
    split_ifs <;> rfl
  · rw [if_neg hj, if_pos (Nat.le_of_not_lt hj)]

/-! ### Configuration, SRAM and tile registers (R166, R172 to R174) -/

theorem afterHead_ecfg {w : Word} : ((s.afterHead g ⟨id, .ecfg w, cap⟩ rest).coreAt g).shadow = w ∧
    ((s.afterHead g ⟨id, .ecfg w, cap⟩ rest).coreAt g).cfg = if (s.row (g / 4)).running = none then w else (s.coreAt g).cfg := by
  rw [coreAt_afterHead_same rfl, headTaken_row, coreAt_headTaken_same]
  simp only [Option.isNone_iff_eq_none]
  split_ifs <;> exact ⟨rfl, rfl⟩

theorem afterHead_mzc : ((s.afterHead g ⟨id, .mzc, cap⟩ rest).coreAt g).t0.data = [] ∧
    ((s.afterHead g ⟨id, .mzc, cap⟩ rest).coreAt g).t1 = (s.coreAt g).t1 := by
  rw [coreAt_afterHead_same rfl, coreAt_headTaken_same]
  exact ⟨rfl, rfl⟩

theorem rowHeld_isSome {row : Nat} : (s.rowHeld row).isSome = true ↔ ∃ l, ∀ j < 4, (s.coreAt (4 * row + j)).unit.map (·.launch) = some l := by
  refine ⟨fun h => ?_, fun ⟨l, h⟩ => by rw [rowHeld_of_all h]; rfl⟩
  obtain ⟨l, hl⟩ := Option.isSome_iff_exists.1 h
  exact ⟨l, fun j hj => rowHeld_eq_some hl (mem_rowCores.2 ⟨j, hj, rfl⟩)⟩

section

variable {a b n : Word}

theorem afterHead_mldb_held (h : (s.rowHeld (g / 4)).isSome = true) (q : Nat) :
    bytesGet (s.afterHead g ⟨id, .mldb a b n, cap⟩ rest).sram q =
      if g / 4 * 0x80000 + b.toNat ≤ q ∧ q < g / 4 * 0x80000 + b.toNat + n.toNat
      then bytesGet s.mem.bytes (spadPa g (a.toNat % 0x20000 + (q - (g / 4 * 0x80000 + b.toNat)))) else bytesGet s.sram q := by
  have hrun : (s.afterHead g ⟨id, .mldb a b n, cap⟩ rest).sram = (List.range n.toNat).foldl
      (fun m i => bytesSet m (g / 4 * 0x80000 + b.toNat + i) (bytesGet s.mem.bytes (spadPa g (a.toNat % 0x20000 + i)))) s.sram := by
    simp only [State.afterHead, State.runEntry, rowHeld_headTaken, if_pos h, sramKey, headTaken_mem, headTaken_sram, Nat.add_assoc]
  rw [hrun]
  exact bytesGet_foldl_bytesSet (fun i => bytesGet s.mem.bytes (spadPa g (a.toNat % 0x20000 + i))) _ _ _ _

theorem afterHead_mldb_lost (h : ¬(s.rowHeld (g / 4)).isSome = true) : (s.afterHead g ⟨id, .mldb a b n, cap⟩ rest).sram = s.sram ∧
    (n ≠ 0 → ((s.afterHead g ⟨id, .mldb a b n, cap⟩ rest).row (g / 4)).broken = true) := by
  simp only [State.afterHead, State.runEntry, rowHeld_headTaken, if_neg h]
  refine ⟨by split_ifs <;> rfl, fun hn => ?_⟩
  rw [if_neg hn]
  exact congrArg Row.broken ((State.row_setRow _ (g / 4) (g / 4) _).trans (if_pos rfl))

/-- `mldb` copies the bytes while its launch holds the row, and else breaks the row (R165, R172). -/
theorem afterHead_mldb :
    let t := s.afterHead g ⟨id, .mldb a b n, cap⟩ rest
    let home := g / 4 * 0x80000 + b.toNat
    let held := ∃ l, ∀ j < 4, (s.coreAt (4 * (g / 4) + j)).unit.map (·.launch) = some l
    (held → (∀ i < n.toNat, bytesGet t.sram (home + i) = bytesGet s.mem.bytes (spadPa g (a.toNat % 0x20000 + i))) ∧
      ∀ q, q < home ∨ home + n.toNat ≤ q → bytesGet t.sram q = bytesGet s.sram q) ∧
    (¬held → t.sram = s.sram ∧ (n ≠ 0 → (t.row (g / 4)).broken = true)) := by
  intro t home held
  refine ⟨fun h => ⟨fun i hi => ?_, fun q hq => ?_⟩, fun hlost => afterHead_mldb_lost fun h => hlost (rowHeld_isSome.1 h)⟩
  · exact (afterHead_mldb_held (rowHeld_isSome.2 h) _).trans (by rw [if_pos (by omega), Nat.add_sub_cancel_left])
  · exact (afterHead_mldb_held (rowHeld_isSome.2 h) q).trans (if_neg (by omega))

end

theorem runEntry_mstc {a : Word} (t : State) :
    t.runEntry g ⟨id, .mstc a, cap⟩ = t.spWriteBytes g (a.toNat % 0x20000) ((tileBytes (t.coreAt g).t0).take 4096) false true := by
  rw [State.runEntry]

theorem runEntry_tsave {n : BitVec 1} {a : Word} (t : State) :
    t.runEntry g ⟨id, .tsave n a, cap⟩ = t.spWriteBytes g (a.toNat % 0x20000) (tileBytes ((t.coreAt g).tile n)) false true := by
  rw [State.runEntry]

theorem afterHead_mem_eq (x : VEntry) : (s.afterHead g x rest).mem = ((s.headTaken g x rest).runEntry g x).mem := rfl

theorem afterHead_mstc_bytes {a : Word} : (s.afterHead g ⟨id, .mstc a, cap⟩ rest).mem.bytes =
    storeWords s.mem.bytes (spadPa g (a.toNat % 0x20000)) (s.coreAt g).t0.data 1024 := by
  have htile : ((s.headTaken g ⟨id, .mstc a, cap⟩ rest).coreAt g).t0 = (s.coreAt g).t0 := by
    rw [coreAt_headTaken_same]
    rfl
  rw [afterHead_mem_eq, runEntry_mstc, spWriteBytes_tile_bytes, htile, headTaken_mem]

/-- `mstc` stores the elements of t0 and leaves the bytes outside (R173). -/
theorem afterHead_mstc {a : Word} :
    let t := s.afterHead g ⟨id, .mstc a, cap⟩ rest
    let o := spadPa g (a.toNat % 0x20000)
    (∀ e < 1024, bytesRead t.mem.bytes (o + 4 * e) 4 = ((s.coreAt g).t0.data.getD e 0).toNat) ∧
      ∀ b, ¬(o ≤ b ∧ b < o + 4096) → bytesGet t.mem.bytes b = bytesGet s.mem.bytes b := by
  intro t o
  rw [afterHead_mstc_bytes]
  exact ⟨fun e he => bytesRead_storeWords _ _ _ he, fun b hb => bytesGet_storeWords _ _ (by omega)⟩

theorem tileBytes_length (t : TileReg) : (tileBytes t).length = 5120 := by simp [tileBytes]

theorem tileBytes_state (t : TileReg) {e : Nat} (he : e < 1024) : (tileBytes t).getD (4096 + e) 0 = (t.st.getD e 0).setWidth 8 := by
  rw [tileBytes, List.getD_append_right _ _ _ _ (by simp)]
  simp [List.getD_eq_getElem?_getD, he]

theorem tileBytes_take (t : TileReg) {i : Nat} (hi : i < 4096) : ((tileBytes t).take 4096).getD i 0 = (tileBytes t).getD i 0 := by
  rw [List.getD_eq_getElem?_getD, List.getElem?_take_of_lt hi, List.getD_eq_getElem?_getD]

section

variable {n : BitVec 1} {a : Word}

theorem afterHead_tsave_byte (q : Nat) : bytesGet (s.afterHead g ⟨id, .tsave n a, cap⟩ rest).mem.bytes q =
    if spadPa g (a.toNat % 0x20000) ≤ q ∧ q < spadPa g (a.toNat % 0x20000) + 5120
    then (tileBytes ((s.coreAt g).tile n)).getD (q - spadPa g (a.toNat % 0x20000)) 0 else bytesGet s.mem.bytes q := by
  have htile : ((s.headTaken g ⟨id, .tsave n a, cap⟩ rest).coreAt g).tile n = (s.coreAt g).tile n := by
    rw [coreAt_headTaken_same]
    rfl
  rw [afterHead_mem_eq, runEntry_tsave, bytesGet_spWriteBytes, tileBytes_length, htile, headTaken_mem]

theorem afterHead_tsave_word {e : Nat} (he : e < 1024) :
    bytesRead (s.afterHead g ⟨id, .tsave n a, cap⟩ rest).mem.bytes (spadPa g (a.toNat % 0x20000) + 4 * e) 4 =
      (((s.coreAt g).tile n).data.getD e 0).toNat := by
  have hbyte : ∀ j < 4, bytesGet (s.afterHead g ⟨id, .tsave n a, cap⟩ rest).mem.bytes (spadPa g (a.toNat % 0x20000) + 4 * e + j) =
      ((tileBytes ((s.coreAt g).tile n)).take 4096).getD (4 * e + j) 0 := fun j hj => by
    rw [afterHead_tsave_byte, if_pos (by omega), tileBytes_take _ (by omega), Nat.add_assoc, Nat.add_sub_cancel_left]
  rw [← tileBytes_word ((s.coreAt g).tile n) he, bytesRead_four, hbyte 1 (by decide), hbyte 2 (by decide), hbyte 3 (by decide)]
  have h0 := hbyte 0 (by decide)
  simp only [Nat.add_zero] at h0
  rw [h0]

theorem afterHead_tsave_state {e : Nat} (he : e < 1024) :
    bytesGet (s.afterHead g ⟨id, .tsave n a, cap⟩ rest).mem.bytes (spadPa g (a.toNat % 0x20000) + 4096 + e) =
      (((s.coreAt g).tile n).st.getD e 0).setWidth 8 := by
  rw [afterHead_tsave_byte, if_pos (by omega), Nat.add_assoc, Nat.add_sub_cancel_left, tileBytes_state _ he]

theorem afterHead_trest {e : Nat} (he : e < 1024) :
    (((s.afterHead g ⟨id, .trest n a, cap⟩ rest).coreAt g).tile n).data.getD e 0 =
        BitVec.ofNat 32 (bytesRead s.mem.bytes (spadPa g (a.toNat % 0x20000) + 4 * e) 4) &&& (if n = 0 then 0xFFFFFFFF else 0xFFFFFF00) ∧
      (((s.afterHead g ⟨id, .trest n a, cap⟩ rest).coreAt g).tile n).st.getD e 0 =
        BitVec.ofNat 3 ((bytesGet s.mem.bytes (spadPa g (a.toNat % 0x20000) + 4096 + e)).toNat % 4) := by
  have htile : ∀ (c : Core) (x : TileReg), (c.setTile n x).tile n = x := fun c x => by
    unfold Core.setTile Core.tile
    split_ifs <;> rfl
  rw [coreAt_afterHead_same rfl, htile]
  have hspad : ∀ o i, spadPa g (o + i) = spadPa g o + i := fun o i => (Nat.add_assoc _ o i).symm
  simp only [List.getD_eq_getElem?_getD, List.getElem?_map, List.getElem?_range he, Option.map_some, Option.getD_some, State.spRead, headTaken_mem, hspad,
    bytesRead_one]
  refine ⟨?_, trivial⟩
  unfold tileElem
  split_ifs
  · rw [show (0xFFFFFFFF : W32) = BitVec.allOnes 32 from rfl, BitVec.and_allOnes]
  · rfl

end

end Sys2Proof.Machine
end

section
/-! SUPPORT. Element-wise operations on two registers: values and flags (R146, R148). -/

namespace Sys2Proof.Machine

/-- The exact integer result of an operation on i32 elements that can saturate (R41). -/
def exactInt (op : VBin) (x y : W32) : Int := if op = .add then x.toInt + y.toInt else if op = .sub then x.toInt - y.toInt else x.toInt * y.toInt

/-- The f32 result of an operation (R146). -/
def floatResult (op : VBin) (mo : BitVec 6) (mr : BitVec 8) (a b : W32) : W32 × FFlags :=
  let x := f32Op mo 0 a
  let y := f32Op mo 1 b
  f32Result mr (if op = .add then fpAdd (mrRound mr) x y else if op = .sub then fpSub (mrRound mr) x y else if op = .mul then fpMul x y
    else fpMinMax (op == .max) x y)

/-- The flags of an operation on two elements (R43, R146, R148). -/
def binFlags (op : VBin) (ty : BitVec 2) (mo : BitVec 6) (mr : BitVec 8) (x y : W32) : FFlags :=
  if ty = 0 ∧ op ∈ [VBin.add, .sub, .mul, .min, .max] then (floatResult op mo mr x y).2
  else if ty = 1 ∧ mrMode mr = 1 ∧ op ∈ [VBin.add, .sub, .mul] ∧ ¬(-(2 ^ 31) ≤ exactInt op x y ∧ exactInt op x y < 2 ^ 31) then fSAT else 0

section

variable {ty : BitVec 2} {mo : BitVec 6} {mr : BitVec 8}

/-- An element itself is a result that fits. -/
theorem i32Result_i32Val (ty : BitVec 2) (mr : BitVec 8) (x : W32) : i32Result ty mr (i32Val ty x) = (x, 0) := by
  by_cases h : ty = 1 ∧ mrMode mr = 1
  · obtain ⟨hval, hflag⟩ := i32Result_sat h.1 h.2 (i32Val ty x)
    have hx : i32Val ty x = x.toInt := if_pos h.1
    have hlo := BitVec.le_toInt x
    have hhi := BitVec.toInt_lt (x := x)
    rw [hx] at hval hflag ⊢
    refine Prod.ext (BitVec.eq_of_toInt_eq (hval.trans ?_)) (hflag.trans (if_pos (by omega)))
    rw [min_eq_left (by omega), max_eq_right (by omega)]
  · rw [i32Result_wrap h, ofInt_i32Val]

theorem i32Result_min (ty : BitVec 2) (mr : BitVec 8) (x y : W32) :
    i32Result ty mr (min (i32Val ty x) (i32Val ty y)) = (if i32Val ty x ≤ i32Val ty y then x else y, 0) := by
  rw [min_def]
  split_ifs
  · exact i32Result_i32Val ty mr x
  · exact i32Result_i32Val ty mr y

theorem i32Result_max (ty : BitVec 2) (mr : BitVec 8) (x y : W32) :
    i32Result ty mr (max (i32Val ty x) (i32Val ty y)) = (if i32Val ty x ≤ i32Val ty y then y else x, 0) := by
  rw [max_def]
  split_ifs
  · exact i32Result_i32Val ty mr y
  · exact i32Result_i32Val ty mr x

theorem vbin_float (hty : ty = 0) {op : VBin} (h : op ∈ [VBin.add, .sub, .mul, .min, .max]) (x y : W32) :
    vbin op ty mo mr x y = floatResult op mo mr x y := by
  cases op with
  | add | sub | mul | min | max => exact if_pos hty
  | and | or | xor | shl | shr => exact absurd h (by decide)

theorem vbin_min_int (hty : ty ≠ 0) (x y : W32) : vbin .min ty mo mr x y = (if i32Val ty x ≤ i32Val ty y then x else y, 0) :=
  (if_neg hty).trans (i32Result_min ty mr x y)

theorem vbin_max_int (hty : ty ≠ 0) (x y : W32) : vbin .max ty mo mr x y = (if i32Val ty x ≤ i32Val ty y then y else x, 0) :=
  (if_neg hty).trans (i32Result_max ty mr x y)

/-- Saturating operations on i32. -/
theorem vbin_exact (hty : ty = 1) {op : VBin} (h : op ∈ [VBin.add, .sub, .mul]) (x y : W32) :
    vbin op ty mo mr x y = i32Result ty mr (exactInt op x y) := by
  have hval : ∀ z, i32Val ty z = z.toInt := fun _ => if_pos hty
  have hint : ty ≠ 0 := by rw [hty]; decide
  cases op with
  | add | sub | mul => exact (if_neg hint).trans (by rw [hval, hval]; rfl)
  | min | max | and | or | xor | shl | shr => exact absurd h (by decide)

theorem vbin_sat (hty : ty = 1) (hmr : mrMode mr = 1) {op : VBin} (h : op ∈ [VBin.add, .sub, .mul]) (x y : W32) :
    (vbin op ty mo mr x y).1.toInt = max (-(2 ^ 31)) (min (exactInt op x y) (2 ^ 31 - 1)) := by
  rw [vbin_exact hty h]
  exact (i32Result_sat hty hmr _).1

theorem vbin_flags (op : VBin) (x y : W32) : (vbin op ty mo mr x y).2 = binFlags op ty mo mr x y := by
  unfold binFlags
  by_cases hop : op ∈ [VBin.add, .sub, .mul]
  · have hop' : op ∈ [VBin.add, .sub, .mul, .min, .max] := List.mem_append_left [VBin.min, .max] hop
    by_cases h0 : ty = 0
    · rw [if_pos ⟨h0, hop'⟩, vbin_float h0 hop']
    · rw [if_neg fun h => h0 h.1]
      by_cases hsat : ty = 1 ∧ mrMode mr = 1
      · rw [vbin_exact hsat.1 hop, (i32Result_sat hsat.1 hsat.2 _).2]
        split_ifs with hfits hflag hflag
        · exact absurd hfits hflag.2.2.2
        · rfl
        · rfl
        · exact absurd ⟨hsat.1, hsat.2, hop, hfits⟩ hflag
      · rw [if_neg fun h => hsat ⟨h.1, h.2.1⟩]
        cases op with
        | add => rw [vbin_add_wrap h0 hsat]
        | sub => rw [vbin_sub_wrap h0 hsat]
        | mul => rw [vbin_mul_wrap h0 hsat]
        | min | max | and | or | xor | shl | shr => exact absurd hop (by decide)
  · rw [if_neg (fun h => hop h.2.2.1 : ¬(ty = 1 ∧ mrMode mr = 1 ∧ op ∈ [VBin.add, .sub, .mul] ∧ _))]
    split_ifs with hfloat
    · rw [vbin_float hfloat.1 hfloat.2]
    · cases op with
      | add | sub | mul => exact absurd (by decide) hop
      | min => rw [vbin_min_int fun h0 => hfloat ⟨h0, by decide⟩]
      | max => rw [vbin_max_int fun h0 => hfloat ⟨h0, by decide⟩]
      | and | or | xor | shl | shr => rfl

/-- The value of an element-wise operation on two elements, by operation and type. -/
def BinValue (op : VBin) (ty : BitVec 2) (mo : BitVec 6) (mr : BitVec 8) (x y z : W32) : Prop :=
  (op = .and → z = x &&& y) ∧ (op = .or → z = x ||| y) ∧ (op = .xor → z = x ^^^ y) ∧
  (op = .shl → z = x <<< (y.toNat % 32)) ∧
  (op = .shr → z = if ty = 1 then x.sshiftRight (y.toNat % 32) else x >>> (y.toNat % 32)) ∧
  (ty ≠ 0 → ¬(ty = 1 ∧ mrMode mr = 1) →
    (op = .add → z = x + y) ∧ (op = .sub → z = x - y) ∧ (op = .mul → z = x * y)) ∧
  (ty = 1 → op = .min → z.toInt = min x.toInt y.toInt) ∧ (ty = 1 → op = .max → z.toInt = max x.toInt y.toInt) ∧
  (ty ≠ 0 → ty ≠ 1 → op = .min → z.toNat = min x.toNat y.toNat) ∧
  (ty ≠ 0 → ty ≠ 1 → op = .max → z.toNat = max x.toNat y.toNat) ∧
  (ty = 1 → mrMode mr = 1 → op ∈ [VBin.add, .sub, .mul] → z.toInt = max (-(2 ^ 31)) (min (exactInt op x y) (2 ^ 31 - 1))) ∧
  (ty = 0 → op ∈ [VBin.add, .sub, .mul, .min, .max] → z = (floatResult op mo mr x y).1)

theorem binValue_vbin (op : VBin) (x y : W32) : BinValue op ty mo mr x y (vbin op ty mo mr x y).1 := by
  refine ⟨fun h => h ▸ rfl, fun h => h ▸ rfl, fun h => h ▸ rfl, fun h => h ▸ rfl, fun h => h ▸ rfl,
    fun h0 hwrap => ⟨fun h => ?_, fun h => ?_, fun h => ?_⟩, fun h1 h => ?_, fun h1 h => ?_, fun h0 h1 h => ?_, fun h0 h1 h => ?_,
    fun h1 hmr h => vbin_sat h1 hmr h x y, fun h0 h => by rw [vbin_float h0 h]⟩
  · rw [h, vbin_add_wrap h0 hwrap]
  · rw [h, vbin_sub_wrap h0 hwrap]
  · rw [h, vbin_mul_wrap h0 hwrap]
  · rw [h, vbin_min_int (by rw [h1]; decide), i32Val, i32Val, if_pos h1, if_pos h1, min_def]
    split_ifs <;> rfl
  · rw [h, vbin_max_int (by rw [h1]; decide), i32Val, i32Val, if_pos h1, if_pos h1, max_def]
    split_ifs <;> rfl
  · rw [h, vbin_min_int h0, i32Val, i32Val, if_neg h1, if_neg h1, min_def]
    simp only [Int.ofNat_le]
    split_ifs <;> rfl
  · rw [h, vbin_max_int h0, i32Val, i32Val, if_neg h1, if_neg h1, max_def]
    simp only [Int.ofNat_le]
    split_ifs <;> rfl

end

end Sys2Proof.Machine
end

section
/-! SUPPORT. The head of the only queue of a tile that waits is the one that lane groups go to (R23). -/

namespace Sys2Proof.Machine

variable {s : State} {g : Nat}

theorem wantsLanes_of_empty (h : (s.coreAt g).vq = []) : s.wantsLanes g = false := by rw [State.wantsLanes, h]

theorem filter_wantsLanes (hg : s.wantsLanes g = true) (hothers : ∀ k, k / 8 = g / 8 → k ≠ g → (s.coreAt k).vq = []) :
    ((List.range 8).map (8 * (g / 8) + ·)).filter s.wantsLanes = [g] := by
  have hnodup : ((List.range 8).map (8 * (g / 8) + ·)).Nodup := List.nodup_range.map fun _ _ h => Nat.add_left_cancel h
  have hmem : g ∈ (List.range 8).map (8 * (g / 8) + ·) := List.mem_map.2 ⟨g % 8, List.mem_range.2 (Nat.mod_lt _ (by decide)), Nat.div_add_mod g 8⟩
  have honly : ∀ k ∈ (List.range 8).map (8 * (g / 8) + ·), s.wantsLanes k = decide (k = g) := fun k hk => by
    obtain ⟨j, hj, rfl⟩ := List.mem_map.1 hk
    by_cases heq : 8 * (g / 8) + j = g
    · rw [heq, hg, decide_eq_true rfl]
    · rw [wantsLanes_of_empty (hothers _ (by have := List.mem_range.1 hj; omega) heq), decide_eq_false heq]
  rw [List.filter_congr honly, List.filter_eq, List.count_eq_one_of_mem hnodup hmem]
  rfl

theorem arbitrate_of_only (hg : s.wantsLanes g = true) (hothers : ∀ k, k / 8 = g / 8 → k ≠ g → (s.coreAt k).vq = []) :
    s.arbitrate (g / 8) = some g := by
  have hone : ∀ p : Nat → Bool, [g].filter p = [g] ∨ [g].filter p = [] := fun p => by
    rw [List.filter_singleton]
    cases p g <;> simp
  unfold State.arbitrate
  rw [filter_wantsLanes hg hothers]
  dsimp only
  obtain hurged | hurged := hone s.laneUrged
  · rw [hurged]
    rfl
  · obtain hheavy | hheavy := hone fun g => (s.coreAt g).weight != 0
    · rw [hurged, hheavy]
      rfl
    · rw [hurged, hheavy]
      rfl

theorem bindTile_of_only (hg : s.wantsLanes g = true) (hothers : ∀ k, k / 8 = g / 8 → k ≠ g → (s.coreAt k).vq = [])
    (hfree : s.freeLanes (g / 8) ≠ 0) : s.bindTile (g / 8) = s.runHead g := by
  rw [State.bindTile, if_neg hfree, arbitrate_of_only hg hothers]
  rfl

variable {id : Nat} {op : VBin} {mo : BitVec 6} {mr : BitVec 8} {ty : BitVec 2} {d a b : BitVec 5} {k : BitVec 3} {cap : Captured} {rest : List VEntry}

/-- An element-wise operation takes lane groups, and waits for nothing else. -/
theorem wantsLanes_of_bin (hq : (s.coreAt g).vq = ⟨id, .bin op mo mr ty d a b k, cap⟩ :: rest) : s.wantsLanes g = true := by
  have hpos : 0 < shapeRows cap.shape * shapeCols cap.shape := Nat.mul_pos (Nat.succ_pos _) (shapeCols_pos _)
  have hlanes : VEntry.lanes ⟨id, .bin op mo mr ty d a b k, cap⟩ ≠ 0 := by
    show ((regionElems cap.shape).length + 15) / 16 ≠ 0
    rw [regionElems_length]
    omega
  rw [State.wantsLanes, hq]
  exact bne_iff_ne.2 hlanes

/-- The state after an element-wise operation (R143, R146, R148). -/
theorem afterHead_bin {op : VBin} :
    let c := s.coreAt g
    let t := s.afterHead g ⟨id, .bin op mo mr ty d a b k, cap⟩ rest
    (t.coreAt g).vq = rest ∧ (∀ e < 256, ¬c.ActiveAt cap.shape k e → (t.coreAt g).vElem d e = c.vElem d e) ∧
      (∀ r ≠ d, (t.coreAt g).v.get r.toFin = c.v.get r.toFin) ∧
      (∀ e < 256, c.ActiveAt cap.shape k e → BinValue op ty mo mr (c.vElem a e) (c.vElem b e) ((t.coreAt g).vElem d e)) ∧
      FlagsOred c (t.coreAt g) cap.ctx (c.activeAt cap.shape k) (fun e => binFlags op ty mo mr (c.vElem a e) (c.vElem b e)) ∧
      t.mem = s.mem ∧ (t.coreAt g).k = c.k ∧ ∀ j ≠ g, t.coreAt j = s.coreAt j := by
  intro c t
  have hexec : Executed c (t.coreAt g) cap.ctx (c.vexec cap (.bin op mo mr ty d a b k)) := executed_afterHead rfl
  obtain ⟨⟨helem, hrest⟩, hflags⟩ := elementwise hexec
  refine ⟨afterHead_queue, fun e he => (helem e he).2, hrest, fun e he hact => ?_, ?_, afterHead_mem (fun _ _ _ _ _ _ h => by cases h) (fun _ h => by cases h)
    (fun _ _ h => by cases h), hexec.k, fun j hj => afterHead_other hj⟩
  · rw [(helem e he).1 hact]
    exact binValue_vbin op _ _
  · simpa only [vbin_flags] using hflags

end Sys2Proof.Machine
end

section
/-! SUPPORT. Converted values fit the bits they are stored in (R39 to R41). -/

namespace Sys2Proof.Machine

theorem encodeSearch_le (mag : Nat → Exact) (a : Exact) (n lo hi : Nat) : encodeSearch mag a n lo hi ≤ max lo hi := by
  induction n generalizing lo hi with
  | zero => exact le_max_left lo hi
  | succ n ih =>
    rw [encodeSearch]
    split_ifs
    · exact (ih _ _).trans (by omega)
    · exact (ih _ _).trans (by omega)

/-- The last of the finite entries below `i` lies below `i`. -/
theorem getD_getLast?_filter_range_le (p : Nat → Bool) (i : Nat) : (((List.range i).filter p).getLast?).getD i ≤ i := by
  cases h : ((List.range i).filter p).getLast? with
  | none => exact le_rfl
  | some j => exact (List.mem_range.1 (List.mem_of_mem_filter (List.mem_of_getLast? h))).le

theorem encodeCode_lt (table : List (BitVec 18)) (half q6 : Bool) (mode : BitVec 2) (sat : Bool) (x : Exact) :
    (encodeCode table half q6 mode sat x).1 < 2 * if q6 then 32 else 128 := by
  unfold encodeCode
  extract_lets n mag pack sg a lo up diff c i j k fl1 fl2 same
  have hpos : 0 < n := by
    show 0 < if q6 then 32 else 128
    split_ifs <;> decide
  have hpack : ∀ sg i, i < n → pack sg i < 2 * n := fun sg i hi => by
    show (if sg then n else 0) + i < 2 * n
    split_ifs <;> omega
  by_cases hnan : x = .nan
  · rw [if_pos hnan]
    exact hpack _ _ (by omega)
  · rw [if_neg hnan]
    have hlo : lo < n := (encodeSearch_le mag a _ 0 (n - 1)).trans_lt (by omega)
    have hup : up < n := (min_le_right _ _).trans_lt (by omega)
    have hi : i < n := by
      dsimp only [i]
      split_ifs <;> assumption
    have hj : j < n := by
      show (if _ then _ else _) < n
      split
      · exact (getD_getLast?_filter_range_le _ i).trans_lt hi
      · exact hi
    have hk : k < n := by
      show (if _ then _ else _) < n
      split
      · next h =>
        simp only [Bool.and_eq_true, decide_eq_true_eq] at h
        exact h.1.2
      · exact hj
    exact hpack _ _ hk

section

variable {f : Fmt} (hinf : f.inf < f.sign) (hmax : f.max < f.sign) (hnan : f.nan < f.sign) (hone : f.one < f.sign)

section

include hinf hmax

theorem roundRat_lt (mode : BitVec 2) (neg : Bool) (num den : Nat) : (roundRat f mode neg num den).1 < 2 * f.sign := by
  have hs : (if neg then f.sign else 0) ≤ f.sign := by split_ifs <;> omega
  unfold roundRat
  extract_lets s e emin q
  change s ≤ f.sign at hs
  split
  · show s < _
    omega
  · obtain ⟨m, inexact⟩ := quantize mode neg num den q
    dsimp only
    split
    · have hover : ∀ c : Bool, s + (if c then f.inf else f.max) < 2 * f.sign := fun c => by split_ifs <;> omega
      exact hover _
    · dsimp only
      omega

include hnan

theorem roundExact_lt (mode : BitVec 2) (x : Exact) : (roundExact f mode x).1 < 2 * f.sign := by
  cases x with
  | nan =>
    show f.nan < _
    omega
  | inf n =>
    show (if n then f.sign else 0) + f.inf < _
    split_ifs <;> omega
  | rat n a b => exact roundRat_lt hinf hmax mode n a b

end

include hone

theorem resultMode_lt (mode : BitVec 2) {bits : Nat} (h : bits < 2 * f.sign) : resultMode f mode bits < 2 * f.sign := by
  have hsign : ∀ c : Bool, (if c then f.sign else 0) ≤ f.sign := fun c => by split_ifs <;> omega
  unfold resultMode
  extract_lets mag neg
  have hneg := hsign neg
  split
  · exact h
  · split <;> omega
  · split
    · omega
    · split <;> omega
  · split
    · omega
    · split <;> omega

include hinf hmax hnan

theorem formResult_lt (mr : BitVec 8) (x : Exact) (fl : FFlags) : (formResult f mr x fl).1 < 2 * f.sign :=
  resultMode_lt hone _ (roundExact_lt hinf hmax hnan _ _)

end

theorem formResult_h16_lt (mr : BitVec 8) (x : Exact) (fl : FFlags) : (formResult h16 mr x fl).1 < 65536 :=
  formResult_lt (by decide) (by decide) (by decide) (by decide) mr x fl

theorem formResult_b16_lt (mr : BitVec 8) (x : Exact) (fl : FFlags) : (formResult b16 mr x fl).1 < 65536 :=
  formResult_lt (by decide) (by decide) (by decide) (by decide) mr x fl

end Sys2Proof.Machine
end

section
/-! SUPPORT. Fields of a scratchpad, each written through a window, and the elements that `vst` stores (R57, R161, R162). -/

namespace Sys2Proof.Machine

/-! ### One field -/

/-- Writes the value `v` at offset `o` of window `w` of a scratchpad; a code of six bits into its group of three bytes (R27). -/
def storeField (m : Bytes) (g w o v : Nat) : Bytes :=
  if w = 0 then bytesWrite m (spadPa g o) 4 v
  else if w = 1 then bytesWrite m (spadPa g o) 1 v
  else if w = 2 then
    let old := bytesRead m (spadPa g (3 * (o / 4))) 3
    bytesWrite m (spadPa g (3 * (o / 4))) 3 (old - old / 64 ^ (o % 4) % 64 * 64 ^ (o % 4) + v * 64 ^ (o % 4))
  else bytesWrite m (spadPa g o) 2 v

/-- The number of values that a field of window `w` can hold. -/
def fieldSize (w : Nat) : Nat := if w = 0 then 2 ^ 32 else if w = 1 then 256 else if w = 2 then 64 else 65536

/-- One of the four codes in 24 bits is replaced. -/
theorem sextet_replace {old v i j : Nat} (hold : old < 256 ^ 3) (hv : v < 64) (hi : i < 4) (hj : j < 4) :
    (old - old / 64 ^ j % 64 * 64 ^ j + v * 64 ^ j) % 256 ^ 3 / 64 ^ i % 64 = if i = j then v else old / 64 ^ i % 64 := by
  interval_cases i <;> interval_cases j <;> norm_num at hold ⊢ <;> omega

/-- Two fields do not overlap. -/
def FieldsApart (w o p : Nat) : Prop := o + winUnit w ≤ p ∨ p + winUnit w ≤ o

section

variable (m : Bytes) (g : Nat) {w : Nat} (h4 : w ≤ 4) (o : Nat) {v : Nat} (hv : v < fieldSize w)
include h4 hv

theorem storedField_storeField_same : storedField (storeField m g w o v) g w o = v := by
  match w, h4 with
  | 0, _ => exact (bytesRead_bytesWrite_same _ _ 4 v).trans (Nat.mod_eq_of_lt hv)
  | 1, _ => exact (bytesRead_bytesWrite_same _ _ 1 v).trans (Nat.mod_eq_of_lt hv)
  | 2, _ =>
    have ho := Nat.mod_lt o (by decide : 4 > 0)
    show bytesRead (bytesWrite m _ 3 _) _ 3 / _ % 64 = v
    rw [bytesRead_bytesWrite_same, sextet_replace (bytesRead_lt m _ 3) hv ho ho, if_pos rfl]
  | 3, _ => exact (bytesRead_bytesWrite_same _ _ 2 v).trans (Nat.mod_eq_of_lt hv)
  | 4, _ => exact (bytesRead_bytesWrite_same _ _ 2 v).trans (Nat.mod_eq_of_lt hv)

theorem storedField_storeField_apart {p : Nat} (hp : FieldsApart w o p) : storedField (storeField m g w o v) g w p = storedField m g w p := by
  match w, h4 with
  | 0, _ => exact bytesRead_bytesWrite_apart m v (by simp only [FieldsApart, winUnit] at hp; unfold spadPa; omega)
  | 1, _ => exact bytesRead_bytesWrite_apart m v (by simp only [FieldsApart, winUnit] at hp; unfold spadPa; omega)
  | 2, _ =>
    simp only [FieldsApart, winUnit] at hp
    show bytesRead (bytesWrite m _ 3 _) _ 3 / _ % 64 = bytesRead m _ 3 / _ % 64
    by_cases hgroup : o / 4 = p / 4
    · rw [hgroup, bytesRead_bytesWrite_same,
        sextet_replace (bytesRead_lt m _ 3) hv (Nat.mod_lt p (by decide)) (Nat.mod_lt o (by decide)), if_neg (by omega)]
    · rw [bytesRead_bytesWrite_apart m _ (by unfold spadPa; omega)]
  | 3, _ => exact bytesRead_bytesWrite_apart m v (by simp only [FieldsApart, winUnit] at hp; unfold spadPa; omega)
  | 4, _ => exact bytesRead_bytesWrite_apart m v (by simp only [FieldsApart, winUnit] at hp; unfold spadPa; omega)

end

theorem bytesGet_storeField (m : Bytes) (g : Nat) {w : Nat} (h4 : w ≤ 4) (o v : Nat) {b : Nat}
    (hb : b < spadPa g (storedBytes w o 4).1 ∨ spadPa g (storedBytes w o 4).1 + (storedBytes w o 4).2 ≤ b) :
    bytesGet (storeField m g w o v) b = bytesGet m b := by
  match w, h4 with
  | 0, _ | 1, _ | 2, _ | 3, _ | 4, _ => exact (bytesGet_bytesWrite m _ _ _ b).trans (if_neg (by simp only [storedBytes] at hb; omega))

/-! ### Fields one after another -/

section

variable (g : Nat) {w : Nat} (h4 : w ≤ 4) (off val : Nat → Nat)
include h4

/-- Fields written one after another, each where `off` says. -/
theorem storedField_foldl_apart (l : List Nat) (hv : ∀ e ∈ l, val e < fieldSize w) {p : Nat} (hp : ∀ e ∈ l, FieldsApart w (off e) p) (m : Bytes) :
    storedField (l.foldl (fun m e => storeField m g w (off e) (val e)) m) g w p = storedField m g w p := by
  induction l generalizing m with
  | nil => rfl
  | cons e l ih =>
    rw [List.forall_mem_cons] at hv hp
    rw [List.foldl_cons, ih hv.2 hp.2, storedField_storeField_apart m g h4 (off e) hv.1 hp.1]

theorem storedField_foldl_mem (l : List Nat) (hv : ∀ e ∈ l, val e < fieldSize w) (hl : l.Pairwise fun e q => FieldsApart w (off e) (off q)) (m : Bytes)
    {e : Nat} (he : e ∈ l) : storedField (l.foldl (fun m e => storeField m g w (off e) (val e)) m) g w (off e) = val e := by
  induction l generalizing m with
  | nil => cases he
  | cons q l ih =>
    rw [List.forall_mem_cons] at hv
    rw [List.pairwise_cons] at hl
    rw [List.foldl_cons]
    obtain rfl | he := List.mem_cons.1 he
    · rw [storedField_foldl_apart g h4 off val l hv.2 fun q hq => (hl.1 q hq).symm, storedField_storeField_same m g h4 (off e) hv.1]
    · exact ih hv.2 hl.2 _ he

theorem bytesGet_foldl_storeField (l : List Nat) {b : Nat}
    (hb : ∀ e ∈ l, b < spadPa g (storedBytes w (off e) 4).1 ∨ spadPa g (storedBytes w (off e) 4).1 + (storedBytes w (off e) 4).2 ≤ b) (m : Bytes) :
    bytesGet (l.foldl (fun m e => storeField m g w (off e) (val e)) m) b = bytesGet m b := by
  induction l generalizing m with
  | nil => rfl
  | cons e l ih =>
    rw [List.forall_mem_cons] at hb
    rw [List.foldl_cons, ih hb.2, bytesGet_storeField m g h4 (off e) (val e) hb.1]

end

/-! ### Elements of a vector access -/

theorem shapeCols_le_rowStride (shape : BitVec 8) (rs : BitVec 3) : shapeCols shape ≤ rowStride shape rs := by
  unfold rowStride
  split_ifs with h
  · exact le_rfl
  · have hpos : 1 ≤ rs.toNat := Nat.one_le_iff_ne_zero.2 fun h0 => h (BitVec.eq_of_toNat_eq h0)
    calc shapeCols shape ≤ 2 ^ 4 := shapeCols_le shape
      _ ≤ 2 ^ (rs.toNat + 3) := Nat.pow_le_pow_right (by decide) (by omega)

/-- Elements of a region lie apart, in their order. -/
theorem elemOff_apart {shape : BitVec 8} {e q : Nat} (he : inRegion shape e = true) (h : e < q) (o w : Nat) (rs : BitVec 3) :
    FieldsApart w (elemOff o w shape rs false e) (elemOff o w shape rs false q) := by
  have hcol := ((inRegion_iff shape e).1 he).2
  have hstride := shapeCols_le_rowStride shape rs
  have hplace : e / 16 * rowStride shape rs + e % 16 + 1 ≤ q / 16 * rowStride shape rs + q % 16 := by
    rcases Nat.eq_or_lt_of_le (Nat.div_le_div_right h.le : e / 16 ≤ q / 16) with heq | hlt
    · rw [heq]
      omega
    · calc e / 16 * rowStride shape rs + e % 16 + 1 ≤ (e / 16 + 1) * rowStride shape rs := by rw [Nat.add_mul]; omega
        _ ≤ q / 16 * rowStride shape rs := Nat.mul_le_mul_right _ hlt
        _ ≤ q / 16 * rowStride shape rs + q % 16 := Nat.le_add_right _ _
  refine .inl ?_
  simp only [elemOff, Bool.false_eq_true, if_false]
  rw [Nat.add_assoc, ← Nat.succ_mul]
  exact Nat.add_le_add_left (Nat.mul_le_mul_right _ hplace) o

/-! ### The stored value -/

/-- What a store of the element `v` through window `w` leaves in its field (R57, R162). -/
def storedValue (table : List (BitVec 18)) (half : Bool) (mr : BitVec 8) (code : Bool) (w : Nat) (v : W32) : Nat :=
  let x := unpack f32 v.toNat
  if w = 0 then v.toNat
  else if code then v.toNat % (if w = 1 then 256 else if w = 2 then 64 else 65536)
  else if w ≤ 2 then (encodeCode table half (w == 2) (mrRound mr) (mrMode mr == 1) x.exact).1
  else (formResult (if w = 3 then h16 else b16) mr x.exact (snan [x])).1

section

variable {w : Nat} {code : Bool}

theorem storedValue_lt (table : List (BitVec 18)) (half : Bool) (mr : BitVec 8) (code : Bool) (v : W32) (h4 : w ≤ 4) :
    storedValue table half mr code w v < fieldSize w := by
  match w, h4 with
  | 0, _ => exact v.isLt
  | 1, _ =>
    cases code with
    | false => exact encodeCode_lt table half false _ _ _
    | true => exact Nat.mod_lt _ (by decide)
  | 2, _ =>
    cases code with
    | false => exact encodeCode_lt table half true _ _ _
    | true => exact Nat.mod_lt _ (by decide)
  | 3, _ =>
    cases code with
    | false => exact formResult_h16_lt mr _ _
    | true => exact Nat.mod_lt _ (by decide)
  | 4, _ =>
    cases code with
    | false => exact formResult_b16_lt mr _ _
    | true => exact Nat.mod_lt _ (by decide)

theorem winWriteAs_bytes (u : State) (g : Nat) (half : Bool) (mr : BitVec 8) {w : Nat} (h5 : w ≠ 5) (off v : Nat) :
    (u.winWriteAs half g w off 4 v mr).1.mem.bytes =
      let r := u.mem.winBytes ((u.coreAt g).table, half) g w off 4 v mr
      bytesWrite u.mem.bytes (spadPa g r.1) r.2.1 r.2.2.1 := by
  rw [State.winWriteAs, if_neg h5]
  exact spWrite_mem_bytes u g _ _ _ false true

theorem storeElem_bytes (hcode : code = true → w ≠ 0) (u : State) (g : Nat) (half : Bool) (mr : BitVec 8) (off : Nat) (v : W32) (h4 : w ≤ 4) :
    (u.storeElem g half mr code w off v.toNat).mem.bytes = storeField u.mem.bytes g w off (storedValue (u.coreAt g).table half mr code w v) := by
  have hv : v.toNat % 4294967296 = v.toNat := Nat.mod_eq_of_lt v.isLt
  cases code with
  | false =>
    refine (winWriteAs_bytes u g half mr (by omega) off v.toNat).trans ?_
    match w, h4 with
    | 0, _ | 1, _ | 2, _ | 3, _ | 4, _ => simp [Phys.winBytes, storeField, storedValue, hv]
  | true =>
    match w, h4 with
    | 0, _ => exact absurd rfl (hcode rfl)
    | 1, _ | 2, _ | 3, _ | 4, _ => exact spWrite_mem_bytes u g _ _ _ false true

end

/-! ### `vst` -/

/-- The bytes that `vst` leaves: the fields of the active elements, one after another. -/
theorem foldl_storeElem_bytes {w : Nat} (h4 : w ≤ 4) {code : Bool} (hcode : code = true → w ≠ 0) (g : Nat) (half : Bool) (mr : BitVec 8)
    (table : List (BitVec 18)) (off : Nat → Nat) (v : Nat → W32) (l : List Nat) (u : State) (ht : (u.coreAt g).table = table) :
    (l.foldl (fun u e => u.storeElem g half mr code w (off e) (v e).toNat) u).mem.bytes =
      l.foldl (fun m e => storeField m g w (off e) (storedValue table half mr code w (v e))) u.mem.bytes := by
  induction l generalizing u with
  | nil => rfl
  | cons e l ih =>
    have hstep : ((u.storeElem g half mr code w (off e) (v e).toNat).coreAt g).table = table := by
      obtain ⟨-, -, fl, hcores⟩ := flitsOnly_storeElem u g half mr code w (off e) (v e).toNat
      rw [hcores, if_pos rfl]
      exact ht
    rw [List.foldl_cons, ih _ hstep, storeElem_bytes hcode u g half mr (off e) (v e) h4, ht]
    rfl

section

variable {s : State} {g id : Nat} {cap : Captured} {rest : List VEntry} {mr : BitVec 8} {code : Bool} {rs : BitVec 3} {d : BitVec 5} {a : Word} {k : BitVec 3}

theorem afterHead_st_bytes (h4 : a.toNat / 0x20000 % 8 ≤ 4) (hcode : code = true → a.toNat / 0x20000 % 8 ≠ 0) :
    (s.afterHead g ⟨id, .st mr code rs d a k, cap⟩ rest).mem.bytes =
      ((regionElems cap.shape).filter fun e => ((s.coreAt g).mask k).getLsbD e).foldl
        (fun m e => storeField m g (a.toNat / 0x20000 % 8) (storeOff cap rs a e)
          (storedValue (s.coreAt g).table cap.half mr code (a.toNat / 0x20000 % 8) ((s.coreAt g).vElem d e))) s.mem.bytes := by
  have hrun : (s.afterHead g ⟨id, .st mr code rs d a k, cap⟩ rest).mem =
      ((s.headTaken g ⟨id, .st mr code rs d a k, cap⟩ rest).vstore g cap mr code rs d a k).1.mem := modLive_mem _ g _ _
  have htable : ((s.headTaken g ⟨id, .st mr code rs d a k, cap⟩ rest).coreAt g).table = (s.coreAt g).table := by
    rw [coreAt_headTaken_same]
    rfl
  rw [hrun, vstore_eq_foldl, foldl_storeElem_bytes h4 hcode g cap.half mr (s.coreAt g).table _ _ _ _ htable, coreAt_headTaken_same]
  rfl

theorem mem_storedElems {e : Nat} :
    e ∈ (regionElems cap.shape).filter (fun e => ((s.coreAt g).mask k).getLsbD e) ↔ (s.coreAt g).ActiveAt cap.shape k e := by
  rw [List.mem_filter, mem_regionElems, activeAt_iff, Core.active, Bool.and_eq_true]

theorem activeAt_lt {c : Core} {shape : BitVec 8} {e : Nat} (h : c.ActiveAt shape k e) : e < 256 :=
  inRegion_lt shape ((inShape_iff shape e).1 h.1)

/-- `vst` at the head: every active element is in its field, the other codes of six bits and the bytes outside stay (R161, R162). -/
theorem afterHead_st (h4 : a.toNat / 0x20000 % 8 ≤ 4) (hcode : code = true → a.toNat / 0x20000 % 8 ≠ 0) :
    let c := s.coreAt g
    let w := a.toNat / 0x20000 % 8
    let t := s.afterHead g ⟨id, .st mr code rs d a k, cap⟩ rest
    (∀ e < 256, c.ActiveAt cap.shape k e → storedField t.mem.bytes g w (storeOff cap rs a e) = storedValue c.table cap.half mr code w (c.vElem d e)) ∧
    (w = 2 → ∀ o, (∀ e < 256, c.ActiveAt cap.shape k e → storeOff cap rs a e ≠ o) →
      storedField t.mem.bytes g w o = storedField s.mem.bytes g w o) ∧
    ∀ b, (∀ e < 256, c.ActiveAt cap.shape k e → b < spadPa g (storedBytes w (storeOff cap rs a e) 4).1 ∨
        spadPa g (storedBytes w (storeOff cap rs a e) 4).1 + (storedBytes w (storeOff cap rs a e) 4).2 ≤ b) →
      bytesGet t.mem.bytes b = bytesGet s.mem.bytes b := by
  intro c w t
  have hbytes := afterHead_st_bytes (s := s) (g := g) (id := id) (cap := cap) (rest := rest) (mr := mr) (rs := rs) (d := d) (k := k) h4 hcode
  have hval : ∀ e ∈ (regionElems cap.shape).filter fun e => ((s.coreAt g).mask k).getLsbD e,
      storedValue c.table cap.half mr code w (c.vElem d e) < fieldSize w := fun e _ => storedValue_lt _ _ _ _ _ h4
  have hapart : ((regionElems cap.shape).filter fun e => ((s.coreAt g).mask k).getLsbD e).Pairwise
      fun e q => FieldsApart w (storeOff cap rs a e) (storeOff cap rs a q) :=
    ((regionElems_pairwise cap.shape).filter _).imp_of_mem fun he _ hlt =>
      elemOff_apart ((mem_regionElems cap.shape).1 (List.mem_of_mem_filter he)) hlt _ _ rs
  refine ⟨fun e _ hact => ?_, fun h2 o ho => ?_, fun b hb => ?_⟩
  · rw [hbytes]
    exact storedField_foldl_mem g h4 _ _ _ hval hapart _ (mem_storedElems.2 hact)
  · rw [hbytes]
    refine storedField_foldl_apart g h4 _ _ _ hval (fun e he => ?_) _
    have hact := mem_storedElems.1 he
    have hne := ho e (activeAt_lt hact) hact
    have hunit : winUnit w = 1 := by rw [h2]; rfl
    show storeOff cap rs a e + winUnit w ≤ o ∨ o + winUnit w ≤ storeOff cap rs a e
    omega
  · rw [hbytes]
    refine bytesGet_foldl_storeField g h4 _ _ _ (fun e he => ?_) _
    have hact := mem_storedElems.1 he
    exact hb e (activeAt_lt hact) hact

end

end Sys2Proof.Machine
end

section
/-! PROOF. The entry at the head of a vector queue leaves it and does what it does (R23, R142 to R174). -/

namespace Sys2Proof.Machine

/-- Settles O16: the entry is taken and executed; each kind of entry by the rule for what it writes. -/
theorem queueHeadsExecute : Obligations.QueueHeadsExecute := by
  refine ⟨fun s core id op mo mr ty d a b k cap rest hq => ?_, fun s core id cap op rest hq hready => ?_⟩
  · intro c active exact float flag done
    have hactive : ∀ e, active e ↔ c.ActiveAt cap.shape k e := fun e => by
      show (e / 16 ≤ _ ∧ e % 16 ≤ _ ∧ _) ↔ (e / 16 < _ + 1 ∧ e % 16 < _ + 1) ∧ _
      rw [Nat.lt_succ_iff, Nat.lt_succ_iff, and_assoc]
    obtain ⟨hvq, hkept, hregs, hvals, hflags, hmem, hk, hothers⟩ :=
      afterHead_bin (s := s) (g := core) (id := id) (mo := mo) (mr := mr) (ty := ty) (d := d) (a := a) (b := b) (k := k) (cap := cap) (rest := rest) (op := op)
    have hdone : done (.next (s.afterHead core ⟨id, .bin op mo mr ty d a b k, cap⟩ rest)) := by
      refine ⟨_, rfl, hvq, fun e he hn => hkept e he fun h => hn ((hactive e).2 h), hregs, fun e he h => hvals e he ((hactive e).1 h),
        fun hctx => ?_, hmem, hk, hothers⟩
      rw [hflags hctx]
      congr 1
      refine List.filter_congr fun e _ => ?_
      rw [activeAt_eq, Bool.eq_iff_iff, ← activeAt_iff, decide_eq_true_eq, hactive]
    refine ⟨?_, fun hempty hfree => ?_⟩
    · rw [exec_head_of_ready hq rfl]
      exact hdone
    · have hbind : exec (.vectorArbiterBind (core / 8)) s = event (s.bindTile (core / 8)) := rfl
      rw [hbind, bindTile_of_only (wantsLanes_of_bin hq) hempty hfree, runHead_of_ready hq rfl]
      exact hdone
  · intro c rows cols region active rd
    refine ⟨_, exec_head_of_ready hq hready, afterHead_queue, fun g hg => afterHead_other hg, afterHead_mem, ?_⟩
    intro u mapped crossed writes flagged act masked place
    -- one rule for each kind of entry, in the order of the statement
    exact ⟨fun mo mr d a b z k h => by subst h; exact elementwise (executed_afterHead rfl),
      fun mr fn d a k h => by subst h; exact elementwise (executed_afterHead rfl),
      fun mr fr tgt d a k h => by subst h; exact elementwise (executed_afterHead rfl),
      fun rnd fmt nosat d a k h => by subst h; exact elementwise (executed_afterHead rfl),
      fun mo cond d a b h => by subst h; exact executed_cmp (executed_afterHead rfl),
      fun d a b h => by subst h; exact executed_kand (executed_afterHead rfl),
      fun d a b h => by subst h; exact executed_kor (executed_afterHead rfl),
      fun d a h => by subst h; exact executed_knot (executed_afterHead rfl),
      fun d a h => by subst h; exact executed_kpop (executed_afterHead rfl),
      fun sx d a i h => by subst h; exact (executed_afterHead rfl).out d _ rfl,
      fun d v i h => by subst h; exact executed_ins (executed_afterHead rfl),
      fun d a k h => by subst h; exact executed_mov (executed_afterHead rfl),
      fun d v k h => by subst h; exact executed_bcast (executed_afterHead rfl),
      fun d a b k h => by subst h; exact executed_sel (executed_afterHead rfl),
      fun d a n k h => by subst h; exact executed_rot (executed_afterHead rfl),
      fun d a b k h => by subst h; exact executed_perm (executed_afterHead rfl),
      fun d a k h => by subst h; exact executed_trans (executed_afterHead rfl),
      fun mo mr o ty d a k h => by subst h; exact executed_red (executed_afterHead rfl),
      fun mo mr o ty d a k h => by subst h; exact executed_scan (executed_afterHead rfl),
      fun half a h => by subst h; exact executed_tbl (executed_afterHead rfl),
      fun code bc rs d a k h => by subst h; exact afterHead_ld,
      fun mr code rs d a k h => by subst h; exact afterHead_st,
      fun d strand r h => by subst h; exact afterHead_sgetv,
      fun w h => by subst h; exact afterHead_ecfg,
      fun h => by subst h; exact afterHead_mzc,
      fun a b n h => by subst h; exact afterHead_mldb,
      fun a h => by subst h; exact afterHead_mstc,
      fun n a h => by
        subst h
        exact ⟨fun e he => ⟨afterHead_tsave_word he, afterHead_tsave_state he⟩, fun q hq => (afterHead_tsave_byte q).trans (if_neg hq)⟩,
      fun n a h e he => by subst h; exact afterHead_trest he⟩

end Sys2Proof.Machine
end
